-- ==== Sys2Proof/Word.lean ====
section
/-! DEFINITION. The word types of the device (00 R3, 03 R50): bytes, 32-bit and 64-bit words, and the 32 lanes of a
register. -/
namespace Sys2Proof

/-- A byte. -/
abbrev Byte := BitVec 8

/-- A 32-bit word: a scalar register, one lane of a lane register, a predicate. -/
abbrev Word := BitVec 32

/-- A 64-bit word: a register pair, a sequencer register, a command word. -/
abbrev DWord := BitVec 64

/-- The 32 lanes of a lane register (03 R50). -/
abbrev Lanes := Vector Word 32

/-- The lanes with value `f l` in lane l. -/
def Lanes.ofFn (f : Nat → Word) : Lanes := ⟨((List.range 32).map f).toArray, by simp⟩

/-- Every lane zero. -/
def Lanes.zero : Lanes := Vector.replicate 32 0

/-- Lane l of a register, l below 32. -/
def Lanes.lane (v : Lanes) (l : Nat) : Word := if h : l < 32 then v[l] else 0

end Sys2Proof
end

