-- ==== Sys2Proof/Config.lean ====
section
/-! DEFINITION. What one device fixes and the spec does not give a value: constants without a body, so that no proof can
see a value of them (log 12), and the figures of 00 R2 that the model uses. -/
namespace Sys2Proof

/-- By how much a tile count rises beyond 1 at the n-th rise (10 R148: by at least 1). -/
opaque Config.extraRise : Nat → Nat

/-- The frame key drawn at the n-th draw for a protected context (23 R314, 07 R112). -/
opaque Config.frameKey : Nat → BitVec 256

/-- The XTS key drawn at the n-th draw for a namespace (28 R378, 26 R366). -/
opaque Config.xtsKey : Nat → BitVec 256

/-- The on-die unique secret (26 R357, R360). -/
opaque Config.uniqueSecret : BitVec 256

/-- The sealing secret derived from the unique secret (26 R360). -/
opaque Config.sealingSecret : BitVec 256 → BitVec 256

/-- The private ECDSA P-384 key derived from the unique secret and, for the alias key, MR0 to MR3 (26 R357). -/
opaque Config.identityKey : BitVec 256 → List Byte → BitVec 384

/-- The public key of a private ECDSA P-384 key (26 R357). -/
opaque Config.publicKey : BitVec 384 → BitVec 768

/-- The ECDSA P-384 signature under a private key of a SHA-384 digest (26 R357, R358). -/
opaque Config.signature : BitVec 384 → BitVec 384 → BitVec 768

/-- The private ECDHE key on secp384r1 that the responder draws for the n-th draw (26 R358). -/
opaque Config.ephemeralKey : Nat → BitVec 384

/-- The ECDHE secret of a private key and the other side's exchange data (26 R358). -/
opaque Config.ecdhe : BitVec 384 → List Byte → BitVec 384

/-- The AES-256-GCM key of a session, from the ECDHE secret and the SHA-384 digest of the transcript (26 R358). -/
opaque Config.sessionKey : BitVec 384 → BitVec 384 → BitVec 256

/-- The IV of a session, from its key (26 R358). -/
opaque Config.sessionIv : BitVec 256 → BitVec 96

/-- The wear at which a spare of a kind of part, by its code, is substituted (28 R379). -/
opaque Config.wearThreshold : BitVec 8 → Nat

/-- A place of tier A lies in the pseudo-channel that the n-th substitution in a unit replaces (28 R380). -/
opaque Config.inChannel : BitVec 24 → Nat → Nat → Bool

/-- What Skehal's certificate authority signed at manufacture for the device identity key (26 R357). -/
opaque Config.deviceCertificate : BitVec 768

/-- A Falcon-1024 public key, signature and message pass the check (26 R355). -/
opaque Config.falconCheck : List Byte → List Byte → List Byte → Bool

/-- The SHAKE256 digest in fuses of the key of the first firmware image (26 R355). -/
opaque Config.fuseDigest : List Byte

/-- The Falcon-1024 public keys that an image carries for the next stage (26 R355). -/
opaque Config.keysCarried : List Byte → List (List Byte)

/-- The measurement of boot ROM version and fuse configuration, which MR0 is extended with (26 R356). -/
opaque Config.romMeasure : BitVec 512

/-- Frames of tier A: 512 GiB (00 R2). -/
def Config.tierAFrames : Nat := 0x800000

/-- Frames of tier B: 4 TiB (00 R2). -/
def Config.tierBFrames : Nat := 0x4000000

/-- Flash pages of user capacity: 192 TiB (00 R2). -/
def Config.userPages : Nat := 0x300000000

/-- Physical registers of a core (00 R2). -/
def Config.pool : Nat := 4096

/-- Records of the containment table (10 R143). -/
def Config.treeRecords : Nat := 0xFFFFFF

/-- Entries of the command journal (23 R316). -/
def Config.journalEntries : Nat := 16384

end Sys2Proof
end

