-- ==== Sys2Proof/Syntax.lean ====
section
/-! DEFINITION. The instructions and steps of the device: one constructor of `Instr` per row of
spec/opcode_table.json. Scalar words (12 R177 to R183), lane words (12 R184 to R188, 16 R253), matrix words (12 R190,
R191), and the device's own steps and the host's requests (95), each with its operands. -/
namespace Sys2Proof

/-! ## Operand types -/

/-- The number of an S register, 0 to 63 (03 R50, R51). -/
abbrev SReg := BitVec 6

/-- The floating-point type of MOD bits [1:0] (12 R185). -/
inductive FType
  | f32 | f16 | bf16
  deriving DecidableEq, Repr

/-- The types of `CVT` (15 R235). -/
inductive CType
  | f32 | f16 | bf16 | e4m3 | i32 | u32 | i64 | i8
  deriving DecidableEq, Repr

/-- The six scalar conditions (14 R201). -/
inductive SCond
  | eq | ne | lt | ge | ltu | geu
  deriving DecidableEq, Repr

/-- The six lane integer conditions (15 R233). -/
inductive ICond
  | eq | ne | lt | le | gt | ge
  deriving DecidableEq, Repr

/-- The conditions of `FCMP` (15 R230). -/
inductive FCond
  | eq | ne | lt | le | gt | ge | num | nan
  deriving DecidableEq, Repr

/-- Wrap, signed clamp, unsigned clamp (15 R232). -/
inductive Sat
  | wrap | sat | usat
  deriving DecidableEq, Repr

/-- The functions of `PLOP` (15 R241). -/
inductive PFun
  | and | or | xor | andn | orn | not
  deriving DecidableEq, Repr

/-- The modes of `SHFL` (15 R242). -/
inductive ShMode
  | idx | up | down | xor
  deriving DecidableEq, Repr

/-- The sizes of lane loads and stores (16 R254). -/
inductive MSize
  | b8 | b16 | b32 | b64 | b128 | s8 | s16
  deriving DecidableEq, Repr

/-- The atomic operations (16 R258). -/
inductive AOp
  | add | and | or | xor | min | max | minu | maxu | swap | cas | add64 | swap64 | cas64 | load | load64
  deriving DecidableEq, Repr

/-- The value types of `REDX` (16 R261). -/
inductive XType
  | f32 | f16 | bf16 | e4m3
  deriving DecidableEq, Repr

/-- The modes of `MMA` (11 R166). -/
inductive MMode
  | f16 | bf16 | e4m3 | i8 | mod64
  deriving DecidableEq, Repr

/-- The formats of `MST` (11 R170). -/
inductive SFmt
  | x64 | f32 | f16 | bf16 | e4m3 | i32sat | i8sat
  deriving DecidableEq, Repr

/-- A 9-bit operand specifier (03 R54). W holds n - 1 for Wn. -/
inductive Opnd
  | v (n : BitVec 7)
  | o (n : BitVec 3)
  | w (n : BitVec 3)
  | x (n : BitVec 2)
  | s (n : SReg)
  | none
  deriving DecidableEq, Repr

/-- The fields that every lane instruction has beside OP and MOD (12 R185). -/
structure LaneOps where
  pe  : Bool
  pn  : Bool
  pg  : BitVec 3
  dst : Opnd
  a   : Opnd
  la  : Bool
  b   : Opnd
  lb  : Bool
  c   : Opnd
  lc  : Bool
  fs  : BitVec 2
  re  : Bool
  pk  : BitVec 3
  imm : Word
  deriving DecidableEq, Repr

/-- A clause header (12 R186). -/
structure ClauseHdr where
  len   : BitVec 4
  wmask : BitVec 12
  s0e   : Bool
  sf0   : BitVec 4
  s1e   : Bool
  sf1   : BitVec 4
  safe  : Bool
  live  : BitVec 6
  join  : Bool
  cont  : Bool
  deriving DecidableEq, Repr

/-- Where a command came from (23 R312, R317): tenant, queue, TAG and SEQ of its header, ring index, and for a timer
release its packet number and template address (R328). -/
structure CmdRef where
  tenant : Nat
  queue  : Nat
  tag    : BitVec 16
  seq    : BitVec 16
  rindex : DWord
  timer  : Option (Nat × Nat)
  deriving DecidableEq, Repr

/-- The use of a vault key (26 R359). -/
inductive KeyUse
  | cipherIn | flash | frame
  deriving DecidableEq, Repr

/-- TIER of a FIT entry (07 R103). -/
inductive Tier
  | a | b | c | backing
  deriving DecidableEq, Repr

/-- The parts that have spares (28 R379). -/
inductive Part
  | core | hbmRow | hbmChannel | flashBlock | lane | ldpc
  deriving DecidableEq, Repr

/-- Where an uncorrectable soft error lies (24 R348): a clean slice line; a dirty line or frame (device frame number);
the operand buffer; storage of a workgroup; a device table. -/
inductive EccSite
  | cleanLine (tenant : Nat)
  | frame (dfn : Nat)
  | operandBuffer (tenant : Nat)
  | workgroup (wgId : Nat)
  | table
  deriving DecidableEq, Repr

/-! ## Instructions -/

/-- Every row of spec/opcode_table.json. Register fields carry the field's number; `WellFormed` says which numbers an
instruction accepts. A step that works on a group, workgroup, launch or core works on the one in the focus of the
state unless it names another. -/
inductive Instr
  -- scalar ALU (14 R200, R201)
  | sadd (d a b : SReg)
  | ssub (d a b : SReg)
  | smul (d a b : SReg)
  | smulhu (d a b : SReg)
  | smulhs (d a b : SReg)
  | sand (d a b : SReg)
  | sor (d a b : SReg)
  | sxor (d a b : SReg)
  | sshl (d a b : SReg)
  | sshr (d a b : SReg)
  | ssra (d a b : SReg)
  | smin (d a b : SReg)
  | smax (d a b : SReg)
  | sminu (d a b : SReg)
  | smaxu (d a b : SReg)
  | ssel (d a b : SReg)
  | sadd64 (d a b : SReg)
  | ssub64 (d a b : SReg)
  | smul64 (d a b : SReg)
  | sclz (d a : SReg)
  | spopc (d a : SReg)
  | sset (cc : SCond) (d a b : SReg)
  | sset64 (cc : SCond) (d a b : SReg)
  -- immediates (14 R202), literals (R204), uniform memory (R205)
  | saddi (d a : SReg) (i : BitVec 12)
  | sandi (d a : SReg) (i : BitVec 12)
  | sori (d a : SReg) (i : BitVec 12)
  | sxori (d a : SReg) (i : BitVec 12)
  | sshli (d a : SReg) (i : BitVec 12)
  | sshri (d a : SReg) (i : BitVec 12)
  | ssrai (d a : SReg) (i : BitVec 12)
  | slit (d : SReg) (i : BitVec 12)
  | slitB64 (d : SReg) (i : BitVec 12)
  | sld (d a : SReg) (w : BitVec 2) (t : BitVec 3) (re : Bool) (pk : BitVec 3) (off : BitVec 5)
  | sst (d a : SReg) (w : BitVec 2) (t : BitVec 3) (re : Bool) (pk : BitVec 3) (off : BitVec 5)
  -- branches, calls, loops (14 R207 to R212)
  | br (i : BitVec 20)
  | beqz (a : SReg) (i : BitVec 20)
  | bnez (a : SReg) (i : BitVec 20)
  | bltz (a : SReg) (i : BitVec 20)
  | bgez (a : SReg) (i : BitVec 20)
  | bpany (p : BitVec 3) (i : BitVec 20)
  | bpall (p : BitVec 3) (i : BitVec 20)
  | bpnone (p : BitVec 3) (i : BitVec 20)
  | call (l : SReg) (i : BitVec 20)
  | jr (a : SReg)
  | loop (c : SReg) (n : BitVec 5)
  | linc (w : BitVec 5) (f : BitVec 2) (s : BitVec 12)
  -- lane work, translation, end (14 R214 to R219, 12 R192)
  | enq (a : SReg) (i : BitVec 20)
  | tmap (t : BitVec 3) (a b : SReg)
  | trel (t : BitVec 3)
  | nop
  | endg
  -- dispenser, barriers, phases, engines, residency, containment (16)
  | pget (d : SReg)
  | pyield (a : SReg)
  | pretire (a : SReg)
  | binit (d a : SReg)
  | arrive (a b : SReg)
  | arriveRel (a b : SReg)
  | phase (s : BitVec 3)
  | fenceSc
  | job (p : BitVec 3) (a : SReg)
  | reside (a b : SReg)
  | resideB (d a b : SReg)
  | enroll (d a : SReg)
  | enrollR (d a b : SReg)
  | settle (d a b : SReg)
  | reparent (a b : SReg)
  | cread (d a : SReg)
  -- system (17)
  | trap (i : BitVec 20)
  | hret
  | hretPoison
  | hretZero
  | srr (d : SReg) (n : BitVec 12)
  | srw (a : SReg) (n : BitVec 12)
  | halt
  | mstart (a : SReg) (i : BitVec 20)
  | pool (i : BitVec 20)
  | mstatEnd
  -- clause header (12 R186)
  | clauseHeader (h : ClauseHdr)
  -- lane floating point (15 R228 to R231)
  | fadd (o : LaneOps) (t : FType) (x2 : Bool)
  | fsub (o : LaneOps) (t : FType) (x2 : Bool)
  | fmul (o : LaneOps) (t : FType) (x2 : Bool)
  | ffma (o : LaneOps) (t : FType) (x2 : Bool)
  | fmin (o : LaneOps) (t : FType) (x2 : Bool)
  | fmax (o : LaneOps) (t : FType) (x2 : Bool)
  | fabs (o : LaneOps) (t : FType) (x2 : Bool)
  | fneg (o : LaneOps) (t : FType) (x2 : Bool)
  | frcp (o : LaneOps) (t : FType) (x2 : Bool)
  | frsq (o : LaneOps) (t : FType) (x2 : Bool)
  | fsqrt (o : LaneOps) (t : FType) (x2 : Bool)
  | fex2 (o : LaneOps) (t : FType) (x2 : Bool)
  | flg2 (o : LaneOps) (t : FType) (x2 : Bool)
  | fcmp (o : LaneOps) (t : FType) (cc : FCond)
  | fclass (o : LaneOps) (t : FType)
  -- lane integer (15 R232 to R234)
  | iadd (o : LaneOps) (m : Sat)
  | isub (o : LaneOps) (m : Sat)
  | imul (o : LaneOps)
  | imulh (o : LaneOps) (u : Bool)
  | imad (o : LaneOps)
  | iand (o : LaneOps)
  | ior (o : LaneOps)
  | ixor (o : LaneOps)
  | inot (o : LaneOps)
  | ishl (o : LaneOps)
  | ishr (o : LaneOps)
  | isra (o : LaneOps)
  | imin (o : LaneOps) (u : Bool)
  | imax (o : LaneOps) (u : Bool)
  | icmp (o : LaneOps) (cc : ICond) (u : Bool)
  | ipopc (o : LaneOps)
  | iclz (o : LaneOps)
  | iadd64 (o : LaneOps) (m : Sat)
  | isub64 (o : LaneOps) (m : Sat)
  | imul64 (o : LaneOps)
  | idot4 (o : LaneOps) (sat : Bool)
  -- conversions (15 R235 to R237)
  | cvt (o : LaneOps) (dt st : CType)
  | f8pack (o : LaneOps)
  | f8unpkLo (o : LaneOps)
  | f8unpkHi (o : LaneOps)
  | i4unpk (o : LaneOps) (k : BitVec 2)
  -- modular (15 R238, R239)
  | modadd (o : LaneOps)
  | modsub (o : LaneOps)
  | modmul (o : LaneOps)
  | nttbfAdd (o : LaneOps)
  | nttbfSub (o : LaneOps)
  | nttbiAdd (o : LaneOps)
  | nttbiSub (o : LaneOps)
  -- moves, predicates, exchange (15 R240 to R245)
  | mov (o : LaneOps) (d64 : Bool)
  | sel (o : LaneOps) (d64 : Bool)
  | movi (o : LaneOps)
  | plop (o : LaneOps) (f : PFun)
  | pmov (o : LaneOps) (fromS : Bool)
  | pmovNz (o : LaneOps)
  | prd (o : LaneOps)
  | prdMask (o : LaneOps)
  | shfl (o : LaneOps) (m : ShMode)
  | bcast (o : LaneOps)
  | rfl (o : LaneOps)
  | voteAny (o : LaneOps)
  | voteAll (o : LaneOps)
  | voteBal (o : LaneOps)
  -- lane control (15 R246 to R252)
  | lbr (o : LaneOps)
  | ljoin (o : LaneOps)
  | lend (o : LaneOps)
  | xset (o : LaneOps)
  | xsetS (o : LaneOps)
  | xrst (o : LaneOps)
  | lnop (o : LaneOps)
  -- lane memory (16 R253 to R269)
  | ldG (o : LaneOps) (z : MSize)
  | stG (o : LaneOps) (z : MSize)
  | ldL (o : LaneOps) (z : MSize)
  | stL (o : LaneOps) (z : MSize)
  | atomG (o : LaneOps) (f : AOp)
  | atomL (o : LaneOps) (f : AOp)
  | redG (o : LaneOps) (f : AOp)
  | redf (o : LaneOps) (fc : BitVec 3)
  | redx (o : LaneOps) (t : XType)
  | xmerge (o : LaneOps)
  | xcvt (o : LaneOps)
  | xcvtClr (o : LaneOps)
  | resideLane (o : LaneOps)
  | wait (o : LaneOps)
  -- matrix words (17 R288 to R298)
  | mnop
  | mli (q : BitVec 2) (a : BitVec 4) (i : BitVec 16)
  | mmov (a b : BitVec 4)
  | madd (a b : BitVec 4) (i : BitVec 16)
  | mld (a : BitVec 4) (i : BitVec 16)
  | mres (a x : BitVec 4)
  | mrel (x : BitVec 4)
  | mmod (a : BitVec 4)
  | mma (m : MMode) (a b k : BitVec 4) (tr : BitVec 3) (tc : BitVec 4) (cb : BitVec 7)
  | mzero (k : BitVec 4) (tr : BitVec 3) (tc : BitVec 4) (cb : BitVec 7)
  | mst (f : SFmt) (cr : Bool) (a k x : BitVec 4) (tr : BitVec 3) (tc : BitVec 4) (cb : BitVec 7) (bar : BitVec 4)
  | mwait (bar x : BitVec 4) (i : BitVec 16)
  | marv (bar : BitVec 4)
  | mend (bar : BitVec 4)
  | mbr (i : BitVec 16)
  | mloop (x : BitVec 4) (i : BitVec 16)
  | mmaKStep
  | mstRow
  -- steps of a core and of the porters (14 R215, 03 R63 to R74, 07 R113)
  | unitStart
  | replyArrival (k : Nat) (lanes : Word)
  | porterPerform (hall : Nat)
  | floatGrant
  | spillReload
  | compaction (lid : Nat)
  -- dispenser and flash (01)
  | entryAssignment
  | flashSense (slot : Nat) (ok : Bool)
  | landingCredit (slot : Nat) (n : Nat)
  | copyOut (rec : Nat)
  | relanding (rec : Nat)
  | launchEnd
  -- engine jobs (16 R275 to R277)
  | jobStart (j : Nat)
  | copy (j : Nat)
  | gather (j : Nat)
  | fill (j : Nat)
  | flashRead (j : Nat) (ok : Bool)
  | flashWrite (j : Nat)
  | cipherIn (j : Nat)
  | send (j : Nat)
  | fetch (j : Nat)
  | jobComplete (j : Nat)
  | peerTransfer (j : Nat) (ok : Bool) (data : List Byte)
  -- containment and residency (10, 07)
  | rollup (index : Nat)
  | settleComplete
  | resideComplete (id : Nat)
  | frameMigration (dfn : Nat) (tier : Tier) (loc : BitVec 48)
  | frameEviction (dfn : Nat) (loc : BitVec 48)
  | frameReturn (dfn : Nat) (tagOk : Bool)
  -- time and switching (08 R134, 23 R320 to R328, 24 R339 to R345)
  | heartbeatTick
  | timerRelease (tenant num : Nat)
  | periodBoundary
  | sliceStart
  | stopRequest (hall : Nat)
  | coreHalt (core : Nat)
  | stopTimeout (core : Nat)
  | shadowExchange (core : Nat)
  | imageSave (core : Nat)
  | imageStage (core tenant : Nat)
  | hallRevocation (hall : Nat)
  | hallScrub (hall : Nat)
  | admission (lid : Nat)
  | interruptDelivery (fn : Nat)
  -- commands (23 R313)
  | launch (c : CmdRef) (va : DWord)
  | tinval (c : CmdRef) (va len : DWord)
  | cancel (c : CmdRef) (lid : Word)
  | arm (c : CmdRef) (va : DWord)
  | disarm (c : CmdRef) (num : BitVec 13)
  | drain (c : CmdRef)
  | map (c : CmdRef) (va len flags w4 : DWord)
  | unmap (c : CmdRef) (va len : DWord)
  -- host and firmware (23, 28)
  | notify (fn q : Nat) (v : DWord)
  | queueEnable (fn q : Nat)
  | queueDisable (fn q : Nat)
  | contextCreate (t : Nat)
  | contextDelete (t : Nat)
  | namespaceCreate (n : Nat)
  | namespaceDelete (n : Nat)
  | pwrlimWrite (v : Word)
  | registerWrite (fn off : Nat) (v : DWord)
  | functionLevelReset (fn : Nat)
  | configWrite (fn reg : Nat) (v : DWord)
  -- trust (26)
  | lockInterfaceRequest (fn : Nat)
  | startInterfaceRequest (fn : Nat)
  | stopInterfaceRequest (fn : Nat)
  | ideLoss (fn : Nat)
  | keyImport (session slot : Nat) (use : KeyUse) (ex : Bool) (key : BitVec 256)
  | keyWrappedImport (session slot : Nat) (blob : List Byte)
  | keyExport (session slot : Nat)
  | keyDelete (session slot : Nat)
  | streamOpen (session stream slot : Nat) (fixed : Word)
  | getMeasurements (fn index : Nat)
  | keyExchange (fn id : Nat) (version : Byte) (key : List Byte)
  | bootStage (key sig image : List Byte)
  -- power, service, errors (28, 24 R346 to R348)
  | powerGood
  | powerCap
  | d3hotEntry
  | sriovEnable (n : Nat)
  | vfPause (fn : Nat)
  | spareSubstitution (part : Part) (unit : BitVec 24) (left : Word)
  | softErrorCorrected (array : Nat) (unit : BitVec 24)
  | uncorrectableEcc (site : EccSite)
  | cxlDeviceLoss (lo hi : BitVec 48)
  | powerLoss
  | d3hotExit
  | demandWithinWatts
  | vfUnpause (fn : Nat)
  | migrationSnapshot (t : Nat)
  | ideStreamEstablish (fn : Nat)
  | firmwareInterfaceError (fn : Nat)
  | spdmSessionEnd (id : Nat)
  | belrikLinkLoss (port : Nat)
  | journalMirrorComplete
  deriving DecidableEq, Repr

end Sys2Proof
end

