-- ==== Sys2Proof/Decode.lean ====
section
/-! DEFINITION. The decoder and the encoder (12 R174 to R193): scalar words of 32 bits, lane words of 96, matrix
words of 64. A word passes three checks in the order of R174: an assigned cell of the opcode maps (else 0x00), every
reserved or unused field at its stated value and every value in range (else 0x01), every register field of a class
and number the instruction accepts (else 0x02). -/
namespace Sys2Proof

/-- The three decode faults of 12 R174, in the order of its checks. -/
inductive DecodeError
  | illegalOpcode
  | reservedField
  | badOperandClass
  deriving DecidableEq, Repr

/-- The cause code of a decode fault (12 R174). -/
def DecodeError.code : DecodeError → BitVec 8
  | .illegalOpcode => 0x00
  | .reservedField => 0x01
  | .badOperandClass => 0x02

/-- The bits [lo+n-1 : lo] of a word. -/
def field {w : Nat} (x : BitVec w) (lo n : Nat) : BitVec n := x.extractLsb' lo n

/-- Bit i of a word. -/
def bitAt {w : Nat} (x : BitVec w) (i : Nat) : Bool := x.getLsbD i

/-! ## Codes of modifiers -/

/-- The code of a value of `FType` (12 R185). -/
def FType.code : FType → BitVec 2
  | .f32 => 0
  | .f16 => 1
  | .bf16 => 2

/-- The value of `FType` a code names, if it is assigned (12 R185). -/
def FType.ofCode (c : BitVec 2) : Option FType :=
  match c.toNat with
  | 0 => some .f32
  | 1 => some .f16
  | 2 => some .bf16
  | _ => none

/-- The code of a value of `CType` (15 R235). -/
def CType.code : CType → BitVec 3
  | .f32 => 0
  | .f16 => 1
  | .bf16 => 2
  | .e4m3 => 3
  | .i32 => 4
  | .u32 => 5
  | .i64 => 6
  | .i8 => 7

/-- The value of `CType` a code names, if it is assigned (15 R235). -/
def CType.ofCode (c : BitVec 3) : Option CType :=
  match c.toNat with
  | 0 => some .f32
  | 1 => some .f16
  | 2 => some .bf16
  | 3 => some .e4m3
  | 4 => some .i32
  | 5 => some .u32
  | 6 => some .i64
  | 7 => some .i8
  | _ => none

/-- The code of a value of `SCond` (14 R201). -/
def SCond.code : SCond → BitVec 3
  | .eq => 0
  | .ne => 1
  | .lt => 2
  | .ge => 3
  | .ltu => 4
  | .geu => 5

/-- The value of `SCond` a code names, if it is assigned (14 R201). -/
def SCond.ofCode (c : BitVec 3) : Option SCond :=
  match c.toNat with
  | 0 => some .eq
  | 1 => some .ne
  | 2 => some .lt
  | 3 => some .ge
  | 4 => some .ltu
  | 5 => some .geu
  | _ => none

/-- The code of a value of `ICond` (15 R233). -/
def ICond.code : ICond → BitVec 3
  | .eq => 0
  | .ne => 1
  | .lt => 2
  | .le => 3
  | .gt => 4
  | .ge => 5

/-- The value of `ICond` a code names, if it is assigned (15 R233). -/
def ICond.ofCode (c : BitVec 3) : Option ICond :=
  match c.toNat with
  | 0 => some .eq
  | 1 => some .ne
  | 2 => some .lt
  | 3 => some .le
  | 4 => some .gt
  | 5 => some .ge
  | _ => none

/-- The code of a value of `FCond` (15 R230). -/
def FCond.code : FCond → BitVec 3
  | .eq => 0
  | .ne => 1
  | .lt => 2
  | .le => 3
  | .gt => 4
  | .ge => 5
  | .num => 6
  | .nan => 7

/-- The value of `FCond` a code names, if it is assigned (15 R230). -/
def FCond.ofCode (c : BitVec 3) : Option FCond :=
  match c.toNat with
  | 0 => some .eq
  | 1 => some .ne
  | 2 => some .lt
  | 3 => some .le
  | 4 => some .gt
  | 5 => some .ge
  | 6 => some .num
  | 7 => some .nan
  | _ => none

/-- The code of a value of `Sat` (15 R232). -/
def Sat.code : Sat → BitVec 2
  | .wrap => 0
  | .sat => 1
  | .usat => 2

/-- The value of `Sat` a code names, if it is assigned (15 R232). -/
def Sat.ofCode (c : BitVec 2) : Option Sat :=
  match c.toNat with
  | 0 => some .wrap
  | 1 => some .sat
  | 2 => some .usat
  | _ => none

/-- The code of a value of `PFun` (15 R241). -/
def PFun.code : PFun → BitVec 3
  | .and => 0
  | .or => 1
  | .xor => 2
  | .andn => 3
  | .orn => 4
  | .not => 5

/-- The value of `PFun` a code names, if it is assigned (15 R241). -/
def PFun.ofCode (c : BitVec 3) : Option PFun :=
  match c.toNat with
  | 0 => some .and
  | 1 => some .or
  | 2 => some .xor
  | 3 => some .andn
  | 4 => some .orn
  | 5 => some .not
  | _ => none

/-- The code of a value of `ShMode` (15 R242). -/
def ShMode.code : ShMode → BitVec 2
  | .idx => 0
  | .up => 1
  | .down => 2
  | .xor => 3

/-- The value of `ShMode` a code names, if it is assigned (15 R242). -/
def ShMode.ofCode (c : BitVec 2) : Option ShMode :=
  match c.toNat with
  | 0 => some .idx
  | 1 => some .up
  | 2 => some .down
  | 3 => some .xor
  | _ => none

/-- The code of a value of `MSize` (16 R254). -/
def MSize.code : MSize → BitVec 3
  | .b8 => 0
  | .b16 => 1
  | .b32 => 2
  | .b64 => 3
  | .b128 => 4
  | .s8 => 5
  | .s16 => 6

/-- The value of `MSize` a code names, if it is assigned (16 R254). -/
def MSize.ofCode (c : BitVec 3) : Option MSize :=
  match c.toNat with
  | 0 => some .b8
  | 1 => some .b16
  | 2 => some .b32
  | 3 => some .b64
  | 4 => some .b128
  | 5 => some .s8
  | 6 => some .s16
  | _ => none

/-- The code of a value of `AOp` (16 R258). -/
def AOp.code : AOp → BitVec 4
  | .add => 0
  | .and => 1
  | .or => 2
  | .xor => 3
  | .min => 4
  | .max => 5
  | .minu => 6
  | .maxu => 7
  | .swap => 8
  | .cas => 9
  | .add64 => 10
  | .swap64 => 11
  | .cas64 => 12
  | .load => 13
  | .load64 => 14

/-- The value of `AOp` a code names, if it is assigned (16 R258). -/
def AOp.ofCode (c : BitVec 4) : Option AOp :=
  match c.toNat with
  | 0 => some .add
  | 1 => some .and
  | 2 => some .or
  | 3 => some .xor
  | 4 => some .min
  | 5 => some .max
  | 6 => some .minu
  | 7 => some .maxu
  | 8 => some .swap
  | 9 => some .cas
  | 10 => some .add64
  | 11 => some .swap64
  | 12 => some .cas64
  | 13 => some .load
  | 14 => some .load64
  | _ => none

/-- The code of a value of `XType` (16 R261). -/
def XType.code : XType → BitVec 2
  | .f32 => 0
  | .f16 => 1
  | .bf16 => 2
  | .e4m3 => 3

/-- The value of `XType` a code names, if it is assigned (16 R261). -/
def XType.ofCode (c : BitVec 2) : Option XType :=
  match c.toNat with
  | 0 => some .f32
  | 1 => some .f16
  | 2 => some .bf16
  | 3 => some .e4m3
  | _ => none

/-- The code of a value of `MMode` (12 R191). -/
def MMode.code : MMode → BitVec 6
  | .f16 => 0
  | .bf16 => 1
  | .e4m3 => 2
  | .i8 => 3
  | .mod64 => 4

/-- The value of `MMode` a code names, if it is assigned (12 R191). -/
def MMode.ofCode (c : BitVec 6) : Option MMode :=
  match c.toNat with
  | 0 => some .f16
  | 1 => some .bf16
  | 2 => some .e4m3
  | 3 => some .i8
  | 4 => some .mod64
  | _ => none

/-- The code of a value of `SFmt` (12 R191). -/
def SFmt.code : SFmt → BitVec 3
  | .x64 => 0
  | .f32 => 1
  | .f16 => 2
  | .bf16 => 3
  | .e4m3 => 4
  | .i32sat => 5
  | .i8sat => 6

/-- The value of `SFmt` a code names, if it is assigned (12 R191). -/
def SFmt.ofCode (c : BitVec 3) : Option SFmt :=
  match c.toNat with
  | 0 => some .x64
  | 1 => some .f32
  | 2 => some .f16
  | 3 => some .bf16
  | 4 => some .e4m3
  | 5 => some .i32sat
  | 6 => some .i8sat
  | _ => none

/-! ## Operand specifiers (03 R54) -/

/-- The 9-bit specifier of an operand (03 R54). -/
def Opnd.spec : Opnd → BitVec 9
  | .v n => 0b00#2 ++ n
  | .o n => 0b010000#6 ++ n
  | .w n => 0b010001#6 ++ n
  | .x n => 0b0100100#7 ++ n
  | .s n => 0b011#3 ++ n
  | .none => 0x1FF

/-- The operand a specifier names; none for the unassigned values of 03 R54. -/
def Opnd.ofSpec (x : BitVec 9) : Option Opnd :=
  if x.toNat < 0x80 then some (.v (field x 0 7))
  else if x.toNat < 0x88 then some (.o (field x 0 3))
  else if x.toNat < 0x90 then some (.w (field x 0 3))
  else if x.toNat < 0x94 then some (.x (field x 0 2))
  else if x.toNat < 0xC0 then Option.none
  else if x.toNat < 0x100 then some (.s (field x 0 6))
  else if x = 0x1FF then some .none
  else Option.none

/-! ## Word formats -/

/-- Format A (12 R177): OP, SD, SA, SB, FN. -/
def fmtA (op : BitVec 6) (d a b : SReg) (fn : BitVec 8) : Word := op ++ d ++ a ++ b ++ fn

/-- Format B (12 R177): OP, SD, SA, FN2, IMM12. -/
def fmtB (op : BitVec 6) (d a : SReg) (fn2 : BitVec 2) (i : BitVec 12) : Word := op ++ d ++ a ++ fn2 ++ i

/-- Format C (12 R177): OP, SA in bits [25:20], IMM20. -/
def fmtC (op : BitVec 6) (a : SReg) (i : BitVec 20) : Word := op ++ a ++ i

/-- The register field of a word that names Pn or Tn in bits [22:20] (12 R178, 14 R216). -/
def low3 (n : BitVec 3) : SReg := 0b000#3 ++ n

/-- The IMM12 field of `SLD` and `SST`: TN, RE, PK, OFF (12 R183). -/
def sldImm (t : BitVec 3) (re : Bool) (pk : BitVec 3) (off : BitVec 5) : BitVec 12 :=
  t ++ BitVec.ofBool re ++ pk ++ off

/-- A matrix word (12 R190). -/
def fmtM (op : BitVec 8) (mod : BitVec 6) (ma mb mm mx : BitVec 4) (trc : BitVec 3) (tcc : BitVec 4) (cb : BitVec 7)
    (bar : BitVec 4) (i : BitVec 16) : DWord :=
  op ++ mod ++ ma ++ mb ++ mm ++ mx ++ trc ++ tcc ++ cb ++ bar ++ i

/-- The fields of a lane instruction word as they stand, specifiers not yet read (12 R185). -/
structure LaneWord where
  op  : BitVec 8
  mod : BitVec 6
  pe  : Bool
  pn  : Bool
  pg  : BitVec 3
  dst : BitVec 9
  a   : BitVec 9
  la  : Bool
  b   : BitVec 9
  lb  : Bool
  c   : BitVec 9
  lc  : Bool
  fs  : BitVec 2
  re  : Bool
  pk  : BitVec 3
  imm : Word
  deriving DecidableEq, Repr

/-- The lane word with the given fields (12 R185). -/
def LaneWord.pack (f : LaneWord) : BitVec 96 :=
  f.op ++ f.mod ++ BitVec.ofBool f.pe ++ BitVec.ofBool f.pn ++ f.pg ++ f.dst ++ f.a ++ BitVec.ofBool f.la ++ f.b ++
    BitVec.ofBool f.lb ++ f.c ++ BitVec.ofBool f.lc ++ f.fs ++ BitVec.ofBool f.re ++ f.pk ++ f.imm

/-- The fields of a lane word (12 R185). -/
def LaneWord.unpack (w : BitVec 96) : LaneWord where
  op := field w 88 8
  mod := field w 82 6
  pe := bitAt w 81
  pn := bitAt w 80
  pg := field w 77 3
  dst := field w 68 9
  a := field w 59 9
  la := bitAt w 58
  b := field w 49 9
  lb := bitAt w 48
  c := field w 39 9
  lc := bitAt w 38
  fs := field w 36 2
  re := bitAt w 35
  pk := field w 32 3
  imm := field w 0 32

/-- The operands of a lane word; a specifier that names nothing stands as X0 until the class check refuses it. -/
def LaneWord.ops (f : LaneWord) : LaneOps where
  pe := f.pe
  pn := f.pn
  pg := f.pg
  dst := (Opnd.ofSpec f.dst).getD (.x 0)
  a := (Opnd.ofSpec f.a).getD (.x 0)
  la := f.la
  b := (Opnd.ofSpec f.b).getD (.x 0)
  lb := f.lb
  c := (Opnd.ofSpec f.c).getD (.x 0)
  lc := f.lc
  fs := f.fs
  re := f.re
  pk := f.pk
  imm := f.imm

/-- Every specifier of the word names an operand (03 R54). -/
def LaneWord.specsOk (f : LaneWord) : Bool :=
  (Opnd.ofSpec f.dst).isSome && (Opnd.ofSpec f.a).isSome && (Opnd.ofSpec f.b).isSome && (Opnd.ofSpec f.c).isSome

/-- The lane word of an opcode, a modifier and operands. -/
def laneWordOf (op : BitVec 8) (mod : BitVec 6) (o : LaneOps) : LaneWord where
  op := op
  mod := mod
  pe := o.pe
  pn := o.pn
  pg := o.pg
  dst := o.dst.spec
  a := o.a.spec
  la := o.la
  b := o.b.spec
  lb := o.lb
  c := o.c.spec
  lc := o.lc
  fs := o.fs
  re := o.re
  pk := o.pk
  imm := o.imm

/-- A clause header word (12 R186). -/
def ClauseHdr.pack (h : ClauseHdr) : BitVec 96 :=
  0xC1#8 ++ h.len ++ h.wmask ++ BitVec.ofBool h.s0e ++ h.sf0 ++ BitVec.ofBool h.s1e ++ h.sf1 ++ BitVec.ofBool h.safe ++
    h.live ++ BitVec.ofBool h.join ++ BitVec.ofBool h.cont ++ 0#53

/-- The fields of a clause header word (12 R186). -/
def ClauseHdr.unpack (w : BitVec 96) : ClauseHdr where
  len := field w 84 4
  wmask := field w 72 12
  s0e := bitAt w 71
  sf0 := field w 67 4
  s1e := bitAt w 66
  sf1 := field w 62 4
  safe := bitAt w 61
  live := field w 55 6
  join := bitAt w 54
  cont := bitAt w 53

/-! ## The encoder -/

/-- A word of one of the three code sections. -/
inductive CodeWord
  | scalar (w : Word)
  | lane (w : BitVec 96)
  | matrix (w : DWord)
  deriving DecidableEq, Repr

/-- The MOD field of a floating-point instruction: condition or zero, X2, type (15 R224, R230). -/
def fmod (hi : BitVec 3) (x2 : Bool) (t : FType) : BitVec 6 := hi ++ BitVec.ofBool x2 ++ t.code

/-- The scalar word of an instruction (12 R177 to R183); none for an instruction of another stream. -/
def Instr.scalarWord : Instr → Option Word
  | .sadd d a b => some (fmtA 0x01 d a b 0x00)
  | .ssub d a b => some (fmtA 0x01 d a b 0x01)
  | .smul d a b => some (fmtA 0x01 d a b 0x02)
  | .smulhu d a b => some (fmtA 0x01 d a b 0x03)
  | .smulhs d a b => some (fmtA 0x01 d a b 0x04)
  | .sand d a b => some (fmtA 0x01 d a b 0x05)
  | .sor d a b => some (fmtA 0x01 d a b 0x06)
  | .sxor d a b => some (fmtA 0x01 d a b 0x07)
  | .sshl d a b => some (fmtA 0x01 d a b 0x08)
  | .sshr d a b => some (fmtA 0x01 d a b 0x09)
  | .ssra d a b => some (fmtA 0x01 d a b 0x0a)
  | .smin d a b => some (fmtA 0x01 d a b 0x0b)
  | .smax d a b => some (fmtA 0x01 d a b 0x0c)
  | .sminu d a b => some (fmtA 0x01 d a b 0x0d)
  | .smaxu d a b => some (fmtA 0x01 d a b 0x0e)
  | .ssel d a b => some (fmtA 0x01 d a b 0x0f)
  | .sadd64 d a b => some (fmtA 0x01 d a b 0x10)
  | .ssub64 d a b => some (fmtA 0x01 d a b 0x11)
  | .smul64 d a b => some (fmtA 0x01 d a b 0x12)
  | .sclz d a => some (fmtA 0x01 d a 0 0x13)
  | .spopc d a => some (fmtA 0x01 d a 0 0x14)
  | .sset cc d a b => some (fmtA 0x02 d a b (0b00000#5 ++ cc.code))
  | .sset64 cc d a b => some (fmtA 0x02 d a b (0b00010#5 ++ cc.code))
  | .saddi d a i => some (fmtB 0x03 d a 0 i)
  | .sandi d a i => some (fmtB 0x04 d a 0 i)
  | .sori d a i => some (fmtB 0x05 d a 0 i)
  | .sxori d a i => some (fmtB 0x06 d a 0 i)
  | .sshli d a i => some (fmtB 0x07 d a 0 i)
  | .sshri d a i => some (fmtB 0x07 d a 1 i)
  | .ssrai d a i => some (fmtB 0x07 d a 2 i)
  | .slit d i => some (fmtB 0x08 d 0 0 i)
  | .slitB64 d i => some (fmtB 0x08 d 0 1 i)
  | .sld d a w t re pk off => some (fmtB 0x09 d a w (sldImm t re pk off))
  | .sst d a w t re pk off => some (fmtB 0x0A d a w (sldImm t re pk off))
  | .br i => some (fmtC 0x10 0 i)
  | .beqz a i => some (fmtC 0x11 a i)
  | .bnez a i => some (fmtC 0x12 a i)
  | .bltz a i => some (fmtC 0x13 a i)
  | .bgez a i => some (fmtC 0x14 a i)
  | .bpany p i => some (fmtC 0x15 (low3 p) i)
  | .bpall p i => some (fmtC 0x16 (low3 p) i)
  | .bpnone p i => some (fmtC 0x17 (low3 p) i)
  | .call l i => some (fmtC 0x18 l i)
  | .jr a => some (fmtA 0x19 0 a 0 0)
  | .loop c n => some (0x1C#6 ++ c ++ n ++ 0#15)
  | .linc w f s => some (0x1D#6 ++ w ++ 0#1 ++ f ++ 0#6 ++ s)
  | .enq a i => some (fmtC 0x20 a i)
  | .tmap t a b => some (fmtA 0x21 (low3 t) a b 0)
  | .trel t => some (fmtA 0x22 (low3 t) 0 0 0)
  | .nop => some (fmtA 0x23 0 0 0 0)
  | .endg => some (fmtA 0x24 0 0 0 0)
  | .pget d => some (fmtA 0x28 d 0 0 0)
  | .pyield a => some (fmtA 0x29 0 a 0 0)
  | .pretire a => some (fmtA 0x2A 0 a 0 0)
  | .binit d a => some (fmtA 0x2B d a 0 0)
  | .arrive a b => some (fmtA 0x2C 0 a b 0)
  | .arriveRel a b => some (fmtA 0x2C 0 a b 1)
  | .phase s => some (fmtB 0x2D 0 0 0 (0#9 ++ s))
  | .fenceSc => some (fmtA 0x2E 0 0 0 0)
  | .job p a => some (fmtA 0x2F (low3 p) a 0 0)
  | .reside a b => some (fmtA 0x30 0 a b 0)
  | .resideB d a b => some (fmtA 0x30 d a b 1)
  | .enroll d a => some (fmtA 0x31 d a 0 0)
  | .enrollR d a b => some (fmtA 0x31 d a b 1)
  | .settle d a b => some (fmtA 0x32 d a b 0)
  | .reparent a b => some (fmtA 0x33 0 a b 0)
  | .cread d a => some (fmtA 0x34 d a 0 0)
  | .trap i => some (fmtC 0x38 0 i)
  | .hret => some (fmtB 0x39 0 0 0 0)
  | .hretPoison => some (fmtB 0x39 0 0 1 0)
  | .hretZero => some (fmtB 0x39 0 0 2 0)
  | .srr d n => some (fmtB 0x3A d 0 0 n)
  | .srw a n => some (fmtB 0x3B 0 a 0 n)
  | .halt => some (fmtA 0x3C 0 0 0 0)
  | .mstart a i => some (fmtC 0x3D a i)
  | .pool i => some (fmtC 0x3F 0 i)
  | _ => none

/-- Opcode, modifier and operands of a lane instruction (12 R185, R188); none for an instruction of another stream
and for the clause header. -/
def Instr.laneCode : Instr → Option (BitVec 8 × BitVec 6 × LaneOps)
  | .fadd o t x2 => some (0x01, fmod 0 x2 t, o)
  | .fsub o t x2 => some (0x02, fmod 0 x2 t, o)
  | .fmul o t x2 => some (0x03, fmod 0 x2 t, o)
  | .ffma o t x2 => some (0x04, fmod 0 x2 t, o)
  | .fmin o t x2 => some (0x05, fmod 0 x2 t, o)
  | .fmax o t x2 => some (0x06, fmod 0 x2 t, o)
  | .fabs o t x2 => some (0x07, fmod 0 x2 t, o)
  | .fneg o t x2 => some (0x08, fmod 0 x2 t, o)
  | .frcp o t x2 => some (0x09, fmod 0 x2 t, o)
  | .frsq o t x2 => some (0x0a, fmod 0 x2 t, o)
  | .fsqrt o t x2 => some (0x0b, fmod 0 x2 t, o)
  | .fex2 o t x2 => some (0x0c, fmod 0 x2 t, o)
  | .flg2 o t x2 => some (0x0d, fmod 0 x2 t, o)
  | .fcmp o t cc => some (0x0e, fmod cc.code false t, o)
  | .fclass o t => some (0x0f, fmod 0 false t, o)
  | .iadd o m => some (0x20, 0#4 ++ m.code, o)
  | .isub o m => some (0x21, 0#4 ++ m.code, o)
  | .imul o => some (0x22, 0, o)
  | .imulh o u => some (0x23, 0#5 ++ BitVec.ofBool u, o)
  | .imad o => some (0x24, 0, o)
  | .iand o => some (0x25, 0, o)
  | .ior o => some (0x26, 0, o)
  | .ixor o => some (0x27, 0, o)
  | .inot o => some (0x28, 0, o)
  | .ishl o => some (0x29, 0, o)
  | .ishr o => some (0x2a, 0, o)
  | .isra o => some (0x2b, 0, o)
  | .imin o u => some (0x2c, 0#5 ++ BitVec.ofBool u, o)
  | .imax o u => some (0x2d, 0#5 ++ BitVec.ofBool u, o)
  | .icmp o cc u => some (0x2e, 0#2 ++ BitVec.ofBool u ++ cc.code, o)
  | .ipopc o => some (0x2f, 0, o)
  | .iclz o => some (0x30, 0, o)
  | .iadd64 o m => some (0x31, 0#4 ++ m.code, o)
  | .isub64 o m => some (0x32, 0#4 ++ m.code, o)
  | .imul64 o => some (0x33, 0, o)
  | .idot4 o sat => some (0x34, 0#5 ++ BitVec.ofBool sat, o)
  | .cvt o dt st => some (0x40, dt.code ++ st.code, o)
  | .f8pack o => some (0x41, 0, o)
  | .f8unpkLo o => some (0x42, 0, o)
  | .f8unpkHi o => some (0x42, 1, o)
  | .i4unpk o k => some (0x43, 0#4 ++ k, o)
  | .modadd o => some (0x50, 0, o)
  | .modsub o => some (0x51, 0, o)
  | .modmul o => some (0x52, 0, o)
  | .nttbfAdd o => some (0x53, 0, o)
  | .nttbfSub o => some (0x53, 1, o)
  | .nttbiAdd o => some (0x54, 0, o)
  | .nttbiSub o => some (0x54, 1, o)
  | .mov o d64 => some (0x60, 0#5 ++ BitVec.ofBool d64, o)
  | .sel o d64 => some (0x61, 0#5 ++ BitVec.ofBool d64, o)
  | .movi o => some (0x65, 0, o)
  | .plop o f => some (0x62, 0#3 ++ f.code, o)
  | .pmov o fromS => some (0x63, 0#4 ++ BitVec.ofBool fromS ++ 0#1, o)
  | .pmovNz o => some (0x63, 1, o)
  | .prd o => some (0x64, 0, o)
  | .prdMask o => some (0x64, 1, o)
  | .shfl o m => some (0x70, 0#4 ++ m.code, o)
  | .bcast o => some (0x71, 0, o)
  | .rfl o => some (0x72, 0, o)
  | .voteAny o => some (0x73, 0, o)
  | .voteAll o => some (0x73, 1, o)
  | .voteBal o => some (0x73, 2, o)
  | .lbr o => some (0x80, 0, o)
  | .ljoin o => some (0x81, 0, o)
  | .lend o => some (0x82, 0, o)
  | .xset o => some (0x83, 0, o)
  | .xsetS o => some (0x83, 1, o)
  | .xrst o => some (0x84, 0, o)
  | .lnop o => some (0x85, 0, o)
  | .ldG o z => some (0x90, 0#3 ++ z.code, o)
  | .stG o z => some (0x91, 0#3 ++ z.code, o)
  | .ldL o z => some (0x92, 0#3 ++ z.code, o)
  | .stL o z => some (0x93, 0#3 ++ z.code, o)
  | .atomG o f => some (0x94, 0#2 ++ f.code, o)
  | .redG o f => some (0x95, 0#2 ++ f.code, o)
  | .redf o fc => some (0x96, 0#3 ++ fc, o)
  | .redx o t => some (0x97, 0#4 ++ t.code, o)
  | .xmerge o => some (0x98, 0, o)
  | .xcvt o => some (0x99, 0, o)
  | .xcvtClr o => some (0x99, 1, o)
  | .atomL o f => some (0x9a, 0#2 ++ f.code, o)
  | .resideLane o => some (0x9b, 0, o)
  | .wait o => some (0x9c, 0, o)
  | _ => none

/-- The matrix word of an instruction (12 R190, R191); none for an instruction of another stream. -/
def Instr.matrixWord : Instr → Option DWord
  | .mnop => some (fmtM 0x01 0 0 0 0 0 0 0 0 0 0)
  | .mli q a i => some (fmtM 0x02 (0#4 ++ q) a 0 0 0 0 0 0 0 i)
  | .mmov a b => some (fmtM 0x03 0 a b 0 0 0 0 0 0 0)
  | .madd a b i => some (fmtM 0x04 0 a b 0 0 0 0 0 0 i)
  | .mld a i => some (fmtM 0x05 0 a 0 0 0 0 0 0 0 i)
  | .mres a x => some (fmtM 0x08 0 a 0 0 x 0 0 0 0 0)
  | .mrel x => some (fmtM 0x09 0 0 0 0 x 0 0 0 0 0)
  | .mmod a => some (fmtM 0x0A 0 a 0 0 0 0 0 0 0 0)
  | .mma m a b k tr tc cb => some (fmtM 0x10 m.code a b k 0 tr tc cb 0 0)
  | .mzero k tr tc cb => some (fmtM 0x11 0 0 0 k 0 tr tc cb 0 0)
  | .mst f cr a k x tr tc cb bar => some (fmtM 0x12 (0#2 ++ BitVec.ofBool cr ++ f.code) a 0 k x tr tc cb bar 0)
  | .mwait bar x i => some (fmtM 0x18 0 0 0 0 x 0 0 0 bar i)
  | .marv bar => some (fmtM 0x19 0 0 0 0 0 0 0 0 bar 0)
  | .mloop x i => some (fmtM 0x1A 0 0 0 0 x 0 0 0 0 i)
  | .mend bar => some (fmtM 0x1B 0 0 0 0 0 0 0 0 bar 0)
  | .mbr i => some (fmtM 0x1C 0 0 0 0 0 0 0 0 0 i)
  | _ => none

/-- The lane word of an instruction or clause header; none for an instruction of another stream. -/
def Instr.laneWord (i : Instr) : Option (BitVec 96) :=
  match i with
  | .clauseHeader h => some h.pack
  | _ => i.laneCode.map fun c => (laneWordOf c.1 c.2.1 c.2.2).pack

/-- The word of an instruction; none for a step of the device that no word encodes (95). -/
def encode (i : Instr) : Option CodeWord :=
  match i.scalarWord with
  | some w => some (.scalar w)
  | none =>
    match i.matrixWord with
    | some w => some (.matrix w)
    | none => i.laneWord.map CodeWord.lane

/-! ## The opcode maps -/

/-- The cell of the scalar opcode map that a word names, with the fields its instruction uses (12 R181 to R183, 14,
16, 17); none where the cell is not assigned. -/
def scalarCell (w : Word) : Option Instr :=
  let d : SReg := field w 20 6
  let a : SReg := field w 14 6
  let b : SReg := field w 8 6
  let fn2 : BitVec 2 := field w 12 2
  let i12 : BitVec 12 := field w 0 12
  let i20 : BitVec 20 := field w 0 20
  let n3 : BitVec 3 := field w 20 3
  let fn := (field w 0 8).toNat
  match (field w 26 6).toNat with
  | 0x01 =>
    match fn with
    | 0x00 => some (.sadd d a b)
    | 0x01 => some (.ssub d a b)
    | 0x02 => some (.smul d a b)
    | 0x03 => some (.smulhu d a b)
    | 0x04 => some (.smulhs d a b)
    | 0x05 => some (.sand d a b)
    | 0x06 => some (.sor d a b)
    | 0x07 => some (.sxor d a b)
    | 0x08 => some (.sshl d a b)
    | 0x09 => some (.sshr d a b)
    | 0x0a => some (.ssra d a b)
    | 0x0b => some (.smin d a b)
    | 0x0c => some (.smax d a b)
    | 0x0d => some (.sminu d a b)
    | 0x0e => some (.smaxu d a b)
    | 0x0f => some (.ssel d a b)
    | 0x10 => some (.sadd64 d a b)
    | 0x11 => some (.ssub64 d a b)
    | 0x12 => some (.smul64 d a b)
    | 0x13 => some (.sclz d a)
    | 0x14 => some (.spopc d a)
    | _ => none
  | 0x02 =>
    if fn < 0x08 then (SCond.ofCode (field w 0 3)).map (.sset · d a b)
    else if 0x10 ≤ fn && fn < 0x18 then (SCond.ofCode (field w 0 3)).map (.sset64 · d a b)
    else none
  | 0x03 => some (.saddi d a i12)
  | 0x04 => some (.sandi d a i12)
  | 0x05 => some (.sori d a i12)
  | 0x06 => some (.sxori d a i12)
  | 0x07 =>
    match fn2.toNat with
    | 0 => some (.sshli d a i12)
    | 1 => some (.sshri d a i12)
    | 2 => some (.ssrai d a i12)
    | _ => none
  | 0x08 =>
    match fn2.toNat with
    | 0 => some (.slit d i12)
    | 1 => some (.slitB64 d i12)
    | _ => none
  | 0x09 => some (.sld d a fn2 (field w 9 3) (bitAt w 8) (field w 5 3) (field w 0 5))
  | 0x0A => some (.sst d a fn2 (field w 9 3) (bitAt w 8) (field w 5 3) (field w 0 5))
  | 0x10 => some (.br i20)
  | 0x11 => some (.beqz d i20)
  | 0x12 => some (.bnez d i20)
  | 0x13 => some (.bltz d i20)
  | 0x14 => some (.bgez d i20)
  | 0x15 => some (.bpany n3 i20)
  | 0x16 => some (.bpall n3 i20)
  | 0x17 => some (.bpnone n3 i20)
  | 0x18 => some (.call d i20)
  | 0x19 => some (.jr a)
  | 0x1C => some (.loop d (field w 15 5))
  | 0x1D => some (.linc (field w 21 5) (field w 18 2) i12)
  | 0x20 => some (.enq d i20)
  | 0x21 => some (.tmap n3 a b)
  | 0x22 => some (.trel n3)
  | 0x23 => some .nop
  | 0x24 => some .endg
  | 0x28 => some (.pget d)
  | 0x29 => some (.pyield a)
  | 0x2A => some (.pretire a)
  | 0x2B => some (.binit d a)
  | 0x2C =>
    match fn with
    | 0 => some (.arrive a b)
    | 1 => some (.arriveRel a b)
    | _ => none
  | 0x2D => some (.phase (field w 0 3))
  | 0x2E => some .fenceSc
  | 0x2F => some (.job n3 a)
  | 0x30 =>
    match fn with
    | 0 => some (.reside a b)
    | 1 => some (.resideB d a b)
    | _ => none
  | 0x31 =>
    match fn with
    | 0 => some (.enroll d a)
    | 1 => some (.enrollR d a b)
    | _ => none
  | 0x32 => some (.settle d a b)
  | 0x33 => some (.reparent a b)
  | 0x34 => some (.cread d a)
  | 0x38 => some (.trap i20)
  | 0x39 =>
    match fn2.toNat with
    | 0 => some .hret
    | 1 => some .hretPoison
    | 2 => some .hretZero
    | _ => none
  | 0x3A => if sysRegs.contains i12.toNat then some (.srr d i12) else none
  | 0x3B => if sysRegs.contains i12.toNat then some (.srw a i12) else none
  | 0x3C => some .halt
  | 0x3D => some (.mstart d i20)
  | 0x3F => some (.pool i20)
  | _ => none
where
  /-- The numbers of the system registers (17 R303). -/
  sysRegs : List Nat :=
    [0x000, 0x001, 0x002, 0x003, 0x004, 0x010, 0x011, 0x020, 0x021, 0x022, 0x023, 0x024, 0x025, 0x026, 0x030]

/-- A floating-point cell: the type in MOD [1:0], X2 in [2], zero in [5:3] (15 R224, R228). -/
def fpCell (mod : BitVec 6) (mk : FType → Bool → Instr) : Option Instr :=
  match FType.ofCode (field mod 0 2) with
  | some t => if (field mod 3 3 : BitVec 3) ≠ 0 || (bitAt mod 2 && t == .f32) then none else some (mk t (bitAt mod 2))
  | none => none

/-- A cell whose MOD is 0. -/
def cell0 (mod : BitVec 6) (i : Instr) : Option Instr := if mod = 0 then some i else none

/-- A cell whose MOD is one bit. -/
def cell1 (mod : BitVec 6) (mk : Bool → Instr) : Option Instr :=
  if (field mod 1 5 : BitVec 5) = 0 then some (mk (bitAt mod 0)) else none

/-- A cell of `IADD`'s form: saturation in MOD [1:0]. -/
def satCell (mod : BitVec 6) (mk : Sat → Instr) : Option Instr :=
  if (field mod 2 4 : BitVec 4) = 0 then (Sat.ofCode (field mod 0 2)).map mk else none

/-- A cell with a size in MOD [2:0] (16 R254). -/
def sizeCell (mod : BitVec 6) (store : Bool) (mk : MSize → Instr) : Option Instr :=
  if (field mod 3 3 : BitVec 3) = 0 then
    (MSize.ofCode (field mod 0 3)).bind fun z => if store && (z == .s8 || z == .s16) then none else some (mk z)
  else none

/-- A cell with an atomic operation in MOD [3:0] (16 R258); `red` accepts those of R259 only. -/
def atomCell (mod : BitVec 6) (red : Bool) (mk : AOp → Instr) : Option Instr :=
  if (field mod 4 2 : BitVec 2) = 0 then
    (AOp.ofCode (field mod 0 4)).bind fun f => if red && !(f.code.toNat < 8 || f == .add64) then none else some (mk f)
  else none

/-- The cell of the lane opcode map that OP and MOD name (12 R188; 15, 16); none where it is not assigned. -/
def laneCell (op : BitVec 8) (mod : BitVec 6) (o : LaneOps) : Option Instr :=
  match op.toNat with
  | 0x01 => fpCell mod (.fadd o · ·)
  | 0x02 => fpCell mod (.fsub o · ·)
  | 0x03 => fpCell mod (.fmul o · ·)
  | 0x04 => fpCell mod (.ffma o · ·)
  | 0x05 => fpCell mod (.fmin o · ·)
  | 0x06 => fpCell mod (.fmax o · ·)
  | 0x07 => fpCell mod (.fabs o · ·)
  | 0x08 => fpCell mod (.fneg o · ·)
  | 0x09 => fpCell mod (.frcp o · ·)
  | 0x0a => fpCell mod (.frsq o · ·)
  | 0x0b => fpCell mod (.fsqrt o · ·)
  | 0x0c => fpCell mod (.fex2 o · ·)
  | 0x0d => fpCell mod (.flg2 o · ·)
  | 0x0E =>
    match FType.ofCode (field mod 0 2), FCond.ofCode (field mod 3 3) with
    | some t, some cc => if bitAt mod 2 then none else some (.fcmp o t cc)
    | _, _ => none
  | 0x0F => (fpCell mod fun t x2 => if x2 then .lnop o else .fclass o t).bind fun i =>
      match i with
      | .fclass _ _ => some i
      | _ => none
  | 0x20 => satCell mod (.iadd o)
  | 0x21 => satCell mod (.isub o)
  | 0x22 => cell0 mod (.imul o)
  | 0x23 => cell1 mod (.imulh o)
  | 0x24 => cell0 mod (.imad o)
  | 0x25 => cell0 mod (.iand o)
  | 0x26 => cell0 mod (.ior o)
  | 0x27 => cell0 mod (.ixor o)
  | 0x28 => cell0 mod (.inot o)
  | 0x29 => cell0 mod (.ishl o)
  | 0x2A => cell0 mod (.ishr o)
  | 0x2B => cell0 mod (.isra o)
  | 0x2C => cell1 mod (.imin o)
  | 0x2D => cell1 mod (.imax o)
  | 0x2E =>
    if (field mod 4 2 : BitVec 2) = 0 then (ICond.ofCode (field mod 0 3)).map (.icmp o · (bitAt mod 3)) else none
  | 0x2F => cell0 mod (.ipopc o)
  | 0x30 => cell0 mod (.iclz o)
  | 0x31 => satCell mod (.iadd64 o)
  | 0x32 => satCell mod (.isub64 o)
  | 0x33 => cell0 mod (.imul64 o)
  | 0x34 => cell1 mod (.idot4 o)
  | 0x40 =>
    match CType.ofCode (field mod 3 3), CType.ofCode (field mod 0 3) with
    | some dt, some st => if dt = st then none else some (.cvt o dt st)
    | _, _ => none
  | 0x41 => cell0 mod (.f8pack o)
  | 0x42 => cell1 mod fun h => if h then .f8unpkHi o else .f8unpkLo o
  | 0x43 => if (field mod 2 4 : BitVec 4) = 0 then some (.i4unpk o (field mod 0 2)) else none
  | 0x50 => cell0 mod (.modadd o)
  | 0x51 => cell0 mod (.modsub o)
  | 0x52 => cell0 mod (.modmul o)
  | 0x53 => cell1 mod fun h => if h then .nttbfSub o else .nttbfAdd o
  | 0x54 => cell1 mod fun h => if h then .nttbiSub o else .nttbiAdd o
  | 0x60 => cell1 mod (.mov o)
  | 0x61 => cell1 mod (.sel o)
  | 0x62 => if (field mod 3 3 : BitVec 3) = 0 then (PFun.ofCode (field mod 0 3)).map (.plop o) else none
  | 0x63 =>
    match mod.toNat with
    | 0 => some (.pmov o false)
    | 1 => some (.pmovNz o)
    | 2 => some (.pmov o true)
    | _ => none
  | 0x64 => cell1 mod fun h => if h then .prdMask o else .prd o
  | 0x65 => cell0 mod (.movi o)
  | 0x70 => if (field mod 2 4 : BitVec 4) = 0 then (ShMode.ofCode (field mod 0 2)).map (.shfl o) else none
  | 0x71 => cell0 mod (.bcast o)
  | 0x72 => cell0 mod (.rfl o)
  | 0x73 =>
    match mod.toNat with
    | 0 => some (.voteAny o)
    | 1 => some (.voteAll o)
    | 2 => some (.voteBal o)
    | _ => none
  | 0x80 => cell0 mod (.lbr o)
  | 0x81 => cell0 mod (.ljoin o)
  | 0x82 => cell0 mod (.lend o)
  | 0x83 => cell1 mod fun h => if h then .xsetS o else .xset o
  | 0x84 => cell0 mod (.xrst o)
  | 0x85 => cell0 mod (.lnop o)
  | 0x90 => sizeCell mod false (.ldG o)
  | 0x91 => sizeCell mod true (.stG o)
  | 0x92 => sizeCell mod false (.ldL o)
  | 0x93 => sizeCell mod true (.stL o)
  | 0x94 => atomCell mod false (.atomG o)
  | 0x95 => atomCell mod true (.redG o)
  | 0x96 => if (field mod 3 3 : BitVec 3) = 0 then some (.redf o (field mod 0 3)) else none
  | 0x97 => if (field mod 2 4 : BitVec 4) = 0 then (XType.ofCode (field mod 0 2)).map (.redx o) else none
  | 0x98 => cell0 mod (.xmerge o)
  | 0x99 => cell1 mod fun h => if h then .xcvtClr o else .xcvt o
  | 0x9A => atomCell mod false (.atomL o)
  | 0x9B => cell0 mod (.resideLane o)
  | 0x9C => cell0 mod (.wait o)
  | _ => none

/-- The cell of the matrix opcode map that a word names, with the fields its instruction uses (12 R191); none where
it is not assigned. -/
def matrixCell (w : DWord) : Option Instr :=
  let mod : BitVec 6 := field w 50 6
  let a : BitVec 4 := field w 46 4
  let b : BitVec 4 := field w 42 4
  let k : BitVec 4 := field w 38 4
  let x : BitVec 4 := field w 34 4
  let tr : BitVec 3 := field w 31 3
  let tc : BitVec 4 := field w 27 4
  let cb : BitVec 7 := field w 20 7
  let bar : BitVec 4 := field w 16 4
  let i : BitVec 16 := field w 0 16
  match (field w 56 8).toNat with
  | 0x01 => cell0 mod .mnop
  | 0x02 => if (field mod 2 4 : BitVec 4) = 0 then some (.mli (field mod 0 2) a i) else none
  | 0x03 => cell0 mod (.mmov a b)
  | 0x04 => cell0 mod (.madd a b i)
  | 0x05 => cell0 mod (.mld a i)
  | 0x08 => cell0 mod (.mres a x)
  | 0x09 => cell0 mod (.mrel x)
  | 0x0A => cell0 mod (.mmod a)
  | 0x10 => (MMode.ofCode mod).map (.mma · a b k tr tc cb)
  | 0x11 => cell0 mod (.mzero k tr tc cb)
  | 0x12 =>
    if (field mod 4 2 : BitVec 2) = 0 then
      (SFmt.ofCode (field mod 0 3)).map (.mst · (bitAt mod 3) a k x tr tc cb bar)
    else none
  | 0x18 => cell0 mod (.mwait bar x i)
  | 0x19 => cell0 mod (.marv bar)
  | 0x1A => cell0 mod (.mloop x i)
  | 0x1B => cell0 mod (.mend bar)
  | 0x1C => cell0 mod (.mbr i)
  | _ => none

/-! ## Positions of lane operands -/

/-- What a source position of a lane instruction accepts (03 R54, 15 R222, R223, 16 R253, R254). -/
inductive SrcPos
  | unused
  | word        -- any 32-bit class
  | pair        -- a pair, or a W
  | quad        -- a quad of V or O
  | sreg        -- an S register
  | spair       -- an even S register
  | addr        -- an address term: V, O, S or none
  | saddr       -- an S register or none
  deriving DecidableEq, Repr

/-- What a destination position accepts (15 R222, R225, R252, 16 R253). -/
inductive DstPos
  | unused
  | word        -- V, O, X or none
  | pair        -- an even V or O, or none
  | scalar      -- as `word`, and S0 to S47
  | load (n : Nat)   -- a V whose number is a multiple of n
  | reply (n : Nat)  -- as `load`, or none
  | xreg        -- an X
  deriving DecidableEq, Repr

/-- The operand n pair even, quad a multiple of four. -/
def aligned {w : Nat} (n : BitVec w) (k : Nat) : Bool := n.toNat % k == 0

/-- A source position accepts an operand, last-use bit included (03 R54). -/
def SrcPos.accepts (p : SrcPos) (x : Opnd) (lu : Bool) : Bool :=
  match p, x with
  | .unused, _ => x == .none && !lu
  | .word, .v _ => true
  | .word, .o _ | .word, .w _ | .word, .x _ | .word, .s _ => !lu
  | .pair, .v n => aligned n 2
  | .pair, .o n => aligned n 2 && !lu
  | .pair, .s n => aligned n 2 && !lu
  | .pair, .w _ => !lu
  | .quad, .v n => aligned n 4
  | .quad, .o n => aligned n 4 && !lu
  | .sreg, .s _ => !lu
  | .spair, .s n => aligned n 2 && !lu
  | .addr, .v _ => true
  | .addr, .o _ | .addr, .s _ | .addr, .none => !lu
  | .saddr, .s _ | .saddr, .none => !lu
  | _, _ => false

/-- A destination position accepts an operand. -/
def DstPos.accepts (p : DstPos) (x : Opnd) : Bool :=
  match p, x with
  | .unused, _ => x == .none
  | .word, .v _ | .word, .o _ | .word, .x _ | .word, .none => true
  | .pair, .v n => aligned n 2
  | .pair, .o n => aligned n 2
  | .pair, .none => true
  | .scalar, .v _ | .scalar, .o _ | .scalar, .x _ | .scalar, .none => true
  | .scalar, .s n => decide (n.toNat ≤ 47)
  | .load k, .v n => aligned n k
  | .reply k, .v n => aligned n k
  | .reply _, .none => true
  | .xreg, .x _ => true
  | _, _ => false

/-- The positions, immediate bits and control fields a lane instruction uses (15, 16): its destination, its sources,
the IMM32 bits it defines, whether it takes a residency predicate (R110), whether it is long-latency (03 R68), and the
ORD codes it accepts (16 R253, 08 R128). -/
structure LaneForm where
  dst : DstPos := .unused
  a   : SrcPos := .unused
  b   : SrcPos := .unused
  c   : SrcPos := .unused
  imm : Word := 0
  res : Bool := false
  ll  : Bool := false
  ord : List Nat := [0]
  deriving DecidableEq, Repr

/-- Registers of a size: one, a pair, a quad (16 R254). -/
def MSize.regs : MSize → Nat
  | .b64 => 2
  | .b128 => 4
  | _ => 1

/-- Bytes of a size (16 R254). -/
def MSize.bytes : MSize → Nat
  | .b8 | .s8 => 1
  | .b16 | .s16 => 2
  | .b32 => 4
  | .b64 => 8
  | .b128 => 16

/-- An atomic works on 64 bits (16 R258). -/
def AOp.wide : AOp → Bool
  | .add64 | .swap64 | .cas64 | .load64 => true
  | _ => false

/-- An atomic only reads (16 R258). -/
def AOp.loads : AOp → Bool
  | .load | .load64 => true
  | _ => false

/-- An atomic compares (16 R258). -/
def AOp.compares : AOp → Bool
  | .cas | .cas64 => true
  | _ => false

/-- A source of one register, or of a pair. -/
def srcOf (wide : Bool) : SrcPos := if wide then .pair else .word

/-- A destination of one register, or of a pair. -/
def dstOf (wide : Bool) : DstPos := if wide then .pair else .word

/-- The form of a global memory instruction: its address term and the whole of IMM32 (16 R253). -/
def globalForm : LaneForm := { a := .addr, imm := 0xFFFFFFFF }

/-- The form of a local memory instruction: its address term and OFF (16 R253). -/
def localForm : LaneForm := { a := .addr, imm := 0x00FFFFFF }

/-- The source position of stored data of a size (16 R254). -/
def MSize.src : MSize → SrcPos
  | .b64 => .pair
  | .b128 => .quad
  | _ => .word

/-- The form with the B and C positions and the destination of an atomic (16 R258). -/
def atomForm (f : AOp) (fm : LaneForm) : LaneForm :=
  { fm with
    dst := .reply (if f.wide then 2 else 1)
    b := if f.loads then .unused else srcOf f.wide
    c := if f.compares then srcOf f.wide else .unused
    ll := true }

/-- The positions and fields each lane instruction uses (15 R222 to R252, 16 R253 to R269). -/
def Instr.laneForm : Instr → Option LaneForm
  | .fadd _ _ _ | .fsub _ _ _ | .fmul _ _ _ | .fmin _ _ _ | .fmax _ _ _ =>
    some { dst := .word, a := .word, b := .word }
  | .ffma _ _ _ => some { dst := .word, a := .word, b := .word, c := .word }
  | .fabs _ _ _ | .fneg _ _ _ | .frcp _ _ _ | .frsq _ _ _ | .fsqrt _ _ _ | .fex2 _ _ _ | .flg2 _ _ _ | .fclass _ _ =>
    some { dst := .word, a := .word }
  | .fcmp _ _ _ => some { a := .word, b := .word, imm := 0x7 }
  | .iadd _ _ | .isub _ _ | .imul _ | .imulh _ _ | .iand _ | .ior _ | .ixor _ | .ishl _ | .ishr _ | .isra _
  | .imin _ _ | .imax _ _ => some { dst := .word, a := .word, b := .word }
  | .imad _ | .idot4 _ _ => some { dst := .word, a := .word, b := .word, c := .word }
  | .inot _ | .ipopc _ | .iclz _ => some { dst := .word, a := .word }
  | .icmp _ _ _ => some { a := .word, b := .word, imm := 0x7 }
  | .iadd64 _ _ | .isub64 _ _ | .imul64 _ => some { dst := .pair, a := .pair, b := .pair }
  | .cvt _ dt st => some { dst := dstOf (dt == .i64), a := srcOf (st == .i64), imm := 0x1 }
  | .f8pack _ => some { dst := .word, a := .pair, b := .pair, c := .word }
  | .f8unpkLo _ | .f8unpkHi _ | .i4unpk _ _ => some { dst := .pair, a := .word }
  | .modadd _ | .modsub _ | .modmul _ => some { dst := .pair, a := .pair, b := .pair, c := .spair }
  | .nttbfAdd _ | .nttbfSub _ | .nttbiAdd _ | .nttbiSub _ =>
    some { dst := .pair, a := .pair, b := .pair, c := .pair, imm := 0x3F }
  | .mov _ d64 => some { dst := dstOf d64, a := srcOf d64 }
  | .sel _ d64 => some { dst := dstOf d64, a := srcOf d64, b := srcOf d64, imm := 0x38 }
  | .movi _ => some { dst := .word, imm := 0xFFFFFFFF }
  | .plop _ f => some { imm := if f = .not then 0x3F else 0x1FF }
  | .pmov _ fromS => some (if fromS then { a := .sreg, imm := 0x7 } else { imm := 0x3F })
  | .pmovNz _ => some { a := .word, imm := 0x7 }
  | .prd _ | .prdMask _ => some { dst := .word, imm := 0x38 }
  | .shfl _ _ => some { dst := .word, a := .word, b := .word }
  | .bcast _ => some { dst := .word, a := .word, imm := 0x1F }
  | .rfl _ | .voteBal _ => some { dst := .scalar, a := .word }
  | .voteAny _ | .voteAll _ => some { a := .word, imm := 0x7 }
  | .lbr _ => some { imm := 0xFFFFFFFF }
  | .ljoin _ | .lend _ | .lnop _ => some {}
  | .xset _ => some { dst := .xreg, imm := 0x7F }
  | .xsetS _ => some { dst := .xreg, a := .sreg }
  | .xrst _ => some { dst := .xreg }
  | .ldG _ z => some { globalForm with dst := .load z.regs, res := true, ll := true }
  | .stG _ z => some { globalForm with b := z.src, res := true }
  | .ldL _ z => some { localForm with dst := .load z.regs, ll := true }
  | .stL _ z => some { localForm with b := z.src }
  | .atomG _ f => some { atomForm f globalForm with res := true, ord := [0, 1, 2, 3] }
  | .atomL _ f => some (atomForm f localForm)
  | .redG _ f => some { globalForm with b := srcOf f.wide, ord := [0, 2] }
  | .redf _ _ | .redx _ _ | .xmerge _ => some { globalForm with b := .word, ord := [0, 2] }
  | .xcvt _ | .xcvtClr _ => some { globalForm with dst := .load 1, res := true, ll := true, ord := [0, 1] }
  | .resideLane _ => some { globalForm with dst := .reply 1, ll := true }
  | .wait _ => some { a := .saddr, b := .sreg, imm := 0x00FFFFFF }
  | _ => none

/-- The instruction is one of 16's lane memory words, whose IMM32 holds SCOPE and ORD (16 R253). -/
def Instr.isLaneMem : Instr → Bool
  | .ldG _ _ | .stG _ _ | .ldL _ _ | .stL _ _ | .atomG _ _ | .atomL _ _ | .redG _ _ | .redf _ _ | .redx _ _
  | .xmerge _ | .xcvt _ | .xcvtClr _ | .resideLane _ | .wait _ => true
  | _ => false

/-- `XSET` and `XRST` take no predicate prefix (15 R252). -/
def Instr.unpredicated : Instr → Bool
  | .xset _ | .xsetS _ | .xrst _ => true
  | _ => false

/-- ORD of a lane memory word (16 R253). -/
def LaneOps.ord (o : LaneOps) : Nat := (field o.imm 24 2).toNat

/-- SCOPE of a lane memory word (16 R253). -/
def LaneOps.scope (o : LaneOps) : Nat := (field o.imm 26 3).toNat

/-- TN of a lane memory word (16 R253). -/
def LaneOps.tn (o : LaneOps) : BitVec 3 := field o.imm 29 3

/-- OFF of a lane memory word, sign-extended (16 R253). -/
def LaneOps.off (o : LaneOps) : Word := (field o.imm 0 24).signExtend 32

/-- The immediate of an instruction lies in the range its description states (15 R235, R252). -/
def Instr.immOk (i : Instr) (imm : Word) : Bool :=
  match i with
  | .cvt _ dt st => imm = 0 || (decide (4 ≤ dt.code.toNat) && decide (4 ≤ st.code.toNat))
  | .xset _ => decide (imm.toNat ≤ 64)
  | _ => true

/-- Check 1 of 12 R174 where an operand decides it: the cell that the opcode map gives the instruction is assigned (15 R228,
R235, 16 R254, R259, 17 R303). -/
def Instr.assigned (i : Instr) : Bool :=
  match i with
  | .srr _ n | .srw _ n => scalarCell.sysRegs.contains n.toNat
  | .fadd _ t x2 | .fsub _ t x2 | .fmul _ t x2 | .ffma _ t x2 | .fmin _ t x2 | .fmax _ t x2 | .fabs _ t x2 | .fneg _ t x2
  | .frcp _ t x2 | .frsq _ t x2 | .fsqrt _ t x2 | .fex2 _ t x2 | .flg2 _ t x2 => !(x2 && t == .f32)
  | .cvt _ dt st => dt != st
  | .stG _ z | .stL _ z => z != .s8 && z != .s16
  | .redG _ f => decide (f.code.toNat < 8) || f == .add64
  | _ => true

/-! ## The second and third check -/

/-- Check 2 of 12 R174 for a lane instruction: reserved and unused fields (12 R185, 16 R253, 15 R252). -/
def Instr.laneFieldsOk (i : Instr) (fm : LaneForm) (o : LaneOps) : Bool :=
  (o.pe || (!o.pn && o.pg == 0)) &&
  (fm.dst != .unused || o.dst == .none) &&
  (fm.a != .unused || SrcPos.unused.accepts o.a o.la) &&
  (fm.b != .unused || SrcPos.unused.accepts o.b o.lb) &&
  (fm.c != .unused || SrcPos.unused.accepts o.c o.lc) &&
  (o.imm &&& ~~~fm.imm) == 0 &&
  o.fs != 3 && (o.fs == 0 || fm.ll) &&
  (fm.res || (!o.re && o.pk == 0)) &&
  (!i.isLaneMem || (fm.ord.contains o.ord && (o.ord != 0 || o.scope == 0) && decide (o.scope ≤ 4))) &&
  (!i.unpredicated || !o.pe) &&
  i.immOk o.imm

/-- Check 3 of 12 R174 for a lane instruction: the class and number of every operand it uses (03 R54). -/
def Instr.laneClassesOk (i : Instr) (fm : LaneForm) (o : LaneOps) : Bool :=
  fm.dst.accepts o.dst && fm.a.accepts o.a o.la && fm.b.accepts o.b o.lb && fm.c.accepts o.c o.lc &&
  (match i with
   | .nttbfAdd _ | .nttbfSub _ | .nttbiAdd _ | .nttbiSub _ => o.imm.toNat % 2 == 0
   | _ => true)

/-- Check 2 for a clause header (12 R186). -/
def ClauseHdr.fieldsOk (h : ClauseHdr) : Bool :=
  decide (h.sf0.toNat ≤ 11) && decide (h.sf1.toNat ≤ 11) && (!h.s1e || h.s0e) &&
  (!(h.s0e && h.s1e) || h.sf0 != h.sf1) && (h.s0e || h.sf0 == 0) && (h.s1e || h.sf1 == 0) &&
  decide (h.live.toNat ≤ 32) && (h.safe || h.live == 0)

/-- Check 2 of 12 R174 beyond the fields that no instruction of the cell uses: values outside the range their format
states (14 R202, R205; 16 R271; 11 R170). -/
def Instr.rangesOk (i : Instr) : Bool :=
  match i with
  | .sshli _ _ n | .sshri _ _ n | .ssrai _ _ n => decide (n.toNat < 64)
  | .sld _ _ _ _ re pk _ | .sst _ _ _ _ re pk _ => re || pk == 0
  | .phase s => decide (s.toNat ≤ 4)
  | .clauseHeader h => h.fieldsOk
  | .mst f cr _ _ x _ _ _ bar => (f = .e4m3 || x = 0) && (cr || bar = 0)
  | _ =>
    match i.laneCode, i.laneForm with
    | some c, some fm => i.laneFieldsOk fm c.2.2
    | _, _ => true

/-- SD of a word that writes it (12 R178). -/
def writable (d : SReg) : Bool := decide (d.toNat ≤ 47)

/-- The even register of a pair (12 R178). -/
def evenReg (d : SReg) : Bool := d.toNat % 2 == 0

/-- Check 3 of 12 R174: every register field names a class and number the instruction accepts (12 R178, R190; 14, 16,
17; 03 R54). -/
def Instr.operandsOk (i : Instr) : Bool :=
  match i with
  | .sadd d _ _ | .ssub d _ _ | .smul d _ _ | .smulhu d _ _ | .smulhs d _ _ | .sand d _ _ | .sor d _ _ | .sxor d _ _
  | .sshl d _ _ | .sshr d _ _ | .ssra d _ _ | .smin d _ _ | .smax d _ _ | .sminu d _ _ | .smaxu d _ _ | .ssel d _ _
  | .sclz d _ | .spopc d _ | .sset _ d _ _ | .saddi d _ _ | .sandi d _ _ | .sori d _ _ | .sxori d _ _ | .sshli d _ _
  | .sshri d _ _ | .ssrai d _ _ | .slit d _ | .call d _ | .loop d _ | .enroll d _ | .settle d _ _ | .srr d _ =>
    writable d
  | .sadd64 d a b | .ssub64 d a b | .smul64 d a b => writable d && evenReg d && evenReg a && evenReg b
  | .sset64 _ d a b => writable d && evenReg a && evenReg b
  | .slitB64 d _ | .pget d | .cread d _ => writable d && evenReg d
  | .sld d _ w _ _ _ _ => writable d && (w != 1 || evenReg d)
  | .sst d _ w _ _ _ _ => w != 1 || evenReg d
  | .tmap _ a _ | .binit _ a | .job _ a | .reside a _ | .resideB _ a _ => evenReg a
  | .enrollR d _ b => writable d && evenReg b && decide (b.toNat ≤ 44)
  | .srw _ n => [0x000, 0x001, 0x003, 0x004, 0x010, 0x022, 0x030].contains n.toNat
  | .mma _ a b _ _ _ _ => aligned a 2 && aligned b 2
  | .mst _ _ a _ _ _ _ _ _ => aligned a 2
  | .mres a _ => aligned a 4
  | _ =>
    match i.laneCode, i.laneForm with
    | some c, some fm => i.laneClassesOk fm c.2.2
    | _, _ => true

/-! ## The decoder -/

/-- The three checks of 12 R174 on a scalar word. A word whose unused fields hold other than 0 is not the word its
instruction encodes to. -/
def decodeScalar (w : Word) : Except DecodeError Instr :=
  match scalarCell w with
  | none => .error .illegalOpcode
  | some i =>
    if i.scalarWord ≠ some w || !i.rangesOk then .error .reservedField
    else if !i.operandsOk then .error .badOperandClass
    else .ok i

/-- The three checks of 12 R174 on a matrix word. -/
def decodeMatrix (w : DWord) : Except DecodeError Instr :=
  match matrixCell w with
  | none => .error .illegalOpcode
  | some i =>
    if i.matrixWord ≠ some w || !i.rangesOk then .error .reservedField
    else if !i.operandsOk then .error .badOperandClass
    else .ok i

/-- The checks of 12 R174 and R186 on the word where a clause header is due. -/
def decodeHeader (w : BitVec 96) : Except DecodeError ClauseHdr :=
  if (field w 88 8 : BitVec 8) ≠ 0xC1 then .error .illegalOpcode
  else if (ClauseHdr.unpack w).pack ≠ w || !(ClauseHdr.unpack w).fieldsOk then .error .reservedField
  else .ok (ClauseHdr.unpack w)

/-- Where an instruction stands in its clause: whether it is the last, whether it is the only one, and how many flags
the header sets (12 R185, 15 R246, 16 R269). -/
structure ClausePlace where
  last : Bool
  only : Bool
  sets : Nat
  deriving DecidableEq, Repr

/-- A place that every instruction accepts. -/
def ClausePlace.any : ClausePlace := ⟨true, true, 2⟩

/-- Check 2 of 12 R174 as far as the clause decides it: `LBR`, `LJOIN` and `LEND` last (15 R246), `WAIT` alone
(16 R269), FS a flag that the header sets (12 R185). -/
def ClausePlace.ok (p : ClausePlace) (i : Instr) (fs : BitVec 2) : Bool :=
  (match i with
   | .lbr _ | .ljoin _ | .lend _ => p.last
   | .wait _ => p.only
   | _ => true) && decide (fs.toNat ≤ p.sets)

/-- The three checks of 12 R174 on a lane instruction word at a place of a clause. -/
def decodeLaneAt (p : ClausePlace) (w : BitVec 96) : Except DecodeError Instr :=
  let f := LaneWord.unpack w
  match laneCell f.op f.mod f.ops with
  | none => .error .illegalOpcode
  | some i =>
    if !i.rangesOk || !p.ok i f.fs then .error .reservedField
    else if !f.specsOk || !i.operandsOk then .error .badOperandClass
    else .ok i

/-- A lane word alone: a clause header, or an instruction at a place that accepts it. -/
def decodeLane (w : BitVec 96) : Except DecodeError Instr :=
  if (field w 88 8 : BitVec 8) = 0xC1 then (decodeHeader w).map Instr.clauseHeader else decodeLaneAt .any w

/-- The decoder on a word of any of the three sections. -/
def decode : CodeWord → Except DecodeError Instr
  | .scalar w => decodeScalar w
  | .lane w => decodeLane w
  | .matrix w => decodeMatrix w

/-- The instruction that the decoder reads from a word of the opcode table: a scalar word of 32 bits, a lane word of
96, a matrix word of 64, each little-endian (12 R177, R184, R190), so that bit 0 of the table is bit 0 of the word. -/
def decodeTableWord (nbits w : Nat) : Option Instr :=
  let r :=
    if nbits = 96 then decodeLane (BitVec.ofNat 96 w)
    else if nbits = 64 then decodeMatrix (BitVec.ofNat 64 w)
    else decodeScalar (BitVec.ofNat 32 w)
  match r with
  | .ok i => some i
  | .error _ => none

end Sys2Proof
end

