-- ==== Sys2Proof/Machine/State.lean ====
section
/-! DEFINITION. The state of the device as plain data. The group, workgroup, launch and core that a step works on stand
in the focus (`g`, `wg`, `ln`, `core`), all others in lists; a step of another object first changes the focus (log 1). -/
namespace Sys2Proof.Machine

/-- One list of (address, byte) pairs: addresses strictly rising, no byte zero (`Mem.wf`); an unlisted address
reads as zero (log 2). Global memory, a scratchpad, flash and host memory have this form. -/
abbrev Mem := List Host.Cell

/-- The canonical form of a memory: addresses strictly rising, and no entry equal to what an unlisted address reads as. -/
def Mem.wf : Mem → Bool
  | [] => true
  | [c] => c.2 != 0
  | c :: d :: m => c.2 != 0 && decide (c.1 < d.1) && Mem.wf (d :: m)

/-! ## Registers of a group (03 R50, R51, R68 to R71) -/

/-- A translation register T0 to T7 (07 R105). -/
structure TReg where
  valid : Bool
  wr    : Bool
  limit : BitVec 22
  dfn   : BitVec 28
  base  : BitVec 56
  deriving DecidableEq, Repr, Inhabited

/-- One V register: its lanes' values, which lanes are live (03 R56), which live lanes wait for a reply (R68), the
physical register bound to it (R61), and whether that register stands in the spill area (R64). -/
structure VReg where
  val     : Lanes
  live    : Word
  pend    : Word
  phys    : Option Nat
  spilled : Bool
  deriving DecidableEq, Repr

/-- An indexed array Xn (03 R71): LEN now, XLEN of the launch, BASE, and the elements of the run. -/
structure XArr where
  len  : Nat
  xlen : Nat
  base : Nat
  elts : List Lanes
  deriving DecidableEq, Repr

/-- One entry of a result window (03 R58, 15 R223). `flight` names the long-latency operation whose reply it waits
for; `dst` the V registers that the entry binds when it leaves, each with the lanes of its value that are still live (R60,
R61). -/
structure WinEntry where
  lo     : Lanes
  hi     : Lanes
  valid  : Word
  pend   : Word
  wide   : Bool
  flight : Option Nat
  dst    : List (Nat × Word)
  deriving DecidableEq, Repr

/-- What a path knows of the clause it is in (12 R186): the header's index, its length, the instructions still to
run, its `.sets` flags, and its SAFE and CONT bits. -/
structure ClauseSt where
  hdr  : Nat
  len  : Nat
  left : Nat
  s0   : Option (BitVec 4)
  s1   : Option (BitVec 4)
  safe : Bool
  cont : Bool
  deriving DecidableEq, Repr

/-- A lane path (01 R10, 15 R247): lane program counter, active mask, join record, window, clause state. `missed`
says that the instruction at `pc` has already been counted in MISSED_WAIT (03 R69), `float` that it waits for float (R62
to R64); `zeros` are the landing slots, each with its workgroup, that it reads as zeros after a disposition (01 R36, R37). -/
structure Path where
  pc     : Nat
  mask   : Word
  jrec   : Option Nat
  win    : List WinEntry
  clause : Option ClauseSt
  missed : Bool
  float  : Bool
  zeros  : List (Nat × Nat)
  deriving DecidableEq, Repr

/-- A join record (15 R247). -/
structure JoinRec where
  jaddr   : Nat
  arrived : Word
  count   : Nat
  outer   : Option Nat
  deriving DecidableEq, Repr

/-- An entry of the divergence stack (01 R11, 15 R247). -/
structure DivEntry where
  pc   : Nat
  mask : Word
  jrec : Option Nat
  deriving DecidableEq, Repr

/-- A unit of lane work with what its `ENQ` recorded (14 R214): the header's index, S0 to S63, P0 to P7, T0 to T7,
and RM, FTZ, NANC of ASTAT. -/
structure LaneUnit where
  hdr  : Nat
  s    : Vector Word 64
  p    : Vector Word 8
  t    : Vector TReg 8
  rm   : BitVec 2
  ftz  : Bool
  nanc : Bool
  deriving DecidableEq, Repr

/-- The running unit (14 R215): its record, the two lane slots, the divergence stack (top first) and the join file. -/
structure RunUnit where
  u     : LaneUnit
  ls0   : Option Path
  ls1   : Option Path
  stack : List DivEntry
  joins : Vector (Option JoinRec) 16
  deriving DecidableEq, Repr

/-- One `LINC` of a running loop (14 R211, R212). -/
structure LoopStep where
  word : Nat
  fld  : BitVec 2
  step : BitVec 12
  deriving DecidableEq, Repr

/-- The state of a running loop (14 R213): body address, body length, step table, pass number, count, word index. -/
structure LoopSt where
  body  : Nat
  blen  : Nat
  steps : List LoopStep
  pass  : Nat
  count : Nat
  word  : Nat
  deriving DecidableEq, Repr

/-- A long-latency operation in flight (03 R68, R70): its destination V registers, the lanes still out, the lanes whose reply
is known, those of them that get no value (R67), the values, the flag it counts in, and the scope of the acquire its last
reply makes (08 R125). -/
structure Flight where
  id    : Nat
  dst   : Option Nat
  nreg  : Nat
  out   : Word
  ready : Word
  lost  : Word
  vals  : List Lanes
  flag  : Option (BitVec 4)
  acq   : Option Nat
  deriving DecidableEq, Repr

/-- The block of a landing slot whose touch trap fired (01 R36): workgroup, slot, and list index. -/
structure TSlot where
  wgId : Nat
  slot : Nat
  idx  : Nat
  deriving DecidableEq, Repr

/-- An imprecise fault that waits for its delivery point (24 R332, R334). `job` is the engine job it stopped, `tslot` the
block whose touch trap fired (01 R36); `late` is the SRC that the fault has in the late-fault log and `blk` the BLKIDX at
issue (07 R116). -/
structure PendFault where
  code   : BitVec 8
  src    : BitVec 3
  detail : Word
  va     : BitVec 56
  lanes  : Word
  job    : Option Nat
  tslot  : Option TSlot
  sp     : Bool
  late   : Nat
  blk    : Word
  deriving DecidableEq, Repr

/-- What a delivery sets aside (24 R333): the running unit, the queue, the scalar PC and the loop state, which lane slot
stopped at a precise lane fault or at the header of delivery, whether the sequencer stands stopped at the fault, the engine
job that it stopped, and the block whose trap fired. -/
structure Saved where
  run   : Option RunUnit
  queue : List LaneUnit
  pc    : Nat
  loop  : Option LoopSt
  slot  : Option Bool
  seq   : Bool
  job   : Option Nat
  tslot : Option TSlot
  deriving DecidableEq, Repr

/-- Whether a group stands in the focus and runs (01 R14, 24 R339). -/
inductive GState
  | absent    -- no such group: the focus of a device that runs none
  | running
  | stopped   -- stopped at a safe point (03 R76, 14 R220)
  | ended
  deriving DecidableEq, Repr

/-- One byte of a core's view (08 R122): device address, byte, and the group (workgroup id, GROUPID) that stored it. -/
structure VCell where
  addr : Nat
  byte : Byte
  wgId : Nat
  gid  : Nat
  deriving DecidableEq, Repr

/-- A group of a workgroup: all the register state of 03 R50, R51, R77, 05 R82, 16 R264 and 17 R301, the program
counters of 01 R10, and what the device keeps for it. -/
structure Group where
  st      : GState
  wgId    : Nat
  gid     : Nat
  age     : Nat
  pc      : Nat
  s       : Vector Word 48
  o       : Vector Lanes 8
  x       : Vector XArr 4
  p       : Vector Word 8
  t       : Vector TReg 8
  f       : Vector Nat 12
  v       : Vector VReg 128
  timeHi  : Word
  blkidx  : Word
  pageno  : Word
  slotno  : Word
  pstat   : Word
  gstat   : Word
  missed  : Word
  astat   : Word
  rstat   : Word
  tcause  : Word
  tdetail : Word
  tepc    : Word
  tvalo   : Word
  tvahi   : Word
  tlanes  : Word
  tpass   : Word
  hentry  : Word
  loop    : Option LoopSt
  queue   : List LaneUnit
  run     : Option RunUnit
  saved   : Option Saved
  faults  : List PendFault
  flights : List Flight
  nextFlight : Nat
  wset    : List VCell
  want    : Nat
  granted : Nat
  spillOut : Bool
  stop    : Bool
  abandon : Bool
  laneStop : Bool
  fence   : Option Nat
  deriving DecidableEq, Repr

/-! ## Workgroup: scratchpad, slots, parked records, sequencer -/

/-- A barrier object (08 R130). -/
structure Barrier where
  ticket   : BitVec 21
  scope    : BitVec 3
  landed   : Word
  xbytes   : Word
  arrived  : BitVec 12
  expected : BitVec 12
  phase    : BitVec 16
  deriving DecidableEq, Repr

/-- The states of a landing slot (01 R22). -/
inductive SlotSt
  | free | sensing | landing | ready | held | parked | copiedOut
  deriving DecidableEq, Repr

/-- A landing slot (01 R22, R23, R26, R36): state, list index and LPN bound, PSTAT, slot barrier, whether the touch
trap is armed and whether a fault of it awaits its disposition, the group holding it, the parked record bound, the
read-retry level reached, whether the page's bytes wait decoded in the flash engine's buffer, and whether the landing
is a re-landing. -/
structure Slot where
  st      : SlotSt
  idx     : Nat
  lpn     : Nat
  pstat   : BitVec 16
  bar     : Barrier
  trap    : Bool
  stalled : Bool
  holder  : Option Nat
  park    : Option Nat
  level   : Nat
  sensed  : Bool
  reland  : Bool
  deriving DecidableEq, Repr

/-- A parked record (01 R40, R49): registers, continuation, the lane path of a unit that a handler had set aside, block
identity, awaited index, V registers, the slot that keeps the data (none when copied out or without a slot), whether its data
stands in the copy-out area, the place in the order of re-offers (R29; none while the awaited block has not retired), and the
group whose `PGET` has taken the block and waits for its registers (R33). -/
structure Parked where
  s        : Vector Word 48
  p        : Vector Word 8
  t        : Vector TReg 8
  o        : Vector Lanes 8
  v        : Vector VReg 128
  pc       : Nat
  lane     : Option RunUnit
  blkidx   : Word
  pageno   : Word
  pstat    : Word
  awaited  : Nat
  slot     : Option Nat
  copied   : Bool
  trap     : Bool
  offer    : Option Nat
  taker    : Option Nat
  deriving DecidableEq, Repr

/-- What waits at a core to be handed out (01 R29 step 2). -/
inductive Offer
  | slot (n : Nat)
  | bad  (idx : Nat)     -- an invalid page-list entry (R19)
  deriving DecidableEq, Repr

/-- The tag of a unit of 256 accumulators (17 R291). -/
inductive AccTag
  | zero | float | int | mod
  deriving DecidableEq, Repr

/-- The matrix sequencer of a workgroup (11 R160, 17 R287): RUN and FLT of MSTAT, MPC, M0 to M15, MODQ, the
reservation records, MPROG, accumulators that are not zero, tags, owner with its BLKIDX at the start (07 R116), the
job the current word was accepted as, the landing slots that the current word reads as zeros after a disposition (01
R37), the global bytes and sticky bits of the store that runs (17 R295), and whether a store of the stream has
completed (11 R161). -/
structure Seq where
  run   : Bool
  flt   : Bool
  mpc   : Nat
  m     : Vector DWord 16
  modq  : DWord
  recs  : Vector (BitVec 256) 16
  mprog : Word
  acc   : List (Nat × DWord)
  tags  : List AccTag
  owner : Nat
  blk   : Word
  job   : Option Nat
  zeros : List (Nat × Nat)
  pend  : List (Nat × Byte)
  sticky : Word
  stored : Bool
  deriving DecidableEq, Repr

/-- Where a workgroup's image stands (24 R341, R342). -/
inductive Place
  | resident | shadow | saved
  deriving DecidableEq, Repr

/-- An outstanding settle (10 R151). -/
structure Settle where
  handle  : Word
  bar     : Word
  gid     : Nat
  blkidx  : Word
  deriving DecidableEq, Repr

/-- A group of a workgroup, or with no group the workgroup's sequencer (08 R120, 17 R285). -/
structure Party where
  wgId : Nat
  gid  : Option Nat
  deriving DecidableEq, Repr

/-- Whose waits acquire a release that a barrier's phase carries (08 R120): every waiter, the groups and the sequencer of one workgroup, or
the one group or sequencer that made it. -/
inductive Acquirers
  | all
  | workgroup (wgId : Nat)
  | one (p : Party)
  deriving DecidableEq, Repr

/-- A logged arrival for a barrier of a swapped-out workgroup (08 R133), with the acquirers of the releases of jobs and matrix
stores that it carries. -/
structure Arrival where
  off      : Nat
  arrivals : Nat
  bytes    : Nat
  jobs     : List Acquirers
  deriving DecidableEq, Repr

/-- The resident workgroup of a launch on one core (01 R14): scratchpad bytes, landing slots, places, parked
records, landing barrier, phases of barriers (offset, phase) that carry a job's or matrix store's release, with those that
acquire it (08 R120, R123), sequencer. -/
structure Workgroup where
  id       : Nat
  lid      : Nat
  k        : Nat
  coreId   : Nat
  place    : Place
  sp       : Mem
  slots    : Vector Slot 8
  idxq     : List Nat
  offers   : List Offer
  parked   : List (Option Parked)
  lbar     : Barrier
  endSeen  : Bool
  jobBars  : List (Nat × BitVec 16 × Acquirers)
  settles  : List Settle
  arrLog   : List Arrival
  seq      : Seq
  stop     : Bool
  deriving DecidableEq, Repr

/-! ## Launch -/

/-- The state of a launch (23 R324, 01 R45). -/
inductive LaunchSt
  | waiting | running | ended
  deriving DecidableEq, Repr

/-- The descriptor of a launch, field by field (23 R318, 01 R15, 03 R73, 07 R118, 11 R157, 18 R306). -/
structure Desc where
  slen : Nat
  llen : Nat
  mlen : Nat
  scodeVa : Nat
  lcodeVa : Nat
  mcodeVa : Nat
  hentry : Nat
  gang : Nat
  entry : Nat
  reentry : Nat
  count : Nat
  dsdepth : Nat
  nsid : Nat
  parkrec : Nat
  parklive : Nat
  pageGrid : Bool
  plan : Nat
  cobase : Nat
  resbase : Nat
  listbase : Nat
  xlen : Vector Nat 4
  strict : Bool
  peak : Nat
  floor : Nat
  ngroups : Nat
  foot : List (Nat × Nat)
  resthr : Nat
  restier : Nat
  splen : Nat
  lfbase : Nat
  mbbase : Nat
  recn : Nat
  obkib : Nat
  accu : Nat
  arglen : Nat
  argbase : Nat
  deriving DecidableEq, Repr

/-- A launch (01 R8, R14, R44 to R47; 23 R316, R318): LAUNCHID, ticket, tenant, command, descriptor, code sections
as read at acceptance, gang cores, dispenser progress, retirements, what its completion record will say,
and whether a function-level reset took that record away (R330). -/
structure Launch where
  lid      : Nat
  ticket   : BitVec 21
  cmd      : CmdRef
  func     : Nat
  st       : LaunchSt
  desc     : Desc
  scode    : Mem
  lcode    : Mem
  mcode    : Mem
  cores    : List Nat
  next     : Nat
  rr       : Nat
  retired  : List Nat
  nretired : Nat
  poisoned : Nat
  nparked  : Nat
  firstPark : Word
  offers   : Nat
  lateCnt  : Nat
  lateIdx  : Nat
  aborted  : Bool
  deadlock : Bool
  mute     : Bool
  deriving DecidableEq, Repr

/-! ## Core -/

/-- A core: its view and snapshot (08 R122, R123), the number of the last host write that the snapshot holds, the bytes that the host wrote
before a launch, as the workgroups that began beside others here read them (27 R368), the stop request of its hall (24 R339), whether it is halted, the
tenant whose image stands in its shadow storage (R342), the bytes of that image beyond 1 MiB, which stand in the save area
(R341), and the workgroup whose sequencer took the core's last K-step (11 R167). -/
structure Core where
  id     : Nat
  view   : List VCell
  snap   : Mem
  hostAt : Nat
  host   : List VCell
  halted : Bool
  stopFor : Option Nat
  shadow : Option Nat
  excess : Nat
  kLast  : Nat
  deriving DecidableEq, Repr

/-! ## Engine jobs and porter requests -/

/-- A region descriptor of a job card (16 R274). -/
structure Region where
  kind : BitVec 2
  peer : Bool
  nsid : BitVec 4
  len  : Nat
  addr : BitVec 56
  deriving DecidableEq, Repr

/-- The state of a job (08 R135, 16 R275, R277). -/
inductive JobSt
  | waiting | running | stopped | stepped
  deriving DecidableEq, Repr

/-- An accepted engine job (16 R273 to R277), or a matrix instruction accepted as one (`matrix`, 08 R138). -/
structure Job where
  id      : Nat
  lid     : Nat
  wgId    : Nat
  gid     : Nat
  blkidx  : Word
  matrix  : Bool
  kind    : BitVec 8
  param   : Word
  cred    : Bool
  tag     : BitVec 16
  regions : List Region
  stat    : Word
  credbar : Word
  preds   : List Nat
  reads   : List (Nat × Nat × Nat)    -- space, first byte, bytes (08 R135)
  writes  : List (Nat × Nat × Nat)
  st      : JobSt
  pos     : Nat
  startMem : Mem
  startSp : List (Nat × Mem)
  startFlash : List (Nat × Mem)       -- pages of a flash read region that were written, by LPN
  code    : BitVec 8
  detail  : Nat
  iv      : BitVec 96                 -- of a CIPHER_IN job (26 R365)
  zeros   : List (Nat × Nat)          -- (workgroup, slot) read as zeros after a disposition (01 R37)
  out     : List Byte                 -- what the steps made so far of the write region (08 R136), or what a peer sent
  deriving DecidableEq, Repr

/-- What a porter does for one request (07 R113, 16 R258 to R263). -/
inductive PorterOp
  | atom (op : BitVec 4)
  | red (op : BitVec 4)
  | redf (fc : BitVec 3)
  | redx (ty : BitVec 2)
  | xmerge
  | xcvt (clr : Bool)
  deriving DecidableEq, Repr

/-- The part that a lane's request has in a merge (16 R262): none; the read at the source's porter; the add at the destination's
porter, which waits for the source, has it, or fails with it. -/
inductive MergePart
  | plain
  | read
  | await
  | got (v : BitVec 512)
  | failed (code : BitVec 8)
  deriving DecidableEq, Repr

/-- One lane of a request to a porter: its address and operands, and its part in a merge. -/
structure PorterLane where
  lane : Nat
  va   : BitVec 56
  b    : DWord
  c    : DWord
  part : MergePart
  deriving DecidableEq, Repr

/-- The requests of one lane instruction to one porter: the hall that owns the addresses, a key that the instruction's
requests to other porters share, the issuer, the operation, the lanes not yet performed in ascending order, for a returning one
the flight that waits for the reply, and the lanes that failed, each with its address and cause. -/
structure PorterReq where
  hall   : Nat
  key    : Nat
  lid    : Nat
  wgId   : Nat
  gid    : Nat
  blkidx : Word
  op     : PorterOp
  lanes  : List PorterLane
  flight : Option Nat
  bad    : List (Nat × BitVec 56 × BitVec 8)
  deriving DecidableEq, Repr

/-! ## Device tables -/

/-- STATE of a FIT entry (07 R103). -/
inductive FrameSt
  | resident | migrating | absent | poisoned
  deriving DecidableEq, Repr

/-- A FIT entry with the frame's owner-table entry (07 R103, 26 R354), whether the frame holds a page table (23 R314,
R315), whether its poison came from a failed return (07 R112) or from a soft error that no access has met yet (24
R348), whether it stands in a host eviction buffer, the count of its tile that the working-set record holds for the lower copy
(10 R155), and where the lower copy stands, while LOWER is set (07 R117, log 29). -/
structure FitEntry where
  dfn     : Nat
  tile    : Word
  version : Word
  st      : FrameSt
  tier    : Tier
  tenant  : Nat
  prot    : Bool
  acc     : Bool
  dirty   : Bool
  lower   : Bool
  loc     : BitVec 48
  owned   : Bool
  ticket  : BitVec 21
  table   : Bool
  integ   : Bool
  ecc     : Bool
  evicted : Bool
  lowCount : DWord
  lowTier : Tier
  lowLoc  : BitVec 48
  deriving DecidableEq, Repr

/-- KIND of a containment record (10 R144). -/
inductive TreeKind
  | free | inner | tile
  deriving DecidableEq, Repr

/-- A record of the containment table (10 R144), under its INDEX. -/
structure TreeRec where
  index  : Nat
  parent : Word
  tenant : Nat
  depth  : Nat
  height : Nat
  kind   : TreeKind
  gen    : BitVec 8
  count  : DWord
  sent   : DWord
  nchild : Nat
  deriving DecidableEq, Repr

/-- A residency request not yet completed (07 R111, 16 R265, R266). -/
structure ResReq where
  id     : Nat
  wgId   : Nat
  gid    : Nat
  lid    : Nat
  blkidx : Word
  frames : List Nat
  bad    : Bool
  bar    : Option Word
  flight : Option Nat
  deriving DecidableEq, Repr

/-- A key-vault slot that holds a key (26 R359). -/
structure VaultKey where
  slot  : Nat
  key   : BitVec 256
  use   : KeyUse
  exportable : Bool
  owner : BitVec 128
  deriving DecidableEq, Repr

/-- A cipher stream that is open (26 R363). -/
structure CStream where
  n     : Nat
  slot  : Nat
  fixed : Word
  next  : DWord
  deriving DecidableEq, Repr

/-- The error record of a tenant (24 R338). -/
structure ErrRec where
  uncorr : Word
  poison : Word
  stopto : Word
  dblf   : Word
  tagf   : Word
  integ  : Word
  dabort : Word
  deriving DecidableEq, Repr

/-- A recorded copy-on-write snapshot of a context (10 R156): (handle, COUNT) of each root and record beneath. -/
abbrev Snapshot := List (Word × DWord)

/-- Where the work of a tenant is (24 R343, R344): none has come to a core yet; here, or its halls are; switched out. -/
inductive Presence
  | never | here | away
  deriving DecidableEq, Repr

/-- A tenant's context and what the device keeps for the tenant (23 R314, 07 R117, 26 R356, R359, R363); `presence` says whether it is
switched out (24 R344), `rr` is the queue offered to
admission next (23 R324), `snapPages` the frames as the last snapshot holds them, and `sent` what a migration sent (10 R156, 28 R375);
`policy` is the tenant policy (26 R360), `region` what the tenant's plug-in has written into its policy region, placement plans and token
requests, and `asked` what the scheduler read there at the last period (28 R374). -/
structure Ctx where
  ccfg    : DWord
  valid   : Bool
  prot    : Bool
  part    : Nat
  recq    : Nat
  frameq  : Nat
  root    : Nat
  result  : BitVec 8
  frameKey : BitVec 256
  workset : List Nat
  vault   : List VaultKey
  streams : List CStream
  tmr     : BitVec 512
  tmrPlug : BitVec 512
  err     : ErrRec
  debt    : Nat
  rr      : Nat
  snap    : Snapshot
  snapPages : List (Nat × Mem)
  sent    : List (Nat × Mem)
  policy  : List Byte
  region  : Mem
  asked   : Mem
  presence : Presence
  deriving DecidableEq, Repr

/-- Run state of a PCIe function (23 R329). -/
inductive FnRun
  | running | descheduled | paused
  deriving DecidableEq, Repr

/-- TDISP state of a VF (26 R361). -/
inductive Tdisp
  | unlocked | locked | run | error
  deriving DecidableEq, Repr

/-- An interrupt event (23 R329): vector, and GEN when it arose. -/
structure Irq where
  vec : Nat
  gen : BitVec 8
  deriving DecidableEq, Repr

/-- A PCIe function (28 R370, 23 R329, 26 R361): 0 is the PF. `bound` says that firmware has bound it to a tenant, `held` are
NOTIFY writes held while paused (R375), `cfg` its BARs and MSI-X registers as (register, value). -/
structure Func where
  enabled : Bool
  bound   : Bool
  tenant  : Nat
  gen     : BitVec 8
  run     : FnRun
  tdisp   : Tdisp
  cause   : BitVec 4
  ide     : Bool
  irqs    : List Irq
  held    : List (Nat × DWord)
  cfg     : List (Nat × DWord)
  deriving DecidableEq, Repr

/-- A command read from a ring or released by a timer, not yet carried out (23 R312, R328), with the JSEQ of its ACCEPT
entry. -/
structure Cmd where
  ref   : CmdRef
  jseq  : Nat
  words : List DWord
  deriving DecidableEq, Repr

/-- A queue of a tenant (23 R309 to R313, R350). `mark` is the largest value written to NOTIFY, `enPend` a write of EN 0
that waits, `stall` says that an entry not yet written was met, so that reading waits for the next NOTIFY (R312), `busy` the
launch the queue waits behind. -/
structure Queue where
  tenant : Nat
  q      : Nat
  func   : Nat
  qbase  : DWord
  en     : Bool
  enPend : Bool
  log2   : Nat
  cqbase : DWord
  ridx   : DWord
  mark   : DWord
  ivec   : Nat
  stall  : Bool
  cmds   : List Cmd
  busy   : Option Nat
  deriving DecidableEq, Repr

/-- KIND of a journal entry (23 R316). -/
inductive JKind
  | accept | complete | abort | notifyDrop | release | capacity | reset
  deriving DecidableEq, Repr

/-- A journal entry (23 R316); `record` is the completion record that its mirroring lets the device write (R317),
with the address it goes to and the vector it signals. -/
structure JEntry where
  jseq   : Nat
  time   : DWord
  tenant : Nat
  queue  : Nat
  func   : Nat
  kind   : JKind
  cstatus : BitVec 8
  lid    : Word
  rindex : DWord
  cmd    : List DWord
  record : Option (BitVec 256 × CmdRef)
  deriving DecidableEq, Repr

/-- An armed timer packet (23 R327, R328). -/
structure Timer where
  num    : Nat
  tenant : Nat
  func   : Nat
  pva    : Nat
  time   : DWord
  period : BitVec 40
  queue  : Nat
  tmpl   : Nat
  missed : BitVec 16
  deriving DecidableEq, Repr

/-- A flash namespace (28 R378). Its key stands in `slot`, a FLASH slot of its owner's vault, or with none in the device's own vault
(26 R366); `written` are its pages that were written, each with the key that enciphered it. -/
structure Namespace where
  ncfg   : DWord
  valid  : Bool
  rdonly : Bool
  owner  : Nat
  pages  : Nat
  result : BitVec 8
  slot   : Option Nat
  written : List (Nat × Option (BitVec 256))
  deriving DecidableEq, Repr

/-- An entry of the capacity log (28 R379). -/
structure CapEntry where
  jseq : Nat
  part : BitVec 8
  unit : BitVec 24
  left : Word
  deriving DecidableEq, Repr

/-- PSTATE of DEVSTAT (28 R371). -/
inductive PState
  | active | capped | idle | d3hot
  deriving DecidableEq, Repr

/-- A transfer that a peer of the gallery asked for (28 R376): its number, the sender's device and tenant, whether it
sends bytes to here, the region in the local tenant's context, and the bytes sent. -/
structure Transfer where
  id     : Nat
  device : Nat
  tenant : Nat
  send   : Bool
  va     : BitVec 56
  data   : List Byte
  len    : Nat
  deriving DecidableEq, Repr

/-- A secured session (26 R358): the function, its number, the SPDM version, the requester's public key (R359), the AES-256-GCM key of
the requests, and how many have come. -/
structure Session where
  fn      : Nat
  id      : Nat
  version : Byte
  key     : List Byte
  secret  : BitVec 256
  seq     : Nat
  deriving DecidableEq, Repr

/-- A certificate (26 R357): the public key that it certifies, and the signature on it. -/
structure Certificate where
  subject : BitVec 768
  sig     : BitVec 768
  deriving DecidableEq, Repr

/-- What the SPDM responder and the TDISP interface answer (26 R358, R359, R362): the versions spoken; the chain from the device
identity key to the alias key; measurement blocks with their signature; a session opened, with the responder's exchange data and the
signature; a session too many; a version not spoken; a vault request done or refused; the error response to a start. -/
inductive Reply
  | versions (vs : List Byte)
  | chain (certs : List Certificate)
  | blocks (bytes : List Byte) (sig : BitVec 768)
  | session (id : Nat) (exchange : BitVec 768) (sig : BitVec 768)
  | sessionLimitExceeded
  | versionMismatch
  | vaultDone
  | vaultRefused
  | startError (fn : Nat)
  deriving DecidableEq, Repr

/-- The modes of a management core (28 R374). -/
inductive Priv
  | machine | supervisor | user
  deriving DecidableEq, Repr

/-- A PMP entry of a management core (28 R374), as RISC-V lays it out (log 86). -/
structure Pmp where
  cfg  : Byte
  addr : BitVec 54
  deriving DecidableEq, Repr

/-- A management core, RV64IMAC (28 R374; log 86): x0 to x31, pc, mode, 16 PMP entries, the registers of a trap to M and to S
mode, and the reservation of LR as (address, bytes). -/
structure Mgmt where
  x        : Vector DWord 32
  pc       : DWord
  mode     : Priv
  pmp      : Vector Pmp 16
  mstatus  : DWord
  medeleg  : DWord
  mtvec    : DWord
  mscratch : DWord
  mepc     : DWord
  mcause   : DWord
  mtval    : DWord
  stvec    : DWord
  sscratch : DWord
  sepc     : DWord
  scause   : DWord
  stval    : DWord
  resv     : Option (Nat × Nat)
  deriving DecidableEq, Repr

/-- The last byte that the host wrote at an address of a frame of tier C, with the number of that write (27 R368). -/
structure HostByte where
  addr : Nat
  byte : Byte
  num  : Nat
  deriving DecidableEq, Repr

/-- Device-wide state outside the data path (23, 24, 26, 28). `grants` is the table buffer in use, `spareTable` the other one and
`marked` whether firmware has marked it ready (23 R320), `period` the period that has begun, counted from device time 0, `slice` how
many slices of it have begun (R319), `hallRun` the tenant that each hall runs, `revoked` the margin halls taken back and not yet
scrubbed and `takenFor` the launch for whose placement a margin hall was or will be taken back, if any (R323, 24 R345), `cxl` the frames that the memory device at each CXL port adds
to tier B (28 R377), `noBlocks` the flash dies whose last spare block was taken, `wear` the wear counters by part and unit (R379), `vault`
the device's own vault by namespace and `sealedKeys` its keys as they are kept (26 R366), `keys` the keys that the boot stage which runs
carries (R355), `hostNew` the bytes last written by the host in frames of tier C and `hostNum` how many writes it made there (27 R368), `vca` the version exchange of each function's requester, with which its transcripts begin (R358), `mlog` what the M-mode monitor logged: the core and the frame refused to it (R353). -/
structure Dev where
  powered  : Bool
  ready    : Bool
  stage    : Nat
  pstate   : PState
  aclk     : Nat
  watts    : BitVec 12
  spares   : Vector Bool 32
  sriov    : Bool
  time     : DWord
  frac     : Nat
  tick     : Nat
  mr       : Vector (BitVec 512) 8
  bootHalt : Bool
  sessions : List Session
  vca      : List (Nat × List Byte)
  replies  : List Reply
  keys     : List (List Byte)
  measured : List (BitVec 512)
  exported : List (List Byte)
  jseq     : Nat
  jhead    : Nat
  journal  : List JEntry
  mirror   : List JEntry
  timers   : List Timer
  caplog   : List CapEntry
  corrected : Vector Word 7
  grants   : Vector (BitVec 16) 128
  spareTable : Vector (BitVec 16) 128
  marked   : Bool
  stale    : Nat
  period   : Nat
  hallRun  : Vector (Option Nat) 32
  hallBorrow : Vector Bool 32
  revoked  : Vector Bool 32
  takenFor : Vector Nat 32
  hostNew  : List HostByte
  hostNum  : Nat
  guarHalls : List (Nat × Nat)
  marginHalls : List (Nat × Nat)
  slice    : Nat
  msgs     : List (Nat × Nat)
  transfers : List Transfer
  peers    : List ((Nat × Nat) × Nat)
  links    : BitVec 16
  cxl      : Vector Nat 4
  noBlocks : List Nat
  wear     : List ((BitVec 8 × BitVec 24) × Nat)
  vault    : List (Nat × BitVec 256)
  sealedKeys : List (Nat × List Byte)
  mgmt     : Vector Mgmt 4
  mlog     : List (Nat × Nat)
  deriving DecidableEq, Repr

/-- A frame that a migration brings (28 R375): its mappings as (address, WR, X), PROT, its tile, and its bytes by offset. -/
structure MovedFrame where
  maps : List (Nat × Bool × Bool)
  prot : Bool
  tile : Word
  page : Mem
  deriving DecidableEq, Repr

/-- A context that a migration brings (28 R375): CCFG, whether this device had attested to the sender, its frames and records, the NOTIFY
writes held, and the interrupts pending (23 R329). -/
structure Moved where
  ccfg     : DWord
  attested : Bool
  frames   : List MovedFrame
  recs     : List TreeRec
  held     : List (Nat × DWord)
  irqs     : List Irq
  deriving DecidableEq, Repr

/-! ## Turns -/

/-- A write by the host or by firmware from outside the opcode table: bytes to host memory (23 R310, 27 R368); the
tenant of a function (28 R370) and the function of a queue; a partition's halls (23 R319); a tenant's policy plug-in, measured before it runs
(26 R355, R356); an entry of the peer table (28 R376); DEBT cleared (23 R321); a transfer arriving from a peer (28
R376); the memory device found at a CXL port during bring-up, in frames (R377); a grant table written to the buffer
not in use and marked ready (23 R320); a context sent to another device, and one received (R375); the instruction that a management core
fetches (R374); a tenant's policy (26 R360); wear of a part counted by firmware (R379); the SPDM requests for versions and certificates to a
function (26 R358). -/
inductive HostAct
  | write (addr : Nat) (bytes : List Byte)
  | bindFunc (fn tenant : Nat)
  | bindQueue (tenant q fn : Nat)
  | partition (p : Nat) (guaranteed margin : List Nat)
  | plugin (tenant : Nat) (image : List Byte)
  | peer (device tenant local_ : Nat)
  | clearDebt (tenant : Nat)
  | transfer (t : Transfer)
  | cxl (port frames : Nat)
  | table (entries : List (BitVec 16))
  | migrate (tenant : Nat) (attested : Bool)
  | receive (tenant fn : Nat) (m : Moved)
  | mgmt (core : Nat) (insn : Word)
  | policy (tenant : Nat) (bytes : List Byte)
  | wear (p : Part) (unit : BitVec 24)
  | spdmVersions (fn : Nat)
  | spdmCertificates (fn : Nat)
  deriving DecidableEq, Repr

/-- What moves in one step (log 1): the scalar stream, a lane slot or the matrix sequencer of the group's workgroup; a
step of the device; the next command of a queue; an act of the host or firmware. -/
inductive TurnOp
  | scalar
  | lane (slot1 : Bool)
  | matrix
  | event (i : Instr)
  | command (tenant q : Nat)
  | host (a : HostAct)
  deriving DecidableEq, Repr

/-- A turn: the workgroup and group that the step works on, and what moves. Workgroup 0 keeps the focus as it is. -/
structure Turn where
  wgId : Nat
  gid  : Nat
  op   : TurnOp
  deriving DecidableEq, Repr

/-! ## The state -/

/-- The device. -/
structure State where
  g        : Group
  wg       : Workgroup
  ln       : Launch
  core     : Core
  slot     : Bool
  groups   : List Group
  wgs      : List Workgroup
  launches : List Launch
  cores    : List Core
  mem      : Mem
  hmem     : Mem
  flash    : List ((Nat × Nat) × Mem)
  fit      : List FitEntry
  tree     : List TreeRec
  jobs     : List Job
  porters  : List PorterReq
  resreqs  : List ResReq
  ctxs     : Vector Ctx 16
  funcs    : List Func
  queues   : List Queue
  nss      : Vector Namespace 16
  dev      : Dev
  turns    : List Turn
  free     : Nat
  deriving DecidableEq, Repr

/-- Why the machine stops. -/
inductive Fault
  /-- Raised by `step` when the module is without power and the step is not `POWER_GOOD` (28 R373, R381): nothing runs
  until power returns. Safe: the hardware does nothing there either. -/
  | powerOff
  deriving DecidableEq, Repr

/-- Why an instruction has no meaning. -/
inductive Refusal
  /-- Raised by an arm of `exec` that has no meaning yet. Safe: nothing is claimed of that instruction. -/
  | notModelled (mnemonic : String)
  deriving DecidableEq, Repr

/-! ## Reset -/

/-- A translation register after reset (07 R105). -/
def TReg.zero : TReg := ⟨false, false, 0, 0, 0⟩

/-- An unmapped V register (03 R50). -/
def VReg.unmapped : VReg := ⟨Lanes.zero, 0, 0, none, false⟩

/-- An array of no elements. -/
def XArr.zero : XArr := ⟨0, 0, 0, []⟩

/-- The group of a focus that holds none; also what a group's fields are before its start (03 R50, log 3). -/
def Group.absent : Group where
  st := .absent
  wgId := 0
  gid := 0
  age := 0
  pc := 0
  s := Vector.replicate 48 0
  o := Vector.replicate 8 Lanes.zero
  x := Vector.replicate 4 XArr.zero
  p := Vector.replicate 8 0
  t := Vector.replicate 8 TReg.zero
  f := Vector.replicate 12 0
  v := Vector.replicate 128 VReg.unmapped
  timeHi := 0
  blkidx := 0xFFFFFFFF
  pageno := 0xFFFFFFFF
  slotno := 0xFFFFFFFF
  pstat := 0
  gstat := 0
  missed := 0
  astat := 0
  rstat := 0
  tcause := 0
  tdetail := 0
  tepc := 0
  tvalo := 0
  tvahi := 0
  tlanes := 0
  tpass := 0
  hentry := 0
  loop := none
  queue := []
  run := none
  saved := none
  faults := []
  flights := []
  nextFlight := 1
  wset := []
  want := 0
  granted := 0
  spillOut := false
  stop := false
  abandon := false
  laneStop := false
  fence := none

/-- A barrier object of zeros. -/
def Barrier.zero : Barrier := ⟨0, 0, 0, 0, 0, 0, 0⟩

/-- A slot barrier before it is first armed: SCOPE workgroup (08 R131); its other fields, for which the spec gives no value,
are 0 (DESIGN CHOICE, log 45). -/
def Barrier.unarmed : Barrier := { Barrier.zero with scope := 1 }

/-- A free landing slot (01 R22). -/
def Slot.free : Slot := ⟨.free, 0, 0, 0, Barrier.unarmed, false, false, none, none, 0, false, false⟩

/-- A sequencer that has not started (17 R287). -/
def Seq.idle : Seq where
  run := false
  flt := false
  mpc := 0
  m := Vector.replicate 16 0
  modq := 0
  recs := Vector.replicate 16 0
  mprog := 0
  acc := []
  tags := []
  owner := 0
  blk := 0
  job := none
  zeros := []
  pend := []
  sticky := 0
  stored := false

/-- The workgroup of a focus that holds none. -/
def Workgroup.absent : Workgroup where
  id := 0
  lid := 0
  k := 0
  coreId := 0
  place := .resident
  sp := []
  slots := Vector.replicate 8 Slot.free
  idxq := []
  offers := []
  parked := []
  lbar := Barrier.zero
  endSeen := false
  jobBars := []
  settles := []
  arrLog := []
  seq := Seq.idle
  stop := false

/-- A descriptor of zeros. -/
def Desc.zero : Desc where
  slen := 0
  llen := 0
  mlen := 0
  scodeVa := 0
  lcodeVa := 0
  mcodeVa := 0
  hentry := 0
  gang := 0
  entry := 0
  reentry := 0
  count := 0
  dsdepth := 0
  nsid := 0
  parkrec := 0
  parklive := 0
  pageGrid := false
  plan := 0
  cobase := 0
  resbase := 0
  listbase := 0
  xlen := Vector.replicate 4 0
  strict := false
  peak := 0
  floor := 0
  ngroups := 0
  foot := []
  resthr := 0
  restier := 0
  splen := 0
  lfbase := 0
  mbbase := 0
  recn := 0
  obkib := 0
  accu := 0
  arglen := 0
  argbase := 0

/-- A command reference of a command that no ring held. -/
def noCmd : CmdRef := ⟨0, 0, 0, 0, 0, none⟩

/-- The launch of a focus that holds none. -/
def Launch.absent : Launch where
  lid := 0
  ticket := 0
  cmd := noCmd
  func := 0
  st := .ended
  desc := Desc.zero
  scode := []
  lcode := []
  mcode := []
  cores := []
  next := 0
  rr := 0
  retired := []
  nretired := 0
  poisoned := 0
  nparked := 0
  firstPark := 0xFFFFFFFF
  offers := 0
  lateCnt := 0
  lateIdx := 0
  aborted := false
  deadlock := false
  mute := false

/-- A core on which nothing runs. -/
def Core.idle (n : Nat) : Core := ⟨n, [], [], 0, [], false, none, none, 0, 0⟩

/-- An error record of zeros (24 R338). -/
def ErrRec.zero : ErrRec := ⟨0, 0, 0, 0, 0, 0, 0⟩

/-- A tenant without a context (23 R314). -/
def Ctx.none : Ctx where
  ccfg := 0
  valid := false
  prot := false
  part := 0
  recq := 0
  frameq := 0
  root := 0
  result := 0
  frameKey := 0
  workset := []
  vault := []
  streams := []
  tmr := 0
  tmrPlug := 0
  err := ErrRec.zero
  debt := 0
  rr := 0
  snap := []
  snapPages := []
  sent := []
  policy := []
  region := []
  asked := []
  presence := .never

/-- A namespace that does not exist (28 R378). -/
def Namespace.none : Namespace := ⟨0, false, false, 0, 0, 0, Option.none, []⟩

/-- A function at reset: not enumerated, which the PF is in bring-up and a VF with SR-IOV (26 R361, 28 R381). -/
def Func.reset : Func := ⟨false, false, 0, 0, .running, .unlocked, 0, false, [], [], []⟩

/-- A management core at power-good: M mode, no PMP entry in use (log 86). -/
def Mgmt.reset : Mgmt where
  x := Vector.replicate 32 0
  pc := 0
  mode := .machine
  pmp := Vector.replicate 16 ⟨0, 0⟩
  mstatus := 0
  medeleg := 0
  mtvec := 0
  mscratch := 0
  mepc := 0
  mcause := 0
  mtval := 0
  stvec := 0
  sscratch := 0
  sepc := 0
  scause := 0
  stval := 0
  resv := Option.none


/-- The device outside the data path at power-good, before bring-up (28 R371, R381; log 3). -/
def Dev.reset : Dev where
  powered := true
  ready := false
  stage := 0
  pstate := .active
  aclk := 0
  watts := 3400
  spares := Vector.replicate 32 true
  sriov := false
  time := 0
  frac := 0
  tick := 0
  mr := Vector.replicate 8 0
  bootHalt := false
  sessions := []
  vca := []
  replies := []
  keys := []
  measured := []
  exported := []
  jseq := 0
  jhead := 0
  journal := []
  mirror := []
  timers := []
  caplog := []
  corrected := Vector.replicate 7 0
  grants := Vector.replicate 128 0
  spareTable := Vector.replicate 128 0
  marked := false
  stale := 0
  period := 0
  hallRun := Vector.replicate 32 Option.none
  hallBorrow := Vector.replicate 32 false
  revoked := Vector.replicate 32 false
  takenFor := Vector.replicate 32 0
  hostNew := []
  hostNum := 0
  guarHalls := []
  marginHalls := []
  slice := 0
  msgs := []
  transfers := []
  peers := []
  links := 0xFFFF
  cxl := Vector.replicate 4 0
  noBlocks := []
  wear := []
  vault := []
  sealedKeys := []
  mgmt := Vector.replicate 4 Mgmt.reset
  mlog := []

/-- The machine right after reset: power-good, nothing accepted, no context, memory with nothing listed. -/
def State.reset : State where
  g := Group.absent
  wg := Workgroup.absent
  ln := Launch.absent
  core := Core.idle 0
  slot := false
  groups := []
  wgs := []
  launches := []
  cores := (List.range 255).map fun n => Core.idle (n + 1)
  mem := []
  hmem := []
  flash := []
  fit := []
  tree := []
  jobs := []
  porters := []
  resreqs := []
  ctxs := Vector.replicate 16 Ctx.none
  funcs := List.replicate 64 Func.reset
  queues := []
  nss := Vector.replicate 16 Namespace.none
  dev := Dev.reset
  turns := []
  free := 0

end Sys2Proof.Machine
end

