-- ==== Sys2Proof/Machine/Access.lean ====
section
/-! DEFINITION. Named operations over memory: the canonical byte lists; finding and changing the objects of the state;
translation and the checks of an access (07 R104, R106, 26 R353); the view and the snapshot (08 R121 to R124); release and
acquire (R125, R126); scratchpad (07 R99, R100, 01 R25); barriers (08 R130, R131). -/
namespace Sys2Proof.Machine

/-! ## Byte lists -/

/-- The byte at an address; 0 where none is listed (log 2). -/
def Mem.get : Mem → Nat → Byte
  | [], _ => 0
  | c :: m, a => if a < c.1 then 0 else if c.1 = a then c.2 else Mem.get m a

/-- The memory with one byte changed; a zero byte leaves no entry. -/
def Mem.set : Mem → Nat → Byte → Mem
  | [], a, b => if b = 0 then [] else [(a, b)]
  | c :: m, a, b =>
    if a < c.1 then (if b = 0 then c :: m else (a, b) :: c :: m)
    else if c.1 = a then (if b = 0 then m else (a, b) :: m)
    else c :: Mem.set m a b

/-- n bytes from an address up. -/
def Mem.bytes (m : Mem) (a n : Nat) : List Byte := (List.range n).map fun i => m.get (a + i)

/-- Bytes written from an address up, in order. -/
def Mem.write (m : Mem) (a : Nat) : List Byte → Mem
  | [] => m
  | b :: bs => Mem.write (m.set a b) (a + 1) bs

/-- The memory with n bytes from an address up made zero. -/
def Mem.clear (m : Mem) (a n : Nat) : Mem := m.filter fun c => c.1 < a || a + n ≤ c.1

/-- The number that little-endian bytes stand for. -/
def leNat : List Byte → Nat
  | [] => 0
  | b :: bs => b.toNat + 256 * leNat bs

/-- The n little-endian bytes of a number. -/
def leBytes : Nat → Nat → List Byte
  | 0, _ => []
  | n + 1, v => BitVec.ofNat 8 v :: leBytes n (v / 256)

/-- The little-endian number in n bytes at an address. -/
def Mem.readLE (m : Mem) (a n : Nat) : Nat := leNat (m.bytes a n)

/-- A number written as n little-endian bytes. -/
def Mem.writeLE (m : Mem) (a n v : Nat) : Mem := m.write a (leBytes n v)

/-- Bits [hi:lo] of a number. -/
def bitsN (v hi lo : Nat) : Nat := (v / 2 ^ lo) % 2 ^ (hi + 1 - lo)

/-! ## Vectors -/

/-- Element i of a vector, or a default beyond its end. -/
def vget {α : Type} {n : Nat} (v : Vector α n) (i : Nat) (d : α) : α := if h : i < n then v[i] else d

/-- A vector with element i set, if there is one. -/
def vset {α : Type} {n : Nat} (v : Vector α n) (i : Nat) (x : α) : Vector α n := if h : i < n then v.set i x else v

/-! ## Objects of the state -/

/-- Group gid of workgroup w stands in the focus. -/
def State.focused (s : State) (w gid : Nat) : Bool := s.g.wgId == w && s.g.gid == gid

/-- Every group that the state holds. -/
def State.allGroups (s : State) : List Group := s.g :: s.groups

/-- Every workgroup that the state holds. -/
def State.allWgs (s : State) : List Workgroup := s.wg :: s.wgs

/-- Every launch that the state holds. -/
def State.allLaunches (s : State) : List Launch := s.ln :: s.launches

/-- Every core. -/
def State.allCores (s : State) : List Core := s.core :: s.cores

/-- Group gid of workgroup w, if there is one. -/
def State.findGroup (s : State) (w gid : Nat) : Option Group :=
  s.allGroups.find? fun g => g.wgId == w && g.gid == gid && g.st != .absent

/-- The workgroup with an id. -/
def State.findWg (s : State) (w : Nat) : Option Workgroup := s.allWgs.find? fun x => x.id == w && x.id != 0

/-- The launch with a LAUNCHID. -/
def State.findLaunch (s : State) (l : Nat) : Option Launch := s.allLaunches.find? fun x => x.lid == l && x.lid != 0

/-- The core with a COREID. -/
def State.findCore (s : State) (c : Nat) : Option Core := s.allCores.find? fun x => x.id == c

/-- Group gid of workgroup w changed. -/
def State.modGroup (s : State) (w gid : Nat) (f : Group → Group) : State :=
  if s.focused w gid then { s with g := f s.g }
  else { s with groups := s.groups.map fun g => if g.wgId == w && g.gid == gid then f g else g }

/-- The workgroup with an id changed. -/
def State.modWg (s : State) (w : Nat) (f : Workgroup → Workgroup) : State :=
  if s.wg.id == w then { s with wg := f s.wg }
  else { s with wgs := s.wgs.map fun x => if x.id == w then f x else x }

/-- The launch with a LAUNCHID changed. -/
def State.modLaunch (s : State) (l : Nat) (f : Launch → Launch) : State :=
  if s.ln.lid == l then { s with ln := f s.ln }
  else { s with launches := s.launches.map fun x => if x.lid == l then f x else x }

/-- The core with a COREID changed. -/
def State.modCore (s : State) (c : Nat) (f : Core → Core) : State :=
  if s.core.id == c then { s with core := f s.core }
  else { s with cores := s.cores.map fun x => if x.id == c then f x else x }

/-- Every group for which p holds changed. -/
def State.modGroups (s : State) (p : Group → Bool) (f : Group → Group) : State :=
  { s with
    g := if p s.g then f s.g else s.g
    groups := s.groups.map fun g => if p g then f g else g }

/-- The focus moved to group gid of workgroup w, with its launch and core; unchanged where there is no such group. -/
def State.focusOn (s : State) (w gid : Nat) : State :=
  if s.focused w gid && s.wg.id == w then s
  else
    match s.findGroup w gid, s.findWg w with
    | some g, some x =>
      let gs := s.allGroups.filter fun y => !(y.wgId == w && y.gid == gid) && y.st != .absent
      let ws := s.allWgs.filter fun y => y.id != w && y.id != 0
      let ls := s.allLaunches.filter fun y => y.lid != x.lid && y.lid != 0
      let cs := s.allCores.filter fun y => y.id != x.coreId
      { s with
        g := g, groups := gs, wg := x, wgs := ws
        ln := (s.findLaunch x.lid).getD Launch.absent, launches := ls
        core := (s.findCore x.coreId).getD (Core.idle x.coreId), cores := cs }
    | _, _ => s

/-- The context record of a tenant. -/
def State.ctx (s : State) (t : Nat) : Ctx := vget s.ctxs t Ctx.none

/-- The context record of a tenant changed. -/
def State.modCtx (s : State) (t : Nat) (f : Ctx → Ctx) : State :=
  { s with ctxs := vset s.ctxs t (f (s.ctx t)) }

/-- The error record of a tenant changed (24 R338). -/
def State.modErr (s : State) (t : Nat) (f : ErrRec → ErrRec) : State := s.modCtx t fun c => { c with err := f c.err }

/-- A saturating count raised by 1 (24 R338). -/
def satInc (w : Word) : Word := if w = 0xFFFFFFFF then w else w + 1

/-- The tenant of the launch in the focus. -/
def State.tenant (s : State) : Nat := s.ln.cmd.tenant

/-- HALLID of a core (01 R7). -/
def hallOf (c : Nat) : Nat := c / 8

/-! ## Translation (07 R104 to R106) -/

/-- The FIT entry of a frame. -/
def State.fitOf (s : State) (dfn : Nat) : Option FitEntry := s.fit.find? fun e => e.dfn == dfn

/-- The FIT entry of a frame changed. -/
def State.modFit (s : State) (dfn : Nat) (f : FitEntry → FitEntry) : State :=
  { s with fit := s.fit.map fun e => if e.dfn == dfn then f e else e }

/-- Device address of the page-table entry for an address at a level, in the table whose first frame is `tbl` (07
R104). -/
def pteAddr (tbl level va : Nat) : Nat :=
  tbl * 0x10000 + 8 * (if level = 2 then bitsN va 55 42 else if level = 1 then bitsN va 41 29 else bitsN va 28 16)

/-- V set and every reserved bit 0 (07 R104). -/
def pteValid (e : Nat) : Bool := e / 2 ^ 63 == 1 && bitsN e 60 28 == 0

/-- A walk of a page table from a root: data frame, write and fetch permission; none where it fails (07 R104). -/
def walkFrom (m : Mem) (root va : Nat) : Option (Nat × Bool × Bool) :=
  let e2 := m.readLE (pteAddr root 2 va) 8
  if !pteValid e2 then none
  else
    let e1 := m.readLE (pteAddr (bitsN e2 27 0) 1 va) 8
    if !pteValid e1 then none
    else
      let e0 := m.readLE (pteAddr (bitsN e1 27 0) 0 va) 8
      if !pteValid e0 then none
      else
        some (bitsN e0 27 0, e2.testBit 62 && e1.testBit 62 && e0.testBit 62,
          e2.testBit 61 && e1.testBit 61 && e0.testBit 61)

/-- A walk in the context of a tenant (07 R104); a tenant without a context translates nothing. -/
def State.walk (s : State) (t va : Nat) : Option (Nat × Bool × Bool) :=
  if (s.ctx t).valid then walkFrom s.mem (s.ctx t).root va else none

/-- How an access is answered: bytes at a device address, a frame that is absent, or a fault. -/
inductive Reach
  | ok (da : Nat)
  | absent (dfn : Nat)
  | fault (code : BitVec 8)
  deriving DecidableEq, Repr

/-- Steps 4 to 6 of 07 R106 with the owner check of 26 R353: tenant and owner, poison (24 R348, 07 R112), absence. -/
def State.frameCheck (s : State) (t : Nat) (ticket : BitVec 21) (da : Nat) : Reach :=
  match s.fitOf (da / 0x10000) with
  | none => .fault 0x15
  | some e =>
    if e.tenant ≠ t || e.table || (e.owned && e.ticket != ticket) then .fault 0x15
    else
      match e.st with
      | .poisoned => .fault (if e.integ then 0x14 else if e.ecc then 0x50 else 0x17)
      | .absent => .absent e.dfn
      | _ => .ok da

/-- Steps 2 to 6 of 07 R106 for a virtual address of a tenant. -/
def State.reachVa (s : State) (t : Nat) (ticket : BitVec 21) (va : Nat) (write : Bool) : Reach :=
  match s.walk t va with
  | none => .fault 0x10
  | some (dfn, wr, _) =>
    if write && !wr then .fault 0x11 else s.frameCheck t ticket (dfn * 0x10000 + va % 0x10000)

/-- The virtual address of an offset through a translation register (07 R106). -/
def TReg.va (t : TReg) (o : Word) : Nat := (t.base.toNat + o.toNat) % 2 ^ 56

/-- 07 R106 for one lane: through the register where it is valid and the offset below LIMIT, else by a walk; then the
checks in order. -/
def State.reach (s : State) (t : TReg) (o : Word) (size : Nat) (write : Bool) : Reach :=
  if t.va o % size ≠ 0 then .fault 0x12
  else if t.valid && decide (o.toNat < t.limit.toNat) then
    if write && !t.wr then .fault 0x11
    else s.frameCheck s.tenant s.ln.ticket (t.dfn.toNat * 0x10000 + t.base.toNat % 0x10000 + o.toNat)
  else s.reachVa s.tenant s.ln.ticket (t.va o) write

/-- The frame of an access marked accessed, and written where it was (07 R103). -/
def State.touch (s : State) (da : Nat) (write : Bool) : State :=
  s.modFit (da / 0x10000) fun e => { e with acc := true, dirty := e.dirty || write }

/-- What `TMAP` writes for a base and a length (14 R216). `fuel` bounds the frames of the run, 33 at most. After the last frame of the 56 bits
the next is that of address 0 (DESIGN CHOICE, log 98). -/
def State.tmapRun (s : State) (t : Nat) (va req : Nat) : TReg :=
  match s.walk t va with
  | none => TReg.zero
  | some (dfn, wr, _) =>
    if req = 0 then TReg.zero
    else
      ⟨true, wr, BitVec.ofNat 22 (min (extend dfn wr 33 (0x10000 - va % 0x10000)) req), BitVec.ofNat 28 dfn,
        BitVec.ofNat 56 va⟩
where
  /-- The run of consecutive frames with equal WR, in bytes from the base. -/
  extend (dfn : Nat) (wr : Bool) : Nat → Nat → Nat
    | 0, len => len
    | fuel + 1, len =>
      if len < req then
        match s.walk t ((va + len) % 2 ^ 56) with
        | some (d, w, _) => if d = dfn + (len + va % 0x10000) / 0x10000 && w == wr then extend dfn wr fuel (len + 0x10000) else len
        | none => len
      else len

/-! ## Areas of a launch (01 R17, R21, 07 R119) -/

/-- The virtual frames that n bytes meet. -/
def pagesOf (va n : Nat) : List Nat :=
  if n = 0 then [] else (List.range ((va + n - 1) / 0x10000 + 1 - va / 0x10000)).map fun i => (va / 0x10000 + i) * 0x10000

/-- The cause of a fetch of n bytes of code that the page table does not let through: a failed walk, or no fetch permission (07 R104).
What is fetched is the code as it was read at acceptance (12 R176, log 84). -/
def State.fetchBar (s : State) (va n : Nat) : Option (BitVec 8 × Nat) :=
  if (s.ctx s.tenant).valid then
    (pagesOf va n).findSome? fun p =>
      match s.walk s.tenant p with
      | none => some (0x10, max p va)
      | some (_, _, x) => if x then none else some (0x11, max p va)
  else none

/-- The areas that a descriptor names: address, bytes, and whether the device writes them. -/
def Desc.areas (d : Desc) : List (Nat × Nat × Bool) :=
  (d.resbase, 8 * d.count, true) ::
    ((if d.pageGrid then [(d.listbase, 4 * d.count, false)] else []) ++
      (if d.pageGrid then [(d.cobase, 0x4000 * d.parkrec * d.gang, true)] else []))

/-- The virtual frames of the copy-out area of a descriptor (01 R17). -/
def Desc.coPages (d : Desc) : List Nat := if d.pageGrid then pagesOf d.cobase (0x4000 * d.parkrec * d.gang) else []

/-- The placement plan of a descriptor, if it has one. -/
def Desc.planArea (d : Desc) : List (Nat × Nat × Bool) := if d.plan = 0 then [] else [(d.plan, 2 * d.count, false)]

/-- A frame is copy-out area of a page-grid launch that runs: it is pinned in tier A (01 R17). -/
def State.coPinned (s : State) (t dfn : Nat) : Bool :=
  s.allLaunches.any fun l =>
    l.lid != 0 && l.st == .running && l.cmd.tenant == t && l.desc.coPages.any fun p => (s.walk t p).map (·.1) == some dfn

/-- A frame is one of the areas of a launch that runs (01 R17, 23 R315). -/
def State.pinned (s : State) (t dfn : Nat) : Bool :=
  s.allLaunches.any fun l =>
    l.lid != 0 && l.st == .running && l.cmd.tenant == t &&
      (l.desc.areas ++ l.desc.planArea).any fun a => (pagesOf a.1 a.2.1).any fun p => (s.walk t p).map (·.1) == some dfn

/-! ## Change counts (10 R148, R150) -/

/-- The largest 64-bit number. -/
def maxCount : Nat := 0xFFFFFFFFFFFFFFFF

/-- A count raised, staying at its largest value (10 R150). -/
def satCount (c : DWord) (n : Nat) : DWord := BitVec.ofNat 64 (min maxCount (c.toNat + n))

/-- The record with an index changed. -/
def State.modTree (s : State) (i : Nat) (f : TreeRec → TreeRec) : State :=
  { s with tree := s.tree.map fun r => if r.index == i then f r else r }

/-- The count of a frame's tile raised by at least 1 (10 R148); by how much more is a free value (log 12). -/
def State.raiseTile (s : State) (dfn : Nat) : State :=
  match s.fitOf dfn with
  | none => s
  | some e =>
    if e.tile = 0 then s
    else
      { s.modTree (bitsN e.tile.toNat 23 0) (fun r => { r with count := satCount r.count (1 + Config.extraRise s.free) }) with
        free := s.free + 1 }

/-- Numbers without repeats, in order of first appearance. -/
def nub : List Nat → List Nat
  | [] => []
  | n :: ns => n :: (nub ns).filter fun m => m != n

/-- The device addresses at which a byte of a frame of tier C shows, with that frame's own: every HOST mapping of a page reaches the
same host memory (07 R101, 23 R315). -/
def State.homed (s : State) (da : Nat) : List Nat :=
  match s.fitOf (da / 0x10000) with
  | some e =>
    if e.tier = .c then
      da :: ((s.fit.filter fun x => x.tier == .c && x.loc == e.loc && x.dfn != e.dfn).map fun x => x.dfn * 0x10000 + da % 0x10000)
    else [da]
  | none => [da]

/-- Bytes written at the owner slices as one batch: they join the coherence order, and the count of each frame's tile
rises (08 R124, 10 R148). -/
def State.batch (s : State) (cells : List (Nat × Byte)) : State :=
  let s := { s with mem := (cells.flatMap fun c => (s.homed c.1).map fun a => (a, c.2)).foldl (fun m c => m.set c.1 c.2) s.mem }
  (nub (cells.map fun c => c.1 / 0x10000)).foldl (fun s d => (s.touch (d * 0x10000) true).raiseTile d) s

/-- Cells of consecutive bytes. -/
def cellsAt (a : Nat) (bs : List Byte) : List (Nat × Byte) := (List.range bs.length).zip bs |>.map fun p => (a + p.1, p.2)

/-! ## View and snapshot (08 R121 to R126) -/

/-- A byte as a group of workgroup w on a core loads it: what the host wrote before its launch, where it is not yet in the snapshot (27
R368, log 34), else the byte in the core's view that entered it last, else its snapshot (08 R122, R123). -/
def Core.load (c : Core) (w da : Nat) : Byte :=
  match c.host.find? fun v => v.addr == da && v.wgId == w with
  | some v => v.byte
  | none =>
    match c.view.find? fun v => v.addr == da with
    | some v => v.byte
    | none => c.snap.get da

/-- A byte as the group in the focus loads it. -/
def State.loadByte (s : State) (da : Nat) : Byte := s.core.load s.g.wgId da

/-- n bytes as the group in the focus loads them. -/
def State.loadBytes (s : State) (da n : Nat) : List Byte := (List.range n).map fun i => s.loadByte (da + i)

/-- A store of one byte by the group in the focus enters its core's view; the stores of other groups to the byte stay there until they
are published (08 R121, R122). -/
def State.storeByte (s : State) (da : Nat) (b : Byte) : State :=
  let v : VCell := ⟨da, b, s.g.wgId, s.g.gid⟩
  { s with
    core := { s.core with
      view := v :: s.core.view.filter fun x => !(x.addr == da && x.wgId == v.wgId && x.gid == v.gid)
      host := s.core.host.filter fun x => x.addr != da }
    g := { s.g with wset := s.g.wset.filter (fun x => x.addr != da) ++ [v] } }

/-- A store of consecutive bytes by the group in the focus. -/
def State.storeBytes (s : State) (da : Nat) (bs : List Byte) : State :=
  (cellsAt da bs).foldl (fun s c => s.storeByte c.1 c.2) (s.touch da true)

/-- A store of group gid of workgroup w to the byte has not been published. -/
def State.unpublished (s : State) (v : VCell) : Bool :=
  match s.findGroup v.wgId v.gid with
  | some g => g.wset.any fun x => x.addr == v.addr
  | none => false

/-- `Publish` of the stores of a group (08 R126 steps 2 and 3): they reach the owner slices as one batch. -/
def State.publish (s : State) (w gid : Nat) : State :=
  match s.findGroup w gid with
  | none => s
  | some g => (s.batch (g.wset.map fun v => (v.addr, v.byte))).modGroup w gid fun g => { g with wset := [] }

/-- The snapshot of a core replaced by the published state, with what the host wrote; published bytes leave the view (08 R123). -/
def State.snapshot (s : State) (c : Nat) : State :=
  s.modCore c fun k => { k with snap := s.mem, hostAt := s.dev.hostNum, view := k.view.filter s.unpublished, host := [] }

/-- Acquire at a scope by a group of a core (08 R125, R123): hall scope or wider replaces the snapshot. -/
def State.acquire (s : State) (c scope : Nat) : State := if 2 ≤ scope then s.snapshot c else s

/-- Step 1 of 08 R126 is over for a group: no load, atomic or reduction of it is outstanding, and for a release at
gallery scope no SEND or FETCH of its gang (28 R376). -/
def State.released (s : State) (g : Group) (lid scope : Nat) : Bool :=
  g.flights.isEmpty && !(s.porters.any fun r => r.wgId == g.wgId && r.gid == g.gid) &&
  !(scope == 4 && s.jobs.any fun j => j.lid == lid && (j.kind == 0x07 || j.kind == 0x08))

/-! ## Scratchpad (07 R99, R100, 01 R18, R25, R383) -/

/-- n bytes at an offset lie within the regions that a workgroup of the launch owns (07 R99). -/
def Desc.owns (d : Desc) (off n : Nat) : Bool :=
  decide (off + n ≤ d.splen) ||
  (d.pageGrid && decide (0x5FF00 ≤ off) && decide (off + n ≤ 0x80000)) ||
  (!d.pageGrid && decide (d.splen ≤ 0x5FF80) && decide (0x5FF80 ≤ off) && decide (off + n ≤ 0x5FF90))

/-- The workgroup has a core landing barrier with an address (01 R18, R383). -/
def Desc.lbarAt (d : Desc) : Bool := d.pageGrid || decide (d.splen ≤ 0x5FF80)

/-- The workgroup and offset that a scratchpad address of the workgroup in the focus names, n bytes wide: alignment,
then range, then the gang (07 R99, R100). -/
def State.spTarget (s : State) (a : Word) (n : Nat) : Except (BitVec 8) (Nat × Nat) :=
  let off := a.toNat % 0x80000
  let hi := bitsN a.toNat 21 19
  if a.toNat % n ≠ 0 then .error 0x12
  else if a.toNat / 2 ^ 23 ≠ 0 then .error 0x13
  else if !a.getLsbD 22 then
    if hi ≠ 0 then .error 0x13 else if s.ln.desc.owns off n then .ok (s.wg.id, off) else .error 0x13
  else
    match s.allWgs.find? fun x => x.lid == s.ln.lid && x.coreId == hallOf s.wg.coreId * 8 + hi && x.id != 0 with
    | none => .error 0x31
    | some x => if s.ln.desc.owns off n then .ok (x.id, off) else .error 0x13

/-- A scratchpad address is remote (07 R100). -/
def isRemote (a : Word) : Bool := a.getLsbD 22

/-- The 128 bits of a barrier object (08 R130). -/
def Barrier.toBits (b : Barrier) : BitVec 128 :=
  b.ticket ++ b.scope ++ b.landed ++ b.xbytes ++ b.arrived ++ b.expected ++ b.phase

/-- The barrier object that 128 bits hold (08 R130). -/
def Barrier.ofBits (x : BitVec 128) : Barrier where
  ticket := field x 107 21
  scope := field x 104 3
  landed := field x 72 32
  xbytes := field x 40 32
  arrived := field x 28 12
  expected := field x 16 12
  phase := field x 0 16

/-- The slot barrier or landing barrier whose bytes stand at an offset, with the offset within it (01 R18, R383). -/
def Workgroup.devBar (w : Workgroup) (d : Desc) (off : Nat) : Option (Barrier × Nat) :=
  if d.pageGrid && decide (0x5FF00 ≤ off) && decide (off < 0x5FF80) then
    if h : (off - 0x5FF00) / 16 < 8 then some (w.slots[(off - 0x5FF00) / 16].bar, off % 16) else none
  else if d.lbarAt && decide (0x5FF80 ≤ off) && decide (off < 0x5FF90) then some (w.lbar, off % 16)
  else none

/-- A byte of a workgroup's scratchpad as a load returns it (01 R18, R383). -/
def Workgroup.byte (w : Workgroup) (d : Desc) (off : Nat) : Byte :=
  match w.devBar d off with
  | some (b, i) => field b.toBits (8 * i) 8
  | none => w.sp.get off

/-- The landing slot an offset lies in, on a page grid (01 R18). -/
def slotOf (d : Desc) (off : Nat) : Option Nat :=
  if d.pageGrid && decide (0x60000 ≤ off) && decide (off < 0x80000) then some ((off - 0x60000) / 0x4000) else none

/-- The slot of a workgroup, if the number names one. -/
def Workgroup.slot (w : Workgroup) (n : Nat) : Slot := if h : n < 8 then w.slots[n] else Slot.free

/-- A slot of a workgroup changed. -/
def Workgroup.modSlot (w : Workgroup) (n : Nat) (f : Slot → Slot) : Workgroup :=
  if h : n < 8 then { w with slots := w.slots.set n (f w.slots[n]) } else w

/-- A store by a workgroup to a byte of a scratchpad is performed: the byte is no slot or landing barrier, and a slot
is held by a block of the storing workgroup (01 R18, R25, R383). -/
def Workgroup.storable (w : Workgroup) (d : Desc) (byWg off : Nat) : Bool :=
  (w.devBar d off).isNone &&
  (match slotOf d off with
   | some n => byWg == w.id && (w.slot n).st == .held && (w.slot n).holder.isSome
   | none => true)

/-- A byte stored to a workgroup's scratchpad, or discarded. -/
def Workgroup.store (w : Workgroup) (d : Desc) (byWg off : Nat) (b : Byte) : Workgroup :=
  if w.storable d byWg off then { w with sp := w.sp.set off b } else w

/-- n bytes of the scratchpad of a workgroup. -/
def State.spLoad (s : State) (w off n : Nat) : List Byte :=
  match s.findWg w with
  | some x => (List.range n).map fun i => x.byte s.ln.desc (off + i)
  | none => List.replicate n 0

/-- Bytes stored to the scratchpad of a workgroup by a workgroup of the same launch. -/
def State.spStore (s : State) (byWg w off : Nat) (bs : List Byte) : State :=
  s.modWg w fun x => (cellsAt off bs).foldl (fun x c => x.store s.ln.desc byWg c.1 c.2) x

/-! ## Barriers (08 R130 to R133) -/

/-- Arrivals and bytes credited to a barrier: ticket first, then both counts together; the phase completes when both
meet their expectations (08 R131). -/
def Barrier.credit (b : Barrier) (ticket : BitVec 21) (arrivals bytes : Nat) : Except (BitVec 8) Barrier :=
  if b.ticket ≠ ticket then .error 0x31
  else if (b.expected = 0 && b.xbytes = 0) || b.expected.toNat < b.arrived.toNat + arrivals ||
      b.xbytes.toNat < b.landed.toNat + bytes then .error 0x30
  else if b.arrived.toNat + arrivals = b.expected.toNat && b.landed.toNat + bytes = b.xbytes.toNat then
    .ok { b with arrived := 0, landed := 0, phase := b.phase + 1 }
  else .ok { b with arrived := BitVec.ofNat 12 (b.arrived.toNat + arrivals), landed := BitVec.ofNat 32 (b.landed.toNat + bytes) }

/-- The software barrier at an offset of a workgroup's scratchpad. -/
def Workgroup.softBar (w : Workgroup) (off : Nat) : Barrier := Barrier.ofBits (BitVec.ofNat 128 (w.sp.readLE off 16))

/-- The barrier at an offset, whoever keeps it. -/
def Workgroup.bar (w : Workgroup) (d : Desc) (off : Nat) : Barrier :=
  match w.devBar d off with
  | some (b, _) => b
  | none => w.softBar off

/-- A software barrier written. -/
def Workgroup.setBar (w : Workgroup) (off : Nat) (b : Barrier) : Workgroup :=
  { w with sp := w.sp.writeLE off 16 b.toBits.toNat }

/-- The log entry of a barrier, if it has one (08 R133). -/
def Workgroup.logged (w : Workgroup) (off : Nat) : Arrival := (w.arrLog.find? fun a => a.off == off).getD ⟨off, 0, 0, []⟩

/-- The condition of 08 R132: phase p is complete. -/
def Barrier.passed (b : Barrier) (p : BitVec 16) : Bool := decide ((b.phase - p).toNat < 0x8000)

/-- Phase p of the barrier at an offset, which now is b, carries releases of jobs or matrix stores for some acquirers (08 R123). What an
older phase carried ends with the last phase at which a `WAIT` for it completes (R132): its number is then that of a phase to come. -/
def Workgroup.carry (w : Workgroup) (off : Nat) (b : Barrier) (p : BitVec 16) (js : List Acquirers) : Workgroup :=
  { w with jobBars := js.map (fun j => (off, p, j)) ++ w.jobBars.filter fun x => x.1 != off || x.2.1 == p || b.passed x.2.1 }

/-- The acquirers of a release by a group or a sequencer that lie within a barrier's SCOPE, wherever the barrier stands (08 R120, R127,
17 R285). -/
def Barrier.acquirers (b : Barrier) (r : Party) : Acquirers :=
  match b.scope.toNat with
  | 0 => .one r
  | 1 => .workgroup r.wgId
  | _ => .all

/-- A release for some acquirers is one for group `by_` of workgroup w, or, with none, for its sequencer. -/
def Acquirers.has (a : Acquirers) (w : Nat) (by_ : Option Nat) : Bool :=
  match a with
  | .all => true
  | .workgroup v => v == w
  | .one p => p == ⟨w, by_⟩

/-- An arrival or credit at a barrier of a workgroup; `job` says who makes the release of a job or matrix store that it carries.
A swapped-out workgroup logs it (08 R131, R133). -/
def Workgroup.arrive (w : Workgroup) (d : Desc) (off : Nat) (ticket : BitVec 21) (arrivals bytes : Nat) (job : Option Party) :
    Except (BitVec 8) Workgroup :=
  if (w.devBar d off).isSome then .error 0x30
  else
    let b := w.softBar off
    let js := (job.map b.acquirers).toList
    match w.place with
    | .resident => (b.credit ticket arrivals bytes).map fun b' => (w.setBar off b').carry off b' (b.phase + 1) js
    | _ =>
      let l := w.logged off
      if b.ticket ≠ ticket then .error 0x31
      else if (b.expected = 0 && b.xbytes = 0) || b.expected.toNat < b.arrived.toNat + l.arrivals + arrivals ||
          b.xbytes.toNat < b.landed.toNat + l.bytes + bytes then .error 0x30
      else
        .ok { w with
          arrLog := ⟨off, l.arrivals + arrivals, l.bytes + bytes, js ++ l.jobs⟩ :: w.arrLog.filter fun a => a.off != off }

/-- The acquire of a completed wait on phase p of a barrier at an offset, by a group of the workgroup in the focus or its sequencer, the barrier its
own or a remote one (16 R269): at the barrier's SCOPE, and at any scope where the phase carries a job's or matrix store's release whose scope includes the waiter
(08 R120, R123, R125, R127). -/
def State.acquireBar (s : State) (w : Workgroup) (off : Nat) (p : BitVec 16) (by_ : Option Nat) : State :=
  let b := w.bar s.ln.desc off
  if w.jobBars.any fun x => x.1 == off && x.2.1 == p && x.2.2.has s.wg.id by_ then s.snapshot s.wg.coreId
  else s.acquire s.wg.coreId b.scope.toNat

end Sys2Proof.Machine
end

