-- ==== Sys2Proof/Machine/Riscv.lean ====
section
/-! DEFINITION. A management core (28 R374): RV64IMAC with M, S and U modes and 16 PMP entries, as the RISC-V standards lay it out
(log 86): the PMP, the control registers, traps and returns, the integer operations, the compressed forms, and one instruction. -/
namespace Sys2Proof.Machine

/-! ## The PMP -/

/-- The bytes [lo, hi) that a PMP entry covers, after the entry before it; none where the entry is off. -/
def Pmp.span (before : Pmp) (p : Pmp) : Option (Nat × Nat) :=
  let a := p.addr.toNat
  match bitsN p.cfg.toNat 4 3 with
  | 1 => some (4 * before.addr.toNat, 4 * a)
  | 2 => some (4 * a, 4 * a + 4)
  | 3 => some (4 * (a &&& (a + 1)), 4 * (a &&& (a + 1)) + 4 * ((a ^^^ (a + 1)) + 1))
  | _ => none

/-- Entry i of the PMP of a core. -/
def Mgmt.entry (m : Mgmt) (i : Nat) : Pmp := vget m.pmp i ⟨0, 0⟩

/-- What entry i covers. -/
def Mgmt.covers (m : Mgmt) (i : Nat) : Option (Nat × Nat) :=
  Pmp.span (if i = 0 then ⟨0, 0⟩ else m.entry (i - 1)) (m.entry i)

/-- What an access is: a bit of a PMP entry. -/
inductive Want
  | read | write | fetch
  deriving DecidableEq, Repr

/-- The bit of a PMP entry. -/
def Want.bit : Want → Nat
  | .read => 0
  | .write => 1
  | .fetch => 2

/-- The PMP lets an access of n bytes in a mode through: the first entry that reaches a byte of it covers it whole and gives the
permission, or binds M mode only where it is locked; with none, M mode alone may. -/
def Mgmt.allows (m : Mgmt) (p : Priv) (addr n : Nat) (w : Want) : Bool :=
  match (List.range 16).find? fun i => (m.covers i).any fun r => decide (addr < r.2) && decide (r.1 < addr + n) with
  | none => p == .machine
  | some i =>
    (m.covers i).all (fun r => decide (r.1 ≤ addr) && decide (addr + n ≤ r.2)) &&
    ((p == .machine && !(m.entry i).cfg.getLsbD 7) || (m.entry i).cfg.getLsbD w.bit)

/-- The byte of an entry as a write leaves it: a locked one stays, and so does one for write without read. -/
def Pmp.setCfg (p : Pmp) (v : Byte) : Pmp :=
  if p.cfg.getLsbD 7 || (v.getLsbD 1 && !v.getLsbD 0) then p else { p with cfg := v &&& 0x9F }

/-- Eight bytes of entries from entry i written. -/
def Mgmt.setCfgs (m : Mgmt) (i : Nat) (v : DWord) : Mgmt :=
  { m with pmp := (List.range 8).foldl (fun ps k => vset ps (i + k) ((vget ps (i + k) ⟨0, 0⟩).setCfg (field v (8 * k) 8))) m.pmp }

/-- The address of an entry written; that of a locked one, or of one below a locked range, stays. -/
def Mgmt.setAddr (m : Mgmt) (i : Nat) (v : DWord) : Mgmt :=
  let up := m.entry (i + 1)
  if (m.entry i).cfg.getLsbD 7 || (up.cfg.getLsbD 7 && bitsN up.cfg.toNat 4 3 == 1) then m
  else { m with pmp := vset m.pmp i { m.entry i with addr := field v 0 54 } }

/-! ## Registers -/

/-- Register r; x0 is 0. -/
def Mgmt.xr (m : Mgmt) (r : Nat) : DWord := if r = 0 then 0 else vget m.x r 0

/-- A register written; x0 stays 0. -/
def Mgmt.setX (m : Mgmt) (rd : Nat) (v : DWord) : Mgmt := if rd = 0 then m else { m with x := vset m.x rd v }

/-- The code of a mode. -/
def Priv.code : Priv → Nat
  | .user => 0
  | .supervisor => 1
  | .machine => 3

/-- The mode of a code. -/
def Priv.ofCode : Nat → Priv
  | 0 => .user
  | 1 => .supervisor
  | _ => .machine

/-- MPP of mstatus. -/
def Mgmt.mpp (m : Mgmt) : Priv := Priv.ofCode (bitsN m.mstatus.toNat 12 11)

/-- The mode in which loads and stores are checked: MPP under MPRV. -/
def Mgmt.dataMode (m : Mgmt) : Priv := if m.mode == .machine && m.mstatus.getLsbD 17 then m.mpp else m.mode

/-- The bits of mstatus that a write changes: SIE, MIE, SPIE, MPIE, SPP, MPP, MPRV; of sstatus SIE, SPIE, SPP. -/
def statusMask : DWord := 0x219AA

/-- Bits of mask in a replaced by those of v. -/
def under (mask a v : DWord) : DWord := (a &&& ~~~mask) ||| (v &&& mask)

/-- mstatus written; the reserved MPP 2 leaves MPP as it was. -/
def Mgmt.setStatus (m : Mgmt) (mask v : DWord) : Mgmt :=
  { m with mstatus := under (if bitsN v.toNat 12 11 = 2 then mask &&& ~~~0x1800 else mask) m.mstatus v }

/-- A control register of core k, by its number; none where there is no such register. No interrupt reaches a core, and translation stays
bare (log 86). -/
def Mgmt.csr (k : Nat) (m : Mgmt) (n : Nat) : Option DWord :=
  match n with
  | 0x100 => some ((m.mstatus &&& 0x122) ||| 0x200000000)
  | 0x105 => some m.stvec
  | 0x140 => some m.sscratch
  | 0x141 => some m.sepc
  | 0x142 => some m.scause
  | 0x143 => some m.stval
  | 0x300 => some (m.mstatus ||| 0xA00000000)
  | 0x301 => some 0x8000000000141105
  | 0x302 => some m.medeleg
  | 0x305 => some m.mtvec
  | 0x340 => some m.mscratch
  | 0x341 => some m.mepc
  | 0x342 => some m.mcause
  | 0x343 => some m.mtval
  | 0x3A0 => some (BitVec.ofNat 64 (leNat ((List.range 8).map fun i => (m.entry i).cfg)))
  | 0x3A2 => some (BitVec.ofNat 64 (leNat ((List.range 8).map fun i => (m.entry (8 + i)).cfg)))
  | 0xF14 => some (BitVec.ofNat 64 k)
  | _ =>
    if 0x3B0 ≤ n ∧ n < 0x3C0 then some ((m.entry (n - 0x3B0)).addr.setWidth 64)
    else if n ∈ [0x104, 0x106, 0x144, 0x180, 0x303, 0x304, 0x306, 0x344, 0xF11, 0xF12, 0xF13, 0xF15] then some 0
    else none

/-- A control register written. -/
def Mgmt.setCsr (m : Mgmt) (n : Nat) (v : DWord) : Mgmt :=
  match n with
  | 0x100 => m.setStatus 0x122 v
  | 0x105 => { m with stvec := v &&& ~~~2 }
  | 0x140 => { m with sscratch := v }
  | 0x141 => { m with sepc := v &&& ~~~1 }
  | 0x142 => { m with scause := v }
  | 0x143 => { m with stval := v }
  | 0x300 => m.setStatus statusMask v
  | 0x302 => { m with medeleg := v &&& 0xB3FF }
  | 0x305 => { m with mtvec := v &&& ~~~2 }
  | 0x340 => { m with mscratch := v }
  | 0x341 => { m with mepc := v &&& ~~~1 }
  | 0x342 => { m with mcause := v }
  | 0x343 => { m with mtval := v }
  | 0x3A0 => m.setCfgs 0 v
  | 0x3A2 => m.setCfgs 8 v
  | _ => if 0x3B0 ≤ n ∧ n < 0x3C0 then m.setAddr (n - 0x3B0) v else m

/-! ## Traps -/

/-- A trap taken: to S mode where medeleg gives its cause away and the core is not in M mode, else to M mode. -/
def Mgmt.trap (m : Mgmt) (cause : Nat) (tval : DWord) : Mgmt :=
  if m.mode != .machine && m.medeleg.getLsbD cause then
    { m with
      mode := .supervisor
      sepc := m.pc
      scause := BitVec.ofNat 64 cause
      stval := tval
      pc := m.stvec &&& ~~~3
      mstatus := under 0x122 m.mstatus
        (BitVec.ofNat 64 ((if m.mode == .supervisor then 0x100 else 0) + (if m.mstatus.getLsbD 1 then 0x20 else 0))) }
  else
    { m with
      mode := .machine
      mepc := m.pc
      mcause := BitVec.ofNat 64 cause
      mtval := tval
      pc := m.mtvec &&& ~~~3
      mstatus := under 0x1888 m.mstatus (BitVec.ofNat 64 (m.mode.code * 0x800 + if m.mstatus.getLsbD 3 then 0x80 else 0)) }

/-- MRET: back to the mode of MPP. -/
def Mgmt.mret (m : Mgmt) : Mgmt :=
  let mask : DWord := if m.mpp == .machine then 0x1888 else 0x21888
  { m with mode := m.mpp, pc := m.mepc, mstatus := under mask m.mstatus (if m.mstatus.getLsbD 7 then 0x88 else 0x80) }

/-- SRET: back to the mode of SPP. -/
def Mgmt.sret (m : Mgmt) : Mgmt :=
  { m with
    mode := if m.mstatus.getLsbD 8 then .supervisor else .user
    pc := m.sepc
    mstatus := under 0x20122 m.mstatus (if m.mstatus.getLsbD 5 then 0x22 else 0x20) }

/-! ## Operations -/

/-- The low b bits of a number, sign-extended. -/
def sx (b n : Nat) : DWord := (BitVec.ofNat b n).signExtend 64

/-- A 32-bit result, sign-extended. -/
def sxW (v : Word) : DWord := v.signExtend 64

/-- The integer operations of OP and OP-IMM, at a width. -/
def rvAlu {w : Nat} (f3 : Nat) (alt : Bool) (a b : BitVec w) : BitVec w :=
  let sh := b.toNat % w
  match f3 with
  | 0 => if alt then a - b else a + b
  | 1 => a <<< sh
  | 2 => if a.slt b then 1 else 0
  | 3 => if a.ult b then 1 else 0
  | 4 => a ^^^ b
  | 5 => if alt then a.sshiftRight sh else a >>> sh
  | 6 => a ||| b
  | _ => a &&& b

/-- The operations of the M extension, at a width. -/
def rvMul {w : Nat} (f3 : Nat) (a b : BitVec w) : BitVec w :=
  match f3 with
  | 0 => a * b
  | 1 => BitVec.ofInt w (a.toInt * b.toInt / (2 ^ w : Nat))
  | 2 => BitVec.ofInt w (a.toInt * (b.toNat : Int) / (2 ^ w : Nat))
  | 3 => BitVec.ofNat w (a.toNat * b.toNat / 2 ^ w)
  | 4 => if b = 0 then BitVec.allOnes w else a.sdiv b
  | 5 => if b = 0 then BitVec.allOnes w else a.udiv b
  | 6 => if b = 0 then a else a.srem b
  | _ => if b = 0 then a else a.umod b

/-- A branch is taken; none where the code names no branch. -/
def rvBranch (f3 : Nat) (a b : DWord) : Option Bool :=
  match f3 with
  | 0 => some (a == b)
  | 1 => some (a != b)
  | 4 => some (a.slt b)
  | 5 => some (!a.slt b)
  | 6 => some (a.ult b)
  | 7 => some (!a.ult b)
  | _ => none

/-- What an AMO leaves in memory, at a width; none where the code names none. -/
def rvAmo {w : Nat} (f5 : Nat) (a b : BitVec w) : Option (BitVec w) :=
  match f5 with
  | 0 => some (a + b)
  | 1 => some b
  | 4 => some (a ^^^ b)
  | 8 => some (a ||| b)
  | 12 => some (a &&& b)
  | 16 => some (if a.slt b then a else b)
  | 20 => some (if a.slt b then b else a)
  | 24 => some (if a.ult b then a else b)
  | 28 => some (if a.ult b then b else a)
  | _ => none

/-! ## Compressed forms -/

/-- The words of the formats R, I, S, B and J. -/
def encR (f7 r2 r1 f3 rd op : Nat) : Nat := f7 * 2 ^ 25 + r2 * 2 ^ 20 + r1 * 2 ^ 15 + f3 * 2 ^ 12 + rd * 2 ^ 7 + op
@[inherit_doc encR] def encI (imm r1 f3 rd op : Nat) : Nat := imm % 4096 * 2 ^ 20 + r1 * 2 ^ 15 + f3 * 2 ^ 12 + rd * 2 ^ 7 + op
@[inherit_doc encR] def encS (imm r2 r1 f3 : Nat) : Nat := encR (imm / 32) r2 r1 f3 (imm % 32) 0x23
@[inherit_doc encR] def encB (imm r1 f3 : Nat) : Nat :=
  encR (bitsN imm 12 12 * 64 + bitsN imm 10 5) 0 r1 f3 (bitsN imm 4 1 * 2 + bitsN imm 11 11) 0x63
@[inherit_doc encR] def encJ (imm rd : Nat) : Nat :=
  bitsN imm 20 20 * 2 ^ 31 + bitsN imm 10 1 * 2 ^ 21 + bitsN imm 11 11 * 2 ^ 20 + bitsN imm 19 12 * 2 ^ 12 + rd * 2 ^ 7 + 0x6F

/-- The low b bits of n sign-extended to c bits, as a number. -/
def sxN (b c n : Nat) : Nat := ((BitVec.ofNat b n).signExtend c).toNat

/-- The 32-bit word that a compressed form of quadrant 0 stands for. -/
def rvExpand0 (h : Nat) : Option Nat :=
  let rd := 8 + bitsN h 4 2
  let r1 := 8 + bitsN h 9 7
  let w4 := bitsN h 12 10 * 8 + bitsN h 6 6 * 4 + bitsN h 5 5 * 64
  let w8 := bitsN h 12 10 * 8 + bitsN h 6 5 * 64
  let sp := bitsN h 12 11 * 16 + bitsN h 10 7 * 64 + bitsN h 6 6 * 4 + bitsN h 5 5 * 8
  match bitsN h 15 13 with
  | 0 => if sp = 0 then none else some (encI sp 2 0 rd 0x13)
  | 2 => some (encI w4 r1 2 rd 0x03)
  | 3 => some (encI w8 r1 3 rd 0x03)
  | 6 => some (encS w4 rd r1 2)
  | 7 => some (encS w8 rd r1 3)
  | _ => none

/-- The 32-bit word that a compressed form of quadrant 1 stands for. -/
def rvExpand1 (h : Nat) : Option Nat :=
  let rd := bitsN h 11 7
  let r := 8 + bitsN h 9 7
  let r2 := 8 + bitsN h 4 2
  let n6 := bitsN h 12 12 * 32 + bitsN h 6 2
  let imm := sxN 6 12 n6
  let up := bitsN h 12 12 * 512 + bitsN h 6 6 * 16 + bitsN h 5 5 * 64 + bitsN h 4 3 * 128 + bitsN h 2 2 * 32
  let j := sxN 12 21 (bitsN h 12 12 * 2048 + bitsN h 11 11 * 16 + bitsN h 10 9 * 256 + bitsN h 8 8 * 1024 + bitsN h 7 7 * 64 +
    bitsN h 6 6 * 128 + bitsN h 5 3 * 2 + bitsN h 2 2 * 32)
  let b := sxN 9 13 (bitsN h 12 12 * 256 + bitsN h 11 10 * 8 + bitsN h 6 5 * 64 + bitsN h 4 3 * 2 + bitsN h 2 2 * 32)
  match bitsN h 15 13 with
  | 0 => some (encI imm rd 0 rd 0x13)
  | 1 => if rd = 0 then none else some (encI imm rd 0 rd 0x1B)
  | 2 => some (encI imm 0 0 rd 0x13)
  | 3 => if n6 = 0 then none else if rd = 2 then some (encI (sxN 10 12 up) 2 0 2 0x13) else some (sxN 6 20 n6 * 4096 + rd * 128 + 0x37)
  | 4 =>
    match bitsN h 11 10, bitsN h 12 12, bitsN h 6 5 with
    | 0, _, _ => some (encI n6 r 5 r 0x13)
    | 1, _, _ => some (encI (0x400 + n6) r 5 r 0x13)
    | 2, _, _ => some (encI imm r 7 r 0x13)
    | _, 0, 0 => some (encR 32 r2 r 0 r 0x33)
    | _, 0, 1 => some (encR 0 r2 r 4 r 0x33)
    | _, 0, 2 => some (encR 0 r2 r 6 r 0x33)
    | _, 0, _ => some (encR 0 r2 r 7 r 0x33)
    | _, _, 0 => some (encR 32 r2 r 0 r 0x3B)
    | _, _, 1 => some (encR 0 r2 r 0 r 0x3B)
    | _, _, _ => none
  | 5 => some (encJ j 0)
  | 6 => some (encB b r 0)
  | _ => some (encB b r 1)

/-- The 32-bit word that a compressed form of quadrant 2 stands for. -/
def rvExpand2 (h : Nat) : Option Nat :=
  let rd := bitsN h 11 7
  let r2 := bitsN h 6 2
  match bitsN h 15 13 with
  | 0 => some (encI (bitsN h 12 12 * 32 + r2) rd 1 rd 0x13)
  | 2 => if rd = 0 then none else some (encI (bitsN h 12 12 * 32 + bitsN h 6 4 * 4 + bitsN h 3 2 * 64) 2 2 rd 0x03)
  | 3 => if rd = 0 then none else some (encI (bitsN h 12 12 * 32 + bitsN h 6 5 * 8 + bitsN h 4 2 * 64) 2 3 rd 0x03)
  | 4 =>
    match bitsN h 12 12, rd, r2 with
    | 0, 0, 0 => none
    | 0, _, 0 => some (encI 0 rd 0 0 0x67)
    | 0, _, _ => some (encR 0 r2 0 0 rd 0x33)
    | _, 0, 0 => some 0x00100073
    | _, _, 0 => some (encI 0 rd 0 1 0x67)
    | _, _, _ => some (encR 0 r2 rd 0 rd 0x33)
  | 6 => some (encS (bitsN h 12 9 * 4 + bitsN h 8 7 * 64) r2 2 2)
  | 7 => some (encS (bitsN h 12 10 * 8 + bitsN h 9 7 * 64) r2 2 3)
  | _ => none

/-- The 32-bit word that a compressed form stands for; none where it is illegal. -/
def rvExpand (h : Nat) : Option Nat :=
  match h % 4 with
  | 0 => rvExpand0 h
  | 1 => rvExpand1 h
  | _ => rvExpand2 h

/-! ## One instruction -/

/-- What an instruction comes to: the core's own next state; a trap; or an access to memory, a load sign-extended or not. -/
inductive RvOut
  | next (m : Mgmt)
  | trap (cause : Nat) (tval : DWord)
  | load (rd addr n : Nat) (signed : Bool)
  | store (addr n : Nat) (v : DWord)
  | lr (rd addr n : Nat)
  | sc (rd addr n : Nat) (v : DWord)
  | amo (f5 rd addr n : Nat) (v : DWord)
  deriving DecidableEq, Repr

/-- SYSTEM instructions of core k; `len` bytes stand at the pc. -/
def rvSystem (k : Nat) (m : Mgmt) (w len : Nat) : RvOut :=
  let rd := bitsN w 11 7
  let f3 := bitsN w 14 12
  let r1 := bitsN w 19 15
  let n := bitsN w 31 20
  let on := fun (m : Mgmt) => RvOut.next { m with pc := m.pc + BitVec.ofNat 64 len }
  let ill := RvOut.trap 2 (BitVec.ofNat 64 w)
  if f3 = 0 then
    if w = 0x00000073 then .trap (8 + m.mode.code) 0
    else if w = 0x00100073 then .trap 3 m.pc
    else if w = 0x30200073 then (if m.mode = .machine then .next m.mret else ill)
    else if w = 0x10200073 then (if m.mode = .user then ill else .next m.sret)
    else if w = 0x10500073 then on m
    else if bitsN w 31 25 = 9 ∧ rd = 0 then (if m.mode = .user then ill else on m)
    else ill
  else
    let src := if 5 ≤ f3 then BitVec.ofNat 64 r1 else m.xr r1
    let writes := f3 % 4 = 1 ∨ r1 ≠ 0
    if f3 = 4 ∨ m.mode.code < bitsN n 9 8 ∨ (0xC00 ≤ n ∧ writes) then ill
    else
      match m.csr k n with
      | none => ill
      | some old =>
        let v := if f3 % 4 = 1 then src else if f3 % 4 = 2 then old ||| src else old &&& ~~~src
        on ((if writes then m.setCsr n v else m).setX rd old)

/-- Loads and stores of the A extension: an address that is not aligned traps. -/
def rvAtomic (m : Mgmt) (w : Nat) : RvOut :=
  let rd := bitsN w 11 7
  let r2 := bitsN w 24 20
  let n := if bitsN w 14 12 = 2 then 4 else 8
  let f5 := bitsN w 31 27
  let a := m.xr (bitsN w 19 15)
  if ¬ (bitsN w 14 12 = 2 ∨ bitsN w 14 12 = 3) ∨ (f5 = 2 ∧ r2 ≠ 0) ∨ ¬ (f5 = 2 ∨ f5 = 3 ∨ (rvAmo f5 a a).isSome) then
    .trap 2 (BitVec.ofNat 64 w)
  else if a.toNat % n ≠ 0 then .trap (if f5 = 2 then 4 else 6) a
  else if f5 = 2 then .lr rd a.toNat n
  else if f5 = 3 then .sc rd a.toNat n (m.xr r2)
  else .amo f5 rd a.toNat n (m.xr r2)

/-- One instruction of core k, whose word, compressed or not, has `len` bytes. -/
def rvStep (k : Nat) (m : Mgmt) (w len : Nat) : RvOut :=
  let rd := bitsN w 11 7
  let f3 := bitsN w 14 12
  let f7 := bitsN w 31 25
  let a := m.xr (bitsN w 19 15)
  let b := m.xr (bitsN w 24 20)
  let a4 : Word := a.setWidth 32
  let b4 : Word := b.setWidth 32
  let immI := sx 12 (bitsN w 31 20)
  let immS := sx 12 (f7 * 32 + rd)
  let immB := sx 13 (bitsN w 31 31 * 4096 + bitsN w 7 7 * 2048 + bitsN w 30 25 * 32 + bitsN w 11 8 * 2)
  let immU := sx 32 (bitsN w 31 12 * 4096)
  let immJ := sx 21 (bitsN w 31 31 * 2 ^ 20 + bitsN w 19 12 * 4096 + bitsN w 20 20 * 2048 + bitsN w 30 21 * 2)
  let after := m.pc + BitVec.ofNat 64 len
  let put := fun (v : DWord) => RvOut.next { m.setX rd v with pc := after }
  let to_ := fun (pc : DWord) => RvOut.next { m.setX rd after with pc := pc }
  let ill := RvOut.trap 2 (BitVec.ofNat 64 w)
  match w % 128 with
  | 0x37 => put immU
  | 0x17 => put (m.pc + immU)
  | 0x6F => to_ (m.pc + immJ)
  | 0x67 => if f3 = 0 then to_ ((a + immI) &&& ~~~1) else ill
  | 0x63 =>
    match rvBranch f3 a b with
    | some t => .next { m with pc := if t then m.pc + immB else after }
    | none => ill
  | 0x03 => if f3 = 7 then ill else .load rd (a + immI).toNat (2 ^ (f3 % 4)) (decide (f3 < 4))
  | 0x23 => if f3 < 4 then .store (a + immS).toNat (2 ^ f3) b else ill
  | 0x13 =>
    if f3 = 1 then (if f7 / 2 = 0 then put (rvAlu 1 false a immI) else ill)
    else if f3 = 5 then (if f7 / 2 = 0 ∨ f7 / 2 = 16 then put (rvAlu 5 (f7 / 2 == 16) a immI) else ill)
    else put (rvAlu f3 false a immI)
  | 0x1B =>
    if f3 = 0 then put (sxW (a4 + immI.setWidth 32))
    else if f3 = 1 ∧ f7 = 0 ∨ f3 = 5 ∧ (f7 = 0 ∨ f7 = 32) then put (sxW (rvAlu f3 (f7 == 32) a4 (immI.setWidth 32)))
    else ill
  | 0x33 =>
    if f7 = 1 then put (rvMul f3 a b)
    else if f7 = 0 ∨ f7 = 32 ∧ (f3 = 0 ∨ f3 = 5) then put (rvAlu f3 (f7 == 32) a b)
    else ill
  | 0x3B =>
    if f7 = 1 ∧ (f3 = 0 ∨ 4 ≤ f3) then put (sxW (rvMul f3 a4 b4))
    else if f7 = 0 ∧ (f3 = 0 ∨ f3 = 1 ∨ f3 = 5) ∨ f7 = 32 ∧ (f3 = 0 ∨ f3 = 5) then put (sxW (rvAlu f3 (f7 == 32) a4 b4))
    else ill
  | 0x0F => if f3 ≤ 1 then .next { m with pc := after } else ill
  | 0x2F => rvAtomic m w
  | 0x73 => rvSystem k m w len
  | _ => ill

end Sys2Proof.Machine
end

