-- ==== Sys2Proof/Machine/Crypto.lean ====
section
/-! DEFINITION. The ciphers and the hash that 26 R355, R359, R360 and R365 name, from the standards that the spec refers
to (log 24): AES-256 (FIPS 197), GCM with a 96-bit IV and no associated data (SP 800-38D), key wrap with padding (RFC
5649), SHAKE256 (FIPS 202) and SHA-384 (FIPS 180-4). -/
namespace Sys2Proof.Machine

/-! ## AES-256 -/

/-- Multiplication by x in GF(2^8). -/
def gfX (a : Byte) : Byte := if a.msb then (a <<< 1) ^^^ 0x1B else a <<< 1

/-- Product in GF(2^8), over the n low bits of b. -/
def gfMulN : Nat → Byte → Byte → Byte
  | 0, _, _ => 0
  | n + 1, a, b => (if b.getLsbD 0 then a else 0) ^^^ gfMulN n (gfX a) (b >>> 1)

/-- Product in GF(2^8). -/
def gfMul (a b : Byte) : Byte := gfMulN 8 a b

/-- The inverse in GF(2^8), 0 for 0: the power 254. -/
def gfInv (a : Byte) : Byte :=
  let sq := fun x => gfMul x x
  let a2 := sq a
  let a3 := gfMul a2 a
  let a6 := sq a3
  let a12 := sq a6
  let a15 := gfMul a12 a3
  let a240 := sq (sq (sq (sq a15)))
  gfMul (gfMul a240 a12) a2

/-- The AES S-box. -/
def sbox (a : Byte) : Byte :=
  let x := gfInv a
  x ^^^ x.rotateLeft 1 ^^^ x.rotateLeft 2 ^^^ x.rotateLeft 3 ^^^ x.rotateLeft 4 ^^^ 0x63

/-- The inverse of the AES S-box. -/
def sboxInv (a : Byte) : Byte := gfInv (a.rotateLeft 1 ^^^ a.rotateLeft 3 ^^^ a.rotateLeft 6 ^^^ 0x05)

/-- Bytes added one by one. -/
def xorBytes (a b : List Byte) : List Byte := (a.zip b).map fun p => p.1 ^^^ p.2

/-- Byte i of a list; 0 beyond it. -/
def byteAt (l : List Byte) (i : Nat) : Byte := (l[i]?).getD 0

/-- The next word of a key schedule of which i words (newest first) stand in `ws`. -/
def nextWord (ws : List (List Byte)) (i : Nat) : List Byte :=
  let t := (ws[0]?).getD []
  let back := (ws[7]?).getD []
  let t :=
    if i % 8 = 0 then
      let r := (t.drop 1 ++ t.take 1).map sbox
      xorBytes r [(1 : Byte) <<< (i / 8 - 1), 0, 0, 0]
    else if i % 8 = 4 then t.map sbox
    else t
  xorBytes back t

/-- The words of a key schedule, newest first: n more after the i that stand in `ws`. -/
def moreWords : Nat → Nat → List (List Byte) → List (List Byte)
  | 0, _, ws => ws
  | n + 1, i, ws => moreWords n (i + 1) (nextWord ws i :: ws)

/-- The 15 round keys of a 32-byte key. -/
def roundKeys (key : List Byte) : List (List Byte) :=
  let first := (List.range 8).map fun i => (key.drop (4 * i)).take 4
  let ws := (moreWords 52 8 first.reverse).reverse
  (List.range 15).map fun r => ((ws.drop (4 * r)).take 4).flatten

/-- ShiftRows, or with sign 3 its inverse. -/
def shiftRows (k : Nat) (s : List Byte) : List Byte :=
  (List.range 16).map fun i => byteAt s (i % 4 + 4 * ((i / 4 + k * (i % 4)) % 4))

/-- MixColumns with the row of coefficients. -/
def mixColumns (m : List Byte) (s : List Byte) : List Byte :=
  (List.range 16).map fun i =>
    (List.range 4).foldl (fun acc j => acc ^^^ gfMul (byteAt m ((j + 4 - i % 4) % 4)) (byteAt s (i / 4 * 4 + j))) 0

/-- Encryption of a 16-byte block under round keys. -/
def aesEncrypt (rk : List (List Byte)) (b : List Byte) : List Byte :=
  let key := fun r => (rk[r]?).getD []
  let s := (List.range 13).foldl (fun s r =>
    xorBytes (mixColumns [2, 3, 1, 1] (shiftRows 1 (s.map sbox))) (key (r + 1))) (xorBytes b (key 0))
  xorBytes (shiftRows 1 (s.map sbox)) (key 14)

/-- Decryption of a 16-byte block under round keys. -/
def aesDecrypt (rk : List (List Byte)) (b : List Byte) : List Byte :=
  let key := fun r => (rk[r]?).getD []
  let s := (shiftRows 3 (xorBytes b (key 14))).map sboxInv
  let s := (List.range 13).foldl (fun s r =>
    (shiftRows 3 (mixColumns [14, 11, 13, 9] (xorBytes s (key (13 - r))))).map sboxInv) s
  xorBytes s (key 0)

/-! ## Numbers most significant byte first -/

/-- The number that bytes stand for, most significant first. -/
def beNat (l : List Byte) : Nat := leNat l.reverse

/-- n bytes of a number, most significant first. -/
def beBytes (n v : Nat) : List Byte := (leBytes n v).reverse

/-- The 32 bytes of a vault key, most significant first. -/
def keyBytes (k : BitVec 256) : List Byte := beBytes 32 k.toNat

/-- Bytes in pieces of 16. -/
def blocks16 (n : Nat) (l : List Byte) : List (List Byte) := (List.range n).map fun i => (l.drop (16 * i)).take 16

/-! ## GCM -/

/-- Product in GF(2^128) as GCM orders its bits: over the n bits of x that are left, from bit n - 1. -/
def gcmMulN : Nat → BitVec 128 → BitVec 128 → BitVec 128 → BitVec 128
  | 0, _, _, z => z
  | n + 1, x, v, z =>
    let v' := if v.getLsbD 0 then (v >>> 1) ^^^ ((0xE1 : BitVec 128) <<< 120) else v >>> 1
    gcmMulN n x v' (if x.getLsbD n then z ^^^ v else z)

/-- Product in GF(2^128) as GCM orders its bits. -/
def gcmMul (x y : BitVec 128) : BitVec 128 := gcmMulN 128 x y 0

/-- GHASH of whole blocks. -/
def ghash (h : BitVec 128) (bs : List (List Byte)) : BitVec 128 :=
  bs.foldl (fun y b => gcmMul (y ^^^ BitVec.ofNat 128 (beNat b)) h) 0

/-- Counter block k of a message with an IV of 12 bytes; block 1 makes the tag. -/
def gcmCounter (iv : List Byte) (k : Nat) : List Byte := iv ++ beBytes 4 k

/-- The tag of a ciphertext of whole blocks with no associated data. -/
def gcmTag (rk : List (List Byte)) (iv c : List Byte) : List Byte :=
  let h := BitVec.ofNat 128 (beNat (aesEncrypt rk (List.replicate 16 0)))
  let bs := blocks16 (c.length / 16) c ++ [beBytes 8 0 ++ beBytes 8 (8 * c.length)]
  xorBytes (beBytes 16 (ghash h bs).toNat) (aesEncrypt rk (gcmCounter iv 1))

/-- A text of whole blocks under the counter stream. -/
def gcmStream (rk : List (List Byte)) (iv c : List Byte) : List Byte :=
  ((List.range (c.length / 16)).map fun i =>
    xorBytes ((c.drop (16 * i)).take 16) (aesEncrypt rk (gcmCounter iv (i + 2)))).flatten

/-- AES-256-GCM decryption; none where the tag does not agree. -/
def gcmDecrypt (key : BitVec 256) (iv c tag : List Byte) : Option (List Byte) :=
  let rk := roundKeys (keyBytes key)
  if gcmTag rk iv c = tag then some (gcmStream rk iv c) else none

/-! ## Key wrap with padding -/

/-- The initial value of RFC 5649 for a text of m bytes. -/
def wrapIv (m : Nat) : List Byte := [0xA6, 0x59, 0x59, 0xA6] ++ beBytes 4 m

/-- Wrapping of m bytes, more than 8, under a key. -/
def keyWrap (key : BitVec 256) (p : List Byte) : List Byte :=
  let rk := roundKeys (keyBytes key)
  let n := (p.length + 7) / 8
  let r := (List.range n).map fun i => ((p ++ List.replicate 7 0).drop (8 * i)).take 8
  let st := (List.range (6 * n)).foldl (fun (st : List Byte × List (List Byte)) k =>
    let i := k % n
    let b := aesEncrypt rk (st.1 ++ (st.2[i]?).getD [])
    (xorBytes (b.take 8) (beBytes 8 (k + 1)), st.2.set i (b.drop 8))) (wrapIv p.length, r)
  st.1 ++ st.2.flatten

/-- Unwrapping of a blob of whole 8-byte pieces; none where its check value, length or padding is wrong. -/
def keyUnwrap (key : BitVec 256) (c : List Byte) : Option (List Byte) :=
  let rk := roundKeys (keyBytes key)
  let n := c.length / 8 - 1
  if c.length % 8 ≠ 0 || n < 2 then none
  else
    let r := (List.range n).map fun i => (c.drop (8 * (i + 1))).take 8
    let st := (List.range (6 * n)).foldl (fun (st : List Byte × List (List Byte)) k' =>
      let k := 6 * n - 1 - k'
      let i := k % n
      let b := aesDecrypt rk (xorBytes st.1 (beBytes 8 (k + 1)) ++ (st.2[i]?).getD [])
      (b.take 8, st.2.set i (b.drop 8))) (c.take 8, r)
    let m := beNat (st.1.drop 4)
    let p := st.2.flatten
    if st.1.take 4 = [0xA6, 0x59, 0x59, 0xA6] && decide (8 * (n - 1) < m) && decide (m ≤ 8 * n) &&
        (p.drop m).all (· == 0) then some (p.take m)
    else none

/-! ## SHAKE256 -/

/-- Rotation amounts of Keccak-f[1600], lane x + 5 y. -/
def keccakRot : List Nat :=
  [0, 1, 62, 28, 27, 36, 44, 6, 55, 20, 3, 10, 43, 25, 39, 41, 45, 15, 21, 8, 18, 2, 61, 56, 14]

/-- Round constants of Keccak-f[1600]. -/
def keccakRc : List DWord :=
  [0x1, 0x8082, 0x800000000000808A, 0x8000000080008000, 0x808B, 0x80000001, 0x8000000080008081, 0x8000000000008009,
   0x8A, 0x88, 0x80008009, 0x8000000A, 0x8000808B, 0x800000000000008B, 0x8000000000008089, 0x8000000000008003,
   0x8000000000008002, 0x8000000000000080, 0x800A, 0x800000008000000A, 0x8000000080008081, 0x8000000000008080,
   0x80000001, 0x8000000080008008]

/-- Lane i of a Keccak state. -/
def laneK (a : List DWord) (i : Nat) : DWord := (a[i]?).getD 0

/-- One round of Keccak-f[1600]. -/
def keccakRound (a : List DWord) (rc : DWord) : List DWord :=
  let c := (List.range 5).map fun x => (List.range 5).foldl (fun v y => v ^^^ laneK a (x + 5 * y)) 0
  let d := (List.range 5).map fun x => laneK c ((x + 4) % 5) ^^^ (laneK c ((x + 1) % 5)).rotateLeft 1
  let a := (List.range 25).map fun i => laneK a i ^^^ laneK d (i % 5)
  -- lane x + 5 y of the next state comes from lane x' + 5 y' with y = 2 x' + 3 y' and x = y'
  let b := (List.range 25).map fun i =>
    let j := (i % 5 + 3 * (i / 5)) % 5 + 5 * (i % 5)
    (laneK a j).rotateLeft ((keccakRot[j]?).getD 0)
  (List.range 25).map fun i =>
    let y := i / 5 * 5
    let v := laneK b i ^^^ (~~~laneK b (y + (i + 1) % 5) &&& laneK b (y + (i + 2) % 5))
    if i = 0 then v ^^^ rc else v

/-- Keccak-f[1600]. -/
def keccakF (a : List DWord) : List DWord := keccakRc.foldl keccakRound a

/-- A block of 136 bytes absorbed. -/
def absorb (a : List DWord) (b : List Byte) : List DWord :=
  keccakF ((List.range 25).map fun i => laneK a i ^^^ BitVec.ofNat 64 (leNat ((b.drop (8 * i)).take 8)))

/-- The first 136 bytes of SHAKE256 of a message. -/
def shake256 (m : List Byte) : List Byte :=
  let n := m.length / 136 + 1
  let pad := n * 136 - m.length
  let padded := if pad = 1 then m ++ [0x9F] else m ++ [0x1F] ++ List.replicate (pad - 2) 0 ++ [0x80]
  let a := (List.range n).foldl (fun a i => absorb a ((padded.drop (136 * i)).take 136)) (List.replicate 25 0)
  ((a.take 17).map fun x => leBytes 8 x.toNat).flatten

/-- A measurement: 64 bytes of SHAKE256, the first byte least significant. -/
def measure (m : List Byte) : BitVec 512 := BitVec.ofNat 512 (leNat ((shake256 m).take 64))

/-- A measurement register extended (26 R355). -/
def extendMr (mr m : BitVec 512) : BitVec 512 := measure (leBytes 64 mr.toNat ++ leBytes 64 m.toNat)

/-! ## SHA-384 (FIPS 180-4; log 24) -/

/-- The round constants: 64 bits of the fractional parts of the cube roots of the first 80 primes. -/
def sha512K : List DWord :=
  [0x428A2F98D728AE22, 0x7137449123EF65CD, 0xB5C0FBCFEC4D3B2F, 0xE9B5DBA58189DBBC, 0x3956C25BF348B538,
   0x59F111F1B605D019, 0x923F82A4AF194F9B, 0xAB1C5ED5DA6D8118, 0xD807AA98A3030242, 0x12835B0145706FBE,
   0x243185BE4EE4B28C, 0x550C7DC3D5FFB4E2, 0x72BE5D74F27B896F, 0x80DEB1FE3B1696B1, 0x9BDC06A725C71235,
   0xC19BF174CF692694, 0xE49B69C19EF14AD2, 0xEFBE4786384F25E3, 0x0FC19DC68B8CD5B5, 0x240CA1CC77AC9C65,
   0x2DE92C6F592B0275, 0x4A7484AA6EA6E483, 0x5CB0A9DCBD41FBD4, 0x76F988DA831153B5, 0x983E5152EE66DFAB,
   0xA831C66D2DB43210, 0xB00327C898FB213F, 0xBF597FC7BEEF0EE4, 0xC6E00BF33DA88FC2, 0xD5A79147930AA725,
   0x06CA6351E003826F, 0x142929670A0E6E70, 0x27B70A8546D22FFC, 0x2E1B21385C26C926, 0x4D2C6DFC5AC42AED,
   0x53380D139D95B3DF, 0x650A73548BAF63DE, 0x766A0ABB3C77B2A8, 0x81C2C92E47EDAEE6, 0x92722C851482353B] ++
  [0xA2BFE8A14CF10364, 0xA81A664BBC423001, 0xC24B8B70D0F89791, 0xC76C51A30654BE30, 0xD192E819D6EF5218,
   0xD69906245565A910, 0xF40E35855771202A, 0x106AA07032BBD1B8, 0x19A4C116B8D2D0C8, 0x1E376C085141AB53,
   0x2748774CDF8EEB99, 0x34B0BCB5E19B48A8, 0x391C0CB3C5C95A63, 0x4ED8AA4AE3418ACB, 0x5B9CCA4F7763E373,
   0x682E6FF3D6B2B8A3, 0x748F82EE5DEFB2FC, 0x78A5636F43172F60, 0x84C87814A1F0AB72, 0x8CC702081A6439EC,
   0x90BEFFFA23631E28, 0xA4506CEBDE82BDE9, 0xBEF9A3F7B2C67915, 0xC67178F2E372532B, 0xCA273ECEEA26619C,
   0xD186B8C721C0C207, 0xEADA7DD6CDE0EB1E, 0xF57D4F7FEE6ED178, 0x06F067AA72176FBA, 0x0A637DC5A2C898A6,
   0x113F9804BEF90DAE, 0x1B710B35131C471B, 0x28DB77F523047D84, 0x32CAAB7B40C72493, 0x3C9EBE0A15C9BEBC,
   0x431D67C49C100D4C, 0x4CC5D4BECB3E42B6, 0x597F299CFC657E2A, 0x5FCB6FAB3AD6FAEC, 0x6C44198C4A475817]

/-- The first value: 64 bits of the fractional parts of the square roots of the 9th to 16th primes. -/
def sha384H : List DWord :=
  [0xCBBB9D5DC1059ED8, 0x629A292A367CD507, 0x9159015A3070DD17, 0x152FECD8F70E5939, 0x67332667FFC00B31,
   0x8EB44A8768581511, 0xDB0C2E0D64F98FA7, 0x47B5481DBEFA4FA4]

/-- The message schedule, newest first: n more words. -/
def shaWords : Nat → List DWord → List DWord
  | 0, ws => ws
  | n + 1, ws =>
    let w2 := laneK ws 1
    let w15 := laneK ws 14
    let s1 := w2.rotateRight 19 ^^^ w2.rotateRight 61 ^^^ (w2 >>> 6)
    let s0 := w15.rotateRight 1 ^^^ w15.rotateRight 8 ^^^ (w15 >>> 7)
    shaWords n ((s1 + laneK ws 6 + s0 + laneK ws 15) :: ws)

/-- One round, with its constant and its word. -/
def shaRound (v : List DWord) (kw : DWord × DWord) : List DWord :=
  let x := laneK v
  let s1 := (x 4).rotateRight 14 ^^^ (x 4).rotateRight 18 ^^^ (x 4).rotateRight 41
  let t1 := x 7 + s1 + ((x 4 &&& x 5) ^^^ (~~~(x 4) &&& x 6)) + kw.1 + kw.2
  let s0 := (x 0).rotateRight 28 ^^^ (x 0).rotateRight 34 ^^^ (x 0).rotateRight 39
  let t2 := s0 + ((x 0 &&& x 1) ^^^ (x 0 &&& x 2) ^^^ (x 1 &&& x 2))
  [t1 + t2, x 0, x 1, x 2, x 3 + t1, x 4, x 5, x 6]

/-- A block of 128 bytes taken in. -/
def shaBlock (h : List DWord) (b : List Byte) : List DWord :=
  let ws := ((List.range 16).map fun i => BitVec.ofNat 64 (beNat ((b.drop (8 * i)).take 8))).reverse
  ((sha512K.zip (shaWords 64 ws).reverse).foldl shaRound h |>.zip h).map fun p => p.1 + p.2

/-- SHA-384 of a message. -/
def sha384 (m : List Byte) : BitVec 384 :=
  let n := (m.length + 17 + 127) / 128
  let p := m ++ [0x80] ++ List.replicate (128 * n - m.length - 17) 0 ++ beBytes 16 (8 * m.length)
  let h := ((List.range n).map fun i => (p.drop (128 * i)).take 128).foldl shaBlock sha384H
  BitVec.ofNat 384 ((h.take 6).foldl (fun a w => a * 2 ^ 64 + w.toNat) 0)

end Sys2Proof.Machine
end

