-- ==== Sys2Proof/Machine/Ops.lean ====
section
/-! DEFINITION. Named operations over registers and over the work of a launch: scalar and predicate registers (03 R51, R52,
14 R199), the late-fault log (07 R116), result cells and retirement (01 R34, R35), cancelling a launch (17 R304), taking
a fault (24 R333) and returning from its handler (R336, 17 R302, 19 R307). -/
namespace Sys2Proof.Machine

/-- What a meaning answers. -/
abbrev Res := Host.Outcome State Fault Refusal

/-! ## Scalar registers (03 R50, R51, 14 R199) -/

/-- Device time bits [63:32]. -/
def State.timeHigh (s : State) : Word := field s.dev.time 32 32

/-- An S register as a scalar source (03 R51). -/
def State.readS (s : State) (n : SReg) : Word :=
  if h : n.toNat < 48 then s.g.s[n.toNat]
  else
    match n.toNat with
    | 48 => s.g.blkidx
    | 49 => s.g.pageno
    | 50 => s.g.slotno
    | 51 => s.g.pstat
    | 52 => BitVec.ofNat 32 s.g.gid
    | 53 => BitVec.ofNat 32 s.wg.coreId
    | 54 => BitVec.ofNat 32 (hallOf s.wg.coreId)
    | 55 => BitVec.ofNat 32 (hallOf s.wg.coreId / 4)
    | 56 => s.ln.ticket.setWidth 32
    | 57 => BitVec.ofNat 32 s.ln.lid
    | 58 => BitVec.ofNat 32 s.ln.desc.count
    | 59 => BitVec.ofNat 32 s.ln.desc.ngroups
    | 60 => field s.dev.time 0 32
    | 61 => s.g.timeHi
    | _ => 0

/-- The pair at an even S register: S60 and S61 are sampled together (14 R199). -/
def State.readPair (s : State) (n : SReg) : DWord :=
  if n.toNat = 60 then s.dev.time else s.readS (n + 1) ++ s.readS n

/-- A read of S60, alone or as a pair, sets the latch that S61 returns (03 R51, 14 R199). -/
def State.latch (s : State) (n : SReg) : State :=
  if n.toNat = 60 then { s with g := { s.g with timeHi := s.timeHigh } } else s

/-- A write of S0 to S47; S48 to S63 are refused at decode (12 R178). -/
def State.writeS (s : State) (n : SReg) (v : Word) : State :=
  { s with g := { s.g with s := vset s.g.s n.toNat v } }

/-- A write of a pair, bits [31:0] in the even register. -/
def State.writePair (s : State) (n : SReg) (v : DWord) : State :=
  (s.writeS n (field v 0 32)).writeS (n + 1) (field v 32 32)

/-- A predicate register of the group, as the scalar stream reads it. -/
def State.readP (s : State) (n : BitVec 3) : Word := vget s.g.p n.toNat 0

/-- A predicate written by the scalar stream: units already enqueued keep their copy (03 R52). -/
def State.writeP (s : State) (n : BitVec 3) (v : Word) : State :=
  { s with g := { s.g with p := vset s.g.p n.toNat v } }

/-- Bits of a register chosen by a mask replaced. -/
def mix (mask new old : Word) : Word := (new &&& mask) ||| (old &&& ~~~mask)

/-- Bits of a predicate written by a lane instruction: the group's register, the running unit's copy and the queued
copies (03 R53, 14 R215, log 13). -/
def State.writePLanes (s : State) (n : BitVec 3) (mask v : Word) : State :=
  let up : LaneUnit → LaneUnit := fun u => { u with p := vset u.p n.toNat (mix mask v (vget u.p n.toNat 0)) }
  { s with g := { s.g with
      p := vset s.g.p n.toNat (mix mask v (vget s.g.p n.toNat 0))
      run := s.g.run.map fun r => { r with u := up r.u }
      queue := s.g.queue.map up } }

/-! ## Lane work -/

/-- No unit of lane work runs or waits. -/
def Group.laneIdle (g : Group) : Bool := g.run.isNone && g.queue.isEmpty

/-- The condition of a draining word: every clause enqueued before it has completed, and every returning access of
those clauses has been performed (12 R181). A reduction that returns nothing is complete once it has issued (07 R115) and is not waited for, by
`ENDG` (14 R219) nor by any other draining word (DEDUCED, log 107). -/
def State.drained (s : State) : Bool :=
  s.g.laneIdle && !(s.porters.any fun r => r.wgId == s.g.wgId && r.gid == s.g.gid && r.flight.isSome)

/-- V registers mapped: some lane live (03 R56). -/
def Group.mapped (g : Group) : Nat := (g.v.toList.filter fun r => r.live != 0).length

/-- Physical registers bound to the group (03 R77). -/
def Group.bound (g : Group) : Nat := (g.v.toList.filter fun r => r.phys.isSome).length

/-- V registers in the spill area (03 R77). -/
def Group.spilled (g : Group) : Nat := (g.v.toList.filter fun r => r.spilled).length

/-- The group with every V mapping released. -/
def Group.releaseV (g : Group) : Group :=
  { g with v := Vector.replicate 128 VReg.unmapped, want := 0, granted := 0, spillOut := false }

/-- The group holds a block (01 R28): BLKIDX names one. -/
def Group.holds (g : Group) : Bool := g.blkidx != 0xFFFFFFFF

/-- The group with no block: the identity registers of 01 R40. -/
def Group.dropBlock (g : Group) : Group :=
  { g with blkidx := 0xFFFFFFFF, pageno := 0xFFFFFFFF, slotno := 0xFFFFFFFF, pstat := 0 }

/-! ## Interrupts and the late-fault log -/

/-- An interrupt event of a function, with the generation at which it arose (23 R329). -/
def State.interrupt (s : State) (fn vec : Nat) : State :=
  { s with funcs := s.funcs.mapIdx fun i f => if i == fn then { f with irqs := f.irqs ++ [⟨vec, f.gen⟩] } else f }

/-- Where a device write of a launch goes; an absent frame of an area that stays resident is written all the same (01
R17). -/
def State.areaAddr (s : State) (l : Launch) (va : Nat) : Except (BitVec 8) Nat :=
  match s.reachVa l.cmd.tenant l.ticket va true with
  | .ok da => .ok da
  | .fault c => .error c
  | .absent dfn => .ok (dfn * 0x10000 + va % 0x10000)

/-- What a late fault records (07 R116). -/
structure LateFault where
  va     : Nat
  cause  : BitVec 8
  lanes  : Word
  blkidx : Word
  core   : Nat
  gid    : Nat
  src    : Nat
  deriving DecidableEq, Repr

/-- The 256 bits of a late-fault entry (07 R116). -/
def LateFault.bits (f : LateFault) (time : DWord) : Nat :=
  f.va % 2 ^ 56 * 2 ^ 200 + f.cause.toNat * 2 ^ 192 + f.lanes.toNat * 2 ^ 160 + f.blkidx.toNat * 2 ^ 128 +
    f.core % 256 * 2 ^ 120 + f.gid % 16 * 2 ^ 116 + f.src * 2 ^ 113 + time.toNat

/-- A late fault counted, and written to the log where an entry can be written: the log holds the entries written so far,
64 at most (07 R116; log 14). -/
def State.late (s : State) (lid : Nat) (f : LateFault) : State :=
  match s.findLaunch lid with
  | none => s
  | some l =>
    let s := s.modLaunch lid fun l => { l with lateCnt := min 0xFFFFFFFF (l.lateCnt + 1) }
    if l.desc.lfbase = 0 || 64 ≤ l.lateIdx then s
    else
      match s.reachVa l.cmd.tenant l.ticket (l.desc.lfbase + 32 * l.lateIdx) true with
      | .ok da => (s.batch (cellsAt da (leBytes 32 (f.bits s.dev.time)))).modLaunch lid fun l => { l with lateIdx := l.lateIdx + 1 }
      | _ => s

/-! ## The dispenser's end conditions (01 R24, R28, R44) -/

/-- A dispenser event of a workgroup's core: the landing barrier's phase advances (01 R24). -/
def Workgroup.event (w : Workgroup) : Workgroup := { w with lbar := { w.lbar with phase := w.lbar.phase + 1 } }

/-- A parked block is re-offerable: its awaited block has retired and its data stands in its slot, or it has no slot (01
R42). -/
def Workgroup.offerable (w : Workgroup) (p : Parked) : Bool :=
  p.offer.isSome && !p.copied &&
  (match p.slot with
   | none => true
   | some n => (w.slot n).st == .parked)

/-- The parked blocks of a workgroup. -/
def Workgroup.parkedBlocks (w : Workgroup) : List Parked := w.parked.filterMap fun o => o

/-- The END condition of a core (01 R28). -/
def Workgroup.atEnd (w : Workgroup) (l : Launch) : Bool :=
  l.st == .ended || l.deadlock ||
  (decide (l.desc.count ≤ l.next) && w.slots.toList.all (fun x => x.st == .free || x.st == .held) && w.idxq.isEmpty &&
    w.offers.isEmpty && w.parkedBlocks.isEmpty)

/-- The workgroups of a launch. -/
def State.launchWgs (s : State) (lid : Nat) : List Workgroup := s.allWgs.filter fun w => w.lid == lid && w.id != 0

/-- The END condition of every core of a launch looked at again: where it has become true, a dispenser event (01
R24). -/
def State.checkEnd (s : State) (lid : Nat) : State :=
  match s.findLaunch lid with
  | none => s
  | some l =>
    (s.launchWgs lid).foldl (fun s w =>
      s.modWg w.id fun w => if w.atEnd l && !w.endSeen then { w.event with endSeen := true } else { w with endSeen := w.atEnd l }) s

/-- The cause of an access that only fails: a frame that holds an error of its own is a poisoned frame to it (07 R115, R116,
24 R348). -/
def poisonCause (c : BitVec 8) : BitVec 8 := if c = 0x50 || c = 0x14 then 0x17 else c

/-- A result cell written (01 R34); a failed check goes to the late-fault log with SRC 4. -/
def State.writeCell (s : State) (lid idx : Nat) (core gid : Nat) (value : Nat) : State :=
  match s.findLaunch lid with
  | none => s
  | some l =>
    let va := l.desc.resbase + 8 * idx
    match s.areaAddr l va with
    | .ok da => s.batch (cellsAt da (leBytes 8 value))
    | .error c => s.late lid ⟨va, poisonCause c, 0, BitVec.ofNat 32 idx, core, gid, 4⟩

/-- The 64 bits of a result cell (01 R34). -/
def cellBits (ret psn dlk : Bool) (pstat : Word) (value : Word) : Nat :=
  (if ret then 2 ^ 63 else 0) + (if psn then 2 ^ 62 else 0) + (if dlk then 2 ^ 61 else 0) +
    pstat.toNat % 2 ^ 16 * 2 ^ 32 + value.toNat

/-- The parked blocks of a launch. -/
def State.parkedOf (s : State) (lid : Nat) : List (Workgroup × Parked) :=
  (s.launchWgs lid).flatMap fun w => w.parkedBlocks.map fun p => (w, p)

/-- The cells of parked blocks at the end of a launch, with the grid words that count them (01 R44 to R46). A parked block
has no group: the GROUPID of a failed cell write is 0 (DESIGN CHOICE, log 77). -/
def State.dropParked (s : State) (lid : Nat) (deadlock : Bool) : State :=
  let ps := s.parkedOf lid
  let s := ps.foldl (fun s p =>
    s.writeCell lid p.2.blkidx.toNat p.1.coreId 0 (cellBits false false true p.2.pstat (BitVec.ofNat 32 p.2.awaited))) s
  let s := (s.launchWgs lid).foldl (fun s w =>
    s.modWg w.id fun w => { w with parked := w.parked.map fun _ => none }) s
  s.modLaunch lid fun l => { l with
    nparked := l.nparked + ps.length
    firstPark := if deadlock then ps.foldl (fun m p => if p.2.blkidx.toNat < m.toNat then p.2.blkidx else m) l.firstPark else l.firstPark }

/-- Some group of the launch has not ended: the dispenser still assigns, and pages still land (01 R45). -/
def State.groupsLeft (s : State) (lid : Nat) : Bool :=
  let ws := s.launchWgs lid
  s.allGroups.any fun g => g.st != .ended && g.st != .absent && ws.any fun w => w.id == g.wgId

/-- DEADLOCK: blocks are parked and nothing else can move (01 R44); a cancelled launch is no more found so, and none whose groups
have all ended (R45, R46). -/
def State.deadlocked (s : State) (l : Launch) : Bool :=
  let ws := s.launchWgs l.lid
  s.groupsLeft l.lid && decide (l.desc.count ≤ l.next) && l.st == .running && !l.deadlock && !l.aborted &&
  ws.all (fun w => w.idxq.isEmpty && w.offers.isEmpty && w.slots.toList.all (fun x => x.st == .free || x.st == .parked) &&
    w.parkedBlocks.all fun p => p.offer.isNone) &&
  !(s.allGroups.any fun g => g.holds && g.st != .ended && g.st != .absent && ws.any fun w => w.id == g.wgId) &&
  ws.any fun w => !w.parkedBlocks.isEmpty

/-- The launch ended with status DEADLOCK where R44 finds it so: cells of the parked blocks, END at every core. -/
def State.checkDeadlock (s : State) (lid : Nat) : State :=
  match s.findLaunch lid with
  | none => s
  | some l =>
    if s.deadlocked l then
      let s := s.dropParked lid true
      let s := s.modLaunch lid fun l => { l with deadlock := true }
      (s.launchWgs lid).foldl (fun s w =>
        s.modWg w.id fun w => { w.event with endSeen := true }) s
    else s

/-! ## Retirement (01 R22, R34, R35, R42) -/

/-- A job. -/
def State.findJob (s : State) (id : Nat) : Option Job := s.jobs.find? fun j => j.id == id

/-- A job changed. -/
def State.modJob (s : State) (id : Nat) (f : Job → Job) : State :=
  { s with jobs := s.jobs.map fun j => if j.id == id then f j else j }

/-- KIND of the device's own job that copies a slot to the copy-out area; PARAM is the record (01 R41). -/
def copyOutKind : BitVec 8 := 0xF0

/-- KIND of the device's own job that re-lands a block; PARAM is the record (01 R42). -/
def relandKind : BitVec 8 := 0xF1

/-- KIND of the flash engine's landing of a page, a job with no issuing group; PARAM is the slot (08 R138). -/
def landKind : BitVec 8 := 0xF2

/-- An uncompleted job of the gang covers a slot of a workgroup (01 R22). -/
def State.jobCovers (s : State) (w n : Nat) : Bool :=
  s.jobs.any fun j => (j.reads ++ j.writes).any fun r =>
    r.1 == w && decide (r.2.1 < 0x60000 + 0x4000 * (n + 1)) && decide (0x60000 + 0x4000 * n < r.2.1 + r.2.2)

/-- A slot with no block; its barrier keeps its phase. -/
def Slot.emptied (y : Slot) : Slot := { Slot.free with bar := y.bar }

/-- A slot released by retirement: free, or held and bound to no group while a job covers it (01 R22). -/
def State.releaseSlot (s : State) (w n : Nat) : State :=
  s.modWg w fun x => x.modSlot n fun y =>
    if s.jobCovers w n then { y with st := .held, holder := none, park := none, stalled := false } else y.emptied

/-- Slots of a launch that stayed held only for jobs made free once no job covers them (01 R22). -/
def State.sweepSlots (s : State) (lid : Nat) : State :=
  (s.launchWgs lid).foldl (fun s w =>
    (List.range 8).foldl (fun s n =>
      if (w.slot n).st == .held && (w.slot n).holder.isNone && !s.jobCovers w.id n then s.releaseSlot w.id n else s) s) s

/-- A job out of the scheduler: it counts no more for its successors, and slots held for it alone are free (08 R135, 01
R22), which the end conditions see (R28, R44). -/
def State.dropJob (s : State) (j : Job) : State :=
  let s : State := { s with
    jobs := (s.jobs.filter fun k => k.id != j.id).map fun (k : Job) => { k with preds := k.preds.filter fun p => p != j.id } }
  ((s.sweepSlots j.lid).checkEnd j.lid).checkDeadlock j.lid

/-- STOP of MPROG (11 R171). -/
def stopBit : Word := 0x80000000

/-- The matrix stream of a workgroup ends without arriving; K-steps and rows already applied stand, and a word that had
begun has STOP set in MPROG (17 R284, R287, 11 R173). -/
def State.seqEnd (s : State) (w : Nat) : State :=
  match s.findWg w with
  | none => s
  | some x =>
    let s := s.batch x.seq.pend
    let js := s.jobs.filter fun j => x.seq.job == some j.id
    let s := js.foldl (fun s j => s.dropJob j) s
    let began : Bool := js.any fun j => j.st != .waiting
    s.modWg w fun x => { x with seq := { x.seq with
      run := false, flt := false, job := none, pend := [], sticky := 0, zeros := []
      mprog := if began then x.seq.mprog ||| stopBit else x.seq.mprog } }

/-- The waiters of a block become re-offerable, in the order of retirements; those whose data stands ready make a
dispenser event (01 R24, R29, R42). -/
def State.wake (s : State) (lid idx : Nat) : State :=
  match s.findLaunch lid with
  | none => s
  | some l =>
    let s := (s.launchWgs lid).foldl (fun s w =>
      s.modWg w.id fun w =>
        let w' := { w with parked := w.parked.map fun o => o.map fun p =>
          if p.awaited == idx && p.offer.isNone then { p with offer := some l.offers } else p }
        (List.range (w.parkedBlocks.filter fun p => p.awaited == idx && p.offer.isNone &&
          w.offerable { p with offer := some 0 }).length).foldl (fun w _ => w.event) w') s
    s.modLaunch lid fun l => { l with offers := l.offers + 1 }

/-- Block idx of a launch retired with a cell, its waiters re-offered (01 R34, R35). -/
def State.retireBlock (s : State) (lid idx core gid : Nat) (poison : Bool) (pstat value : Word) : State :=
  let s := s.writeCell lid idx core gid (cellBits true poison false pstat value)
  let s := s.modLaunch lid fun l => { l with
    retired := idx :: l.retired
    nretired := l.nretired + 1
    poisoned := l.poisoned + if poison then 1 else 0 }
  s.wake lid idx

/-- The block that group gid of workgroup w holds retired: cell, waiters, slot; the group then holds none. -/
def State.retireHeld (s : State) (w gid : Nat) (poison : Bool) (value : Word) : State :=
  match s.findGroup w gid, s.findWg w with
  | some g, some x =>
    if !g.holds then s
    else
      let s := s.retireBlock x.lid g.blkidx.toNat x.coreId gid poison g.pstat value
      let s := s.modGroup w gid Group.dropBlock
      let s := if g.slotno.toNat < 8 then s.releaseSlot w g.slotno.toNat else s
      (s.checkEnd x.lid).checkDeadlock x.lid
  | _, _ => s

/-- A group that ends retires the block it holds poisoned: its stores are published before the cell is written (01 R35). -/
def State.retireEnding (s : State) (w gid : Nat) : State :=
  if (s.findGroup w gid).any Group.holds then (s.publish w gid).retireHeld w gid true 0xFFFFFFFF else s

/-- The block of a parked record retired poisoned: its record is free, and its slot (01 R37). -/
def State.retireParked (s : State) (w r : Nat) : State :=
  match s.findWg w with
  | none => s
  | some x =>
    match (x.parked[r]?).bind id with
    | none => s
    | some p =>
      let s := s.retireBlock x.lid p.blkidx.toNat x.coreId 0 true p.pstat 0xFFFFFFFF
      let s := s.modWg w fun x => { x with parked := x.parked.set r none }
      let s := match p.slot with
        | some n => s.releaseSlot w n
        | none => s
      (s.checkEnd x.lid).checkDeadlock x.lid

/-! ## Touch traps (01 R36, R37) -/

/-- A touch trap of the slot fires on a read: it is armed, and a block holds the slot (01 R25, R36; log 7). -/
def Slot.fires (y : Slot) : Bool := y.trap && y.st == .held && y.holder.isSome

/-- The touch trap of a slot fires: it is disarmed, and other reads of the slot wait for the disposition (01 R36). -/
def State.fireTrap (s : State) (w k : Nat) : State :=
  s.modWg w fun x => x.modSlot k fun y => { y with trap := false, stalled := true }

/-- The block of a slot that a touch trap names. -/
def State.trapAt (s : State) (w k : Nat) : TSlot := ⟨w, k, ((s.findWg w).map fun x => (x.slot k).idx).getD 0⟩

/-- The slot of a touch trap while its block still stands in it. -/
def State.trapBlock (s : State) (t : TSlot) : Option Slot :=
  match s.findWg t.wgId with
  | none => none
  | some x =>
    let y := x.slot t.slot
    if y.idx == t.idx && (y.holder.isSome || y.park.isSome) then some y else none

/-- A touch trap disposed of: it stays disarmed, and the reads that waited go on. -/
def State.endTrap (s : State) (t : TSlot) : State :=
  match s.trapBlock t with
  | some _ => s.modWg t.wgId fun x => x.modSlot t.slot fun y => { y with trap := false, stalled := false }
  | none => s

/-- ZR set in a PSTAT (01 R26). -/
def zrBit {n : Nat} (p : BitVec n) : BitVec n := p ||| 0x100#n

/-- ZERO_RESUME of the block of a slot (01 R37): ZR in its PSTAT, wherever the block stands, and the trap disarmed. -/
def State.zeroResume (s : State) (t : TSlot) : State :=
  match s.trapBlock t with
  | none => s
  | some y =>
    let s := (s.endTrap t).modWg t.wgId fun x =>
      { x.modSlot t.slot (fun y => { y with pstat := zrBit y.pstat }) with
        parked := x.parked.mapIdx fun r o => if y.park == some r then o.map fun p => { p with pstat := zrBit p.pstat } else o }
    match y.holder with
    | some gid => s.modGroup t.wgId gid fun g => { g with pstat := zrBit g.pstat }
    | none => s

/-- A job goes on after a touch trap; the slot reads as zeros to it (01 R37). -/
def Job.goOn (j : Job) (t : Option TSlot) : Job :=
  { j with st := .running, zeros := j.zeros ++ t.toList.map fun t => (t.wgId, t.slot) }

/-- A sequencer goes on after its fault; the slot reads as zeros to it (11 R172, 01 R37). Its reads are as of now. -/
def State.seqGoOn (s : State) (w : Nat) (t : Option TSlot) : State :=
  match s.findWg w with
  | none => s
  | some x =>
    let s := match x.seq.job with
      | some j => s.modJob j fun j => { j with startMem := s.mem }
      | none => s
    s.modWg w fun x => { x with seq := { x.seq with
      flt := false, zeros := x.seq.zeros ++ t.toList.map fun t => (t.wgId, t.slot) } }

/-- A fault of a group stopped at the touch trap of a block ends with a disposition made elsewhere: what it stopped beside
the streams goes on and reads zeros (17 R302, 19 R307). -/
def State.goOnAt (s : State) (w : Nat) (t : TSlot) (seq : Bool) (job : Option Nat) : State :=
  let s := if seq then s.seqGoOn w (some t) else s
  match job with
  | some j => s.modJob j fun k => k.goOn (some t)
  | none => s

/-- Sequencers and jobs stopped on a block resume, whether their fault waits or is being handled (17 R302, 19 R307). -/
def State.resumeStoppers (s : State) (t : TSlot) : State :=
  let waiting := s.allGroups.flatMap fun g => (g.faults.filter fun f => f.tslot == some t).map fun f => (g.wgId, f.src == 2, f.job)
  let taken := s.allGroups.filterMap fun g => g.saved.bind fun v => if v.tslot == some t then some (g.wgId, v.seq, v.job) else none
  let s := (waiting ++ taken).foldl (fun s x => s.goOnAt x.1 t x.2.1 x.2.2) s
  s.modGroups (fun _ => true) fun g => { g with
    faults := g.faults.filter fun f => f.tslot != some t
    saved := g.saved.map fun v => if v.tslot == some t && (v.seq || v.job.isSome) then { v with seq := false, job := none, tslot := none } else v }

/-! ## Ending groups and cancelling launches (14 R219, 17 R304) -/

/-- No `PGET` of a group waits for a parked block any more (01 R33). -/
def Workgroup.untake (w : Workgroup) (gid : Nat) : Workgroup :=
  { w with parked := w.parked.map fun o => o.map fun p => { p with taker := if p.taker = some gid then none else p.taker } }

/-- Group gid of workgroup w ended: stores that no release published are written back (log 15), mappings released. -/
def State.endGroup (s : State) (w gid : Nat) : State :=
  ((s.publish w gid).modWg w fun x => x.untake gid).modGroup w gid fun g =>
    { g.releaseV with st := .ended, run := none, queue := [], saved := none, loop := none, flights := [], faults := [] }

/-- What a waiting imprecise fault records in the late-fault log, for a group of a core (07 R116). -/
def PendFault.toLate (f : PendFault) (core gid : Nat) : LateFault :=
  ⟨f.va.toNat, poisonCause f.code, f.lanes, f.blk, core, gid, f.late⟩

/-- A fault of a group that has ended is one of those that the late-fault log lists (07 R116): of a job, only its credit's and its
read of an uncorrectable slot. -/
def PendFault.logs (f : PendFault) : Bool := f.late != 1 || f.code == 0x20 || f.code == 0x30 || f.code == 0x31

/-- A fault of a group that has ended: it is late. A job that it stopped ends with no effect (log 25), but goes on after
a touch trap, which is disposed of by ZERO_RESUME (16 R277). -/
def State.lateFault (s : State) (x : Workgroup) (gid : Nat) (f : PendFault) : State :=
  let s := if f.logs then s.late x.lid (f.toLate x.coreId gid) else s
  match f.job.bind s.findJob with
  | none => s
  | some j =>
    match f.tslot with
    | some t => (s.zeroResume t).modJob j.id fun k => k.goOn (some t)
    | none => s.dropJob j

/-- A group ends in a handler: the job that the fault stopped ends with no effect, and a touch trap stays disarmed (log 25). -/
def State.endHandler (s : State) (v : Saved) : State :=
  let s := match v.tslot with
    | some t => s.endTrap t
    | none => s
  match v.job.bind s.findJob with
  | some j => s.dropJob j
  | none => s

/-- Once every group of a launch has ended, the landings that go on are discarded (01 R45). -/
def State.dropLandings (s : State) (lid : Nat) : State :=
  if s.groupsLeft lid then s
  else (s.jobs.filter fun j => j.lid == lid && !j.matrix && j.kind == landKind).foldl State.dropJob s

/-- A group that ends by itself (14 R219): the block it holds retires poisoned, faults it never took are late, and a
stream of its that stopped at a fault ends (11 R172). -/
def State.leaveGroup (s : State) (w gid : Nat) : State :=
  match s.findGroup w gid, s.findWg w with
  | some g, some x =>
    let s := s.retireEnding w gid
    let s := g.faults.foldl (fun s f => s.lateFault x gid f) s
    let s := match g.saved with
      | some v => s.endHandler v
      | none => s
    let s := if x.seq.run && x.seq.flt && x.seq.owner == gid then s.seqEnd w else s
    (s.endGroup w gid).dropLandings x.lid
  | _, _ => s

/-- Failures of requests that a cancelled group made, delivered to nobody: a reduction's, an arrival's and a finished job's credit's are late
(17 R304, 07 R116); those of jobs and streams end with these (log 104). -/
def State.lateRest (s : State) (w gid : Nat) : State :=
  match s.findGroup w gid, s.findWg w with
  | some g, some x =>
    (g.faults.filter fun f => f.late != 2 && f.job.isNone).foldl (fun s f => s.late x.lid (f.toLate x.coreId gid)) s
  | _, _ => s

/-- A launch cancelled (17 R304): groups end, the issuing one last, blocks that they held retire poisoned, streams end without arriving, the rows
that they wrote stand (R284; log 47), jobs and requests are discarded, the launch will complete ABORTED. `dev` says that the
device, not HALT or CANCEL, did it (24 R338 DABORT). The status is ABORTED even where DEADLOCK was found before it (DESIGN
CHOICE, log 77). -/
def State.haltLaunch (s : State) (lid : Nat) (dev : Bool) : State :=
  match s.findLaunch lid with
  | none => s
  | some l =>
    if l.st == .ended || l.aborted then s
    else
      let ws := s.launchWgs lid
      let gs := ((s.groups ++ [s.g]).filter fun g => ws.any (fun w => w.id == g.wgId) && g.st != .ended && g.st != .absent).map fun g =>
        (g.wgId, g.gid)
      let s := ws.foldl (fun s w => s.batch w.seq.pend) (s.modLaunch lid fun l => { l with aborted := true })
      let s := { s with
        jobs := s.jobs.filter fun j => j.lid != lid
        resreqs := s.resreqs.filter fun r => r.lid != lid }
      let s := gs.foldl (fun s k => s.retireEnding k.1 k.2) s
      let s := gs.foldl (fun s k => (s.lateRest k.1 k.2).endGroup k.1 k.2) s
      let s := ws.foldl (fun s w => s.modWg w.id fun w => { w with
        seq := { w.seq with
          run := false, flt := false, acc := [], tags := w.seq.tags.map fun _ => .zero, job := none, pend := [], sticky := 0 }
        settles := [] }) s
      if dev then s.modErr l.cmd.tenant fun e => { e with dabort := satInc e.dabort } else s

/-! ## Taking a fault (24 R333 to R337) -/

/-- What a fault brings to its delivery (17 R301). `slot` is the lane slot stopped by a precise lane fault or at the header
of delivery, `pass` the loop pass of a scalar word, `job` the engine job stopped, `tslot` the block whose touch trap fired.
-/
structure Trap where
  code   : BitVec 8
  src    : BitVec 3 := 0
  impr   : Bool := false
  detail : Word := 0
  va     : Nat := 0
  lanes  : Word := 0
  tepc   : Nat := 0
  slot   : Option Bool := none
  pass   : Option Nat := none
  job    : Option Nat := none
  tslot  : Option TSlot := none
  deriving DecidableEq, Repr

/-- TCAUSE of a fault (17 R301). -/
def Trap.cause (t : Trap) : Word :=
  t.src ++ BitVec.ofBool t.impr ++ BitVec.ofBool t.pass.isSome ++ (0 : BitVec 19) ++ t.code

/-- The trap registers filled for a fault (17 R301). -/
def Group.trapRegs (g : Group) (t : Trap) : Group :=
  { g with
    tcause := t.cause
    tdetail := t.detail
    tepc := BitVec.ofNat 32 t.tepc
    tvalo := BitVec.ofNat 32 t.va
    tvahi := BitVec.ofNat 32 (t.va / 2 ^ 32 % 2 ^ 24)
    tlanes := t.lanes
    tpass := BitVec.ofNat 32 (t.pass.getD 0) }

/-- Entry to the handler (24 R333): the lane side and the loop are set aside with the scalar PC, the trap registers are
filled, and the scalar stream starts at HENTRY with an empty lane queue. -/
def Group.enterHandler (g : Group) (t : Trap) : Group :=
  { g.trapRegs t with
    saved := some ⟨g.run, g.queue, g.pc, g.loop, t.slot, t.impr && t.src == 2, t.job, t.tslot⟩
    run := none
    queue := []
    loop := none
    pc := g.hentry.toNat }

/-- The group in the focus is in handler mode (24 R333). -/
def State.inHandler (s : State) : Bool := s.g.saved.isSome

/-- The frame of an uncorrectable error, or of a failed return, met by its first access: later accesses meet 0x17 (24 R348,
07 R112). -/
def State.metFrame (s : State) (t va : Nat) (code : BitVec 8) : State :=
  if code = 0x50 || code = 0x14 then
    match s.walk t va with
    | some (dfn, _, _) => s.modFit dfn fun e => { e with ecc := e.ecc && code != 0x50, integ := e.integ && code != 0x14 }
    | none => s
  else s

/-- 0x14: the gang halts as by `HALT`, and the tenant's interrupt fires (07 R112, 24 R337), which is vector 0 of the launch's function (DESIGN
CHOICE, log 30). -/
def State.integrityHalt (s : State) (lid : Nat) : State :=
  match s.findLaunch lid with
  | some l => (s.haltLaunch lid true).interrupt l.func 0
  | none => s

/-- A fault delivered to the group in the focus. 0x14 halts the gang with the tenant's interrupt (07 R112, 24 R337);
a precise fault in a handler is a double fault (R335); otherwise the handler is entered. -/
def State.takeFault (s : State) (t : Trap) : State :=
  let s := s.metFrame s.tenant t.va t.code
  if t.code = 0x14 then s.integrityHalt s.ln.lid
  else if s.inHandler then
    (s.modErr s.tenant fun e => { e with dblf := satInc e.dblf }).haltLaunch s.ln.lid true
  else { s with g := s.g.enterHandler t }

/-- A precise fault of the scalar word at PC (17 R301): SRC 0, TEPC the word, the pass of a running loop. -/
def State.scalarFault (s : State) (code : BitVec 8) (detail : Word := 0) (va : Nat := 0) : State :=
  s.takeFault { code := code, detail := detail, va := va, tepc := s.g.pc, pass := s.g.loop.map (·.pass) }

/-- An imprecise fault recorded for a group; where the group has ended, a late fault (24 R332, 07 R116). -/
def State.imprecise (s : State) (w gid : Nat) (f : PendFault) : State :=
  match s.findWg w with
  | none => s
  | some x =>
    if (s.findGroup w gid).any fun g => g.st != .ended then s.modGroup w gid fun g => { g with faults := g.faults ++ [f] }
    else s.late x.lid (f.toLate x.coreId gid)

/-- TVALO and TVAHI of a waiting fault: a scratchpad address is no VA (17 R301, 19 R308; log 46). -/
def PendFault.shownVa (f : PendFault) : Nat := if f.sp then 0 else f.va.toNat

/-- The first waiting imprecise fault delivered at a point named by TEPC, with a matrix fault's TEPC its own word (17
R301, 24 R332, R334). None waits, or the group is in a handler: unchanged. -/
def State.deliverPending (s : State) (tepc : Nat) : State :=
  match s.g.faults with
  | [] => s
  | f :: fs =>
    if s.inHandler then s
    else
      { s with g := { s.g with faults := fs } }.takeFault {
        code := f.code, src := f.src, impr := true, detail := f.detail, va := f.shownVa
        lanes := if f.src = 2 then 0 else f.lanes
        tepc := if f.src = 2 then s.wg.seq.mpc else tepc
        slot := if s.g.run.isSome then some s.slot else none
        job := f.job, tslot := f.tslot }

/-- Some imprecise fault can be delivered to the group in the focus. -/
def State.faultDue (s : State) : Bool := !s.g.faults.isEmpty && !s.inHandler

/-! ## Returning from a handler (24 R336, 17 R302, 19 R307) -/

/-- The set-aside work restored, the handler left (24 R336). -/
def Group.restore (g : Group) (v : Saved) : Group :=
  { g with run := v.run, queue := v.queue, pc := v.pc, loop := v.loop, saved := none }

/-- The group abandons its block (19 R307): its lane work and loop are discarded, operations in flight drop their
replies, V mappings are released, the operand file is cleared, and the scalar stream continues at REENTRY. -/
def Group.abandonBlock (g : Group) (reentry : Nat) : Group :=
  { g.releaseV with
    run := none
    queue := []
    loop := none
    saved := none
    flights := g.flights.map fun f => { f with dst := none }
    o := Vector.replicate 8 Lanes.zero
    pc := reentry
    abandon := false }

end Sys2Proof.Machine
end

