-- ==== Sys2Proof/Machine/Edges.lean ====
section
/-! DEFINITION. The jobs of a gang as its task scheduler sees them (08 R135, 01 R41, R42): spaces, ranges and edges, a fresh job,
and when a job makes no step (24 R344). -/
namespace Sys2Proof.Machine

/-! ## Spaces and regions (08 R135) -/

/-- The space of device memory; a workgroup's scratchpad has the workgroup's id. -/
def memSpace : Nat := 0

/-- The space of a flash namespace, counted in pages. -/
def flashSpace (ns : Nat) : Nat := 2 ^ 64 + ns

/-- The space of a peer device's memory, counted in its virtual addresses. -/
def peerSpace (peer : Nat) : Nat := 2 ^ 65 + peer

/-- A range as 08 R135 compares it: memory ranges are rounded out to 64 bytes. -/
def rounded (r : Nat × Nat × Nat) : Nat × Nat :=
  if 2 ^ 64 ≤ r.1 && r.1 < 2 ^ 65 then (r.2.1, r.2.1 + r.2.2)
  else (r.2.1 / 64 * 64, (r.2.1 + r.2.2 + 63) / 64 * 64)

/-- Some range of one list overlaps some range of the other. -/
def overlap (xs ys : List (Nat × Nat × Nat)) : Bool :=
  xs.any fun x => ys.any fun y =>
    x.1 == y.1 && decide ((rounded x).1 < (rounded y).2) && decide ((rounded y).1 < (rounded x).2)

/-- An earlier job precedes a later one: RAW, WAR or WAW (08 R135). -/
def Job.before (e : Job) (reads writes : List (Nat × Nat × Nat)) : Bool :=
  overlap e.writes reads || overlap e.reads writes || overlap e.writes writes

/-- Uncompleted jobs of a gang that a job with these ranges and links must follow (08 R135, 16 R273). -/
def State.predsOf (s : State) (lid : Nat) (reads writes : List (Nat × Nat × Nat)) (after : List (BitVec 16)) : List Nat :=
  (s.jobs.filter fun e => e.lid == lid && (e.before reads writes || (e.tag != 0 && after.contains e.tag))).map (·.id)

/-- An identity for a new job. -/
def State.newJob (s : State) : Nat := s.jobs.foldl (fun m j => max m (j.id + 1)) 1

/-- A job of group gid of a workgroup that has nothing but its name yet. -/
def Job.fresh (id lid wgId gid : Nat) (blkidx : Word) : Job where
  id := id
  lid := lid
  wgId := wgId
  gid := gid
  blkidx := blkidx
  matrix := false
  kind := 0
  param := 0
  cred := false
  tag := 0
  regions := []
  stat := 0xFFFFFFFF
  credbar := 0
  preds := []
  reads := []
  writes := []
  st := .waiting
  pos := 0
  startMem := []
  startSp := []
  startFlash := []
  code := 0
  detail := 0
  iv := 0
  zeros := []
  out := []

/-- The job was offered by a card (16 R272); no matrix instruction, and no copy or landing of the device's own. -/
def Job.ofCard (j : Job) : Bool := !j.matrix && decide (j.kind.toNat ≤ 8)

/-- The device's own job of a kind for record or slot r of a workgroup. -/
def State.ownJob (s : State) (w : Nat) (kind : BitVec 8) (r : Nat) : Option Job :=
  s.jobs.find? fun j => j.wgId == w && j.kind == kind && !j.matrix && j.param.toNat == r

/-- A job of the device's own for a block accepted by the gang's task scheduler, with no issuing group (01 R41, R42, 08 R138):
GROUPID 16 names none. -/
def State.acceptOwn (s : State) (w : Workgroup) (kind : BitVec 8) (r : Nat) (reads writes : List (Nat × Nat × Nat)) : State :=
  { s with jobs := s.jobs ++ [{ Job.fresh s.newJob w.lid w.id 16 0xFFFFFFFF with
      kind := kind, param := BitVec.ofNat 32 r, reads := reads, writes := writes
      preds := s.predsOf w.lid reads writes [] }] }

/-- A job makes no step while a workgroup of its gang is stopping or swapped out (24 R339, R344). -/
def State.jobHeld (s : State) (lid : Nat) : Bool :=
  s.allWgs.any fun w => w.lid == lid && w.id != 0 && (w.stop || w.place != .resident)

end Sys2Proof.Machine
end

