-- ==== Sys2Proof/Machine/Stream.lean ====
section
/-! DEFINITION. How the scalar stream runs (14 R197 to R199, R206, R211 to R213, R220): which word comes next, when a word may
begin, and what ends it. -/
namespace Sys2Proof.Machine

/-! ## Code sections (12 R176) -/

/-- The scalar word at a byte offset, if it lies whole in the section. -/
def Launch.scalarAt (l : Launch) (pc : Nat) : Option Word :=
  if pc % 4 = 0 && decide (pc + 4 ≤ l.desc.slen) then some (BitVec.ofNat 32 (l.scode.readLE pc 4)) else none

/-- The lane word at an index, if it lies in the section (12 R184). -/
def Launch.laneAt (l : Launch) (i : Nat) : Option (BitVec 96) :=
  if i < l.desc.llen then some (BitVec.ofNat 96 (l.lcode.readLE (12 * i) 12)) else none

/-- The matrix word at an index, if it lies in the section. -/
def Launch.matrixAt (l : Launch) (i : Nat) : Option DWord :=
  if i < l.desc.mlen then some (BitVec.ofNat 64 (l.mcode.readLE (8 * i) 8)) else none

/-- Some lane instruction of the launch may write S register n (03 R52, 15 R225): any `RFL` or `VOTE.BAL` of the lane section with that
destination, whichever clauses are enqueued (DESIGN CHOICE, log 110). -/
def Launch.laneWritesS (l : Launch) (n : SReg) : Bool :=
  (List.range l.desc.llen).any fun i =>
    match l.laneAt i with
    | some w =>
      match decodeLane w with
      | .ok (.rfl o) | .ok (.voteBal o) => o.dst == .s n
      | _ => false
    | none => false

/-! ## The loop buffer (12 R180, 14 R211, R212) -/

/-- OP of a scalar word. -/
def opOf (w : Word) : Nat := (field w 26 6 : BitVec 6).toNat

/-- The format of an OP of the scalar map (12 R181); none where no cell is assigned. -/
def opFormat (op : Nat) : Option Char :=
  if [0x01, 0x02, 0x19, 0x21, 0x22, 0x23, 0x24, 0x28, 0x29, 0x2A, 0x2B, 0x2C, 0x2E, 0x2F, 0x30, 0x31, 0x32, 0x33, 0x34,
      0x3C].contains op then some 'A'
  else if [0x03, 0x04, 0x05, 0x06, 0x07, 0x08, 0x09, 0x0A, 0x2D, 0x39, 0x3A, 0x3B].contains op then some 'B'
  else if [0x10, 0x11, 0x12, 0x13, 0x14, 0x15, 0x16, 0x17, 0x18, 0x20, 0x38, 0x3D, 0x3F].contains op then some 'C'
  else if op = 0x1C || op = 0x1D then some 'D'
  else none

/-- A body word has the field that a `LINC` names (14 R212); one of an unassigned OP has none, so that naming any raises 0x06 at the `LOOP`
(DESIGN CHOICE, log 94). -/
def hasField (w : Word) (fld : BitVec 2) : Bool :=
  match opFormat (opOf w), fld.toNat with
  | some 'A', 0 | some 'A', 1 | some 'A', 2 => true
  | some 'B', 0 | some 'B', 1 | some 'B', 3 => true
  | some 'C', 0 | some 'C', 3 => true
  | _, _ => false

/-- A word that may not stand in a loop body (12 R180). -/
def barredInLoop (w : Word) : Bool :=
  let op := opOf w
  decide (0x10 ≤ op && op ≤ 0x1D) || [0x24, 0x29, 0x38, 0x39, 0x3C, 0x3F].contains op

/-- The word's bits [25:20] hold a P or T number in [22:20] (14 R212). -/
def smallField (w : Word) : Bool := [0x21, 0x22, 0x2F].contains (opOf w)

/-- How far a pass steps a field of body word w (14 R211, R212). -/
def LoopSt.stepOf (lp : LoopSt) (w : Nat) (fld : Nat) : Int :=
  lp.pass * ((lp.steps.filter fun x => x.word == w && x.fld.toNat == fld).map fun x => x.step.toInt).sum

/-- A register field stepped exactly; none outside the field's range. -/
def stepReg (v : Nat) (d : Int) (limit : Nat) : Option Nat :=
  let n := (v : Int) + d
  if 0 ≤ n && n < limit then some n.toNat else none

/-- A field of a word replaced. -/
def setField (w : Word) (lo n v : Nat) : Word :=
  let mask : Word := BitVec.ofNat 32 ((2 ^ n - 1) * 2 ^ lo)
  mix mask (BitVec.ofNat 32 (v * 2 ^ lo)) w

/-- The body word of the current pass with its register fields stepped; none where a number leaves its field. -/
def LoopSt.regsAt (lp : LoopSt) (w : Word) : Option Word :=
  let d := fun f => lp.stepOf lp.word f
  let sdLo := 20
  let sdN := if smallField w then 3 else 6
  match stepReg (bitsN w.toNat (sdLo + sdN - 1) sdLo) (d 0) (2 ^ sdN), stepReg (bitsN w.toNat 19 14) (d 1) 64,
      stepReg (bitsN w.toNat 13 8) (d 2) 64 with
  | some sd, some sa, some sb =>
    let w := if d 0 = 0 then w else setField w sdLo sdN sd
    let w := if d 1 = 0 then w else setField w 14 6 sa
    some (if d 2 = 0 then w else setField w 8 6 sb)
  | _, _, _ => none

/-- A body word with the immediate of the current pass, modulo its width. -/
def LoopSt.immAt (lp : LoopSt) (w : Word) : Word :=
  let n := if opFormat (opOf w) == some 'C' then 20 else 12
  let d := lp.stepOf lp.word 3
  if d = 0 then w else setField w 0 n (((bitsN w.toNat (n - 1) 0 : Int) + d) % 2 ^ n).toNat

/-- A word with 0 in the register fields that are not kept; 0 suits every position. -/
def clearRegs (keep : Nat → Bool) (w : Word) : Word :=
  let clear := fun (w : Word) (f : BitVec 2) (lo n : Nat) => if hasField w f && !keep f.toNat then setField w lo n 0 else w
  clear (clear (clear w 0 20 (if smallField w then 3 else 6)) 1 14 6) 2 8 6

/-- The word is refused for the class of an operand (12 R174). -/
def badClass (w : Word) : Bool :=
  match decodeScalar w with
  | .error .badOperandClass => true
  | _ => false

/-- A stepped register of a body word, all its fields stepped, is one that the word does not accept there (14 R212). -/
def LoopSt.badStep (lp : LoopSt) (w : Word) : Bool :=
  badClass (clearRegs (fun f => lp.stepOf lp.word f != 0) w) && !badClass (clearRegs (fun _ => false) w)

/-- What a scalar word's fault brings beside its place. -/
structure SFault where
  code   : BitVec 8
  detail : Word := 0
  va     : Nat := 0
  deriving DecidableEq, Repr

/-- The word at the scalar PC decoded, stepped where a loop runs (12 R174, R176, 14 R212): a stepped register that the word
does not accept raises 0x06, every other field its own cause (17 R303). A stepped field that the word leaves unused is 0x01 of
R174 at that pass, not 0x06 (DESIGN CHOICE, log 92). Of two causes at one pass, 0x06 of a number beyond its field goes before 0x01 of the
stepped immediate, and 0x06 of a class after it (DESIGN CHOICE, log 94). -/
def State.fetchScalar (s : State) : Except SFault Instr :=
  match s.ln.scalarAt s.g.pc with
  | none => .error { code := 0x10 }
  | some w =>
    match s.g.loop with
    | none =>
      match decodeScalar w with
      | .ok i => .ok i
      | .error e => .error { code := e.code }
    | some lp =>
      match lp.regsAt w with
      | none => .error { code := 0x06 }
      | some w' =>
        match decodeScalar (lp.immAt w') with
        | .ok i => .ok i
        | .error .badOperandClass => .error { code := if lp.badStep (lp.immAt w') then 0x06 else 0x02 }
        | .error e => .error { code := e.code }

/-- The PC and the loop state after the current word, when it does not transfer control (14 R211). -/
def Group.after (g : Group) : Nat × Option LoopSt :=
  match g.loop with
  | none => (g.pc + 4, none)
  | some lp =>
    if lp.word + 1 < lp.blen then (lp.body + 4 * (lp.word + 1), some { lp with word := lp.word + 1 })
    else if lp.pass + 1 < lp.count then (lp.body, some { lp with word := 0, pass := lp.pass + 1 })
    else (lp.body + 4 * lp.blen, none)

/-- The end of a word that does not transfer control: the PC moves on in the state that the word left; a fall-through
past the section is refused with 0x10 at the word, which then has no effect (12 R176, log 16). -/
def State.finish (before after : State) : State :=
  let n := before.g.after
  if before.ln.desc.slen < n.1 + 4 then before.scalarFault 0x10
  else { after with g := { after.g with pc := n.1, loop := n.2 } }

/-- A transfer of control to a byte offset: 0x10 outside the section (12 R176). -/
def State.jump (s : State) (target : Int) : Except SFault State :=
  if target < 0 || s.ln.desc.slen < target + 4 then .error { code := 0x10 }
  else .ok { s with g := { s.g with pc := target.toNat } }

/-! ## When a word begins -/

/-- The group in the focus is running on a core that is not halted, and not spilled (03 R64, 24 R339). -/
def State.live (s : State) : Bool :=
  s.g.st == .running && s.wg.place == .resident && !s.core.halted && !s.g.spillOut

/-- A scalar word waits for lane work: a draining word for all of it (12 R181), any other word for units that may write
a register it names (03 R52, 14 R198). -/
def State.scalarBlocked (s : State) (drains : Bool) (regs : List SReg) : Bool :=
  if drains then !s.drained else !s.g.laneIdle && regs.any fun n => decide (n.toNat < 48) && s.ln.laneWritesS n

/-- A stop request holds the word back: with lane work running or stopped, an `ENQ`, a draining word or a taken branch
does not begin (14 R220). -/
def State.stopHolds (s : State) (stopping : Bool) : Bool := s.g.stop && stopping && (s.g.laneStop || !s.g.laneIdle)

/-- The group in the focus abandons its block as soon as an imprecise fault could reach it (01 R37): not in a handler. -/
def State.abandonDue (s : State) : Bool := s.g.abandon && !s.inHandler

/-- The scalar word begins in this step. `stopping` marks the words before which a stop takes effect. -/
def State.scalarGate (s : State) (drains stopping : Bool) (regs : List SReg) : Bool :=
  s.live && !s.abandonDue && !(s.faultDue && s.g.laneIdle) && !s.stopHolds stopping &&
  !s.scalarBlocked drains regs

/-- The group stopped at a safe point: it holds no float, and asks for none (03 R76). -/
def Group.halt (g : Group) : Group := { g with st := .stopped, want := 0, granted := 0 }

/-- What happens instead of a word that does not begin: the block is abandoned (01 R37), a waiting fault is delivered
(24 R332), the group is stopped where the word waits for lane work that has stopped (14 R220), or nothing yet. -/
def State.scalarWait (s : State) : State :=
  if !s.live then s
  else if s.abandonDue && s.g.laneIdle then { s with g := s.g.abandonBlock s.ln.desc.reentry }
  else if s.faultDue && s.g.laneIdle then s.deliverPending 0xFFFFFFFF
  else if s.g.stop && s.g.laneStop then { s with g := s.g.halt }
  else s

/-- A scalar word that does not transfer control: it waits, faults, or has its effect and the PC moves on. -/
def scalarWord (s : State) (drains : Bool) (regs : List SReg) (eff : State → Except SFault State) : Res :=
  if s.scalarGate drains drains regs then
    match eff s with
    | .error f => .next (s.scalarFault f.code f.detail f.va)
    | .ok t => .next (s.finish t)
  else .next (s.scalarWait)

/-- A scalar word that sets the PC itself. -/
def scalarJump (s : State) (drains stopping : Bool) (regs : List SReg) (eff : State → Except SFault State) : Res :=
  if s.scalarGate drains stopping regs then
    match eff s with
    | .error f => .next (s.scalarFault f.code f.detail f.va)
    | .ok t => .next t
  else .next (s.scalarWait)

/-- A draining word that may have to wait for more than lane work: `eff` answers none while it waits. -/
def scalarTry (s : State) (eff : State → Option (Except SFault State)) : Res :=
  if s.scalarGate true true [] then
    match eff s with
    | none => .next s
    | some (.error f) => .next (s.scalarFault f.code f.detail f.va)
    | some (.ok t) => .next (s.finish t)
  else .next s.scalarWait

end Sys2Proof.Machine
end

