-- ==== Sys2Proof/Machine/Flags.lean ====
section
/-! DEFINITION. The sticky bits of ASTAT (05 R82, R83) and the status bits of GSTAT (03 R77): how lane work raises them. -/
namespace Sys2Proof.Machine

/-- NX of ASTAT. -/
def stNX : Word := 0x20
/-- UF of ASTAT. -/
def stUF : Word := 0x40
/-- OF of ASTAT. -/
def stOF : Word := 0x80
/-- DZ of ASTAT. -/
def stDZ : Word := 0x100
/-- NV of ASTAT. -/
def stNV : Word := 0x200
/-- FSAT of ASTAT. -/
def stFSAT : Word := 0x400
/-- ISAT of ASTAT. -/
def stISAT : Word := 0x800

/-- A value of W1C bits after a write: bits written 1 clear (05 R82, 03 R77). -/
def w1c (old wr mask : Word) : Word := old &&& ~~~(wr &&& mask)

/-- ASTAT after a write by `SRW`: RM, FTZ and NANC set, sticky bits written 1 cleared, reserved bits 0 (05 R82). -/
def astatWrite (old wr : Word) : Word := (w1c old wr 0xFE0 &&& 0xFE0) ||| (wr &&& 0x1B)

/-- GSTAT after a write by `SRW`: STRICT set, UNMAP, SPILL and COMPACT written 1 cleared (03 R77). -/
def gstatWrite (old wr : Word) : Word := (w1c old wr 0x7 &&& 0x7) ||| (wr &&& 0x100)

/-- Sticky bits ORed into ASTAT when an instruction completes (05 R83). -/
def Group.raise (g : Group) (bits : Word) : Group := { g with astat := g.astat ||| (bits &&& 0xFE0) }

/-- STRICT of GSTAT: a read without a value traps (03 R67, R77). -/
def Group.strict (g : Group) : Bool := g.gstat.getLsbD 8

/-- UNMAP set (03 R67). -/
def Group.setUnmap (g : Group) : Group := { g with gstat := g.gstat ||| 1 }

end Sys2Proof.Machine
end

