-- ==== Sys2Proof/Machine/Float.lean ====
section
/-! DEFINITION. Number formats and floating-point arithmetic (05): encodings (R78, R79), one rounding (R84), NaN results
(R85), conversions (R86), the special cases and correctly rounded functions of 15 R228, comparison, minimum and maximum
(R229, R230), classes (R231), narrowing with error feedback (R88), XACC (R94 to R96) and FP32 reductions (R98). An
encoding is a number; an irrational result is computed to 2^-120 with an odd last digit (log 20). -/
namespace Sys2Proof.Machine

/-! ## Formats -/

/-- The floating-point formats of R78 and R79. -/
inductive Fmt
  | f32 | f16 | bf16 | e4m3 | f64
  deriving DecidableEq, Repr

/-- Exponent bits. -/
def Fmt.ebits : Fmt → Nat
  | .f32 | .bf16 => 8
  | .f16 => 5
  | .e4m3 => 4
  | .f64 => 11

/-- Fraction bits. -/
def Fmt.fbits : Fmt → Nat
  | .f32 => 23
  | .f16 => 10
  | .bf16 => 7
  | .e4m3 => 3
  | .f64 => 52

/-- Exponent bias. -/
def Fmt.bias : Fmt → Int
  | .f32 | .bf16 => 127
  | .f16 => 15
  | .e4m3 => 7
  | .f64 => 1023

/-- The exponent of the last place of a subnormal. -/
def Fmt.lsb (f : Fmt) : Int := 1 - f.bias - f.fbits

/-- The weight of the sign bit. -/
def Fmt.signW (f : Fmt) : Nat := 2 ^ (f.ebits + f.fbits)

/-- The encoding of +∞ of a format that has one. -/
def Fmt.infEnc (f : Fmt) : Nat := (2 ^ f.ebits - 1) * 2 ^ f.fbits

/-- The canonical NaN (R78, R79, R89). -/
def Fmt.canon (f : Fmt) : Nat :=
  match f with
  | .e4m3 => 0x7F
  | _ => f.infEnc + 2 ^ (f.fbits - 1)

/-- The format of a type of MOD bits [1:0]. -/
def fmtOf : FType → Fmt
  | .f32 => .f32
  | .f16 => .f16
  | .bf16 => .bf16

/-- Rounding, flushing and NaN control of a unit (R82, R83). -/
structure FCtl where
  rm   : BitVec 2
  ftz  : Bool
  nanc : Bool
  deriving DecidableEq, Repr

/-- Nearest even, no flushing, payloads kept. -/
def FCtl.ne : FCtl := ⟨0, false, false⟩

/-- A value of some format: a NaN with its fraction, an infinity, or (-1)^neg · m · 2^e. -/
inductive FVal
  | nan (neg : Bool) (frac : Nat) (quiet : Bool)
  | inf (neg : Bool)
  | fin (neg : Bool) (m : Nat) (e : Int)
  deriving DecidableEq, Repr

/-- The value is a NaN. -/
def FVal.isNan : FVal → Bool
  | .nan _ _ _ => true
  | _ => false

/-- The value is a signalling NaN. -/
def FVal.isSnan : FVal → Bool
  | .nan _ _ q => !q
  | _ => false

/-- The sign bit is set. -/
def FVal.neg : FVal → Bool
  | .nan s _ _ | .inf s | .fin s _ _ => s

/-- The value with its sign inverted. -/
def FVal.negate : FVal → FVal
  | .nan s f q => .nan (!s) f q
  | .inf s => .inf (!s)
  | .fin s m e => .fin (!s) m e

/-- The value is a zero. -/
def FVal.isZero : FVal → Bool
  | .fin _ 0 _ => true
  | _ => false

/-- The value that an encoding stands for; under FTZ a subnormal reads as zero (R78, R79, R84). -/
def Fmt.unpack (f : Fmt) (x : Nat) (ftz : Bool := false) : FVal :=
  let neg := x / f.signW % 2 == 1
  let ex := x / 2 ^ f.fbits % 2 ^ f.ebits
  let fr := x % 2 ^ f.fbits
  if f = .e4m3 && ex = 15 && fr = 7 then .nan neg fr true
  else if f ≠ .e4m3 && ex = 2 ^ f.ebits - 1 then
    if fr = 0 then .inf neg else .nan neg fr (decide (2 ^ (f.fbits - 1) ≤ fr))
  else if ex = 0 then (if ftz then .fin neg 0 0 else .fin neg fr f.lsb)
  else .fin neg (fr + 2 ^ f.fbits) (f.lsb + ex - 1)

/-! ## Rounding (R84) -/

/-- m · 2^e as a whole number of 2^q, rounded by RM for a sign; and whether it was inexact. -/
def roundAt (neg : Bool) (m : Nat) (e q : Int) (rm : BitVec 2) : Nat × Bool :=
  if q ≤ e then (m * 2 ^ (e - q).toNat, false)
  else
    let w := 2 ^ (q - e).toNat
    let r := m / w
    let rem := m % w
    if rem = 0 then (r, false)
    else
      let up :=
        match rm.toNat with
        | 0 => decide (w < 2 * rem) || (decide (2 * rem = w) && r % 2 == 1)
        | 1 => false
        | 2 => neg
        | _ => !neg
      (if up then r + 1 else r, true)

/-- A nonzero value m · 2^e lies below the smallest normal after rounding with an unbounded exponent (R84). -/
def Fmt.tiny (f : Fmt) (neg : Bool) (m : Nat) (e : Int) (rm : BitVec 2) : Bool :=
  let lead := e + (Nat.log2 m : Int)
  let q := lead - f.fbits
  let r := (roundAt neg m e q rm).1
  decide (q + (Nat.log2 r : Int) < 1 - f.bias)

/-- The encoding of (-1)^neg · m · 2^e rounded once, with its sticky bits (R84, R86). -/
def Fmt.round (f : Fmt) (rm : BitVec 2) (ftz : Bool) (neg : Bool) (m : Nat) (e : Int) : Nat × Word :=
  let sb := if neg then f.signW else 0
  if m = 0 then (sb, 0)
  else
    let q := max (e + (Nat.log2 m : Int) - f.fbits) f.lsb
    let (r, inexact) := roundAt neg m e q rm
    -- a carry out of the fraction raises the exponent field by itself
    let enc := if r < 2 ^ f.fbits then r else (q - f.lsb).toNat * 2 ^ f.fbits + r
    let st := if inexact then (if f.tiny neg m e rm then stNX ||| stUF else stNX) else 0
    if ftz && decide (0 < r) && decide (r < 2 ^ f.fbits) then (sb, stUF ||| stNX)
    else if f = .e4m3 && decide (0x7E < enc) then (sb + 0x7E, stFSAT)
    else if f ≠ .e4m3 && decide (f.infEnc ≤ enc) then
      let toInf := rm = 0 || (rm = 2 && neg) || (rm = 3 && !neg)
      (sb + (if toInf then f.infEnc else f.infEnc - 1), stOF ||| stNX)
    else (sb + enc, st)

/-- A NaN of format `src` as a result in format f (R85, R86). To and from E4M3 the table of R86 keeps the sign whatever NANC holds (log
6). Which bits of a payload stay in a narrower fraction R86 does not say: the top ones do (DESIGN CHOICE, log 91). -/
def Fmt.nanRes (f src : Fmt) (nanc : Bool) (neg : Bool) (frac : Nat) : Nat :=
  let sb := if neg then f.signW else 0
  if f = .e4m3 then sb + 0x7F
  else if src = .e4m3 then sb + f.canon
  else if nanc then f.canon
  else
    let fr := if src.fbits ≤ f.fbits then frac * 2 ^ (f.fbits - src.fbits) else frac / 2 ^ (src.fbits - f.fbits)
    let qb := 2 ^ (f.fbits - 1)
    sb + f.infEnc + (if fr / qb % 2 = 1 then fr else fr + qb)

/-- The encoding of an infinity; in E4M3 the largest finite value with FSAT (R86). -/
def Fmt.infRes (f : Fmt) (neg : Bool) : Nat × Word :=
  let sb := if neg then f.signW else 0
  if f = .e4m3 then (sb + 0x7E, stFSAT) else (sb + f.infEnc, 0)

/-- A value of format `src` written in format f. -/
def Fmt.put (f src : Fmt) (c : FCtl) (v : FVal) : Nat × Word :=
  match v with
  | .nan s fr _ => (f.nanRes src c.nanc s fr, 0)
  | .inf s => f.infRes s
  | .fin s m e => f.round c.rm c.ftz s m e

/-! ## Exact operations -/

/-- m · 2^e on the grid of 2^q, q at most e. -/
def onGrid (neg : Bool) (m : Nat) (e q : Int) : Int :=
  let n : Int := m * 2 ^ (e - q).toNat
  if neg then -n else n

/-- The exact sum of two finite values; a zero sum has the sign IEEE 754 gives (R84). -/
def addFin (rm : BitVec 2) (s1 : Bool) (m1 : Nat) (e1 : Int) (s2 : Bool) (m2 : Nat) (e2 : Int) : FVal :=
  let q := min e1 e2
  let v := onGrid s1 m1 e1 q + onGrid s2 m2 e2 q
  if v = 0 then .fin (if m1 = 0 && m2 = 0 && s1 == s2 then s1 else rm == 2) 0 0
  else .fin (decide (v < 0)) v.natAbs q

/-- The exact result of an operation, none where it is invalid, with the sticky bits it sets by itself. -/
abbrev FRaw := Option FVal × Word

/-- a + b of values that are no NaN. -/
def rawAdd (rm : BitVec 2) : FVal → FVal → FRaw
  | .inf s, .inf t => (if s == t then some (.inf s) else none, 0)
  | .inf s, _ => (some (.inf s), 0)
  | _, .inf t => (some (.inf t), 0)
  | .fin s1 m1 e1, .fin s2 m2 e2 => (some (addFin rm s1 m1 e1 s2 m2 e2), 0)
  | x, _ => (some x, 0)

/-- a × b of values that are no NaN. -/
def rawMul : FVal → FVal → FRaw
  | .fin s1 m1 e1, .fin s2 m2 e2 => (some (.fin (s1 != s2) (m1 * m2) (e1 + e2)), 0)
  | a, b => (if a.isZero || b.isZero then none else some (.inf (a.neg != b.neg)), 0)

/-- a × b + c of values that are no NaN, exact. -/
def rawFma (rm : BitVec 2) (a b c : FVal) : FRaw :=
  match (rawMul a b).1 with
  | none => (none, 0)
  | some p => rawAdd rm p c

/-- 1 / a (15 R228). -/
def rawRcp : FVal → FRaw
  | .fin s m e =>
    if m = 0 then (some (.inf s), stDZ)
    else
      let k := Nat.log2 m + 65
      let n := 2 ^ k / m
      if 2 ^ k % m = 0 then (some (.fin s n (-k - e)), 0) else (some (.fin s (2 * n + 1) (-k - 1 - e)), 0)
  | x => (some (.fin x.neg 0 0), 0)

/-- The whole square root of n, from bit k down. -/
def isqrtFrom (n : Nat) : Nat → Nat → Nat
  | 0, r => r
  | k + 1, r => if (r + 2 ^ k) * (r + 2 ^ k) ≤ n then isqrtFrom n k (r + 2 ^ k) else isqrtFrom n k r

/-- The whole square root of n. -/
def isqrt (n : Nat) : Nat := isqrtFrom n (Nat.log2 n / 2 + 1) 0

/-- m · 2^e with an even exponent. -/
def evenExp (m : Nat) (e : Int) : Nat × Int := if e % 2 = 0 then (m, e) else (2 * m, e - 1)

/-- √a (15 R228). -/
def rawSqrt : FVal → FRaw
  | .fin s m e =>
    if m = 0 then (some (.fin s 0 0), 0)
    else if s then (none, 0)
    else
      let (m, e) := evenExp m e
      let x := m * 2 ^ 128
      let r := isqrt x
      if r * r = x then (some (.fin false r (e / 2 - 64)), 0) else (some (.fin false (2 * r + 1) (e / 2 - 65)), 0)
  | .inf s => (if s then none else some (.inf false), 0)
  | x => (some x, 0)

/-- 1 / √a (15 R228). -/
def rawRsq : FVal → FRaw
  | .fin s m e =>
    if m = 0 then (some (.inf s), stDZ)
    else if s then (none, 0)
    else
      let (m, e) := evenExp m e
      let k := Nat.log2 m / 2 + 65
      let r := isqrt (2 ^ (2 * k) / m)
      if r * r * m = 2 ^ (2 * k) then (some (.fin false r (-k - e / 2)), 0)
      else (some (.fin false (2 * r + 1) (-k - 1 - e / 2)), 0)
  | .inf s => (if s then none else some (.fin false 0 0), 0)
  | x => (some x, 0)

/-! ## 2^a and log2 a (15 R228, log 20) -/

/-- The fixed point of the series: 192 fraction bits. -/
def fxOne : Nat := 2 ^ 192

/-- ln 2 in fixed point: the sum of 1 / (k · 2^k). -/
def fxLn2From : Nat → Nat
  | 0 => 0
  | k + 1 => fxOne / ((k + 1) * 2 ^ (k + 1)) + fxLn2From k

/-- ln 2 in fixed point. -/
def fxLn2 : Nat := fxLn2From 192

/-- The terms of e^x from term k on, given term k - 1. -/
def fxExpFrom (x : Nat) : Nat → Nat → Nat → Nat
  | 0, _, _ => 0
  | fuel + 1, k, t =>
    let t' := t * x / (fxOne * k)
    t' + fxExpFrom x fuel (k + 1) t'

/-- e^x in fixed point, x below 1. -/
def fxExp (x : Nat) : Nat := fxOne + fxExpFrom x 60 1 fxOne

/-- The terms z^(2k+1) / (2k+1) of artanh z from one on. -/
def fxArtanhFrom (z2 : Nat) : Nat → Nat → Nat → Nat
  | 0, _, _ => 0
  | fuel + 1, k, p => p / k + fxArtanhFrom z2 fuel (k + 2) (p * z2 / fxOne)

/-- log2 of y / 2^n for 2^n ≤ y < 2^(n+1), in fixed point. -/
def fxLog2 (y n : Nat) : Nat :=
  let z := (y - 2 ^ n) * fxOne / (y + 2 ^ n)
  2 * fxArtanhFrom (z * z / fxOne) 70 1 z * fxOne / fxLn2

/-- 2^a: exact for a whole a; far outside every format an inexact value of that size. -/
def rawEx2 : FVal → FRaw
  | .fin s m e =>
    let v : Int := if s then -m else m
    if 0 ≤ e then (some (.fin false 1 (max (-2000) (min 2000 (v * 2 ^ e.toNat)))), 0)
    else
      let w : Nat := 2 ^ (-e).toNat
      let ip := v / w
      let fr := (v % w).toNat
      if fr = 0 then (some (.fin false 1 (max (-2000) (min 2000 ip))), 0)
      else if ip < -2000 || 2000 < ip then (some (.fin false 3 (max (-2000) (min 2000 ip))), 0)
      else
        let n := fxExp (fr * fxOne / w * fxLn2 / fxOne) / 2 ^ 72
        (some (.fin false (2 * n + 1) (ip - 121)), 0)
  | .inf s => (some (if s then .fin false 0 0 else .inf false), 0)
  | x => (some x, 0)

/-- log2 a: exact for a power of two. -/
def rawLg2 : FVal → FRaw
  | .fin s m e =>
    if m = 0 then (some (.inf true), stDZ)
    else if s then (none, 0)
    else
      let n := Nat.log2 m
      let ip := e + n
      if m = 2 ^ n then (some (.fin (decide (ip < 0)) ip.natAbs 0), 0)
      else
        let v : Int := ip * fxOne + fxLog2 m n
        (some (.fin (decide (v < 0)) (2 * (v.natAbs / 2 ^ 72) + 1) (-121)), 0)
  | .inf s => (if s then none else some (.inf false), 0)
  | x => (some x, 0)

/-! ## Operations on encodings -/

/-- NV where some input is a signalling NaN (R85). -/
def snanNV (vs : List FVal) : Word := if vs.any FVal.isSnan then stNV else 0

/-- The result of an operation from its inputs in source order (R84, R85). `extra` is NV that a NaN input does not hide;
`raw` the exact result without a NaN input. -/
def Fmt.result (f : Fmt) (c : FCtl) (vs : List FVal) (extra : Word) (raw : FRaw) : Nat × Word :=
  match vs.find? FVal.isNan with
  | some (.nan s fr _) => (f.nanRes f c.nanc s fr, snanNV vs ||| extra)
  | _ =>
    match raw with
    | (none, st) => (f.canon, st ||| stNV)
    | (some v, st) =>
      let r := f.put f c v
      (r.1, r.2 ||| st)

/-- A one-operand function. -/
def Fmt.fun1 (f : Fmt) (c : FCtl) (raw : FVal → FRaw) (a : Nat) : Nat × Word :=
  let a := f.unpack a c.ftz
  f.result c [a] 0 (raw a)

/-- a + b. -/
def Fmt.add (f : Fmt) (c : FCtl) (a b : Nat) : Nat × Word :=
  let a := f.unpack a c.ftz
  let b := f.unpack b c.ftz
  f.result c [a, b] 0 (rawAdd c.rm a b)

/-- a − b. -/
def Fmt.sub (f : Fmt) (c : FCtl) (a b : Nat) : Nat × Word :=
  let a := f.unpack a c.ftz
  let b := f.unpack b c.ftz
  f.result c [a, b] 0 (rawAdd c.rm a b.negate)

/-- a × b. -/
def Fmt.mul (f : Fmt) (c : FCtl) (a b : Nat) : Nat × Word :=
  let a := f.unpack a c.ftz
  let b := f.unpack b c.ftz
  f.result c [a, b] 0 (rawMul a b)

/-- a × b + c with one rounding; an invalid product sets NV even beside a quiet NaN addend (R85). -/
def Fmt.fma (f : Fmt) (c : FCtl) (a b d : Nat) : Nat × Word :=
  let a := f.unpack a c.ftz
  let b := f.unpack b c.ftz
  let d := f.unpack d c.ftz
  let bad := !a.isNan && !b.isNan && (rawMul a b).1.isNone
  f.result c [a, b, d] (if bad then stNV else 0) (rawFma c.rm a b d)

/-- The numeric order of two values that are no NaN; zeros of either sign are equal. -/
def cmpVal (a b : FVal) : Ordering :=
  let rank := fun (x : FVal) => match x with
    | .inf s => if s then (-1 : Int) else 1
    | _ => 0
  match a, b with
  | .fin s1 m1 e1, .fin s2 m2 e2 =>
    let q := min e1 e2
    compare (onGrid s1 m1 e1 q) (onGrid s2 m2 e2 q)
  | _, _ => compare (rank a) (rank b)

/-- a orders below b for `FMIN` and `FMAX`: −0 below +0 (R229). -/
def below (a b : FVal) : Bool := cmpVal a b == .lt || (cmpVal a b == .eq && a.neg && !b.neg)

/-- `FMIN` (`mx` false) and `FMAX` (R229): one of the operands, after FTZ. -/
def Fmt.minMax (f : Fmt) (c : FCtl) (mx : Bool) (x y : Nat) : Nat × Word :=
  let a := f.unpack x c.ftz
  let b := f.unpack y c.ftz
  let nv := snanNV [a, b]
  match a, b with
  | .nan s fr _, .nan _ _ _ => (f.nanRes f c.nanc s fr, nv)
  | .nan _ _ _, b => ((f.put f FCtl.ne b).1, nv)
  | a, .nan _ _ _ => ((f.put f FCtl.ne a).1, nv)
  | a, b => ((f.put f FCtl.ne (if below b a == mx then a else b)).1, nv)

/-- A condition of `FCMP` with its NV (R230). -/
def Fmt.cmp (f : Fmt) (ftz : Bool) (cc : FCond) (x y : Nat) : Bool × Word :=
  let a := f.unpack x ftz
  let b := f.unpack y ftz
  let un := a.isNan || b.isNan
  let ord := cmpVal a b
  match cc with
  | .eq => (!un && ord == .eq, snanNV [a, b])
  | .ne => (un || ord != .eq, snanNV [a, b])
  | .lt => (!un && ord == .lt, if un then stNV else 0)
  | .le => (!un && ord != .gt, if un then stNV else 0)
  | .gt => (!un && ord == .gt, if un then stNV else 0)
  | .ge => (!un && ord != .lt, if un then stNV else 0)
  | .num => (!un, snanNV [a, b])
  | .nan => (un, snanNV [a, b])

/-- The class mask of `FCLASS` (R231). -/
def Fmt.classOf (f : Fmt) (x : Nat) : Word :=
  match f.unpack x with
  | .nan _ _ q => if q then 0x200 else 0x100
  | .inf s => if s then 1 else 0x80
  | .fin s m _ =>
    if m = 0 then (if s then 0x8 else 0x10)
    else if m < 2 ^ f.fbits then (if s then 0x4 else 0x20)
    else if s then 0x2 else 0x40

/-- The sign bit cleared (R228 `FABS`). -/
def Fmt.absEnc (f : Fmt) (x : Nat) : Nat := x % f.signW

/-- The sign bit inverted (R228 `FNEG`). -/
def Fmt.negEnc (f : Fmt) (x : Nat) : Nat := if x / f.signW % 2 = 1 then x % f.signW else x % f.signW + f.signW

/-- A float of format `src` converted to format f (R86). -/
def Fmt.convert (f src : Fmt) (c : FCtl) (x : Nat) : Nat × Word :=
  let v := src.unpack x c.ftz
  let r := f.put src c v
  (r.1, r.2 ||| snanNV [v])

/-- A float rounded by RM to a whole number and clamped to [lo, hi] (R86). Clamping sets NV and not NX, though the value was inexact
(DEDUCED, log 91). -/
def Fmt.toInt (src : Fmt) (c : FCtl) (lo hi : Int) (x : Nat) : Int × Word :=
  match src.unpack x c.ftz with
  | .nan _ _ _ => (0, stNV)
  | .inf s => (if s then lo else hi, stNV)
  | .fin s m e =>
    let r := roundAt s m e 0 c.rm
    let v : Int := if s then -r.1 else r.1
    if v < lo then (lo, stNV) else if hi < v then (hi, stNV) else (v, if r.2 then stNX else 0)

/-- A whole number in format f (R86). Beyond 448 E4M3, which has no infinity, takes 0x7E or 0xFE with FSAT alone under every RM, as R86
says of floats (DESIGN CHOICE, log 91). -/
def Fmt.ofInt (f : Fmt) (c : FCtl) (v : Int) : Nat × Word := f.round c.rm c.ftz (decide (v < 0)) v.natAbs 0

/-! ## Binary64 values (R88 to R91) -/

/-- The value rounded to nearest even in binary64. -/
def ne64 : FVal → FVal
  | .fin s m e => Fmt.f64.unpack (Fmt.f64.round 0 false s m e).1
  | x => x

/-- The bytes of a block narrowed with error feedback, and the sticky bits (R88). `err` is the residual. -/
def narrowBlock : List FVal → FVal → List Nat × Word
  | [], _ => ([], 0)
  | x :: xs, err =>
    let t := match x, err with
      | .fin s1 m1 e1, .fin s2 m2 e2 => ne64 (addFin 0 s1 m1 e1 s2 m2 e2)
      | x, _ => x
    match t with
    | .nan s _ q =>
      let r := narrowBlock xs (.fin false 0 0)
      ((if s then 0xFF else 0x7F) :: r.1, r.2 ||| if q then 0 else stNV)
    | .inf s =>
      let r := narrowBlock xs (.fin false 0 0)
      ((if s then 0xFE else 0x7E) :: r.1, r.2 ||| stFSAT)
    | .fin s m e =>
      let q := Fmt.e4m3.round 0 false s m e
      let beyond := cmpVal (.fin false m e) (.fin false 448 0) == .gt
      let err := match Fmt.e4m3.unpack q.1 with
        | .fin s2 m2 e2 => if beyond then .fin false 0 0 else addFin 0 s m e (!s2) m2 e2
        | _ => .fin false 0 0
      let r := narrowBlock xs err
      (q.1 :: r.1, q.2 ||| r.2)

/-- The product that R236 takes of an element and a scale, both FP32: a NaN keeps the sign of the first NaN. Of 0 times infinity R88 names
no sticky bit and no sign: it is an invalid operation (R85) and gives a positive NaN and NV (DESIGN CHOICE, log 91). -/
def scaled (x sc : FVal) : FVal :=
  match x, sc with
  | .nan s fr q, y => .nan s fr (q && !y.isSnan)
  | _, .nan s fr q => .nan s fr q
  | x, y =>
    match (rawMul x y).1 with
    | some v => v
    | none => .nan false 0 false

/-! ## XACC (R94 to R96) -/

/-- The fields of an XACC. -/
structure Xacc where
  nan  : Bool
  pinf : Bool
  ninf : Bool
  ov   : Bool
  count : Nat
  sum  : Int
  deriving DecidableEq, Repr

/-- The fields that 512 bits hold. -/
def Xacc.ofNat (x : Nat) : Xacc where
  nan := x.testBit 511
  pinf := x.testBit 510
  ninf := x.testBit 509
  ov := x.testBit 508
  count := bitsN x 495 448
  sum := if x.testBit 447 then ((x % 2 ^ 448 : Nat) : Int) - 2 ^ 448 else ((x % 2 ^ 448 : Nat) : Int)

/-- The 512 bits of an XACC; COUNT saturates, SUM wraps and sets OV (R95). -/
def Xacc.toNat (a : Xacc) : Nat :=
  let ov := a.ov || decide (a.sum < -2 ^ 447) || decide (2 ^ 447 ≤ a.sum)
  (if a.nan then 2 ^ 511 else 0) + (if a.pinf then 2 ^ 510 else 0) + (if a.ninf then 2 ^ 509 else 0) +
    (if ov then 2 ^ 508 else 0) + min a.count (2 ^ 48 - 1) * 2 ^ 448 + (a.sum % 2 ^ 448).toNat

/-- A value of a format contributed (R95). -/
def Xacc.contribute (a : Xacc) (f : Fmt) (x : Nat) : Xacc :=
  let a := { a with count := a.count + 1 }
  match f.unpack x with
  | .nan _ _ _ => { a with nan := true }
  | .inf s => if s then { a with ninf := true } else { a with pinf := true }
  | .fin s m e => { a with sum := a.sum + onGrid s m e (-149) }

/-- One XACC merged into another (R95). -/
def Xacc.merge (a b : Xacc) : Xacc where
  nan := a.nan || b.nan
  pinf := a.pinf || b.pinf
  ninf := a.ninf || b.ninf
  ov := a.ov || b.ov
  count := a.count + b.count
  sum := a.sum + b.sum

/-- The FP32 value of an XACC (R96). -/
def Xacc.toF32 (a : Xacc) : Nat :=
  if a.nan || a.ov || (a.pinf && a.ninf) then 0x7FC00000
  else if a.pinf then 0x7F800000
  else if a.ninf then 0xFF800000
  else if a.sum = 0 then 0
  else (Fmt.f32.round 0 false (decide (a.sum < 0)) a.sum.natAbs (-149)).1

/-! ## FP32 reductions (R98) -/

/-- m := v + m under FC, with the sticky bits it raises. -/
def redfOp (fc : BitVec 3) (m v : Nat) : Nat × Word :=
  let c : FCtl := ⟨0, fc.getLsbD 0, fc.getLsbD 1⟩
  let r := Fmt.f32.add c m v
  let finite := fun x => match Fmt.f32.unpack x with
    | .fin _ _ _ => true
    | _ => false
  if fc.getLsbD 2 && r.1 % 0x80000000 = 0x7F800000 && finite m && finite v then
    ((if r.1 < 0x80000000 then 0x7F7FFFFF else 0xFF7FFFFF), stFSAT)
  else r

/-! ## Residues (R81) -/

/-- A modulus is valid: odd, between 2^30 and 2^62. -/
def modulusOk (q : Nat) : Bool := q % 2 == 1 && decide (2 ^ 30 < q) && decide (q < 2 ^ 62)

end Sys2Proof.Machine
end

