-- ==== Sys2Proof/Machine/Operands.lean ====
section
/-! DEFINITION. Lane operands and the frame of every lane instruction: enabled lanes (03 R53), reads and last use (R54 to R57,
R67, R69, R72), the result window (R58 to R60), binding and float (R61 to R66), clause and path ends (12 R186, 15 R247
to R251), precise lane faults (24 R333). -/
namespace Sys2Proof.Machine

/-! ## Paths -/

/-- The path in a lane slot. -/
def RunUnit.path (r : RunUnit) (slot1 : Bool) : Option Path := if slot1 then r.ls1 else r.ls0

/-- A lane slot filled or emptied. -/
def RunUnit.setPath (r : RunUnit) (slot1 : Bool) (p : Option Path) : RunUnit :=
  if slot1 then { r with ls1 := p } else { r with ls0 := p }

/-- The path of the lane slot that issues. -/
def State.path (s : State) : Option Path := s.g.run.bind fun r => r.path s.slot

/-- The path of the issuing slot changed. -/
def State.modPath (s : State) (f : Path → Path) : State :=
  { s with g := { s.g with run := s.g.run.map fun r => r.setPath s.slot ((r.path s.slot).map f) } }

/-- The popped path of a divergence-stack entry: its window is void (03 R59, 01 R12). -/
def DivEntry.path (d : DivEntry) : Path := ⟨d.pc, d.mask, d.jrec, [], none, false, false, []⟩

/-- A slot emptied: the top of the stack is popped into it (01 R12). -/
def RunUnit.emptySlot (r : RunUnit) (slot1 : Bool) : RunUnit :=
  match r.stack with
  | [] => r.setPath slot1 none
  | d :: ds => { r.setPath slot1 (some d.path) with stack := ds }

/-- The join record at an index. -/
def RunUnit.join (r : RunUnit) (i : Nat) : Option JoinRec := vget r.joins i none

/-- Lanes arrive at a join record, and one path with them when `whole` is set; the slot of that path empties, or takes
the merged path when the record closes. `fuel` bounds the nesting of records that close together (15 R249, R251). -/
def RunUnit.arriveAt (r : RunUnit) (slot1 : Bool) : Nat → Nat → Word → RunUnit
  | 0, _, _ => r.emptySlot slot1
  | fuel + 1, i, mask =>
    match r.join i with
    | none => r.emptySlot slot1
    | some j =>
      let j : JoinRec := { j with arrived := j.arrived ||| mask, count := j.count - 1 }
      if j.count = 0 then
        let r := { r with joins := vset r.joins i none }
        if j.arrived = 0 then
          match j.outer with
          | some k => r.arriveAt slot1 fuel k 0
          | none => r.emptySlot slot1
        else r.setPath slot1 (some ⟨j.jaddr, j.arrived, j.outer, [], none, false, false, []⟩)
      else { r with joins := vset r.joins i (some j) }.emptySlot slot1

/-- A path ends: it arrives at its join with no lane, or its slot empties (15 R251). -/
def RunUnit.endPath (r : RunUnit) (slot1 : Bool) : RunUnit :=
  match r.path slot1 with
  | none => r
  | some p =>
    match p.jrec with
    | some i => r.arriveAt slot1 16 i 0
    | none => r.emptySlot slot1

/-- Both slots and the stack are empty: the unit has ended (14 R215). -/
def RunUnit.isOver (r : RunUnit) : Bool := r.ls0.isNone && r.ls1.isNone && r.stack.isEmpty

/-- The running unit, or none once it has ended. -/
def Group.setRun (g : Group) (r : RunUnit) : Group := { g with run := if r.isOver then none else some r }

/-! ## Reading operands -/

/-- A source as the 32 lanes see it: one register, a pair or a quad; lanes with no value (03 R67), lanes whose reply is
outstanding (R69), lanes whose array index is out of bounds (R72). -/
structure SrcVal where
  regs : List Lanes
  miss : Word
  pend : Word
  oob  : Word
  deriving DecidableEq, Repr

/-- A mask of the lanes for which p holds. -/
def maskOf (p : Nat → Bool) : Word :=
  (List.range 32).foldr (fun l m => if p l then m ||| (1 <<< l) else m) 0

/-- V register n. -/
def Group.vreg (g : Group) (n : Nat) : VReg := vget g.v n VReg.unmapped

/-- O register n. -/
def Group.oreg (g : Group) (n : Nat) : Lanes := vget g.o n Lanes.zero

/-- Array n. -/
def Group.xarr (g : Group) (n : Nat) : XArr := vget g.x n XArr.zero

/-- The array index of a lane: O(4 + n) (03 R72). -/
def Group.xindex (g : Group) (n l : Nat) : Nat := ((g.oreg (4 + n)).lane l).toNat

/-- S register n of a unit's copies as lane l reads it: S63 is the lane number (03 R51), but 0 in the pair S62:S63 (14
R199, log 18). -/
def LaneUnit.sreg (u : LaneUnit) (n l : Nat) (pair : Bool) : Word :=
  if n = 63 then (if pair then 0 else BitVec.ofNat 32 l) else vget u.s n 0

/-- Lanes of a V register with dead lanes as zero. -/
def VReg.seen (r : VReg) : Lanes := Lanes.ofFn fun l => if r.live.getLsbD l then r.val.lane l else 0

/-- A source operand of one or more registers (03 R54, R57, R67, R72, 15 R223). -/
def readSrc (g : Group) (r : RunUnit) (p : Path) (x : Opnd) (n : Nat) : SrcVal :=
  match x with
  | .v k =>
    let rs := (List.range n).map fun i => g.vreg (k.toNat + i)
    ⟨rs.map VReg.seen, rs.foldl (fun m v => m ||| ~~~v.live) 0, rs.foldl (fun m v => m ||| v.pend) 0, 0⟩
  | .o k => ⟨(List.range n).map fun i => g.oreg (k.toNat + i), 0, 0, 0⟩
  | .w k =>
    match p.win[k.toNat]? with
    | some e =>
      ⟨[Lanes.ofFn fun l => if e.valid.getLsbD l then e.lo.lane l else 0,
        Lanes.ofFn fun l => if e.valid.getLsbD l && e.wide then e.hi.lane l else 0], ~~~e.valid, e.pend, 0⟩
    | none => ⟨[Lanes.zero, Lanes.zero], 0xFFFFFFFF, 0, 0⟩
  | .x k =>
    let a := g.xarr k.toNat
    ⟨[Lanes.ofFn fun l => ((a.elts[g.xindex k.toNat l]?).getD Lanes.zero).lane l], 0, 0,
      maskOf fun l => a.len ≤ g.xindex k.toNat l⟩
  | .s k => ⟨(List.range n).map fun i => Lanes.ofFn fun l => r.u.sreg (k.toNat + i) l (n == 2), 0, 0, 0⟩
  | .none => ⟨List.replicate n Lanes.zero, 0, 0, 0⟩

/-- Lane l of a source in a 32-bit position. -/
def SrcVal.word (v : SrcVal) (l : Nat) : Word := ((v.regs[0]?).getD Lanes.zero).lane l

/-- Lane l of a source in a 64-bit position (15 R223). -/
def SrcVal.pair (v : SrcVal) (l : Nat) : DWord :=
  ((v.regs[1]?).getD Lanes.zero).lane l ++ ((v.regs[0]?).getD Lanes.zero).lane l

/-- The enabled lanes of a path for an instruction (03 R53). -/
def enabled (r : RunUnit) (p : Path) (o : LaneOps) : Word :=
  let pr := vget r.u.p o.pg.toNat 0
  if !o.pe then p.mask else if o.pn then p.mask &&& ~~~pr else p.mask &&& pr

/-! ## Liveness and binding (03 R56, R60 to R66) -/

/-- Lanes of a V register die; with the last live one its mapping is released (03 R56). -/
def VReg.kill (r : VReg) (mask : Word) : VReg :=
  let live := r.live &&& ~~~mask
  if live = 0 then VReg.unmapped else { r with live := live, pend := r.pend &&& live }

/-- Lanes of a V register written: they become live (03 R56). -/
def VReg.write (r : VReg) (mask : Word) (x : Lanes) : VReg :=
  { r with
    val := Lanes.ofFn fun l => if mask.getLsbD l then x.lane l else r.val.lane l
    live := r.live ||| mask
    pend := r.pend &&& ~~~mask }

/-- Lanes of a V register become live and pending (03 R68). -/
def VReg.await (r : VReg) (mask : Word) : VReg := { r with live := r.live ||| mask, pend := r.pend ||| mask }

/-- n V registers from k up changed. -/
def Group.modV (g : Group) (k n : Nat) (f : Nat → VReg → VReg) : Group :=
  { g with v := (List.range n).foldl (fun v i => vset v (k + i) (f i (vget v (k + i) VReg.unmapped))) g.v }

/-- Registers of an array's run (03 R73). -/
def runLen (xlen : Nat) : Nat := 8 * ((xlen + 7) / 8)

/-- Registers that each group of a workgroup reserves: its floor and its runs (03 R73). -/
def Desc.groupReserve (d : Desc) : Nat := d.floor + (d.xlen.toList.map runLen).sum

/-- Registers that a workgroup reserves at its admission (03 R73). -/
def Desc.reserve (d : Desc) : Nat := d.ngroups * d.groupReserve

/-- The workgroups resident on a core. -/
def State.wgsOn (s : State) (c : Nat) : List Workgroup :=
  s.allWgs.filter fun w => w.coreId == c && w.id != 0 && w.place == .resident

/-- The tenant of a workgroup. -/
def State.tenantOf (s : State) (w : Workgroup) : Option Nat := (s.findLaunch w.lid).map fun l => l.cmd.tenant

/-- The workgroups that share a core: those resident there, and those of the tenant that its hall runs whose images are out, which come
back to the same core (01 R8, R14, 23 R322). -/
def State.beside (s : State) (c : Nat) : List Workgroup :=
  s.allWgs.filter fun w => w.coreId == c && w.id != 0 &&
    (w.place == .resident || ((s.tenantOf w).isSome && s.tenantOf w == vget s.dev.hallRun (hallOf c) none))

/-- The descriptor of a workgroup's launch. -/
def State.descOf (s : State) (w : Workgroup) : Desc := ((s.findLaunch w.lid).getD Launch.absent).desc

/-- The groups of some workgroups that have not ended, with their launch's descriptor. -/
def State.groupsOf (s : State) (ws : List Workgroup) : List (Group × Desc) :=
  ws.flatMap fun w =>
    (s.allGroups.filter fun g => g.wgId == w.id && g.st != .absent && g.st != .ended).map fun g => (g, s.descOf w)

/-- The groups resident on a core. -/
def State.groupsOn (s : State) (c : Nat) : List (Group × Desc) := s.groupsOf (s.wgsOn c)

/-- Registers reserved for groups: a group that has ended reserves none (03 R73, 14 R219). -/
def reservedFor (gs : List (Group × Desc)) : Nat := (gs.map fun p => p.2.groupReserve).sum

/-- Float registers that a group holds, granted ones included (03 R62, R63). -/
def Group.floatHeld (g : Group) (floor : Nat) : Nat := (g.bound - floor) + g.granted

/-- Float that no one of some groups of a core holds (03 R62). -/
def floatLeft (gs : List (Group × Desc)) : Nat := Config.pool - reservedFor gs - (gs.map fun p => p.1.floatHeld p.2.floor).sum

/-- Float of a core that no group holds (03 R62). -/
def State.floatFree (s : State) (c : Nat) : Nat := floatLeft (s.groupsOf (s.beside c))

/-- Group a is older than group b (03 R63). -/
def older (a b : Group) : Bool := a.age < b.age || (a.age == b.age && a.gid < b.gid)

/-- Float registers that binding n more registers takes from the float beyond what was granted (03 R62). -/
def Group.floatNeed (g : Group) (floor n : Nat) : Nat := ((g.bound + n) - floor) - (g.bound - floor) - g.granted

/-- n more registers can be bound to the group in the focus now: from its reservation, its grant, or the float with no
older group waiting for it (03 R62 to R64). -/
def State.canBind (s : State) (n : Nat) : Bool :=
  let need := s.g.floatNeed s.ln.desc.floor n
  need == 0 || (decide (need ≤ s.floatFree s.wg.coreId) &&
    !((s.groupsOn s.wg.coreId).any fun p => decide (0 < p.1.want) && older p.1 s.g))

/-- Physical registers in use by the runs and bindings of groups. -/
def physOf (gs : List (Group × Desc)) : List Nat :=
  gs.flatMap fun p =>
    p.1.v.toList.filterMap (·.phys) ++
      p.1.x.toList.flatMap fun a => (List.range (runLen a.xlen)).map (a.base + ·)

/-- Physical registers of a core in use by runs and bindings. -/
def State.physUsed (s : State) (c : Nat) : List Nat := physOf (s.groupsOf (s.beside c))

/-- The lowest physical register of a core that is free (log 19). -/
def State.freePhys (s : State) (c : Nat) : Nat :=
  let used := s.physUsed c
  ((List.range Config.pool).find? fun n => !used.contains n).getD 0

/-- V register k of the group in the focus bound where some of the lanes given are live and none is bound yet (03 R60,
R61). -/
def State.bindReg (s : State) (k : Nat) (lanes : Word) : State :=
  let r := s.g.vreg k
  if r.phys.isNone && (r.live &&& lanes) != 0 then
    let need := s.g.bound + 1 - s.ln.desc.floor - (s.g.bound - s.ln.desc.floor)
    { s with g := { s.g.modV k 1 (fun _ r => { r with phys := some (s.freePhys s.wg.coreId) }) with
        granted := s.g.granted - need
        want := 0 } }
  else s

/-- V registers that entries of a window would bind on leaving it. -/
def Group.unboundOf (g : Group) (es : List WinEntry) : List Nat :=
  nub ((es.flatMap (·.dst)).filterMap fun x =>
    if (g.vreg x.1).phys.isNone && ((g.vreg x.1).live &&& x.2) != 0 then some x.1 else none)

/-- Entries leave the window: their V destinations are bound (03 R60). -/
def State.leave (s : State) (es : List WinEntry) : State :=
  (es.flatMap (·.dst)).foldl (fun s x => s.bindReg x.1 x.2) s

/-- An entry whose V destinations k to k + n - 1 have died or been written anew in some lanes: it stores them no more (03
R60). That lanes written anew count as lost to the older entry, so that only the newer one binds the register, is the model's (DESIGN CHOICE,
log 99). -/
def WinEntry.unclaim (e : WinEntry) (k n : Nat) (mask : Word) : WinEntry :=
  { e with dst := e.dst.map fun x => if k ≤ x.1 && x.1 < k + n then (x.1, x.2 &&& ~~~mask) else x }

/-- The windows of a unit after V registers died or were written anew in some lanes. -/
def RunUnit.unclaim (r : RunUnit) (k n : Nat) (mask : Word) : RunUnit :=
  let path := fun (p : Path) => { p with win := p.win.map fun e => e.unclaim k n mask }
  { r with ls0 := r.ls0.map path, ls1 := r.ls1.map path }

/-- V registers k to k + n - 1 changed in some lanes: no entry made before stores those lanes (03 R60). -/
def Group.changeV (g : Group) (k n : Nat) (mask : Word) (f : Nat → VReg → VReg) : Group :=
  { g.modV k n f with
    run := g.run.map fun r => r.unclaim k n mask
    saved := g.saved.map fun v => { v with run := v.run.map fun r => r.unclaim k n mask } }

/-- The instruction of the issuing path waits for float for n more registers (03 R62 to R64). -/
def State.floatWait (s : State) (n : Nat) : State :=
  ({ s with g := { s.g with want := s.g.floatNeed s.ln.desc.floor n } } : State).modPath fun p => { p with float := true }

/-- A path's instruction is done: what it was granted and does not hold goes back to the float (03 R62). -/
def State.floatDone (s : State) (p : Path) : State :=
  if p.float then { s with g := { s.g with want := 0, granted := 0 } } else s

/-! ## The frame of a lane instruction -/

/-- A lane instruction can begin: the group runs, the lane side is not stopped, a path stands in the slot within a
clause. -/
def State.laneGate (s : State) : Option (RunUnit × Path × ClauseSt) :=
  if s.live && !s.g.laneStop then
    match s.g.run with
    | some r =>
      match r.path s.slot with
      | some p => p.clause.map fun c => (r, p, c)
      | none => none
    | none => none
  else none

/-- A precise fault of the lane instruction or header at the path of the issuing slot (24 R333, 17 R301). -/
def State.laneFault (s : State) (code : BitVec 8) (lanes : Word) (detail : Word := 0) (va : Nat := 0)
    (tslot : Option TSlot := none) : State :=
  match s.path with
  | some p =>
    s.takeFault { code := code, src := 1, detail := detail, va := va, lanes := lanes, tepc := p.pc, slot := some s.slot
                  tslot := tslot }
  | none => s

/-- The instruction stalls on a pending lane: counted once in MISSED_WAIT (03 R69). -/
def State.missWait (s : State) : State :=
  match s.path with
  | some p => if p.missed then s else { s.modPath fun p => { p with missed := true } with
      g := { (s.modPath fun p => { p with missed := true }).g with missed := satInc s.g.missed } }
  | none => s

/-- The path goes on to its next lane word after the last word of an instruction; none where the word lies outside the
section, which raises 0x10 at the instruction (12 R176). -/
def State.inLane (s : State) (pc : Nat) : Bool := decide (pc < s.ln.desc.llen)

/-- How the instruction leaves its clause: the path continues, or ends with the clause's CONT 0 (12 R186). -/
def ClauseSt.continues (c : ClauseSt) : Bool := c.left != 1 || c.cont

/-- The path that ends in a slot merges at a join outside the section: its last instruction makes a transfer there (12 R176,
15 R251). -/
def State.endsOut (s : State) (r : RunUnit) : Bool := ((r.endPath s.slot).path s.slot).any fun p => !s.inLane p.pc

/-- An instruction that neither branches nor joins transfers control outside the section: by falling through, or by ending
its path (12 R176). -/
def State.runsOut (s : State) (r : RunUnit) (p : Path) (c : ClauseSt) : Bool :=
  if c.continues then !s.inLane (p.pc + 1) else s.endsOut r

/-- The path after one instruction that lets it continue: next word, one instruction fewer, the new entry in its
window. -/
def Path.next (p : Path) (c : ClauseSt) (e : WinEntry) : Path :=
  { p with
    pc := p.pc + 1
    win := (e :: p.win).take 8
    clause := if c.left = 1 then none else some { c with left := c.left - 1 }
    missed := false
    float := false
    zeros := [] }

/-- A void window entry (03 R58). -/
def WinEntry.void : WinEntry := ⟨Lanes.zero, Lanes.zero, 0, 0, false, none, []⟩

/-- The end of a lane instruction: its entry enters the window and the oldest leaves; then the path continues or ends,
and at its end every entry leaves (03 R58, R60, 12 R186, 15 R251). -/
def State.laneDone (s : State) (e : WinEntry) : State :=
  match s.g.run, s.path with
  | some r, some p =>
    match p.clause with
    | some c =>
      if c.continues then (s.leave (p.win.drop 7)).modPath fun p => p.next c e
      else
        let s := s.leave (p.win.reverse ++ [e])
        match s.g.run with
        | some r => { s with g := s.g.setRun (r.endPath s.slot) }
        | none => s
    | none => { s with g := { s.g with run := some r } }
  | _, _ => s

/-- The entries that leave the window of the issuing path when an instruction with entry e ends. -/
def State.leaving (s : State) (c : ClauseSt) (e : WinEntry) : List WinEntry :=
  let win := (s.path.map (·.win)).getD []
  if c.continues then win.drop 7 else win ++ [e]

/-- What a lane instruction yields: destination registers, sticky bits, a predicate with its new bits, a value for an S
destination (15 R222, R225, R226). -/
structure LaneRes where
  out    : List Lanes := []
  sticky : Word := 0
  pred   : Option (BitVec 3 × Word) := none
  sreg   : Option Word := none
  deriving DecidableEq, Repr

/-- A source with its last-use bit, its registers and, where they are not the enabled lanes, the lanes read. -/
structure Src where
  x    : Opnd
  lu   : Bool
  n    : Nat := 1
  only : Option Word := none
  deriving DecidableEq, Repr

/-- The lanes a source reads. -/
def Src.lanes (x : Src) (mask : Word) : Word := x.only.getD mask

/-- The lanes of a source whose replies its instruction waits for: those it reads, and those that die with its last use (03 R56, R69). -/
def Src.held (x : Src) (mask : Word) : Word :=
  match x.x with
  | .v _ => if x.lu then x.lanes mask ||| mask else x.lanes mask
  | _ => x.lanes mask

/-- Last-use sources die in the enabled lanes (03 R56). -/
def Group.lastUse (g : Group) (xs : List Src) (mask : Word) : Group :=
  xs.foldl (fun g x =>
    match x.x with
    | .v k => if x.lu then g.changeV k.toNat x.n mask fun _ r => r.kill mask else g
    | _ => g) g

/-- Lanes of the destination whose array index is out of bounds (03 R72). -/
def Group.dstOob (g : Group) : Opnd → Word
  | .x k => maskOf fun l => (g.xarr k.toNat).len ≤ g.xindex k.toNat l
  | _ => 0

/-- Lanes of a V destination that are pending (03 R69). -/
def Group.dstPend (g : Group) (x : Opnd) (n : Nat) : Word :=
  match x with
  | .v k => (List.range n).foldl (fun m i => m ||| (g.vreg (k.toNat + i)).pend) 0
  | _ => 0

/-- The group with registers of a destination written in the enabled lanes (15 R222, R223). -/
def Group.writeDst (g : Group) (x : Opnd) (mask : Word) (out : List Lanes) : Group :=
  let reg := fun i => (out[i]?).getD Lanes.zero
  let put := fun (old new : Lanes) => Lanes.ofFn fun l => if mask.getLsbD l then new.lane l else old.lane l
  match x with
  | .v k => if mask = 0 then g else g.changeV k.toNat out.length mask fun i r => r.write mask (reg i)
  | .o k => { g with o := (List.range out.length).foldl (fun o i => vset o (k.toNat + i) (put (vget o (k.toNat + i) Lanes.zero) (reg i))) g.o }
  | .x k =>
    let a := g.xarr k.toNat
    let elts := (List.range 32).foldl (fun es l =>
      if mask.getLsbD l then
        let i := g.xindex k.toNat l
        es.set i (Lanes.ofFn fun m => if m = l then (reg 0).lane l else ((es[i]?).getD Lanes.zero).lane m)
      else es) a.elts
    { g with x := vset g.x k.toNat { a with elts := elts } }
  | _ => g

/-- The V registers of a destination with the lanes written (03 R60). -/
def dstClaims (x : Opnd) (n : Nat) (mask : Word) : List (Nat × Word) :=
  match x with
  | .v k => (List.range n).map fun i => (k.toNat + i, mask)
  | _ => []

/-- The window entry of a result (03 R58, 15 R222, R223): void without a lane result. -/
def LaneRes.entry (r : LaneRes) (x : Opnd) (mask : Word) : WinEntry :=
  match r.sreg with
  | some v => ⟨Lanes.ofFn fun _ => v, Lanes.zero, mask, 0, false, none, []⟩
  | none =>
    if r.out.isEmpty then WinEntry.void
    else
      ⟨(r.out[0]?).getD Lanes.zero, (r.out[1]?).getD Lanes.zero, mask, 0, r.out.length == 2, none,
        dstClaims x r.out.length mask⟩

/-- The effects of a result on the group in the focus. -/
def State.putRes (s : State) (x : Opnd) (mask : Word) (r : LaneRes) : State :=
  let s := { s with g := (s.g.raise r.sticky).writeDst x mask r.out }
  let s := match r.pred with
    | some (pd, v) => s.writePLanes pd mask v
    | none => s
  match r.sreg, x with
  | some v, .s n => if mask = 0 then s else s.writeS n v
  | _, _ => s

/-- V registers mapped after the sources die and n registers from k are written in some lane (03 R62). -/
def Group.mappedWith (g : Group) (x : Opnd) (n : Nat) (mask : Word) : Nat :=
  match x with
  | .v k => if mask = 0 then g.mapped else (g.modV k.toNat n fun _ r => { r with live := r.live ||| mask }).mapped
  | _ => g.mapped

/-- Registers of a destination that an instruction writes. -/
def dstRegs (x : Opnd) (n : Nat) : Nat :=
  match x with
  | .v _ => n
  | _ => 0

/-- A fixed-latency lane instruction (15 R222, R227): the checks in order, the stall on pending lanes between 0x03 and 0x04 and the 0x10 of 12
R176 after 0x07 (DESIGN CHOICE, log 106), the reads, the last uses, the result. `pre` is a check that comes first (05 R81); `f` computes the result from the enabled lanes and the
sources. -/
def laneInstr (s : State) (o : LaneOps) (nout : Nat) (srcs : Word → List Src) (pre : RunUnit → Option (BitVec 8))
    (f : RunUnit → Word → List SrcVal → LaneRes) : Res :=
  match s.laneGate with
  | none => .next s
  | some (r, p, c) =>
    let mask := enabled r p o
    let xs := srcs mask
    let vs := xs.map fun x => readSrc s.g r p x.x x.n
    let sees := fun (sel : SrcVal → Word) => (xs.zip vs).foldl (fun m q => m ||| (sel q.2 &&& q.1.lanes mask)) 0
    let miss := sees (·.miss)
    let waits := (xs.zip vs).foldl (fun m q => m ||| (q.2.pend &&& q.1.held mask)) 0
    let after := s.g.lastUse xs mask
    let e := fun (res : LaneRes) => res.entry o.dst mask
    match pre r with
    | some code => .next (s.laneFault code p.mask)
    | none =>
      if sees (·.oob) ≠ 0 || (nout ≠ 0 && s.g.dstOob o.dst &&& mask ≠ 0) then
        .next (s.laneFault 0x03 (sees (·.oob) ||| (if nout ≠ 0 then s.g.dstOob o.dst &&& mask else 0)))
      else if waits ≠ 0 || s.g.dstPend o.dst nout &&& mask ≠ 0 then .next s.missWait
      else if miss ≠ 0 && s.g.strict then .next (s.laneFault 0x04 miss)
      else if s.ln.desc.peak < after.mappedWith o.dst nout mask then .next (s.laneFault 0x07 p.mask)
      else if s.runsOut r p c then .next (s.laneFault 0x10 p.mask)
      else
        let res := f r mask vs
        let g := if miss ≠ 0 then after.setUnmap else after
        let t := { s with g := g }.putRes o.dst mask res
        let need := (t.g.unboundOf (t.leaving c (e res))).length
        if t.canBind need then .next ((t.laneDone (e res)).floatDone p)
        else .next (s.floatWait need)

/-- Lanes computed from 32-bit results. -/
def lanesOf (f : Nat → Word) : List Lanes := [Lanes.ofFn f]

/-- Lanes of a pair computed from 64-bit results. -/
def pairOf (f : Nat → DWord) : List Lanes := [Lanes.ofFn fun l => field (f l) 0 32, Lanes.ofFn fun l => field (f l) 32 32]

/-- Sticky bits of the enabled lanes ORed. -/
def stickyOf (mask : Word) (f : Nat → Word) : Word :=
  (List.range 32).foldl (fun m l => if mask.getLsbD l then m ||| f l else m) 0

/-- Source i of an instruction. -/
def srcAt (vs : List SrcVal) (i : Nat) : SrcVal := (vs[i]?).getD ⟨[], 0, 0, 0⟩

/-- Sources A, A and B, or A, B and C, each of n registers. -/
def LaneOps.srcsA (o : LaneOps) (n : Nat := 1) : List Src := [{ x := o.a, lu := o.la, n := n }]

/-- Sources A and B. -/
def LaneOps.srcsAB (o : LaneOps) (n : Nat := 1) : List Src := LaneOps.srcsA o n ++ [{ x := o.b, lu := o.lb, n := n }]

/-- Sources A, B and C. -/
def LaneOps.srcsABC (o : LaneOps) (n : Nat := 1) : List Src := LaneOps.srcsAB o n ++ [{ x := o.c, lu := o.lc, n := n }]

/-- A fixed-latency instruction of one 32-bit result without sticky bits. -/
def lane32 (s : State) (o : LaneOps) (srcs : List Src) (f : Nat → List SrcVal → Word) : Res :=
  laneInstr s o 1 (fun _ => srcs) (fun _ => none) fun _ _ vs => { out := lanesOf fun l => f l vs }

/-- A fixed-latency instruction of one 32-bit result with sticky bits per lane. -/
def lane32s (s : State) (o : LaneOps) (srcs : List Src) (f : RunUnit → Nat → List SrcVal → Word × Word) : Res :=
  laneInstr s o 1 (fun _ => srcs) (fun _ => none) fun r mask vs =>
    { out := lanesOf fun l => (f r l vs).1, sticky := stickyOf mask fun l => (f r l vs).2 }

/-- A fixed-latency instruction that writes the enabled bits of predicate Pd (15 R226). -/
def lanePred (s : State) (o : LaneOps) (srcs : List Src) (f : RunUnit → Nat → List SrcVal → Bool × Word) : Res :=
  laneInstr s o 0 (fun _ => srcs) (fun _ => none) fun r mask vs =>
    { pred := some (field o.imm 0 3, maskOf fun l => (f r l vs).1), sticky := stickyOf mask fun l => (f r l vs).2 }

end Sys2Proof.Machine
end

