-- ==== Sys2Proof/Machine/LaneFloat.lean ====
section
/-! DEFINITION. The meanings of the lane floating-point instructions (15 R224, R228 to R231). -/
namespace Sys2Proof.Machine

/-- RM, FTZ and NANC that a unit recorded (05 R83). -/
def RunUnit.ctl (r : RunUnit) : FCtl := ⟨r.u.rm, r.u.ftz, r.u.nanc⟩

/-- One lane of an operation in a type: the whole lane, its low half, or with `.X2` both halves (R224). -/
def typed (t : FType) (x2 : Bool) (xs : List Word) (f : List Nat → Nat × Word) : Word × Word :=
  match t with
  | .f32 => let r := f (xs.map BitVec.toNat); (BitVec.ofNat 32 r.1, r.2)
  | _ =>
    let lo := f (xs.map fun x => x.toNat % 2 ^ 16)
    if x2 then
      let hi := f (xs.map fun x => x.toNat / 2 ^ 16)
      (BitVec.ofNat 32 (lo.1 + hi.1 * 2 ^ 16), lo.2 ||| hi.2)
    else (BitVec.ofNat 32 lo.1, lo.2)

/-- A floating-point instruction of one operand. -/
def float1 (s : State) (o : LaneOps) (t : FType) (x2 : Bool) (f : FCtl → Nat → Nat × Word) : Res :=
  lane32s s o (LaneOps.srcsA o) fun r l vs =>
    typed t x2 [(srcAt vs 0).word l] fun xs => f r.ctl (xs.headD 0)

/-- A floating-point instruction of two operands. -/
def float2 (s : State) (o : LaneOps) (t : FType) (x2 : Bool) (f : FCtl → Nat → Nat → Nat × Word) : Res :=
  lane32s s o (LaneOps.srcsAB o) fun r l vs =>
    typed t x2 [(srcAt vs 0).word l, (srcAt vs 1).word l] fun xs => f r.ctl (xs.headD 0) ((xs.drop 1).headD 0)

/-- `FADD`. -/
def execFadd (o : LaneOps) (t : FType) (x2 : Bool) (s : State) : Res := float2 s o t x2 (fmtOf t).add

/-- `FSUB`. -/
def execFsub (o : LaneOps) (t : FType) (x2 : Bool) (s : State) : Res := float2 s o t x2 (fmtOf t).sub

/-- `FMUL`. -/
def execFmul (o : LaneOps) (t : FType) (x2 : Bool) (s : State) : Res := float2 s o t x2 (fmtOf t).mul

/-- `FFMA`. -/
def execFfma (o : LaneOps) (t : FType) (x2 : Bool) (s : State) : Res :=
  lane32s s o (LaneOps.srcsABC o) fun r l vs =>
    typed t x2 [(srcAt vs 0).word l, (srcAt vs 1).word l, (srcAt vs 2).word l] fun xs =>
      (fmtOf t).fma r.ctl (xs.headD 0) ((xs.drop 1).headD 0) ((xs.drop 2).headD 0)

/-- `FMIN` (R229). -/
def execFmin (o : LaneOps) (t : FType) (x2 : Bool) (s : State) : Res :=
  float2 s o t x2 fun c => (fmtOf t).minMax c false

/-- `FMAX` (R229). -/
def execFmax (o : LaneOps) (t : FType) (x2 : Bool) (s : State) : Res :=
  float2 s o t x2 fun c => (fmtOf t).minMax c true

/-- `FABS`. -/
def execFabs (o : LaneOps) (t : FType) (x2 : Bool) (s : State) : Res :=
  float1 s o t x2 fun _ x => ((fmtOf t).absEnc x, 0)

/-- `FNEG`. -/
def execFneg (o : LaneOps) (t : FType) (x2 : Bool) (s : State) : Res :=
  float1 s o t x2 fun _ x => ((fmtOf t).negEnc x, 0)

/-- `FRCP`. -/
def execFrcp (o : LaneOps) (t : FType) (x2 : Bool) (s : State) : Res :=
  float1 s o t x2 fun c x => (fmtOf t).fun1 c rawRcp x

/-- `FRSQ`. -/
def execFrsq (o : LaneOps) (t : FType) (x2 : Bool) (s : State) : Res :=
  float1 s o t x2 fun c x => (fmtOf t).fun1 c rawRsq x

/-- `FSQRT`. -/
def execFsqrt (o : LaneOps) (t : FType) (x2 : Bool) (s : State) : Res :=
  float1 s o t x2 fun c x => (fmtOf t).fun1 c rawSqrt x

/-- `FEX2`. -/
def execFex2 (o : LaneOps) (t : FType) (x2 : Bool) (s : State) : Res :=
  float1 s o t x2 fun c x => (fmtOf t).fun1 c rawEx2 x

/-- `FLG2`. -/
def execFlg2 (o : LaneOps) (t : FType) (x2 : Bool) (s : State) : Res :=
  float1 s o t x2 fun c x => (fmtOf t).fun1 c rawLg2 x

/-- An operand of a type without `.X2` (R224). -/
def typedWord (t : FType) (x : Word) : Nat :=
  match t with
  | .f32 => x.toNat
  | _ => x.toNat % 2 ^ 16

/-- `FCMP.cc` (R230). -/
def execFcmp (o : LaneOps) (t : FType) (cc : FCond) (s : State) : Res :=
  lanePred s o (LaneOps.srcsAB o) fun r l vs =>
    (fmtOf t).cmp r.u.ftz cc (typedWord t ((srcAt vs 0).word l)) (typedWord t ((srcAt vs 1).word l))

/-- `FCLASS` (R231). -/
def execFclass (o : LaneOps) (t : FType) (s : State) : Res :=
  lane32 s o (LaneOps.srcsA o) fun l vs => (fmtOf t).classOf (typedWord t ((srcAt vs 0).word l))

end Sys2Proof.Machine
end

