-- ==== Sys2Proof/Machine/LaneConv.lean ====
section
/-! DEFINITION. The meanings of the conversions (15 R235 to R237, 05 R86, R88). -/
namespace Sys2Proof.Machine

/-- The float format of a type of `CVT`; none for an integer. -/
def CType.fmt : CType → Option Fmt
  | .f32 => some .f32
  | .f16 => some .f16
  | .bf16 => some .bf16
  | .e4m3 => some .e4m3
  | _ => none

/-- The value of an integer source of `CVT`: a pair as 64 bits (R235). -/
def intSrc (t : CType) (x : DWord) : Int :=
  match t with
  | .u32 => ((x.setWidth 32 : Word).toNat : Int)
  | .i64 => x.toInt
  | .i8 => (x.setWidth 8 : Byte).toInt
  | _ => (x.setWidth 32 : Word).toInt

/-- The range of an integer type of `CVT`. -/
def intRange (t : CType) : Int × Int :=
  match t with
  | .u32 => (0, 2 ^ 32 - 1)
  | .i64 => (-2 ^ 63, 2 ^ 63 - 1)
  | .i8 => (-128, 127)
  | _ => (-2 ^ 31, 2 ^ 31 - 1)

/-- An integer written as R235 gives it: INT8 sign-extended to 32 bits. -/
def intDst (t : CType) (v : Int) : DWord :=
  match t with
  | .i64 => BitVec.ofInt 64 v
  | .i8 => ((BitVec.ofInt 8 v).signExtend 32).setWidth 64
  | _ => (BitVec.ofInt 32 v).setWidth 64

/-- Bits of a float source of `CVT`. -/
def floatSrc (f : Fmt) (x : DWord) : Nat := x.toNat % 2 ^ (1 + f.ebits + f.fbits)

/-- One element converted (R235, 05 R86). -/
def cvtElem (dt st : CType) (sat : Bool) (c : FCtl) (x : DWord) : DWord × Word :=
  match CType.fmt dt, CType.fmt st with
  | some d, some f => let r := d.convert f c (floatSrc f x); (BitVec.ofNat 64 r.1, r.2)
  | some d, none => let r := d.ofInt c (intSrc st x); (BitVec.ofNat 64 r.1, r.2)
  | none, some f =>
    let r := f.toInt c (intRange dt).1 (intRange dt).2 (floatSrc f x)
    (intDst dt r.1, r.2)
  | none, none =>
    let v := intSrc st x
    let lo := (intRange dt).1
    let hi := (intRange dt).2
    if lo ≤ v && v ≤ hi then (intDst dt v, 0)
    else if sat then (intDst dt (if v < lo then lo else hi), stISAT)
    else (intDst dt v, 0)

/-- Registers of a type of `CVT`. -/
def CType.regs : CType → Nat
  | .i64 => 2
  | _ => 1

/-- Lanes of one register or of a pair. -/
def outOf (n : Nat) (f : Nat → DWord) : List Lanes := (pairOf f).take n

/-- A source of one register or of a pair, as 64 bits. -/
def SrcVal.val (v : SrcVal) (n l : Nat) : DWord := if n = 2 then v.pair l else (v.word l).setWidth 64

/-- `CVT.dt.st` (R235). -/
def execCvt (o : LaneOps) (dt st : CType) (s : State) : Res :=
  laneInstr s o (CType.regs dt) (fun _ => LaneOps.srcsA o (CType.regs st)) (fun _ => none) fun r mask vs =>
    let f := fun l => cvtElem dt st (o.imm.getLsbD 0) r.ctl ((srcAt vs 0).val (CType.regs st) l)
    { out := outOf (CType.regs dt) fun l => (f l).1, sticky := stickyOf mask fun l => (f l).2 }

/-- Element k of a lane of `F8PACK`: the pairs a and b hold elements 0 and 1, 2 and 3 (R236). -/
def packElem (vs : List SrcVal) (l k : Nat) : Nat :=
  let p := if k < 2 then (srcAt vs 0).pair l else (srcAt vs 1).pair l
  if k % 2 = 0 then p.toNat % 2 ^ 32 else p.toNat / 2 ^ 32

/-- The lanes of a mask in ascending order. -/
def lanesIn (mask : Word) : List Nat := (List.range 32).filter fun l => mask.getLsbD l

/-- The block of `F8PACK`: elements times scales in ascending element number (R236). -/
def packBlock (mask : Word) (vs : List SrcVal) : List FVal :=
  (lanesIn mask).flatMap fun l => (List.range 4).map fun k =>
    scaled (Fmt.f32.unpack (packElem vs l k)) (Fmt.f32.unpack ((srcAt vs 2).word l).toNat)

/-- `F8PACK` (R236). -/
def execF8pack (o : LaneOps) (s : State) : Res :=
  laneInstr s o 1
    (fun _ => [{ x := o.a, lu := o.la, n := 2 }, { x := o.b, lu := o.lb, n := 2 }, { x := o.c, lu := o.lc }])
    (fun _ => none) fun _ mask vs =>
      let r := narrowBlock (packBlock mask vs) (.fin false 0 0)
      { out := lanesOf fun l => BitVec.ofNat 32 (leNat (((r.1.drop (4 * ((lanesIn mask).filter (· < l)).length)).take 4).map (BitVec.ofNat 8)))
        sticky := r.2 }

/-- Two bytes of each lane from E4M3 to an FP32 pair, the first at byte k (R237). -/
def unpack8 (s : State) (o : LaneOps) (k : Nat) : Res :=
  laneInstr s o 2 (fun _ => LaneOps.srcsA o) (fun _ => none) fun r mask vs =>
    let f := fun l j => Fmt.f32.convert .e4m3 r.ctl (((srcAt vs 0).word l).toNat / 2 ^ (8 * (k + j)) % 256)
    { out := pairOf fun l => BitVec.ofNat 64 ((f l 0).1 + (f l 1).1 * 2 ^ 32)
      sticky := stickyOf mask fun l => (f l 0).2 ||| (f l 1).2 }

/-- `F8UNPK.LO`. -/
def execF8unpkLo (o : LaneOps) (s : State) : Res := unpack8 s o 0

/-- `F8UNPK.HI`. -/
def execF8unpkHi (o : LaneOps) (s : State) : Res := unpack8 s o 2

/-- `I4UNPK.Bk` (R237). -/
def execI4unpk (o : LaneOps) (k : BitVec 2) (s : State) : Res :=
  laneInstr s o 2 (fun _ => LaneOps.srcsA o) (fun _ => none) fun _ _ vs =>
    let nib := fun l j => (field ((srcAt vs 0).word l) (4 * (2 * k.toNat + j)) 4 : BitVec 4).signExtend 32
    { out := pairOf fun l => nib l 1 ++ nib l 0 }

end Sys2Proof.Machine
end

