-- ==== Sys2Proof/Machine/Scalar.lean ====
section
/-! DEFINITION. The meanings of the scalar arithmetic, immediate, literal and uniform memory words (14 R200 to R205, 12 R193). -/
namespace Sys2Proof.Machine

/-! ## Shared operations -/

/-- A three-register word on 32 bits (14 R200). One that names S60 and S61 reads S61 from the latch as it was before (DESIGN CHOICE, log 99). -/
def alu (s : State) (d a b : SReg) (f : Word → Word → Word) : Res :=
  scalarWord s false [d, a, b] fun s => .ok (((s.latch a).latch b).writeS d (f (s.readS a) (s.readS b)))

/-- A three-register word on pairs (14 R200). -/
def alu64 (s : State) (d a b : SReg) (f : DWord → DWord → DWord) : Res :=
  scalarWord s false [d, d + 1, a, a + 1, b, b + 1] fun s =>
    .ok (((s.latch a).latch b).writePair d (f (s.readPair a) (s.readPair b)))

/-- A register-immediate word (14 R202). -/
def aluImm (s : State) (d a : SReg) (f : Word → Word) : Res :=
  scalarWord s false [d, a] fun s => .ok ((s.latch a).writeS d (f (s.readS a)))

/-- `SSHL` of R200: 0 for amounts of 32 to 63. -/
def shl32 (a : Word) (n : Nat) : Word := if n < 32 then a <<< n else 0

/-- `SSHR` of R200: 0 for amounts of 32 to 63. -/
def shr32 (a : Word) (n : Nat) : Word := if n < 32 then a >>> n else 0

/-- `SSRA` of R200: sign copies for amounts of 32 to 63. -/
def sra32 (a : Word) (n : Nat) : Word := if n < 32 then a.sshiftRight n else if a.msb then 0xFFFFFFFF else 0

/-- The shift amount Bits(b, 5, 0) of R200. -/
def amount (b : Word) : Nat := b.toNat % 64

/-- Leading zero bits, 0 to 32. -/
def clz32 (a : Word) : Word := BitVec.ofNat 32 ((List.range 32).takeWhile fun i => !a.getLsbD (31 - i)).length

/-- Set bits, 0 to 32. -/
def popc32 (a : Word) : Word := BitVec.ofNat 32 ((List.range 32).filter fun i => a.getLsbD i).length

/-- Bits [63:32] of the unsigned product. -/
def mulHU (a b : Word) : Word := BitVec.ofNat 32 (a.toNat * b.toNat / 2 ^ 32)

/-- Bits [63:32] of the signed product. -/
def mulHS (a b : Word) : Word := BitVec.ofInt 32 (a.toInt * b.toInt / 2 ^ 32)

/-- A condition on two words of one width (14 R201). -/
def condHolds {w : Nat} (c : SCond) (a b : BitVec w) : Bool :=
  match c with
  | .eq => a == b
  | .ne => a != b
  | .lt => a.slt b
  | .ge => !a.slt b
  | .ltu => a.ult b
  | .geu => !a.ult b

/-- 1 or 0. -/
def flag (b : Bool) : Word := if b then 1 else 0

/-! ## Meanings -/

/-- `SADD`. -/
def execSadd (d a b : SReg) (s : State) : Res := alu s d a b fun x y => x + y

/-- `SSUB`. -/
def execSsub (d a b : SReg) (s : State) : Res := alu s d a b fun x y => x - y

/-- `SMUL`. -/
def execSmul (d a b : SReg) (s : State) : Res := alu s d a b fun x y => x * y

/-- `SMULHU`. -/
def execSmulhu (d a b : SReg) (s : State) : Res := alu s d a b mulHU

/-- `SMULHS`. -/
def execSmulhs (d a b : SReg) (s : State) : Res := alu s d a b mulHS

/-- `SAND`. -/
def execSand (d a b : SReg) (s : State) : Res := alu s d a b fun x y => x &&& y

/-- `SOR`. -/
def execSor (d a b : SReg) (s : State) : Res := alu s d a b fun x y => x ||| y

/-- `SXOR`. -/
def execSxor (d a b : SReg) (s : State) : Res := alu s d a b fun x y => x ^^^ y

/-- `SSHL`. -/
def execSshl (d a b : SReg) (s : State) : Res := alu s d a b fun x y => shl32 x (amount y)

/-- `SSHR`. -/
def execSshr (d a b : SReg) (s : State) : Res := alu s d a b fun x y => shr32 x (amount y)

/-- `SSRA`. -/
def execSsra (d a b : SReg) (s : State) : Res := alu s d a b fun x y => sra32 x (amount y)

/-- `SMIN`. -/
def execSmin (d a b : SReg) (s : State) : Res := alu s d a b fun x y => if x.slt y then x else y

/-- `SMAX`. -/
def execSmax (d a b : SReg) (s : State) : Res := alu s d a b fun x y => if x.slt y then y else x

/-- `SMINU`. -/
def execSminu (d a b : SReg) (s : State) : Res := alu s d a b fun x y => if x.ult y then x else y

/-- `SMAXU`. -/
def execSmaxu (d a b : SReg) (s : State) : Res := alu s d a b fun x y => if x.ult y then y else x

/-- `SSEL`: the old destination is the condition. -/
def execSsel (d a b : SReg) (s : State) : Res := alu s d a b fun x y => if s.readS d ≠ 0 then x else y

/-- `SADD64`. -/
def execSadd64 (d a b : SReg) (s : State) : Res := alu64 s d a b fun x y => x + y

/-- `SSUB64`. -/
def execSsub64 (d a b : SReg) (s : State) : Res := alu64 s d a b fun x y => x - y

/-- `SMUL64`. -/
def execSmul64 (d a b : SReg) (s : State) : Res := alu64 s d a b fun x y => x * y

/-- `SCLZ`. -/
def execSclz (d a : SReg) (s : State) : Res := aluImm s d a clz32

/-- `SPOPC`. -/
def execSpopc (d a : SReg) (s : State) : Res := aluImm s d a popc32

/-- `SSET.cc` (14 R201). -/
def execSset (c : SCond) (d a b : SReg) (s : State) : Res := alu s d a b fun x y => flag (condHolds c x y)

/-- `SSET64.cc` (14 R201). -/
def execSset64 (c : SCond) (d a b : SReg) (s : State) : Res :=
  scalarWord s false [d, a, a + 1, b, b + 1] fun s =>
    .ok (((s.latch a).latch b).writeS d (flag (condHolds c (s.readPair a) (s.readPair b))))

/-- `SADDI` (14 R202). -/
def execSaddi (d a : SReg) (i : BitVec 12) (s : State) : Res := aluImm s d a fun x => x + i.signExtend 32

/-- `SANDI`. -/
def execSandi (d a : SReg) (i : BitVec 12) (s : State) : Res := aluImm s d a fun x => x &&& i.signExtend 32

/-- `SORI`. -/
def execSori (d a : SReg) (i : BitVec 12) (s : State) : Res := aluImm s d a fun x => x ||| i.signExtend 32

/-- `SXORI`. -/
def execSxori (d a : SReg) (i : BitVec 12) (s : State) : Res := aluImm s d a fun x => x ^^^ i.signExtend 32

/-- `SSHLI`. -/
def execSshli (d a : SReg) (i : BitVec 12) (s : State) : Res := aluImm s d a fun x => shl32 x i.toNat

/-- `SSHRI`. -/
def execSshri (d a : SReg) (i : BitVec 12) (s : State) : Res := aluImm s d a fun x => shr32 x i.toNat

/-- `SSRAI`. -/
def execSsrai (d a : SReg) (i : BitVec 12) (s : State) : Res := aluImm s d a fun x => sra32 x i.toNat

/-- The byte offset that a `SLIT` reads: PC + 4 × IMM12 (12 R193). -/
def State.slitAddr (s : State) (i : BitVec 12) : Int := s.g.pc + 4 * i.toInt

/-- `SLIT` (12 R193, 14 R204). -/
def execSlit (d : SReg) (i : BitVec 12) (s : State) : Res :=
  scalarWord s false [d] fun s =>
    let a := s.slitAddr i
    if a < 0 || s.ln.desc.slen < a + 4 then .error { code := 0x10 }
    else .ok (s.writeS d (BitVec.ofNat 32 (s.ln.scode.readLE a.toNat 4)))

/-- `SLIT.B64` (12 R193, 14 R204). -/
def execSlitB64 (d : SReg) (i : BitVec 12) (s : State) : Res :=
  scalarWord s false [d, d + 1] fun s =>
    let a := s.slitAddr i
    if a % 8 ≠ 0 then .error { code := 0x12 }
    else if a < 0 || s.ln.desc.slen < a + 8 then .error { code := 0x10 }
    else .ok (s.writePair d (BitVec.ofNat 64 (s.ln.scode.readLE a.toNat 8)))

/-! ## Uniform memory (14 R205, R206) -/

/-- Access size of FN2 in bytes (12 R183). -/
def uniSize (w : BitVec 2) : Nat :=
  match w.toNat with
  | 0 => 4
  | 1 => 8
  | 2 => 2
  | _ => 1

/-- The offset S[SA] + OFF × size, modulo 2^32 (14 R205). -/
def State.uniOff (s : State) (a : SReg) (w : BitVec 2) (off : BitVec 5) : Word :=
  s.readS a + BitVec.ofNat 32 (off.toNat * uniSize w)

/-- A translation register of the group as the scalar stream reads it. -/
def State.readT (s : State) (n : BitVec 3) : TReg := vget s.g.t n.toNat TReg.zero

/-- A uniform access waits for the lane accesses of every clause enqueued before it (14 R206, log 17). -/
def State.uniWaits (s : State) : Bool :=
  !s.g.laneIdle || s.porters.any fun r => r.wgId == s.g.wgId && r.gid == s.g.gid

/-- A uniform access: it waits, faults, is not performed on an absent frame, or is performed (14 R205). -/
def uniform (s : State) (a : SReg) (w : BitVec 2) (t : BitVec 3) (re : Bool) (pk : BitVec 3) (off : BitVec 5)
    (write : Bool) (miss : State → State) (hit : State → Nat → State) : Res :=
  if s.live && s.uniWaits then .next s.scalarWait
  else
    scalarWord s false [] fun s =>
      let o := s.uniOff a w off
      let s' := s.latch a
      match s.reach (s.readT t) o (uniSize w) write with
      | .fault c => .error { code := c, va := (s.readT t).va o }
      | .absent _ => if re then .ok ((miss s').writeP pk 0xFFFFFFFF) else .error { code := 0x16, va := (s.readT t).va o }
      | .ok da => .ok (if re then (hit s' da).writeP pk 0 else hit s' da)

/-- `SLD`. -/
def execSld (d a : SReg) (w : BitVec 2) (t : BitVec 3) (re : Bool) (pk : BitVec 3) (off : BitVec 5) (s : State) : Res :=
  uniform s a w t re pk off false
    (fun s => if w = 1 then s.writePair d 0 else s.writeS d 0)
    (fun s da =>
      let v := leNat (s.loadBytes da (uniSize w))
      let s := s.touch da false
      if w = 1 then s.writePair d (BitVec.ofNat 64 v) else s.writeS d (BitVec.ofNat 32 v))

/-- `SST`. -/
def execSst (d a : SReg) (w : BitVec 2) (t : BitVec 3) (re : Bool) (pk : BitVec 3) (off : BitVec 5) (s : State) : Res :=
  uniform s a w t re pk off true (fun s => s.latch d)
    (fun t da => (t.latch d).storeBytes da
      (leBytes (uniSize w) (if w = 1 then (s.readPair d).toNat else (s.readS d).toNat)))

end Sys2Proof.Machine
end

