-- ==== Sys2Proof/Machine/Branch.lean ====
section
/-! DEFINITION. The meanings of branches, calls and loops, lane enqueueing, translation registers, `NOP`, `ENDG` and `POOL`
(14 R207 to R219, 12 R192). -/
namespace Sys2Proof.Machine

/-- The target of a format C word: PC + 4 × IMM20 (12 R178). -/
def State.target (s : State) (i : BitVec 20) : Int := s.g.pc + 4 * i.toInt

/-- A branch (14 R207): a taken one transfers control, one not taken falls through; either reads its registers (03 R51). A
stop takes effect before a taken branch (R220). -/
def branch (s : State) (drains : Bool) (regs : List SReg) (taken : State → Bool) (i : BitVec 20) : Res :=
  let read := fun (s : State) => regs.foldl State.latch s
  if taken s then
    scalarJump s drains true regs fun s => ({ read s with g := { (read s).g with loop := none } } : State).jump (s.target i)
  else scalarWord s drains regs fun s => .ok (read s)

/-- `BR`. -/
def execBr (i : BitVec 20) (s : State) : Res := branch s false [] (fun _ => true) i

/-- `BEQZ`. -/
def execBeqz (a : SReg) (i : BitVec 20) (s : State) : Res := branch s false [a] (fun s => s.readS a == 0) i

/-- `BNEZ`. -/
def execBnez (a : SReg) (i : BitVec 20) (s : State) : Res := branch s false [a] (fun s => s.readS a != 0) i

/-- `BLTZ`. -/
def execBltz (a : SReg) (i : BitVec 20) (s : State) : Res := branch s false [a] (fun s => (s.readS a).msb) i

/-- `BGEZ`. -/
def execBgez (a : SReg) (i : BitVec 20) (s : State) : Res := branch s false [a] (fun s => !(s.readS a).msb) i

/-- `BPANY` (14 R208). -/
def execBpany (p : BitVec 3) (i : BitVec 20) (s : State) : Res := branch s true [] (fun s => s.readP p != 0) i

/-- `BPALL` (14 R208). -/
def execBpall (p : BitVec 3) (i : BitVec 20) (s : State) : Res := branch s true [] (fun s => s.readP p == 0xFFFFFFFF) i

/-- `BPNONE` (14 R208). -/
def execBpnone (p : BitVec 3) (i : BitVec 20) (s : State) : Res := branch s true [] (fun s => s.readP p == 0) i

/-- `CALL` (14 R209). -/
def execCall (l : SReg) (i : BitVec 20) (s : State) : Res :=
  scalarJump s false true [l] fun s =>
    (({ s with g := { s.g with loop := none } } : State).writeS l (BitVec.ofNat 32 (s.g.pc + 4))).jump (s.target i)

/-- `JR` (14 R209): alignment first. -/
def execJr (a : SReg) (s : State) : Res :=
  scalarJump s false true [a] fun s =>
    if (s.readS a).toNat % 4 ≠ 0 then .error { code := 0x12 }
    else ({ s.latch a with g := { (s.latch a).g with loop := none } } : State).jump (s.readS a).toNat

/-- `POOL` (12 R192). -/
def execPool (i : BitVec 20) (s : State) : Res :=
  scalarJump s false false [] fun s => s.jump (s.g.pc + 4 + 4 * i.toNat : Nat)

/-- The `LINC` words from an offset up, at most nine of them (12 R180). One that does not decode, for a reserved bit, raises that cause at the
`LOOP`, before every check of R180 (DESIGN CHOICE, log 94). -/
def Launch.lincs (l : Launch) : Nat → Nat → Except SFault (List LoopStep)
  | 0, _ => .ok []
  | fuel + 1, a =>
    match l.scalarAt a with
    | none => .error { code := 0x10 }
    | some w =>
      if opOf w ≠ 0x1D then .ok []
      else
        match decodeScalar w with
        | .ok (.linc n f st) => (l.lincs fuel (a + 4)).map fun r => ⟨n.toNat, f, st⟩ :: r
        | .ok _ => .ok []
        | .error e => .error { code := e.code }

/-- The body words of a loop; none where one lies outside the section (12 R176, R180). -/
def Launch.bodyWords (l : Launch) (body n : Nat) : Option (List Word) :=
  (List.range n).foldr (fun i r =>
    match l.scalarAt (body + 4 * i), r with
    | some w, some ws => some (w :: ws)
    | _, _ => none) (some [])

/-- The state of a loop that a `LOOP` at an offset starts, after the checks of 12 R180 and R176: the causes of decoding the `LINC` words go
first, then more than 8 of them, then a body past the section, then the other checks of R180 (DESIGN CHOICE, log 94). -/
def Launch.loopAt (l : Launch) (pc n count : Nat) : Except SFault LoopSt :=
  match l.lincs 9 (pc + 4) with
  | .error e => .error e
  | .ok steps =>
    if 8 < steps.length then .error { code := 0x06 }
    else
      let body := pc + 4 + 4 * steps.length
      match l.bodyWords body n with
      | none => .error { code := 0x10 }
      | some ws =>
        if steps.any fun x => decide (n ≤ x.word) || !hasField ((ws[x.word]?).getD 0) x.fld then .error { code := 0x06 }
        else if ws.any barredInLoop then .error { code := 0x06 }
        else .ok ⟨body, n, steps, 0, count, 0⟩

/-- `LOOP` (14 R211): the count is read once; after the checks, the `LINC` words and the body are fetched, and a fault of the fetch is the
`LOOP`'s (logs 84, 94); with count 0 the stream continues after the body. -/
def execLoop (c : SReg) (n : BitVec 5) (s : State) : Res :=
  scalarJump s false false [c] fun s =>
    match s.ln.loopAt s.g.pc (n.toNat + 1) (s.readS c).toNat with
    | .error e => .error e
    | .ok lp =>
      match s.fetchBar (s.ln.desc.scodeVa + s.g.pc + 4) (lp.body + 4 * lp.blen - (s.g.pc + 4)) with
      | some c => .error { code := c.1, va := c.2 }
      | none =>
        let s' := s.latch c
        if lp.count = 0 then s'.jump (lp.body + 4 * lp.blen : Nat)
        else .ok { s' with g := { s'.g with pc := lp.body, loop := some lp } }

/-- `LINC` reached other than as part of a `LOOP` (14 R212): 0x06. -/
def execLinc (_w : BitVec 5) (_f : BitVec 2) (_st : BitVec 12) (s : State) : Res :=
  scalarJump s false false [] fun _ => .error { code := 0x06 }

/-- The copies of S0 to S63 that an `ENQ` records (14 R214, R199): S60 and S61 sampled together. -/
def State.unitS (s : State) : Vector Word 64 :=
  Vector.ofFn fun i => if i.val = 61 then s.timeHigh else s.readS (BitVec.ofNat 6 i.val)

/-- The unit of lane work that an `ENQ` appends (14 R214). -/
def State.newUnit (s : State) (hdr : Nat) : LaneUnit where
  hdr := hdr
  s := s.unitS
  p := s.g.p
  t := s.g.t
  rm := field s.g.astat 0 2
  ftz := s.g.astat.getLsbD 3
  nanc := s.g.astat.getLsbD 4

/-- The header word at an index has SAFE set, with its live bound. -/
def Launch.safeAt (l : Launch) (i : Nat) : Option Nat :=
  match l.laneAt i with
  | some w =>
    match decodeHeader w with
    | .ok h => if h.safe then some h.live.toNat else none
    | .error _ => none
  | none => none

/-- No lane of the group is pending and every flag count is 0 (03 R76). -/
def Group.quiet (g : Group) : Bool := g.v.toList.all (fun r => r.pend == 0) && g.f.toList.all (· == 0)

/-- `ENQ` (14 R214); with the lane side idle, a stop request takes effect before an `ENQ` whose header is a safe point
(R220). It waits for writes of Sa alone, not for those of the other registers that it records (DESIGN CHOICE, log 110). -/
def execEnq (a : SReg) (i : BitVec 20) (s : State) : Res :=
  let idx := i.toNat + (s.readS a).toNat
  let full := decide (8 ≤ s.g.queue.length + if s.g.run.isSome then 1 else 0)
  if s.scalarGate false true [a] && full then .next s
  else
    match s.ln.safeAt idx with
    | some live =>
      if s.scalarGate false true [a] && s.g.stop && decide (idx < s.ln.desc.llen) then
        if !s.g.quiet then .next s
        else if live < s.g.mapped || s.ln.desc.floor < live then .next (s.scalarFault 0x08)
        else .next { s with g := s.g.halt }
      else enqueue s idx
    | none => enqueue s idx
where
  /-- The unit appended. -/
  enqueue (s : State) (idx : Nat) : Res :=
    if s.scalarGate false true [a] then
      if s.ln.desc.llen ≤ idx then .next (s.scalarFault 0x10)
      else .next (s.finish { s.latch a with g := { (s.latch a).g with queue := s.g.queue ++ [s.newUnit idx] } })
    else .next s.scalarWait

/-- `TMAP` (14 R216). -/
def execTmap (t : BitVec 3) (a b : SReg) (s : State) : Res :=
  scalarWord s false [a, a + 1, b] fun s =>
    let va := (s.readPair a).toNat % 2 ^ 56
    let req := min (s.readS b).toNat 0x200000
    let s' := (s.latch a).latch b
    .ok { s' with g := { s'.g with t := vset s.g.t t.toNat (s.tmapRun s.tenant va req) } }

/-- `TREL` (14 R217). -/
def execTrel (t : BitVec 3) (s : State) : Res :=
  scalarWord s false [] fun s => .ok { s with g := { s.g with t := vset s.g.t t.toNat TReg.zero } }

/-- `NOP` (14 R210). -/
def execNop (s : State) : Res := scalarWord s false [] fun s => .ok s

/-- `ENDG` (14 R219): a block held retires poisoned, mappings are released, the group ends. -/
def execEndg (s : State) : Res :=
  scalarJump s true true [] fun s =>
    .ok (s.leaveGroup s.g.wgId s.g.gid)

end Sys2Proof.Machine
end

