-- ==== Sys2Proof/Machine/LaneCtl.lean ====
section
/-! DEFINITION. The start of a unit (14 R215), clause headers (12 R186, 03 R59, R70, R75, R76), divergence and reconvergence
(01 R11 to R13, 15 R246 to R251), array lengths (15 R252) and `LNOP`. -/
namespace Sys2Proof.Machine

/-! ## Units and headers -/

/-- `UNIT_START` (14 R215): the next unit begins with one path of all lanes in LS0 and an empty join file. -/
def execUnitStart (s : State) : Res :=
  if s.live && !s.g.laneStop then
    match s.g.run, s.g.queue with
    | none, u :: us =>
      .next { s with g := { s.g with
        queue := us
        run := some ⟨u, some ⟨u.hdr, 0xFFFFFFFF, none, [], none, false, false, []⟩, none, [], Vector.replicate 16 none⟩ } }
    | _, _ => .next s
  else .next s

/-- The path in the issuing slot stands at a clause header, and the lane side may go on. -/
def State.headerGate (s : State) : Option (RunUnit × Path) :=
  if s.live && !s.g.laneStop then
    match s.g.run with
    | some r =>
      match r.path s.slot with
      | some p => if p.clause.isNone then some (r, p) else none
      | none => none
    | none => none
  else none

/-- What comes before a header: the block is abandoned (01 R37), or a waiting imprecise fault is delivered with the
header's index in TEPC (24 R332, 17 R301). -/
def State.boundary (s : State) : Option State :=
  match s.headerGate with
  | none => none
  | some (_, p) =>
    if s.abandonDue then some { s with g := s.g.abandonBlock s.ln.desc.reentry }
    else if s.faultDue then some (s.deliverPending p.pc)
    else none

/-- The path stands where a stop takes effect: at a header with SAFE set, or in a `WAIT` of a SAFE clause (03 R76, 16
R271). -/
def Launch.pathSafe (l : Launch) (p : Path) : Bool :=
  match p.clause with
  | none => (l.safeAt p.pc).isSome
  | some c =>
    c.safe && c.len == 1 &&
    (match l.laneAt p.pc with
     | some w =>
       match decodeLane w with
       | .ok (.wait _) => true
       | _ => false
     | none => false)

/-- Both slots stand where a stop takes effect, no lane is pending and every flag count is 0 (03 R76). -/
def State.laneCanStop (s : State) : Bool :=
  s.g.quiet &&
  (match s.g.run with
   | some r => [r.ls0, r.ls1].all fun o => o.all fun p => s.ln.pathSafe p
   | none => false)

/-- The window of the issuing path made void: its values go to their registers (03 R59, R60). -/
def State.voidWindow (s : State) : State :=
  match s.path with
  | some p => (s.leave p.win.reverse).modPath fun p => { p with win := [] }
  | none => s

/-- Every flag of a `.wait` mask has count 0 (03 R70). -/
def Group.flagsClear (g : Group) (m : BitVec 12) : Bool :=
  (List.range 12).all fun n => !m.getLsbD n || vget g.f n 0 == 0

/-- What a header records of its clause. -/
def clauseOf (h : ClauseHdr) (pc : Nat) : ClauseSt where
  hdr := pc
  len := h.len.toNat + 1
  left := h.len.toNat + 1
  s0 := if h.s0e then some h.sf0 else none
  s1 := if h.s1e then some h.sf1 else none
  safe := h.safe
  cont := h.cont

/-- The path arrives at its join with this header (15 R249). -/
def arrives (r : RunUnit) (p : Path) (h : ClauseHdr) : Option Nat :=
  match p.jrec with
  | some i =>
    match r.join i with
    | some j => if h.join && j.jaddr == p.pc then some i else none
    | none => none
  | none => none

/-- The precise fault of a clause header that does not arrive at its join: 0x08 of the safe point (03 R75), 0x10 where no
word follows (12 R176). -/
def State.headerFault (s : State) (h : ClauseHdr) (p : Path) : Option (BitVec 8) :=
  if h.safe && (decide (h.live.toNat < s.g.mapped) || decide (s.ln.desc.floor < h.live.toNat)) then some 0x08
  else if !s.inLane (p.pc + 1) then some 0x10
  else none

/-- A clause header: its own precise fault first (24 R334), then what comes before it, arrival at a join, the safe point, the
flags, the start of the clause. -/
def execClauseHeader (h : ClauseHdr) (s : State) : Res :=
  match s.headerGate with
  | none => .next s
  | some (r, p) =>
    match arrives r p h, s.headerFault h p, s.boundary with
    | none, some code, _ => .next (s.laneFault code p.mask)
    | _, _, some t => .next t
    | some i, _, none =>
      let need := (s.g.unboundOf p.win).length
      if s.canBind need then
        let t := s.leave p.win.reverse
        .next (({ t with g := t.g.setRun (r.arriveAt s.slot 16 i p.mask) } : State).floatDone p)
      else .next (s.floatWait need)
    | none, none, none =>
      let s := if h.safe then s.voidWindow else s
      if h.safe && s.g.stop then
        .next (if s.laneCanStop then { s with g := { s.g with laneStop := true } } else s)
      else if !s.g.flagsClear h.wmask then .next s
      else .next (s.modPath fun p => { p with pc := p.pc + 1, clause := some (clauseOf h p.pc), missed := false, float := false, zeros := [] })

/-! ## Lane control flow -/

/-- A lane control instruction: gate, a fault it may raise (code, detail), and its effect. The entries that leave the
window are stored first; `ends` says that the whole window leaves. -/
def laneCtl (s : State) (o : LaneOps) (check : RunUnit → Path → ClauseSt → Word → Option (BitVec 8 × Word))
    (ends : RunUnit → Path → ClauseSt → Word → Bool) (eff : State → RunUnit → Path → ClauseSt → Word → State) : Res :=
  match s.laneGate with
  | none => .next s
  | some (r, p, c) =>
    let mask := enabled r p o
    match check r p c mask with
    | some (code, detail) => .next (s.laneFault code p.mask detail)
    | none =>
      let es := if ends r p c mask then p.win else p.win.drop 7
      let need := (s.g.unboundOf es).length
      if s.canBind need then .next ((eff (s.leave es.reverse) r p c mask).floatDone p)
      else .next (s.floatWait need)

/-- The path after a control instruction as the last of its clause, at a lane word and with a mask; its entry is void. -/
def Path.to (p : Path) (pc : Nat) (mask : Word) : Path :=
  { p with pc := pc, mask := mask, win := (WinEntry.void :: p.win).take 8, clause := none, missed := false, float := false, zeros := [] }

/-- The path with the lanes of a mask goes on as the clause's CONT decides, or ends; it ends without lanes (15 R251). -/
def RunUnit.goOn (r : RunUnit) (slot1 : Bool) (p : Path) (c : ClauseSt) (mask : Word) : RunUnit :=
  if mask ≠ 0 && c.cont then r.setPath slot1 (some (p.to (p.pc + 1) mask)) else r.endPath slot1

/-- The word leaves a path outside the section in its slot: 0x10 at the word (12 R176). -/
def State.slotOut (s : State) (r : RunUnit) : Option (BitVec 8 × Word) :=
  if (r.path s.slot).any fun p => !s.inLane p.pc then some (0x10, 0) else none

/-- Target of an `LBR` (15 R248). -/
def lbrTarget (o : LaneOps) : Nat := bitsN o.imm.toNat 15 0

/-- Join address of an `LBR` (15 R248). -/
def lbrJoin (o : LaneOps) : Nat := bitsN o.imm.toNat 31 16

/-- The lanes of the path that do not branch. -/
def Path.rest (p : Path) (mask : Word) : Word := p.mask &&& ~~~mask

/-- A free join record. -/
def RunUnit.freeJoin (r : RunUnit) : Option Nat := (List.range 16).find? fun i => (r.join i).isNone

/-- The open record that a split adds to (15 R248). -/
def RunUnit.openJoin (r : RunUnit) (p : Path) (join : Nat) : Option Nat :=
  match p.jrec with
  | some i =>
    match r.join i with
    | some j => if j.jaddr = join then some i else none
    | none => none
  | none => none

/-- A split puts the other path on the stack: the other slot is not empty (01 R11). -/
def RunUnit.pushes (r : RunUnit) (slot1 : Bool) : Bool := (r.path (!slot1)).isSome

/-- The fault of an `LBR`: a transfer outside the section (12 R176), a full join file, a full stack (15 R248, 01 R13). -/
def lbrCheck (s : State) (o : LaneOps) (r : RunUnit) (p : Path) (c : ClauseSt) (mask : Word) : Option (BitVec 8 × Word) :=
  let rest := p.rest mask
  if mask ≠ 0 && !s.inLane (lbrTarget o) then some (0x10, 0)
  else if mask = 0 then s.slotOut (r.goOn s.slot p c p.mask)
  else if rest ≠ 0 && c.cont && !s.inLane (p.pc + 1) then some (0x10, 0)
  else if rest ≠ 0 then
    if (r.openJoin p (lbrJoin o)).isNone && r.freeJoin.isNone then some (0x05, 1)
    else if r.pushes s.slot && decide (s.ln.desc.dsdepth ≤ r.stack.length) then some (0x05, 0)
    else none
  else none

/-- The record of a split and its index: an open one with one path more, or a new one (15 R248). -/
def RunUnit.splitJoin (r : RunUnit) (p : Path) (join : Nat) : RunUnit × Nat :=
  match r.openJoin p join with
  | some i =>
    ({ r with joins := vset r.joins i ((r.join i).map fun j => { j with count := j.count + 1 }) }, i)
  | none =>
    let i := r.freeJoin.getD 0
    ({ r with joins := vset r.joins i (some ⟨join, 0, 2, p.jrec⟩) }, i)

/-- The taken path of a split stays in the branching slot: it has more lanes (01 R11). -/
def takenStays (taken other : Word) : Bool := decide ((popc32 other).toNat < (popc32 taken).toNat)

/-- The two paths of a split placed: the one with more lanes stays, on a tie the one not taken; the other takes the
other slot or goes onto the stack (01 R11). -/
def RunUnit.place (r : RunUnit) (slot1 : Bool) (taken other : Path) : RunUnit :=
  let stay := if takenStays taken.mask other.mask then taken else other
  let go := if takenStays taken.mask other.mask then other else taken
  let r := r.setPath slot1 (some stay)
  if r.pushes slot1 then { r with stack := ⟨go.pc, go.mask, go.jrec⟩ :: r.stack }
  else r.setPath (!slot1) (some go)

/-- A path under a join record ends without lanes while others stay under it. -/
def RunUnit.uncount (r : RunUnit) (i : Nat) : RunUnit :=
  { r with joins := vset r.joins i ((r.join i).map fun j => { j with count := j.count - 1 }) }

/-- The path that a split of record i did not take ends where it was placed, in the branching slot, in the other one, or on
the stack (15 R248, R251; log 21). -/
def RunUnit.endNotTaken (r : RunUnit) (slot1 stays pushed : Bool) (i : Nat) : RunUnit :=
  if stays then r.arriveAt slot1 16 i 0
  else if pushed then { r with stack := r.stack.drop 1 }.uncount i
  else r.arriveAt (!slot1) 16 i 0

/-- An `LBR` leaves no path with the window of the branching one: that ends, or it ends in its slot while the path taken comes from
the stack with a void window (03 R59, 15 R248). -/
def lbrEnds (slot1 : Bool) (r : RunUnit) (p : Path) (c : ClauseSt) (mask : Word) : Bool :=
  !c.cont && (mask = 0 || (p.rest mask ≠ 0 && r.pushes slot1 && !takenStays mask (p.rest mask)))

/-- `LBR` (15 R248). -/
def execLbr (o : LaneOps) (s : State) : Res :=
  laneCtl s o (fun r p c mask => lbrCheck s o r p c mask) (lbrEnds s.slot) fun s r p c mask =>
    let rest := p.rest mask
    if mask = 0 then { s with g := s.g.setRun (r.goOn s.slot p c p.mask) }
    else if rest = 0 then { s with g := s.g.setRun (r.setPath s.slot (some (p.to (lbrTarget o) p.mask))) }
    else
      let q := r.splitJoin p (lbrJoin o)
      let taken : Path := { p.to (lbrTarget o) mask with jrec := some q.2 }
      let other : Path := { p.to (p.pc + 1) rest with jrec := some q.2 }
      let r' := q.1.place s.slot taken other
      { s with g := s.g.setRun (if c.cont then r' else r'.endNotTaken s.slot (!takenStays mask rest) (r.pushes s.slot) q.2) }

/-- The unit after the lanes of a mask left a path for its join (15 R250). -/
def RunUnit.joinLanes (r : RunUnit) (slot1 : Bool) (p : Path) (c : ClauseSt) (mask : Word) : RunUnit :=
  match p.jrec with
  | none => r.goOn slot1 p c (p.rest mask)
  | some i =>
    if p.rest mask = 0 then r.arriveAt slot1 16 i mask
    else
      let arrive := fun (j : JoinRec) => { j with arrived := j.arrived ||| mask }
      ({ r with joins := vset r.joins i ((r.join i).map arrive) } : RunUnit).goOn slot1 p c (p.rest mask)

/-- `LJOIN` (15 R250). -/
def execLjoin (o : LaneOps) (s : State) : Res :=
  laneCtl s o (fun r p c mask => s.slotOut (r.joinLanes s.slot p c mask)) (fun _ p c mask => p.rest mask = 0 || !c.cont)
    fun s r p c mask => { s with g := s.g.setRun (r.joinLanes s.slot p c mask) }

/-- `LEND` (15 R251). -/
def execLend (o : LaneOps) (s : State) : Res :=
  laneCtl s o (fun r p c mask => s.slotOut (r.goOn s.slot p c (p.rest mask))) (fun _ p c mask => p.rest mask = 0 || !c.cont)
    fun s r p c mask => { s with g := s.g.setRun (r.goOn s.slot p c (p.rest mask)) }

/-! ## Arrays and LNOP -/

/-- The number of an array destination. -/
def Opnd.xNum : Opnd → Nat
  | .x n => n.toNat
  | _ => 0

/-- LEN of an array set, where it is at most XLEN (15 R252). -/
def setLen (s : State) (o : LaneOps) (len : Group → RunUnit → Nat) : Res :=
  let n := Opnd.xNum o.dst
  laneCtl s o
    (fun r p c _ =>
      if (s.g.xarr n).xlen < len s.g r then some (0x03, 0)
      else if s.runsOut r p c then some (0x10, 0) else none)
    (fun _ _ c _ => !c.continues) fun s r _ _ _ =>
      ({ s with g := { s.g with x := vset s.g.x n { s.g.xarr n with len := len s.g r } } } : State).laneDone WinEntry.void

/-- `XSET Xn, imm`. -/
def execXset (o : LaneOps) (s : State) : Res := setLen s o fun _ _ => bitsN o.imm.toNat 6 0

/-- `XSET Xn, Sa`. -/
def execXsetS (o : LaneOps) (s : State) : Res :=
  setLen s o fun _ r =>
    match o.a with
    | .s n => (r.u.sreg n.toNat 0 false).toNat
    | _ => 0

/-- `XRST Xn`. -/
def execXrst (o : LaneOps) (s : State) : Res := setLen s o fun g _ => (g.xarr (Opnd.xNum o.dst)).xlen

/-- `LNOP`. -/
def execLnop (o : LaneOps) (s : State) : Res := laneInstr s o 0 (fun _ => []) (fun _ => none) fun _ _ _ => {}

end Sys2Proof.Machine
end

