-- ==== Sys2Proof/Machine/LaneMem.lean ====
section
/-! DEFINITION. The meanings of the lane memory instructions (16 R253 to R265, R269, R270), with the lane checks of 07 R106 and
R107, residency (R110), touch traps (01 R36), atomic operations and the issue of long-latency work (03 R61, R68, R70). -/
namespace Sys2Proof.Machine

/-! ## The frame of a lane memory instruction -/

/-- How a lane memory instruction ends: a fault (code, lanes, address, block whose touch trap fires); not yet; not before
the dispositions of some slots, which it then reads as zeros (01 R36); or done, with the entry of the window and the
registers bound at issue. -/
inductive MemOut
  | fault (code : BitVec 8) (lanes : Word) (va : Nat) (tslot : Option TSlot)
  | stay
  | stall (slots : List (Nat × Nat))
  | done (s : State) (e : WinEntry) (now : List WinEntry)

/-- The touch trap of a block fires (01 R36). -/
def State.trapFires (s : State) (t : Option TSlot) : State :=
  match t with
  | some t => s.fireTrap t.wgId t.slot
  | none => s

/-- Slots that a path's instruction will read as zeros (01 R36, R37). -/
def Path.readZeros (p : Path) (zs : List (Nat × Nat)) : Path :=
  { p with zeros := p.zeros ++ zs.filter fun z => !p.zeros.contains z }

/-- A lane memory instruction: the checks on operands (15 R227) in the places that `laneInstr` gives them (log 106), then `f`, which checks the addresses in the state and
has its effect on the state given second. `ndst` V registers are written. -/
def laneMem (s : State) (o : LaneOps) (ndst : Nat) (srcs : List Src)
    (f : RunUnit → Path → Word → List SrcVal → State → MemOut) : Res :=
  match s.laneGate with
  | none => .next s
  | some (r, p, c) =>
    let mask := enabled r p o
    let vs := srcs.map fun x => readSrc s.g r p x.x x.n
    let sees := fun (sel : SrcVal → Word) => vs.foldl (fun m v => m ||| (sel v &&& mask)) 0
    let miss := sees (·.miss)
    let after := s.g.lastUse srcs mask
    if sees (·.oob) ≠ 0 then .next (s.laneFault 0x03 (sees (·.oob)))
    else if sees (·.pend) ≠ 0 || s.g.dstPend o.dst ndst &&& mask ≠ 0 then .next s.missWait
    else if miss ≠ 0 && s.g.strict then .next (s.laneFault 0x04 miss)
    else if s.ln.desc.peak < after.mappedWith o.dst ndst mask then .next (s.laneFault 0x07 p.mask)
    else if s.runsOut r p c then .next (s.laneFault 0x10 p.mask)
    else
      match f r p mask vs { s with g := if miss ≠ 0 then after.setUnmap else after } with
      | .fault code lanes va tslot => .next ((s.trapFires tslot).laneFault code lanes 0 va tslot)
      | .stay => .next s
      | .stall zs => .next (s.modPath fun p => p.readZeros zs)
      | .done t e now =>
        let need := (t.g.unboundOf (now ++ t.leaving c e)).length
        if t.canBind need then .next (((t.leave now).laneDone e).floatDone p)
        else .next (s.floatWait need)

/-- The fault of the lowest failing lane, with every failing lane (07 R107). -/
def laneFails (mask : Word) (f : Nat → Option (BitVec 8 × Nat)) : Option MemOut :=
  let bad := (lanesIn mask).filter fun l => (f l).isSome
  match bad with
  | [] => none
  | l :: _ =>
    match f l with
    | some (code, va) => some (.fault code (bad.foldl (fun m l => m ||| oneLane l) 0) va none)
    | none => none
where
  /-- One lane as a mask. -/
  oneLane (l : Nat) : Word := 1 <<< l

/-- The lanes of a mask for which p holds. -/
def lanesWhere (mask : Word) (p : Nat → Bool) : Word := mask &&& maskOf p

/-! ## Global addresses -/

/-- The translation register that an instruction names, as the unit recorded it. -/
def RunUnit.treg (r : RunUnit) (o : LaneOps) : TReg := vget r.u.t (LaneOps.tn o).toNat TReg.zero

/-- The 32-bit offset of a lane (07 R106). -/
def laneOff (o : LaneOps) (vs : List SrcVal) (l : Nat) : Word := (srcAt vs 0).word l + LaneOps.off o

/-- How lane l reaches its address. -/
def laneReach (s : State) (r : RunUnit) (o : LaneOps) (vs : List SrcVal) (size : Nat) (write : Bool) (l : Nat) : Reach :=
  s.reach (r.treg o) (laneOff o vs l) size write

/-- The fault that lane l raises: a failed check, or absence without a residency predicate (07 R107, R110). -/
def laneGlobalFault (s : State) (r : RunUnit) (o : LaneOps) (vs : List SrcVal) (size : Nat) (write : Bool) (l : Nat) :
    Option (BitVec 8 × Nat) :=
  match laneReach s r o vs size write l with
  | .fault c => some (c, (r.treg o).va (laneOff o vs l))
  | .absent _ => if o.re then none else some (0x16, (r.treg o).va (laneOff o vs l))
  | .ok _ => none

/-- The lanes whose frames are absent. -/
def absentLanes (s : State) (r : RunUnit) (o : LaneOps) (vs : List SrcVal) (size : Nat) (write : Bool) (mask : Word) : Word :=
  lanesWhere mask fun l =>
    match laneReach s r o vs size write l with
    | .absent _ => true
    | _ => false

/-- The device address of a lane that is performed. -/
def laneDa (s : State) (r : RunUnit) (o : LaneOps) (vs : List SrcVal) (size : Nat) (write : Bool) (l : Nat) : Option Nat :=
  match laneReach s r o vs size write l with
  | .ok da => some da
  | _ => none

/-- Residency bits of absent lanes set in P[PK] (07 R110). -/
def State.residency (s : State) (o : LaneOps) (absent : Word) : State :=
  if o.re && absent ≠ 0 then s.writePLanes o.pk absent 0xFFFFFFFF else s

/-! ## Long-latency issue (03 R61, R68, R70) -/

/-- The flag that FS selects in the clause (12 R185). -/
def flagOf (c : Option ClauseSt) (fs : BitVec 2) : Option (BitVec 4) :=
  match fs.toNat with
  | 1 => c.bind (·.s0)
  | 2 => c.bind (·.s1)
  | _ => none

/-- The count of a flag cannot rise (03 R70). -/
def Group.flagFull (g : Group) (f : Option (BitVec 4)) : Bool :=
  match f with
  | some n => decide (63 ≤ vget g.f n.toNat 0)
  | none => false

/-- The V register that a destination names. -/
def Opnd.vNum : Opnd → Option Nat
  | .v n => some n.toNat
  | _ => none

/-- A long-latency operation issued: its destination lanes turn live and pending, lanes that get no value die, its flag
rises; with no lane out it is over at once. -/
def State.issue (s : State) (o : LaneOps) (p : Path) (n : Nat) (out none_ ready : Word) (vals : List Lanes)
    (acq : Option Nat) (id : Nat) : MemOut :=
  let dst := Opnd.vNum o.dst
  let flag := flagOf p.clause o.fs
  let g := match dst with
    | some k => s.g.changeV k n (out ||| none_) fun _ r => (r.kill none_).await out
    | none => s.g
  let e : WinEntry := ⟨Lanes.zero, Lanes.zero, if dst.isSome then out else 0, if dst.isSome then out else 0, n == 2,
    if dst.isSome then some id else none, []⟩
  let now : List WinEntry := [{ WinEntry.void with dst := dstClaims o.dst n out }]
  if out = 0 then
    let s := { s with g := g }
    .done (match acq with
      | some sc => s.acquire s.wg.coreId sc
      | none => s) { e with flight := none } now
  else
    .done { s with g := { g with
      flights := g.flights ++ [⟨id, dst, n, out, ready, 0, vals, flag, acq⟩]
      nextFlight := id + 1
      f := match flag with
        | some n => vset g.f n.toNat (vget g.f n.toNat 0 + 1)
        | none => g.f } } e now

/-! ## Global loads and stores (16 R254 to R256) -/

/-- The bytes of a load extended to its registers (16 R254). -/
def loadRegs (z : MSize) (bs : List Byte) : List Word :=
  match z with
  | .s8 => [((BitVec.ofNat 8 (leNat bs)).signExtend 32)]
  | .s16 => [((BitVec.ofNat 16 (leNat bs)).signExtend 32)]
  | _ => (List.range (MSize.regs z)).map fun i => BitVec.ofNat 32 (leNat ((bs.drop (4 * i)).take 4))

/-- Registers of per-lane words: register i holds word i of each lane. -/
def regsOf (n : Nat) (f : Nat → List Word) : List Lanes :=
  (List.range n).map fun i => Lanes.ofFn fun l => ((f l)[i]?).getD 0

/-- The bytes that a store takes from lane l of its source (16 R254). -/
def storeData (z : MSize) (v : SrcVal) (l : Nat) : List Byte :=
  (v.regs.flatMap fun r => leBytes 4 (r.lane l).toNat).take (MSize.bytes z)

/-- The address source of a lane memory instruction. -/
def addrSrc (o : LaneOps) : Src := { x := o.a, lu := o.la }

/-- `LD.G` (16 R256). -/
def execLdG (o : LaneOps) (z : MSize) (s : State) : Res :=
  laneMem s o (MSize.regs z) [addrSrc o] fun r p mask vs t =>
    match laneFails mask (laneGlobalFault s r o vs (MSize.bytes z) false) with
    | some e => e
    | none =>
      if s.g.flagFull (flagOf p.clause o.fs) then .stay
      else
        let absent := absentLanes s r o vs (MSize.bytes z) false mask
        let val := fun l =>
          match laneDa s r o vs (MSize.bytes z) false l with
          | some da => loadRegs z (s.loadBytes da (MSize.bytes z))
          | none => []
        let t := (lanesIn (mask &&& ~~~absent)).foldl (fun t l =>
          match laneDa s r o vs (MSize.bytes z) false l with
          | some da => t.touch da false
          | none => t) t
        (t.residency o absent).issue o p (MSize.regs z) mask 0 mask (regsOf (MSize.regs z) val) none t.g.nextFlight

/-- `ST.G` (16 R256). -/
def execStG (o : LaneOps) (z : MSize) (s : State) : Res :=
  laneMem s o 0 [addrSrc o, { x := o.b, lu := o.lb, n := MSize.regs z }] fun r _ mask vs t =>
    match laneFails mask (laneGlobalFault s r o vs (MSize.bytes z) true) with
    | some e => e
    | none =>
      let t := (lanesIn mask).foldl (fun t l =>
        match laneDa s r o vs (MSize.bytes z) true l with
        | some da => t.storeBytes da (storeData z (srcAt vs 1) l)
        | none => t) t
      .done (t.residency o (absentLanes s r o vs (MSize.bytes z) true mask)) WinEntry.void []

/-! ## Scratchpad access (16 R257, 07 R99, R100, 01 R25, R36) -/

/-- The workgroup and offset of lane l, or a fault. -/
def laneSp (s : State) (o : LaneOps) (vs : List SrcVal) (n l : Nat) : Except (BitVec 8) (Nat × Nat) :=
  s.spTarget (laneOff o vs l) n

/-- The fault of lane l of a scratchpad access, which has no VA (log 46). -/
def laneSpFault (s : State) (o : LaneOps) (vs : List SrcVal) (n l : Nat) : Option (BitVec 8 × Nat) :=
  match laneSp s o vs n l with
  | .error c => some (c, 0)
  | .ok _ => none

/-- The landing slot, with its workgroup and state, that an offset of a workgroup's scratchpad lies in (01 R18). -/
def State.slotAt (s : State) (w off : Nat) : Option ((Nat × Nat) × Slot) :=
  match slotOf s.ln.desc off, s.findWg w with
  | some n, some x => some ((w, n), x.slot n)
  | _, _ => none

/-- The slot whose touch trap fires on a read of lane l, or whose trap is being handled, with which of the two (01 R36; log
7); an instruction that a disposition let go on fires it no more. -/
def laneTrap (s : State) (o : LaneOps) (vs : List SrcVal) (n : Nat) (zeros : List (Nat × Nat)) (l : Nat) :
    Option ((Nat × Nat) × Bool) :=
  match laneSp s o vs n l with
  | .ok (w, off) =>
    match s.slotAt w off with
    | some (k, y) => if y.stalled then some (k, false) else if y.fires && !zeros.contains k then some (k, true) else none
    | none => none
  | .error _ => none

/-- What a read of scratchpad meets first: a check that fails, a touch trap, traps being handled (01 R36). -/
def laneSpRead (s : State) (o : LaneOps) (vs : List SrcVal) (n : Nat) (zeros : List (Nat × Nat)) (mask : Word) : Option MemOut :=
  match laneFails mask (laneSpFault s o vs n) with
  | some e => some e
  | none =>
    let met := (lanesIn mask).filterMap fun l => (laneTrap s o vs n zeros l).map fun k => (l, k)
    match met.find? fun x => x.2.2 with
    | some (l, k) => some (.fault 0x20 (1 <<< l) 0 (some (s.trapAt k.1.1 k.1.2)))
    | none => if met.isEmpty then none else some (.stall (met.map fun x => x.2.1))

/-- The bytes that lane l reads, zeros where a disposition says so (01 R36, R37). -/
def laneSpBytes (s : State) (o : LaneOps) (vs : List SrcVal) (n : Nat) (zeros : List (Nat × Nat)) (l : Nat) : List Byte :=
  match laneSp s o vs n l with
  | .ok (w, off) =>
    if (slotOf s.ln.desc off).any fun k => zeros.contains (w, k) then List.replicate n 0 else s.spLoad w off n
  | .error _ => []

/-- `LD.L` (16 R257). -/
def execLdL (o : LaneOps) (z : MSize) (s : State) : Res :=
  laneMem s o (MSize.regs z) [addrSrc o] fun _ p mask vs t =>
    match laneSpRead s o vs (MSize.bytes z) p.zeros mask with
    | some e => e
    | none =>
      if s.g.flagFull (flagOf p.clause o.fs) then .stay
      else
        t.issue o p (MSize.regs z) mask 0 mask
          (regsOf (MSize.regs z) fun l => loadRegs z (laneSpBytes s o vs (MSize.bytes z) p.zeros l)) none t.g.nextFlight

/-- `ST.L` (16 R257). -/
def execStL (o : LaneOps) (z : MSize) (s : State) : Res :=
  laneMem s o 0 [addrSrc o, { x := o.b, lu := o.lb, n := MSize.regs z }] fun _ _ mask vs t =>
    match laneFails mask (laneSpFault s o vs (MSize.bytes z)) with
    | some e => e
    | none =>
      .done ((lanesIn mask).foldl (fun t l =>
        match laneSp s o vs (MSize.bytes z) l with
        | .ok (w, off) => t.spStore s.wg.id w off (storeData z (srcAt vs 1) l)
        | .error _ => t) t) WinEntry.void []

/-! ## Atomics (16 R258) -/

/-- The new value at a location of w bits; none where it is not written (16 R258). -/
def atomNew (w : Nat) (f : AOp) (old b c : BitVec w) : Option (BitVec w) :=
  match f with
  | .add | .add64 => some (old + b)
  | .and => some (old &&& b)
  | .or => some (old ||| b)
  | .xor => some (old ^^^ b)
  | .min => some (if b.slt old then b else old)
  | .max => some (if old.slt b then b else old)
  | .minu => some (if b.ult old then b else old)
  | .maxu => some (if old.ult b then b else old)
  | .swap | .swap64 => some b
  | .cas | .cas64 => if old = c then some b else none
  | .load | .load64 => none

/-- An atomic operation on the little-endian number at a location: the new number, if it is written. -/
def atomNat (f : AOp) (old b c : Nat) : Option Nat :=
  if AOp.wide f then (atomNew 64 f (BitVec.ofNat 64 old) (BitVec.ofNat 64 b) (BitVec.ofNat 64 c)).map BitVec.toNat
  else (atomNew 32 f (BitVec.ofNat 32 old) (BitVec.ofNat 32 b) (BitVec.ofNat 32 c)).map BitVec.toNat

/-- Registers of an atomic's operand and result. -/
def atomRegs (f : AOp) : Nat := if AOp.wide f then 2 else 1

/-- Bytes of an atomic's location. -/
def atomBytes (f : AOp) : Nat := if AOp.wide f then 8 else 4

/-- The sources of an atomic: address, operand but for a load, compare value for a compare-and-swap. -/
def atomSrcs (o : LaneOps) (f : AOp) : List Src :=
  [addrSrc o, { x := o.b, lu := o.lb, n := atomRegs f }, { x := o.c, lu := o.lc, n := atomRegs f }]

/-- Halls in ascending order. -/
def halls : List Nat := List.range 32

/-- Requests in the porter queue of a hall: one for each lane (07 R113). -/
def State.porterLoad (s : State) (hall : Nat) : Nat := ((s.porters.filter fun r => r.hall == hall).map fun r => r.lanes.length).sum

/-- The porter queue of a hall, of 256 requests, has no room for those of an instruction (07 R113). -/
def State.porterFull (s : State) (q : PorterReq) : Bool := decide (256 < s.porterLoad q.hall + q.lanes.length)

/-- A key that no request at the porters has. -/
def State.porterKey (s : State) : Nat := s.porters.foldl (fun m q => max m (q.key + 1)) 1

/-- The hall that owns a device address (07 R102). -/
def ownerHall (da : Nat) : Nat := bitsN da 16 12

/-- The requests of an instruction: for each hall, those that the instruction's lanes make of its porter, in ascending order (07 R113). -/
def requests (s : State) (op : PorterOp) (flight : Option Nat) (mask : Word) (lane : Nat → Nat → List PorterLane) : List PorterReq :=
  halls.filterMap fun h =>
    match (lanesIn mask).flatMap (lane h) with
    | [] => none
    | ls => some ⟨h, s.porterKey, s.ln.lid, s.wg.id, s.g.gid, s.g.blkidx, op, ls, flight, []⟩

/-- What a lane asks of a hall's porter: its location is there or not; a merge reads its source where that is (16 R262). -/
def laneAsks (x : PorterLane) (hall src : Nat) (merge : Bool) (h : Nat) : List PorterLane :=
  if merge then
    (if src = h then [{ x with part := .read }] else []) ++ (if hall = h then [{ x with part := .await }] else [])
  else if hall = h then [x] else []

/-- A returning access at the porters: `ATOM.G` and `XCVT` (16 R258, R263, 08 R125, R128). -/
def returning (s : State) (o : LaneOps) (op : PorterOp) (srcs : List Src) (size n : Nat) (write : Bool) : Res :=
  laneMem s o n srcs fun r p mask vs t =>
    match laneFails mask (laneGlobalFault s r o vs size write) with
    | some e => e
    | none =>
      let rel := LaneOps.ord o = 2 || LaneOps.ord o = 3
      let acq := LaneOps.ord o = 1 || LaneOps.ord o = 3
      let absent := absentLanes s r o vs size write mask
      let out := mask &&& ~~~absent
      let reqs := requests s op (some t.g.nextFlight) out fun h l =>
        laneAsks ⟨l, BitVec.ofNat 56 ((r.treg o).va (laneOff o vs l)), (srcAt vs 1).val n l, (srcAt vs 2).val n l, .plain⟩
          (ownerHall ((laneDa s r o vs size write l).getD 0)) 0 false h
      if s.g.flagFull (flagOf p.clause o.fs) || reqs.any s.porterFull ||
          (rel && !s.released s.g s.ln.lid (LaneOps.scope o)) then .stay
      else
        let t := if rel then t.publish s.g.wgId s.g.gid else t
        let t := (t.residency o absent)
        ({ t with porters := t.porters ++ reqs }).issue o p n out absent 0 (List.replicate n Lanes.zero)
          (if acq then some (LaneOps.scope o) else none) t.g.nextFlight

/-- `ATOM.G` (16 R258). -/
def execAtomG (o : LaneOps) (f : AOp) (s : State) : Res :=
  returning s o (.atom (AOp.code f)) (atomSrcs o f) (atomBytes f) (atomRegs f) (!AOp.loads f)

/-- `XCVT` (16 R263). -/
def execXcvt (o : LaneOps) (s : State) : Res := returning s o (.xcvt false) [addrSrc o] 64 1 false

/-- `XCVT.CLR` (16 R263). -/
def execXcvtClr (o : LaneOps) (s : State) : Res := returning s o (.xcvt true) [addrSrc o] 64 1 true

/-- `ATOM.L` (16 R258, 07 R114): lanes in ascending order, each one indivisible. -/
def execAtomL (o : LaneOps) (f : AOp) (s : State) : Res :=
  laneMem s o (atomRegs f) (atomSrcs o f) fun _ p mask vs t =>
    match laneSpRead s o vs (atomBytes f) p.zeros mask with
    | some e => e
    | none =>
      if s.g.flagFull (flagOf p.clause o.fs) then .stay
      else
        let n := atomBytes f
        let step := fun (q : State × List (Nat × Nat)) (l : Nat) =>
          match laneSp s o vs n l with
          | .ok (w, off) =>
            let old := leNat (laneSpBytes q.1 o vs n p.zeros l)
            let t := match atomNat f old ((srcAt vs 1).val (atomRegs f) l).toNat ((srcAt vs 2).val (atomRegs f) l).toNat with
              | some new => q.1.spStore s.wg.id w off (leBytes n new)
              | none => q.1
            (t, (l, old) :: q.2)
          | .error _ => q
        let q := (lanesIn mask).foldl step (t, [])
        let old := fun l => ((q.2.find? fun x => x.1 == l).map (·.2)).getD 0
        q.1.issue o p (atomRegs f) mask 0 mask
          (regsOf (atomRegs f) fun l => [BitVec.ofNat 32 (old l), BitVec.ofNat 32 (old l / 2 ^ 32)]) none q.1.g.nextFlight

/-! ## Non-returning reductions (16 R259 to R262, 07 R115) -/

/-- The hall to which a request for an offset goes: that of its address where it translates, else the first. -/
def reduceHall (s : State) (t : TReg) (off : Word) : Nat :=
  match s.reach t off 1 false with
  | .ok da => ownerHall da
  | .absent dfn => ownerHall (dfn * 0x10000 + t.va off % 0x10000)
  | .fault _ => 0

/-- A misaligned lane; of `XMERGE` also its source (16 R262). -/
def reduceFault (r : RunUnit) (o : LaneOps) (vs : List SrcVal) (size : Nat) (merge : Bool) (l : Nat) : Option (BitVec 8 × Nat) :=
  let va := (r.treg o).va (laneOff o vs l)
  let sva := (r.treg o).va ((srcAt vs 1).word l)
  if va % size ≠ 0 then some (0x12, va) else if merge && sva % size ≠ 0 then some (0x12, sva) else none

/-- A non-returning reduction: aligned lanes go to the porters, and the instruction completes (07 R115). A release comes
first (08 R128). -/
def reduction (s : State) (o : LaneOps) (op : PorterOp) (nb size : Nat) (merge : Bool) : Res :=
  laneMem s o 0 [addrSrc o, { x := o.b, lu := o.lb, n := nb }] fun r _ mask vs t =>
    match laneFails mask (reduceFault r o vs size merge) with
    | some e => e
    | none =>
      let rel := LaneOps.ord o = 2
      let reqs := requests s op none mask fun h l =>
        laneAsks ⟨l, BitVec.ofNat 56 ((r.treg o).va (laneOff o vs l)), (srcAt vs 1).val nb l,
            BitVec.ofNat 64 ((r.treg o).va ((srcAt vs 1).word l)), .plain⟩
          (reduceHall s (r.treg o) (laneOff o vs l)) (reduceHall s (r.treg o) ((srcAt vs 1).word l)) merge h
      if reqs.any s.porterFull || (rel && !s.released s.g s.ln.lid (LaneOps.scope o)) then .stay
      else
        let t := if rel then t.publish s.g.wgId s.g.gid else t
        .done { t with porters := t.porters ++ reqs } WinEntry.void []

/-- `RED.G` (16 R259). -/
def execRedG (o : LaneOps) (f : AOp) (s : State) : Res :=
  reduction s o (.red (AOp.code f)) (atomRegs f) (atomBytes f) false

/-- `REDF` (16 R260). -/
def execRedf (o : LaneOps) (fc : BitVec 3) (s : State) : Res := reduction s o (.redf fc) 1 4 false

/-- The code of a value type of `REDX` (16 R261). -/
def XType.code : XType → BitVec 2
  | .f32 => 0
  | .f16 => 1
  | .bf16 => 2
  | .e4m3 => 3

/-- `REDX` (16 R261). -/
def execRedx (o : LaneOps) (ty : XType) (s : State) : Res := reduction s o (.redx (XType.code ty)) 1 64 false

/-- `XMERGE` (16 R262). -/
def execXmerge (o : LaneOps) (s : State) : Res := reduction s o .xmerge 1 64 true

/-! ## RESIDE (16 R265) -/

/-- The frame of a lane's address: none where the walk fails (16 R265). -/
def laneFrame (s : State) (r : RunUnit) (o : LaneOps) (vs : List SrcVal) (l : Nat) : Option Nat :=
  let t := r.treg o
  let x := laneOff o vs l
  if t.valid && decide (x.toNat < t.limit.toNat) then some (t.dfn.toNat + (t.base.toNat % 0x10000 + x.toNat) / 0x10000)
  else (s.walk s.tenant (t.va x)).map (·.1)

/-- The frame is another tenant's (16 R265, R266, 10 R145): who of the tenant owns it does not matter, for no byte moves. -/
def State.foreign (s : State) (dfn : Nat) : Bool :=
  match s.fitOf dfn with
  | some e => e.tenant != s.tenant || e.table
  | none => true

/-- An identity for a new residency request. -/
def State.newReq (s : State) : Nat := s.resreqs.foldl (fun m r => max m (r.id + 1)) 1

/-- OUT of RSTAT changed by one (16 R264). -/
def rstatOut (r : Word) (up : Bool) : Word := if up then r + 0x10000 else r - 0x10000

/-- Lane `RESIDE`: one request for the frames of the enabled lanes; with no lane it is done at once (16 R265). -/
def execResideLane (o : LaneOps) (s : State) : Res :=
  laneMem s o 1 [addrSrc o] fun r p mask vs t =>
    let bad := fun l =>
      match laneFrame s r o vs l with
      | some d => if s.foreign d then some ((0x15 : BitVec 8), (r.treg o).va (laneOff o vs l)) else none
      | none => none
    match laneFails mask bad with
    | some e => e
    | none =>
      if mask = 0 then .done { t with g := { t.g with rstat := (t.g.rstat &&& ~~~0xF) ||| 1 } } WinEntry.void []
      else if s.g.flagFull (flagOf p.clause o.fs) then .stay
      else
        let frames := nub ((lanesIn mask).filterMap (laneFrame s r o vs))
        let req : ResReq := ⟨s.newReq, s.wg.id, s.g.gid, s.ln.lid, s.g.blkidx, frames,
          (lanesIn mask).any fun l => (laneFrame s r o vs l).isNone, none, some t.g.nextFlight⟩
        ({ t with resreqs := t.resreqs ++ [req], g := { t.g with rstat := rstatOut t.g.rstat true } }).issue o p 1 mask 0 0
          [Lanes.zero] none t.g.nextFlight

/-! ## WAIT (16 R269, R270) -/

/-- The path back at its clause's header. -/
def Path.toHeader (p : Path) (c : ClauseSt) : Path := { p with pc := c.hdr, clause := none, missed := false, float := false, zeros := [] }

/-- `WAIT`: it completes with an acquire once the phase is complete; in a SAFE clause a stop, a fault to be delivered or a
block to be abandoned sends the path back to the header (16 R270, 24 R332, 01 R37). -/
def execWait (o : LaneOps) (s : State) : Res :=
  match s.path.bind (·.clause) with
  | none => .next s
  | some c =>
    laneMem s o 0 [] fun r _ mask _ t =>
      let a := (match o.a with
        | .s n => r.u.sreg n.toNat 0 false
        | _ => 0) + LaneOps.off o
      let ph := match o.b with
        | .s n => r.u.sreg n.toNat 0 false
        | _ => 0
      if mask = 0 then .done t WinEntry.void []
      else
        match s.spTarget a 16 with
        | .error e => .fault e mask 0 none
        | .ok (w, off) =>
          match s.findWg w with
          | none => .fault 0x31 mask 0 none
          | some x =>
            let b := x.bar s.ln.desc off
            if b.ticket ≠ s.ln.ticket then .fault 0x31 mask 0 none
            else if b.passed (ph.setWidth 16) then .done (t.acquireBar x off (ph.setWidth 16) (some t.g.gid)) WinEntry.void []
            else if c.safe && (s.g.stop || s.abandonDue || s.faultDue) then
              .done (t.modPath fun p => p.toHeader c) WinEntry.void []
            else .stay

end Sys2Proof.Machine
end

