-- ==== Sys2Proof/Machine/Porter.lean ====
section
/-! DEFINITION. The meanings of the steps of a core and of the porters: replies (03 R68 to R70), atomics and reductions at a
porter (07 R113, R115, 05 R95 to R98), float (03 R63, R64) and compaction (R74). -/
namespace Sys2Proof.Machine

/-! ## REPLY_ARRIVAL -/

/-- Lanes of a register replaced. -/
def mergeLanes (mask : Word) (new old : Lanes) : Lanes :=
  Lanes.ofFn fun l => if mask.getLsbD l then new.lane l else old.lane l

/-- A window entry that waits for a flight after some lanes arrived; a lane that gets no value is void (03 R67). -/
def WinEntry.fill (e : WinEntry) (f : Flight) (mask : Word) : WinEntry :=
  if e.flight = some f.id then
    { e with
      valid := e.valid &&& ~~~(mask &&& f.lost)
      lo := mergeLanes mask ((f.vals[0]?).getD Lanes.zero) e.lo
      hi := mergeLanes mask ((f.vals[1]?).getD Lanes.zero) e.hi
      pend := e.pend &&& ~~~mask }
  else e

/-- The windows of a unit after some lanes arrived. -/
def RunUnit.fill (r : RunUnit) (f : Flight) (mask : Word) : RunUnit :=
  let path := fun (p : Path) => { p with win := p.win.map fun e => e.fill f mask }
  { r with ls0 := r.ls0.map path, ls1 := r.ls1.map path }

/-- Lanes of a flight arrive: registers, windows, and with the last lane the flag (03 R68, R70); lanes that get no value
die (R67, log 22). -/
def Group.arriveLanes (g : Group) (f : Flight) (mask : Word) : Group :=
  let g := match f.dst with
    | some k => g.modV k f.nreg fun i r =>
        ({ r with
          val := mergeLanes (mask &&& r.pend) ((f.vals[i]?).getD Lanes.zero) r.val
          pend := r.pend &&& ~~~mask } : VReg).kill (mask &&& f.lost)
    | none => g
  let done : Bool := f.out &&& ~~~mask == 0
  { g with
    run := g.run.map fun r => r.fill f mask
    saved := g.saved.map fun v => { v with run := v.run.map fun r => r.fill f mask }
    flights :=
      if done then g.flights.filter fun x => x.id != f.id
      else g.flights.map fun x => if x.id == f.id then { x with out := x.out &&& ~~~mask } else x
    f := match f.flag with
      | some n => if done then vset g.f n.toNat (vget g.f n.toNat 0 - 1) else g.f
      | none => g.f }

/-- `REPLY_ARRIVAL` (03 R68, R69): lanes of the k-th flight of the group in the focus whose reply is known arrive; the
acquire of an ordered atomic follows the last one (08 R128). -/
def execReplyArrival (k : Nat) (lanes : Word) (s : State) : Res :=
  match s.g.flights[k]? with
  | none => .next s
  | some f =>
    let mask := f.out &&& f.ready &&& lanes
    if mask = 0 then .next s
    else
      let s := { s with g := s.g.arriveLanes f mask }
      .next (match f.acq with
        | some sc => if f.out &&& ~~~mask = 0 then s.acquire s.wg.coreId sc else s
        | none => s)

/-! ## PORTER_PERFORM -/

/-- A reply of a lane known: its value stands in the flight. -/
def State.reply (s : State) (q : PorterReq) (lane : Nat) (v : Nat) : State :=
  match q.flight with
  | none => s
  | some id =>
    let m : Word := 1 <<< lane
    s.modGroup q.wgId q.gid fun g => { g with flights := g.flights.map fun f =>
      if f.id == id then
        { f with
          ready := f.ready ||| m
          vals := f.vals.mapIdx fun i x => mergeLanes m (Lanes.ofFn fun _ => BitVec.ofNat 32 (v / 2 ^ (32 * i))) x }
      else f }

/-- A lane of a returning access that the porter cannot perform gets no value (07 R110, log 22). -/
def State.noReply (s : State) (q : PorterReq) (lane : Nat) : State :=
  match q.flight with
  | none => s
  | some id =>
    let m : Word := 1 <<< lane
    s.modGroup q.wgId q.gid fun g => { g with flights := g.flights.map fun f =>
      if f.id == id then { f with ready := f.ready ||| m, lost := f.lost ||| m } else f }

/-- The operation needs write permission (07 R106 step 3). -/
def PorterOp.writes : PorterOp → Bool
  | .atom op => match AOp.ofCode op with
    | some f => !AOp.loads f
    | none => true
  | .xcvt clr => clr
  | _ => true

/-- The format of a value type of `REDX`. -/
def xFmt (ty : BitVec 2) : Fmt :=
  match ty.toNat with
  | 0 => .f32
  | 1 => .f16
  | 2 => .bf16
  | _ => .e4m3

/-- Bits of a `REDX` value (16 R261). -/
def xBits (ty : BitVec 2) (v : DWord) : Nat := v.toNat % 2 ^ (1 + (xFmt ty).ebits + (xFmt ty).fbits)

/-- The little-endian number of n bytes written at a device address, as one indivisible update (05 R97, 10 R148). -/
def State.update (s : State) (da n v : Nat) : State := s.batch (cellsAt da (leBytes n v))

/-- One lane performed at a device address (07 R113, 05 R95 to R98). The sticky bits of a `REDF` rise with each lane of it (DESIGN CHOICE,
log 105). -/
def State.perform (s : State) (q : PorterReq) (x : PorterLane) (da : Nat) : State :=
  match q.op with
  | .atom op | .red op =>
    match AOp.ofCode op with
    | none => s
    | some f =>
      let old := s.mem.readLE da (atomBytes f)
      let s := match atomNat f old x.b.toNat x.c.toNat with
        | some v => s.update da (atomBytes f) v
        | none => s.touch da false
      s.reply q x.lane old
  | .redf fc =>
    let r := redfOp fc (s.mem.readLE da 4) (x.b.toNat % 2 ^ 32)
    (s.update da 4 r.1).modGroup q.wgId q.gid fun g => g.raise r.2
  | .redx ty =>
    s.update da 64 ((Xacc.ofNat (s.mem.readLE da 64)).contribute (xFmt ty) (xBits ty x.b)).toNat
  | .xmerge =>
    match x.part with
    | .got v => s.update da 64 ((Xacc.ofNat (s.mem.readLE da 64)).merge (Xacc.ofNat v.toNat)).toNat
    | _ => s
  | .xcvt clr =>
    let v := (Xacc.ofNat (s.mem.readLE da 64)).toF32
    let s := if clr then s.update da 64 0 else s.touch da false
    s.reply q x.lane v

/-- How a lane of a request reaches its address; the read of a merge, its source. -/
def State.porterReach (s : State) (l : Launch) (q : PorterReq) (x : PorterLane) : Reach :=
  if x.part = .read then s.reachVa l.cmd.tenant l.ticket (x.c.toNat % 2 ^ 56) false
  else s.reachVa l.cmd.tenant l.ticket x.va.toNat q.op.writes

/-- The cause of a lane that is not performed (07 R115); a frame that holds an error of its own is a poisoned one (24 R348). -/
def reachCause : Reach → Option (BitVec 8)
  | .ok _ => none
  | .absent _ => some 0x16
  | .fault c => some (poisonCause c)

/-- The source of a merge handed to the lane that waits for it at the destination's porter (16 R262). -/
def State.handOver (s : State) (q : PorterReq) (lane : Nat) (p : MergePart) : State :=
  { s with porters := s.porters.map fun r =>
      if r.key == q.key then { r with lanes := r.lanes.map fun y => if y.lane == lane && y.part == .await then { y with part := p } else y }
      else r }

/-- A lane of a request that its porter cannot perform: no value for a returning one (07 R110, R115); 0x14 halts the gang (R112). -/
def State.failLane (s : State) (l : Launch) (q : PorterReq) (x : PorterLane) (r : Reach) : State :=
  match r with
  | .fault c =>
    let s := (s.metFrame l.cmd.tenant (if x.part = .read then x.c.toNat % 2 ^ 56 else x.va.toNat) c).noReply q x.lane
    if c = 0x14 then s.integrityHalt l.lid else s
  | _ => s.noReply q x.lane

/-- One lane of a request taken by its porter: performed, or failed with a cause. -/
def State.performLane (s : State) (l : Launch) (q : PorterReq) (x : PorterLane) : State × Option (BitVec 8) :=
  match x.part with
  | .failed c => (s, some c)
  | .read =>
    match s.porterReach l q x with
    | .ok da => ((s.touch da false).handOver q x.lane (.got (BitVec.ofNat 512 (s.mem.readLE da 64))), none)
    | r => ((s.failLane l q x r).handOver q x.lane (.failed ((reachCause r).getD 0x10)), none)
  | _ =>
    match s.porterReach l q x with
    | .ok da => (s.perform q x da, none)
    | r => (s.failLane l q x r, reachCause r)

/-- The lanes of a reduction that failed: an imprecise fault, or a late one once the issuer has ended (07 R115, R116). -/
def State.reductionFault (s : State) (q : PorterReq) : State :=
  match q.bad with
  | [] => s
  | (_, va, code) :: _ =>
    if q.flight.isSome || code = 0x14 then s
    else
      let lanes := q.bad.foldl (fun m y => m ||| ((1 : Word) <<< y.1)) 0
      s.imprecise q.wgId q.gid ⟨code, 4, 0, va, lanes, none, none, false, 0, q.blkidx⟩

/-- The request of an instruction at a hall replaced, or over. -/
def State.porterNext (s : State) (q : PorterReq) : State :=
  if q.lanes.isEmpty then
    ({ s with porters := s.porters.filter fun r => !(r.key == q.key && r.hall == q.hall) } : State).reductionFault q
  else { s with porters := s.porters.map fun r => if r.key == q.key && r.hall == q.hall then q else r }

/-- The request of a key at a hall as it stands, its first lane taken; what that lane left behind in it stays (16 R262). -/
def State.porterRest (s : State) (q : PorterReq) : PorterReq :=
  let q := (s.porters.find? fun r => r.key == q.key && r.hall == q.hall).getD q
  { q with lanes := q.lanes.drop 1 }

/-- The first lane of a request taken by its porter; a merge waits there for its source, and where the source fails its fault names the
address of the destination (DEDUCED, log 9). -/
def State.porterStep (s : State) (q : PorterReq) : State :=
  match q.lanes, s.findLaunch q.lid with
  | x :: _, some l =>
    if x.part = .await then s
    else
      let r := s.performLane l q x
      r.1.porterNext { r.1.porterRest q with bad := q.bad ++ (r.2.map fun c => (x.lane, x.va, c)).toList }
  | _, _ => s.porterNext { q with lanes := [] }

/-- `PORTER_PERFORM` (07 R113): the porter of a hall performs the first lane of its queue. -/
def execPorterPerform (hall : Nat) (s : State) : Res :=
  match s.porters.find? fun q => q.hall == hall with
  | none => .next s
  | some q => .next (s.porterStep q)

/-- Its first lane waits for no source. -/
def PorterReq.ready (q : PorterReq) : Bool := q.lanes.head?.all fun x => x.part != .await

/-- The requests of some launches meet their porters in the order of their issue (17 R304). `fuel` bounds their lanes. -/
def State.meetPorters (lids : List Nat) : Nat → State → State
  | 0, s => s
  | fuel + 1, s =>
    match s.porters.find? fun q => lids.contains q.lid && q.ready with
    | none => s
    | some q => State.meetPorters lids fuel (s.porterStep q)

/-- Lanes and requests that stand at the porters. -/
def State.porterWork (s : State) : Nat := (s.porters.map fun q => q.lanes.length + 1).sum

/-! ## Float (03 R63, R64) -/

/-- The oldest of the groups. -/
def oldest : List Group → Option Group
  | [] => none
  | g :: gs => some (gs.foldl (fun m x => if older x m then x else m) g)

/-- The youngest of the groups. -/
def youngest : List Group → Option Group
  | [] => none
  | g :: gs => some (gs.foldl (fun m x => if older m x then x else m) g)

/-- The float registers of a group: of its bound V registers, in ascending number, those beyond the floor (03 R64; which they are is
DESIGN CHOICE, log 99). -/
def Group.floatRegs (g : Group) (floor : Nat) : List Nat :=
  ((List.range 128).filter fun n => (g.vreg n).phys.isSome).drop floor

/-- Every float register of a group moved to its spill area: the group stalls until they are granted back (03 R64). -/
def Group.spill (g : Group) (floor : Nat) : Group :=
  let regs := g.floatRegs floor
  let g := regs.foldl (fun g n => g.modV n 1 fun _ r => { r with phys := none, spilled := true }) g
  { g with spillOut := true, want := g.spilled, granted := 0, gstat := g.gstat ||| 2 }

/-- No lane of the registers that a spill would move is pending (03 R64). -/
def Group.canSpill (g : Group) (floor : Nat) : Bool := (g.floatRegs floor).all fun n => (g.vreg n).pend == 0

/-- `FLOAT_GRANT` (03 R63, R64): the oldest waiting group of the core in the focus is granted its registers where they
are free; else the youngest younger group that holds float is spilled, once its registers are not pending. -/
def execFloatGrant (s : State) : Res :=
  let c := s.core.id
  let gs := s.groupsOn c
  match oldest ((gs.filter fun p => decide (0 < p.1.want)).map (·.1)) with
  | none => .next s
  | some g =>
    if g.want ≤ s.floatFree c then
      .next (s.modGroup g.wgId g.gid fun g => { g with granted := g.granted + g.want, want := 0 })
    else
      match youngest ((gs.filter fun p => older g p.1 && decide (0 < p.1.floatHeld p.2.floor)).map (·.1)) with
      | none => .next s
      | some y =>
        let floor := ((gs.find? fun p => p.1.wgId == y.wgId && p.1.gid == y.gid).map (·.2.floor)).getD 0
        if y.canSpill floor then .next (s.modGroup y.wgId y.gid fun y => y.spill floor) else .next s

/-- `SPILL_RELOAD` (03 R64): the spilled group in the focus gets its registers back once float is granted for each. -/
def execSpillReload (s : State) : Res :=
  if s.g.spillOut && decide (s.g.spilled ≤ s.g.granted) then
    let regs := (List.range 128).filter fun n => (s.g.vreg n).spilled
    let s := regs.foldl (fun s n =>
      { s with g := s.g.modV n 1 fun _ r => { r with phys := some (s.freePhys s.wg.coreId), spilled := false } }) s
    .next { s with g := { s.g with spillOut := false, granted := s.g.granted - regs.length } }
  else .next s

/-! ## Compaction (03 R74) -/

/-- The lowest run of n registers at a multiple of 8 that holds none of the used ones. -/
def freeRun (used : List Nat) (n : Nat) : Option Nat :=
  ((List.range (Config.pool / 8)).map (8 * ·)).find? fun b =>
    decide (b + n ≤ Config.pool) && !used.any fun r => decide (b ≤ r) && decide (r < b + n)

/-- Runs of the given lengths placed one after the other, lowest first; none where they do not fit (03 R73). -/
def placeRuns (used : List Nat) : List Nat → Option (List Nat)
  | [] => some []
  | n :: ns =>
    match freeRun used n with
    | none => none
    | some b => (placeRuns (used ++ (List.range n).map (b + ·)) ns).map fun bs => b :: bs

/-- The lengths of the runs of a workgroup: four for each group. -/
def Desc.runLens (d : Desc) : List Nat := (List.replicate d.ngroups (d.xlen.toList.map runLen)).flatten

/-- Registers of the array runs on a core. -/
def State.runRegs (s : State) (c : Nat) : List Nat :=
  (s.groupsOf (s.beside c)).flatMap fun p => p.1.x.toList.flatMap fun a => (List.range (runLen a.xlen)).map (a.base + ·)

/-- The bound registers of a group on a core that lie in some runs moved to free registers outside them. -/
def State.moveOut (s : State) (c : Nat) (area : List Nat) (w gid : Nat) : State :=
  (List.range 128).foldl (fun s n =>
    match s.findGroup w gid with
    | none => s
    | some g =>
      match (g.vreg n).phys with
      | some r =>
        if area.contains r then
          let used := s.physUsed c ++ area
          match (List.range Config.pool).find? fun k => !used.contains k with
          | some k => s.modGroup w gid fun g =>
              { g.modV n 1 fun _ v => { v with phys := some k } with gstat := g.gstat ||| 4 }
          | none => s
        else s
      | none => s) s

/-- `COMPACTION` (03 R74): where the unbound registers of the core in the focus suffice for a waiting launch but do not
contain its runs, bound registers move until they do; the runs of residents stay. -/
def execCompaction (lid : Nat) (s : State) : Res :=
  match s.findLaunch lid with
  | none => .next s
  | some l =>
    let c := s.core.id
    if l.st == .waiting && decide ((s.physUsed c).length + l.desc.reserve ≤ Config.pool) &&
        (placeRuns (s.physUsed c) l.desc.runLens).isNone then
      match placeRuns (s.runRegs c) l.desc.runLens with
      | none => .next s
      | some bs =>
        let area := (bs.zip l.desc.runLens).flatMap fun p => (List.range p.2).map (p.1 + ·)
        .next ((s.groupsOn c).foldl (fun s p => s.moveOut c area p.1.wgId p.1.gid) s)
    else .next s

end Sys2Proof.Machine
end

