-- ==== Sys2Proof/Machine/Tree.lean ====
section
/-! DEFINITION. The containment tree (10 R143 to R155) and the meanings of its words (16 R281, R282) and steps. -/
namespace Sys2Proof.Machine

/-! ## Records -/

/-- The handle of a record (10 R143). -/
def TreeRec.handle (r : TreeRec) : Word := r.gen ++ (BitVec.ofNat 24 r.index)

/-- The record that a handle names, of a tenant; none where 0x35 detail 0 is raised (10 R147). -/
def State.record (s : State) (t : Nat) (h : Word) : Option TreeRec :=
  s.tree.find? fun r => r.handle == h && r.index != 0 && r.kind != .free && r.tenant == t

/-- The record at a handle, whatever its tenant. -/
def State.recordAt (s : State) (h : Word) : Option TreeRec := s.tree.find? fun r => r.handle == h && r.kind != .free

/-- Records of a tenant. -/
def State.recordsOf (s : State) (t : Nat) : Nat := (s.tree.filter fun r => r.tenant == t && r.kind != .free).length

/-- A count raised by a number of changes (10 R145, R150). -/
def State.bump (s : State) (h : Word) (n : Nat) : State :=
  match s.recordAt h with
  | some r => s.modTree r.index fun r => { r with count := satCount r.count n }
  | none => s

/-- A record's pending delta added to its parent, if it has one, and SENT made COUNT, as one step (10 R149). -/
def State.push (s : State) (h : Word) : State :=
  match s.recordAt h with
  | none => s
  | some r =>
    if r.count = r.sent then s
    else (s.bump r.parent (r.count - r.sent).toNat).modTree r.index fun r => { r with sent := r.count }

/-- The handles of the path from a record up to its root; `fuel` bounds the depth. -/
def State.pathUp (s : State) : Nat → Word → List Word
  | 0, _ => []
  | fuel + 1, h =>
    match s.recordAt h with
    | some r => if r.parent = 0 then [h] else h :: s.pathUp fuel r.parent
    | none => []

/-- The records of one depth beneath a record, or the record itself. -/
def State.beneath (s : State) (h : Word) (depth : Nat) : List Word :=
  ((s.tree.filter fun r => r.kind != .free && r.depth == depth).map TreeRec.handle).filter fun x => (s.pathUp 17 x).contains h

/-- What is pending at a record and beneath it rolled up to its root, in descending depth: every rise beneath it reaches the ancestors
that it has now (10 R154 step 1). -/
def State.pushUp (s : State) (h : Word) : State :=
  let s := (List.range 16).foldl (fun s i => (s.beneath h (15 - i)).foldl State.push s) s
  (s.pathUp 17 h).foldl State.push s

/-- Every pending delta of a tenant rolled up, in descending depth (10 R149). -/
def State.drainTree (s : State) (t : Nat) : State :=
  (List.range 16).foldl (fun s i =>
    ((s.tree.filter fun r => r.tenant == t && r.kind != .free && r.depth == 15 - i).map TreeRec.handle).foldl State.push s) s

/-- Heights one round on: one more than the greatest of the children that are tiles or have a tile beneath them (10 R144). -/
def heights (rs : List TreeRec) : List TreeRec :=
  rs.map fun r => { r with
    height := (rs.filter fun c => c.parent == r.handle && (c.kind == .tile || (c.kind == .inner && c.height != 0))).foldl
      (fun m c => max m (c.height + 1)) 0
    nchild := (rs.filter fun c => c.parent == r.handle && c.kind != .free).length }

/-- Depths one round on: one more than the parent's. -/
def depths (rs : List TreeRec) : List TreeRec :=
  rs.map fun r =>
    if r.parent = 0 then { r with depth := 0 }
    else
      match rs.find? fun p => p.handle == r.parent && p.kind != .free with
      | some p => { r with depth := p.depth + 1 }
      | none => r

/-- DEPTH, HEIGHT and NCHILD of every record made to fit the parents (10 R144, R154). -/
def State.shapeTree (s : State) : State :=
  { s with tree := (List.range 16).foldl (fun rs _ => depths (heights rs)) s.tree }

/-- The index that the next record takes: the lowest free one, else a new one (log 23). -/
def State.freeIndex (s : State) : Nat :=
  match (s.tree.filter fun r => r.kind == .free).map (·.index) with
  | [] => s.tree.length + 1
  | i :: is => is.foldl min i

/-- A new record under a parent; GEN rises where the index was used before (10 R143, R145). -/
def State.newRecord (s : State) (t : Nat) (parent : Word) (kind : TreeKind) : State × Word :=
  let i := s.freeIndex
  let gen := match s.tree.find? fun r => r.index == i with
    | some r => r.gen + 1
    | none => 0
  let r : TreeRec := ⟨i, parent, t, 0, 0, kind, gen, 0, 0, 0⟩
  ({ s with tree := s.tree.filter (fun x => x.index != i) ++ [r] }, r.handle)

/-- A record that was never used; its first use has GEN 0. -/
def TreeRec.unused (i : Nat) : TreeRec := ⟨i, 0, 0, 0, 0, .free, 0xFF, 0, 0, 0⟩

/-- Records that arrive under their own indexes (28 R375), in a table grown up to the highest of them. -/
def State.takeRecords (s : State) (t : Nat) (rs : List TreeRec) : State :=
  let n := s.tree.length
  let top := rs.foldl (fun m r => max m r.index) n
  let all := s.tree ++ (List.range (top - n)).map fun i => TreeRec.unused (n + 1 + i)
  ({ s with tree := all.map fun x => match rs.find? fun r => r.index == x.index with
    | some r => { r with tenant := t }
    | none => x } : State).shapeTree

/-- The tenant's quota would be exceeded by n more records (10 R147, 23 R314). -/
def State.overQuota (s : State) (t n : Nat) : Bool :=
  decide ((s.ctx t).recq < s.recordsOf t + n) ||
    decide (Config.treeRecords < (s.tree.filter fun r => r.kind != .free).length + n)

/-- A structural fault of the tree. -/
def treeFault (detail : Nat) : SFault := { code := 0x35, detail := BitVec.ofNat 32 detail }

/-- The parent that an `ENROLL` names, with the checks of handle and depth; none for a root (10 R145, R147).
Handle 0 gives the region form detail 1, not 0 (DESIGN CHOICE, log 94). -/
def State.parentOf (s : State) (h : Word) (tile : Bool) : Except SFault (Option TreeRec) :=
  if h = 0 then (if tile then .error (treeFault 1) else .ok none)
  else
    match s.record s.tenant h with
    | none => .error (treeFault 0)
    | some p =>
      if p.kind = .tile then .error (treeFault 1)
      else if 15 ≤ p.depth then .error (treeFault 4)
      else .ok (some p)

/-! ## ENROLL (10 R145, 16 R281) -/

/-- The node form. -/
def State.enrollNode (s : State) (parent : Word) : Except SFault (State × Word) :=
  match s.parentOf parent false with
  | .error f => .error f
  | .ok _ =>
    if s.overQuota s.tenant 1 then .error { code := 0x36 }
    else
      let r := s.newRecord s.tenant parent .inner
      .ok (((r.1.bump parent 1).shapeTree), r.2)

/-- The frames of a region in ascending address, each with its checks (10 R145 check 4). After the last frame of the 56 bits the next is that
of address 0 (DESIGN CHOICE, log 98). -/
def State.regionFrames (s : State) (va : Nat) : List Nat → List Nat → Except SFault (List Nat)
  | [], got => .ok got
  | i :: is, got =>
    let a := (va + i * 0x10000) % 2 ^ 56
    match s.walk s.tenant a with
    | none => .error { code := 0x10, va := a }
    | some (dfn, _, _) =>
      if s.foreign dfn then .error { code := 0x15, va := a }
      else if got.contains dfn || ((s.fitOf dfn).map (·.tile)).getD 0 != 0 then .error (treeFault 2)
      else s.regionFrames va is (got ++ [dfn])

/-- The region form; length 0 enrols nothing and gives handle 0. -/
def State.enrollRegion (s : State) (parent : Word) (va len : Nat) : Except SFault (State × Word) :=
  if va % 0x10000 ≠ 0 || len % 0x10000 ≠ 0 then .error { code := 0x12, va := va }
  else
    match s.parentOf parent true with
    | .error f => .error f
    | .ok _ =>
      match s.regionFrames va (List.range (len / 0x10000)) [] with
      | .error f => .error f
      | .ok [] => .ok (s, 0)
      | .ok ds =>
        if s.overQuota s.tenant ds.length then .error { code := 0x36 }
        else
          let r := ds.foldl (fun (q : State × Word) d =>
            let n := q.1.newRecord s.tenant parent .tile
            (n.1.modFit d fun e => { e with tile := n.2 }, if q.2 = 0 then n.2 else q.2)) (s, 0)
          .ok ((r.1.bump parent ds.length).shapeTree, r.2)

/-- `ENROLL` (16 R281). -/
def execEnroll (d a : SReg) (s : State) : Res :=
  scalarTry s fun s => some ((s.enrollNode (s.readS a)).map fun r => (r.1.latch a).writeS d r.2)

/-- `ENROLL.R` (16 R281); bits [63:56] of the address are not read (DESIGN CHOICE, log 98). -/
def execEnrollR (d a b : SReg) (s : State) : Res :=
  scalarTry s fun s => some (((s.enrollRegion (s.readS a) ((s.readPair b).toNat % 2 ^ 56) (s.readS (b + 2)).toNat)).map
    fun r => ((r.1.latch a).latch b).writeS d r.2)

/-! ## REPARENT (10 R146, R154) -/

/-- A record withdrawn (10 R146). -/
def State.withdraw (s : State) (m : TreeRec) : Except SFault State :=
  if m.kind = .inner && m.nchild ≠ 0 then .error (treeFault 5)
  else
    let s := (s.push m.handle).bump m.parent 1
    let s : State := { s with fit := s.fit.map fun e => if e.tile == m.handle then { e with tile := 0 } else e }
    .ok (s.modTree m.index fun r => { r with kind := .free, parent := 0 }).shapeTree

/-- How far beneath a record the deepest record stands: no record may stand deeper than 15, a tile or not (10 R143). HEIGHT, which R147 names,
counts tiles only; that inner records without a tile count for detail 4 too is the model's (DESIGN CHOICE, log 109). -/
def State.deepest (s : State) (m : TreeRec) : Nat :=
  (s.tree.filter fun r => r.kind != .free && (s.pathUp 17 r.handle).contains m.handle).foldl (fun n r => max n (r.depth - m.depth)) 0

/-- A record moved under a new parent (10 R154); of several conditions broken, details 1, 3 and 4 go in this order (DESIGN CHOICE, log
94). -/
def State.reparentTo (s : State) (m p : TreeRec) : Except SFault State :=
  if p.kind = .tile then .error (treeFault 1)
  else if (s.pathUp 17 p.handle).contains m.handle then .error (treeFault 3)
  else if 15 < p.depth + 1 + max m.height (s.deepest m) then .error (treeFault 4)
  else
    let s := s.pushUp m.handle
    let s := (s.bump m.parent 1).bump p.handle 1
    .ok (s.modTree m.index fun r => { r with parent := p.handle }).shapeTree

/-- `REPARENT` (16 R282): the handle of the record is checked before that of the parent (DESIGN CHOICE, log 94). -/
def execReparent (a b : SReg) (s : State) : Res :=
  scalarTry s fun s => some (
    match s.record s.tenant (s.readS a) with
    | none => .error (treeFault 0)
    | some m =>
      let h := s.readS b
      let s := (s.latch a).latch b
      if h = 0 then s.withdraw m
      else
        match s.record s.tenant h with
        | none => .error (treeFault 0)
        | some p => s.reparentTo m p)

/-- `CREAD` (16 R282, 10 R153): the record's COUNT, never from a snapshot. -/
def execCread (d a : SReg) (s : State) : Res :=
  scalarTry s fun s => some (
    match s.record s.tenant (s.readS a) with
    | none => .error (treeFault 0)
    | some r => .ok ((s.latch a).writePair d r.count))

/-! ## Settling (10 R151) -/

/-- The check of a settle barrier: 0x12 of the address, 0x35 detail 6 of one that names no barrier of the issuer's workgroup and of
the object (16 R282, R283), in this order but for a remote address, whose detail 6 comes first (DESIGN CHOICE, log 94). -/
def State.settleBar (s : State) (a : Word) : Except SFault Barrier :=
  if isRemote a then .error (treeFault 6)
  else
    match s.spTarget a 16 with
    | .error c => .error (if c = 0x12 then { code := c } else treeFault 6)
    | .ok (_, off) =>
      let b := s.wg.bar s.ln.desc off
      if b.expected ≠ 1 || b.xbytes ≠ 0 || b.ticket ≠ s.ln.ticket then .error (treeFault 6) else .ok b

/-- `SETTLE` (16 R282): the phase to wait for; it stalls at 16 outstanding settles of the workgroup. The handle is checked before the
barrier (DESIGN CHOICE, log 94). -/
def execSettle (d a b : SReg) (s : State) : Res :=
  scalarTry s fun s =>
    match s.record s.tenant (s.readS a) with
    | none => some (.error (treeFault 0))
    | some m =>
      match s.settleBar (s.readS b) with
      | .error f => some (.error f)
      | .ok o =>
        if 16 ≤ s.wg.settles.length then none
        else
          let bar := s.readS b
          let k := (s.wg.settles.filter fun x => x.bar == bar).length + 1
          let s := (s.latch a).latch b
          let s : State := { s with wg := { s.wg with settles := s.wg.settles ++ [⟨m.handle, bar, s.g.gid, s.g.blkidx⟩] } }
          some (.ok (s.writeS d ((o.phase + BitVec.ofNat 16 k).setWidth 32)))

/-- `SETTLE_COMPLETE` (10 R151): the first settle of the workgroup in the focus has drained, which is all of the tenant's
deltas here, and makes its arrival; a refused one is an imprecise or a late fault. Settles of a workgroup complete in the order of their
issue, those on different barriers too (DESIGN CHOICE, log 96). -/
def execSettleComplete (s : State) : Res :=
  match s.wg.settles with
  | [] => .next s
  | x :: xs =>
    let s := { s with wg := { s.wg with settles := xs } }
    let s := s.drainTree s.tenant
    match s.wg.arrive s.ln.desc (x.bar.toNat % 0x80000) s.ln.ticket 1 0 none with
    | .ok w => .next { s with wg := w }
    | .error c =>
      .next (s.imprecise s.wg.id x.gid ⟨c, 0, 0, BitVec.ofNat 56 x.bar.toNat, 0, none, none, true, 3, x.blkidx⟩)

/-- A record of the same tenant that stands deeper has a pending delta: the engine takes it first (10 R149). -/
def State.deeperPending (s : State) (r : TreeRec) : Bool :=
  s.tree.any fun x => x.tenant == r.tenant && x.kind != .free && decide (r.depth < x.depth) && x.count != x.sent

/-- `ROLLUP` (10 R149): the pending delta of the record at an index is added to its parent, once no deeper one of the tenant is
pending. -/
def execRollup (index : Nat) (s : State) : Res :=
  match s.tree.find? fun r => r.index == index && r.kind != .free with
  | some r => .next (if s.deeperPending r then s else s.push r.handle)
  | none => .next s

end Sys2Proof.Machine
end

