-- ==== Sys2Proof/Machine/Sync.lean ====
section
/-! DEFINITION. The meanings of barrier words, `PHASE`, `FENCE.SC` (16 R267, R268, R271, 08 R125, R134) and of residency requests
(16 R264, R266, 07 R111). -/
namespace Sys2Proof.Machine

/-! ## Barriers -/

/-- `BINIT` (16 R267): the checks in the order of its table, then the object as one store, discarded in a slot that the
workgroup does not hold (01 R25). -/
def execBinit (d a : SReg) (s : State) : Res :=
  scalarTry s fun s =>
    let v := s.readS a
    let ad := s.readS d
    let off := ad.toNat
    some (
      if v.toNat / 2 ^ 15 ≠ 0 || 5 ≤ bitsN v.toNat 14 12 then .error { code := 0x01 }
      else if off % 16 ≠ 0 then .error { code := 0x12 }
      else if 0x80000 ≤ off || !s.ln.desc.owns off 16 then .error { code := 0x13 }
      else if (s.wg.devBar s.ln.desc off).isSome then .error { code := 0x30 }
      else
        let b : Barrier := ⟨s.ln.ticket, field v 12 3, 0, field (s.readPair a) 32 32, 0, field v 0 12, 0⟩
        let s := (s.latch a).latch d
        .ok (if s.wg.storable s.ln.desc s.wg.id off then
          { s with wg := { s.wg.setBar off b with jobBars := s.wg.jobBars.filter fun x => x.1 != off } } else s))

/-- An arrival of the group in the focus on a barrier, with bytes, after a release at its SCOPE where `rel` is set (16
R268). -/
def arriveWord (s : State) (a b : SReg) (rel : Bool) : Res :=
  scalarTry s fun s =>
    let ad := s.readS a
    match s.spTarget ad 16 with
    | .error c => some (.error { code := c })
    | .ok (w, off) =>
      match s.findWg w with
      | none => some (.error { code := 0x31 })
      | some x =>
        match x.arrive s.ln.desc off s.ln.ticket 1 (s.readS b).toNat none with
        | .error c => some (.error { code := c })
        | .ok x' =>
          let sc := (x.softBar off).scope.toNat
          if rel && !s.released s.g s.ln.lid sc then none
          else
            let s := (s.latch a).latch b
            let s := if rel then s.publish s.g.wgId s.g.gid else s
            some (.ok (s.modWg w fun _ => x'))

/-- `ARRIVE` (16 R268). -/
def execArrive (a b : SReg) (s : State) : Res := arriveWord s a b false

/-- `ARRIVE.REL` (16 R268). -/
def execArriveRel (a b : SReg) (s : State) : Res := arriveWord s a b true

/-! ## Phases and fences -/

/-- `PHASE.s` (16 R271): release, then acquire. -/
def execPhase (sc : BitVec 3) (s : State) : Res :=
  scalarTry s fun s =>
    if s.released s.g s.ln.lid sc.toNat then
      some (.ok ((s.publish s.g.wgId s.g.gid).acquire s.wg.coreId sc.toNat))
    else none

/-- `FENCE.SC` (08 R134): the release at device scope, the wait for the next heartbeat tick, the acquire. -/
def execFenceSc (s : State) : Res :=
  match s.g.fence with
  | some t =>
    if s.live && decide (t < s.dev.tick) then
      .next (s.finish (({ s with g := { s.g with fence := none } } : State).acquire s.wg.coreId 3))
    else .next s
  | none =>
    if s.scalarGate true true [] then
      if s.released s.g s.ln.lid 3 then
        let t := s.publish s.g.wgId s.g.gid
        .next { t with g := { t.g with fence := some t.dev.tick } }
      else .next s
    else .next s.scalarWait

/-! ## Residency requests -/

/-- The status codes of 16 R264. -/
inductive ResStatus
  | done | translation | poisoned | integrity | nospace
  deriving DecidableEq, Repr

/-- The code of a status (16 R264). -/
def ResStatus.code : ResStatus → Nat
  | .done => 1
  | .translation => 2
  | .poisoned => 3
  | .integrity => 4
  | .nospace => 5

/-- RSTAT after a request completes: OUT falls, LAST, and BAD where it is the first that is not DONE (16 R264). -/
def rstatDone (r : Word) (c : Nat) : Word :=
  let r := rstatOut r false
  let r := (r &&& ~~~0xF) ||| BitVec.ofNat 32 c
  if c ≠ 1 && (r &&& 0xF00) = 0 then r ||| BitVec.ofNat 32 (c * 256) else r

/-- A request completes with a status: RSTAT, the lanes of the lane form, the arrival of the `.B` form (16 R265, R266). The barrier is the one
at its address modulo 0x80000 in the issuer's workgroup, whatever the other bits (DESIGN CHOICE, log 101). -/
def State.reqDone (s : State) (q : ResReq) (st : ResStatus) : State :=
  let s := { s with resreqs := s.resreqs.filter fun x => x.id != q.id }
  let s := s.modGroup q.wgId q.gid fun g => { g with
    rstat := rstatDone g.rstat st.code
    flights := match q.flight with
      | some id => g.flights.map fun f =>
          if f.id == id then { f with ready := f.out, vals := [Lanes.ofFn fun _ => BitVec.ofNat 32 st.code] } else f
      | none => g.flights }
  match q.bar, s.findWg q.wgId, s.findLaunch q.lid with
  | some a, some x, some l =>
    match x.arrive l.desc (a.toNat % 0x80000) l.ticket 1 0 none with
    | .ok x' => s.modWg q.wgId fun _ => x'
    | .error c => s.imprecise q.wgId q.gid ⟨c, 0, 0, BitVec.ofNat 56 a.toNat, 0, none, none, true, 3, q.blkidx⟩
  | _, _, _ => s

/-- The frames of a range of n bytes: those whose walk succeeds, and whether one failed (16 R266). -/
def State.rangeFrames (s : State) (va n : Nat) : List Nat × Bool :=
  let first := va / 0x10000
  let last := (va + n - 1) / 0x10000
  let ws := (List.range (last + 1 - first)).map fun i => s.walk s.tenant ((first + i) * 0x10000 % 2 ^ 56)
  (nub (ws.filterMap fun w => w.map (·.1)), ws.any (·.isNone))

/-- A scalar residency request (16 R266); one of no bytes is done at once. `bar` is the barrier of the `.B` form. -/
def resideWord (s : State) (a b : SReg) (bar : Option SReg) : Res :=
  scalarTry s fun s =>
    let va := (s.readPair a).toNat % 2 ^ 56
    let n := (s.readS b).toNat
    let fr := if n = 0 then ([], false) else s.rangeFrames va n
    some (
      match fr.1.find? s.foreign with
      | some _ => .error { code := 0x15, va := va }
      | none =>
        let q : ResReq := ⟨s.newReq, s.wg.id, s.g.gid, s.ln.lid, s.g.blkidx, fr.1, fr.2, bar.map s.readS, none⟩
        let s := bar.toList.foldl State.latch ((s.latch a).latch b)
        let s := { s with resreqs := s.resreqs ++ [q], g := { s.g with rstat := rstatOut s.g.rstat true } }
        .ok (if n = 0 then s.reqDone q .done else s))

/-- `RESIDE` (16 R266). -/
def execReside (a b : SReg) (s : State) : Res := resideWord s a b none

/-- `RESIDE.B` (16 R266). -/
def execResideB (d a b : SReg) (s : State) : Res := resideWord s a b (some d)

end Sys2Proof.Machine
end

