-- ==== Sys2Proof/Machine/Dispenser.lean ====
section
/-! DEFINITION. The page dispenser and the flash engine's landings (01 R19 to R43, R48, R49): assignment, sensing, landing, the
words `PGET`, `PYIELD` and `PRETIRE` (16 R278 to R280), copy-out and re-landing. -/
namespace Sys2Proof.Machine

/-! ## Places and assignment (01 R19 to R21) -/

/-- The workgroups of the launch in the focus in gang order. -/
def State.gang (s : State) (lid : Nat) : List Workgroup :=
  let ws := s.launchWgs lid
  (List.range ws.length).filterMap fun k => ws.find? fun w => w.k == k

/-- Assignment and landing go on at the workgroup: no stop request, and resident (01 R48). -/
def Workgroup.active (w : Workgroup) : Bool := !w.stop && w.place == .resident

/-- The slot that an entry or a re-landing takes: the lowest free one (DESIGN CHOICE, log 79: the spec gives no order but at
the start). -/
def Workgroup.freeSlot (w : Workgroup) : Option Nat := (List.range 8).find? fun n => (w.slot n).st == .free

/-- A copied-out block waits for a slot: its awaited block has retired and its data stands in the copy-out area (01
R42). -/
def Parked.awaitsSlot (p : Parked) : Bool := p.copied && p.slot.isNone && p.offer.isSome

/-- A copied-out block has yet to land again, its copy-out over or not: no new entry takes a slot of its core before (01 R42). -/
def Parked.awaitsLanding (p : Parked) : Bool := p.copied && p.offer.isSome

/-- The core has a free place (01 R20). -/
def Workgroup.hasPlace (w : Workgroup) (d : Desc) : Bool :=
  w.active &&
  (if d.pageGrid then w.freeSlot.isSome && !(w.parkedBlocks.any Parked.awaitsLanding) else decide (w.idxq.length < 8))

/-- n bytes at a virtual address of a launch as a load at device scope reads them; none where a check fails (01 R19, R21). -/
def State.devRead (s : State) (l : Launch) (va n : Nat) : Option Nat :=
  match s.reachVa l.cmd.tenant l.ticket va false with
  | .ok da => some (s.mem.readLE da n)
  | .absent dfn => some (s.mem.readLE (dfn * 0x10000 + va % 0x10000) n)
  | .fault _ => none

/-- The gang position that the placement plan names for an index, if any (01 R21). -/
def State.planned (s : State) (l : Launch) (i n : Nat) : Option Nat :=
  if l.desc.plan = 0 then none
  else
    match s.devRead l (l.desc.plan + 2 * i) 2 with
    | some v => if v < n then some v else none
    | none => none

/-- The gang position that takes the next index (01 R20). -/
def State.taker (s : State) (l : Launch) (ws : List Workgroup) : Option Nat :=
  let free := fun k => (ws[k]?).any fun w => w.hasPlace l.desc
  match s.planned l l.next ws.length with
  | some k => if free k then some k else none
  | none => ((List.range ws.length).map fun j => (l.rr + j) % ws.length).find? free

/-- A slot barrier armed (01 R23). -/
def Barrier.arm (b : Barrier) (ticket : BitVec 21) : Barrier := ⟨ticket, 1, 0, 16384, 0, 1, b.phase⟩

/-- The LPN of a list entry, where it is valid (01 R19). -/
def State.listEntry (s : State) (l : Launch) (i : Nat) : Option Nat :=
  match s.devRead l (l.desc.listbase + 4 * i) 4 with
  | some v => if v = 0xFFFFFFFF || (vget s.nss l.desc.nsid Namespace.none).pages ≤ v then none else some v
  | none => none

/-- An entry or index given to a workgroup (01 R19, R22 to R24). -/
def Workgroup.give (w : Workgroup) (l : Launch) (lpn : Option Nat) : Workgroup :=
  if l.desc.pageGrid then
    match lpn, w.freeSlot with
    | some p, some n =>
      w.modSlot n fun y => { Slot.free with st := .sensing, idx := l.next, lpn := p, bar := y.bar.arm l.ticket }
    | _, _ => ({ w with offers := w.offers ++ [Offer.bad l.next] } : Workgroup).event
  else ({ w with idxq := w.idxq ++ [l.next] } : Workgroup).event

/-- The bytes of a slot as a range (01 R18). -/
def slotRange (w n : Nat) : List (Nat × Nat × Nat) := [(w, 0x60000 + 0x4000 * n, 0x4000)]

/-- A frame that a device read of a launch meets marked accessed (07 R103). -/
def State.devTouch (s : State) (l : Launch) (va : Nat) : State :=
  match s.reachVa l.cmd.tenant l.ticket va false with
  | .ok da => s.touch da false
  | _ => s

/-- The frames of the plan entry and the list entry read for the next index marked accessed. -/
def State.readEntry (s : State) (l : Launch) : State :=
  let s := if l.desc.plan = 0 then s else s.devTouch l (l.desc.plan + 2 * l.next)
  if l.desc.pageGrid then s.devTouch l (l.desc.listbase + 4 * l.next) else s

/-- The next entry or index given to a workgroup; the landing of a page joins the jobs of the gang (08 R138). -/
def State.assign (s : State) (l : Launch) (w : Workgroup) (lpn : Option Nat) : State :=
  let s := s.modWg w.id fun w => w.give l lpn
  match l.desc.pageGrid, lpn, w.freeSlot with
  | true, some p, some n => s.acceptOwn w landKind n [(flashSpace l.desc.nsid, p, 1)] (slotRange w.id n)
  | _, _, _ => s

/-- `ENTRY_ASSIGNMENT` (01 R20): the next entry or index of the launch in the focus goes to a core with a free place. -/
def execEntryAssignment (s : State) : Res :=
  let l := s.ln
  let ws := s.gang l.lid
  if l.st == .running && !l.aborted && s.groupsLeft l.lid && decide (l.next < l.desc.count) then
    match s.taker l ws with
    | none => .next s
    | some k =>
      match ws[k]? with
      | none => .next s
      | some w =>
        let s := (s.readEntry l).assign l w (if l.desc.pageGrid then s.listEntry l l.next else none)
        let s := s.modLaunch l.lid fun l => { l with next := l.next + 1, rr := (k + 1) % ws.length }
        .next (s.checkEnd l.lid)
  else .next s

/-! ## Sensing and landing (01 R22, R23, R27) -/

/-- A page of a namespace has been written (28 R378). -/
def State.pageWritten (s : State) (ns lpn : Nat) : Bool := (vget s.nss ns Namespace.none).written.any fun p => p.1 == lpn

/-- The key of a namespace: what its FLASH slot of its owner's vault holds, or the device's own vault (26 R366). -/
def State.nsKey (s : State) (ns : Nat) : Option (BitVec 256) :=
  match (vget s.nss ns Namespace.none).slot with
  | some k => ((s.ctx (vget s.nss ns Namespace.none).owner).vault.find? fun v => v.slot == k && v.use == .flash).map (·.key)
  | none => (s.dev.vault.find? fun v => v.1 == ns).map (·.2)

/-- A page of a namespace can be deciphered: the namespace still has the key that enciphered it (26 R366, R367). -/
def State.pageKeyed (s : State) (ns lpn : Nat) : Bool :=
  ((vget s.nss ns Namespace.none).written.find? fun p => p.1 == lpn).all fun p => p.2.isSome && p.2 == s.nsKey ns

/-- The bytes of a flash page, in plaintext (26 R366). -/
def State.flashPage (s : State) (ns lpn : Nat) : Mem :=
  ((s.flash.find? fun p => p.1 == (ns, lpn)).map (·.2)).getD []

/-- A slot after one sense and decode: the level and PSTAT of 01 R27; level 9 is the soft decode at level 8. -/
def Slot.sense (y : Slot) (ok : Bool) : Slot :=
  if ok then { y with sensed := true, pstat := if y.level = 9 then 0x208 else BitVec.ofNat 16 y.level }
  else if y.level = 9 then { y with sensed := true, pstat := 0x408, trap := true }
  else { y with level := y.level + 1 }

/-- The job that lands a page in slot n of the workgroup in the focus, or re-lands a block there (08 R138, 01 R42). -/
def State.slotJob (s : State) (n : Nat) (y : Slot) : Option Job :=
  if y.reland then y.park.bind fun r => s.ownJob s.wg.id relandKind r else s.ownJob s.wg.id landKind n

/-- The landing reads its page, which stands decoded in the flash engine's buffer from then on (01 R48). -/
def Job.decoded (j : Job) (lpn : Nat) (page : Mem) : Job := { j with st := .running, startFlash := [(lpn, page)] }

/-- `FLASH_SENSE` (01 R27): one sense of the page of a slot of the workgroup in the focus, decoded or not, once the jobs before the
landing have completed (08 R135); a page never written is not sensed and reads as zeros with PSTAT 0 (28 R378); one whose key is
gone is never decoded (log 36). -/
def execFlashSense (slot : Nat) (ok : Bool) (s : State) : Res :=
  let y := s.wg.slot slot
  match s.slotJob slot y with
  | none => .next s
  | some j =>
    if y.st == .sensing && !y.sensed && j.preds.isEmpty then
      let ns := s.ln.desc.nsid
      let y' := if s.pageWritten ns y.lpn then y.sense (ok && s.pageKeyed ns y.lpn) else { y with sensed := true, pstat := 0 }
      let t : State := { s with wg := s.wg.modSlot slot fun _ => y' }
      .next (if y'.sensed then t.modJob j.id fun j => j.decoded y.lpn (s.flashPage ns y.lpn) else t)
    else .next s

/-- A re-landing starts with its first byte: it reads memory as of then (08 R136, R141). -/
def State.begun (s : State) (j : Job) : Job := if j.st = .waiting then { j with st := .running, startMem := s.mem } else j

/-- Byte i of what a job lands in a slot: the page as it was decoded, zeros for an uncorrectable one, or the copy-out area as of
the start (01 R27, R42). -/
def State.landingByte (s : State) (l : Launch) (y : Slot) (j : Job) (base : Nat) (i : Nat) : Byte :=
  if y.reland then
    match s.areaAddr l (base + i) with
    | .ok da => j.startMem.get da
    | .error _ => 0
  else if y.pstat.getLsbD 10 then 0
  else Mem.get (((j.startFlash.find? fun p => p.1 == y.lpn).map (·.2)).getD []) i

/-- The place of record r of a workgroup in the copy-out area (01 R41). -/
def Workgroup.coAddr (w : Workgroup) (d : Desc) (r : Nat) : Nat := d.cobase + 0x4000 * (w.k * d.parkrec + r)

/-- A frame of the copy-out area of a record is poisoned (01 R41). -/
def State.coBad (s : State) (l : Launch) (base : Nat) : Bool :=
  match s.areaAddr l base with
  | .ok _ => false
  | .error _ => true

/-- The slot and its block after the last byte landed: ready, or parked and re-offerable after a re-landing (01 R22, R24,
R42). -/
def Workgroup.landed (w : Workgroup) (n : Nat) : Workgroup :=
  let w := w.modSlot n fun y => { y with bar := { y.bar with landed := 0, arrived := 0, phase := y.bar.phase + 1 } }
  if (w.slot n).reland then (w.modSlot n fun y => { y with st := .parked }).event
  else ({ w.modSlot n fun y => { y with st := .ready } with offers := w.offers ++ [Offer.slot n] } : Workgroup).event

/-- Bytes may land in a slot (01 R22, R42, R45): a page that has been decoded, while a group of the launch runs; a re-landing
as a job of the gang, after the jobs before it. -/
def State.mayLand (s : State) (y : Slot) (j : Job) : Bool :=
  s.wg.active && s.ln.st == .running &&
  if y.reland then y.st == .landing && j.preds.isEmpty && !s.jobHeld s.ln.lid
  else s.groupsLeft s.ln.lid && ((y.st == .sensing && y.sensed) || y.st == .landing)

/-- `LANDING_CREDIT` (01 R22, R23): up to n further bytes land in a slot of the workgroup in the focus, from the first
deciphered byte on; it is suspended while the workgroup is stopped or swapped out (R48). -/
def execLandingCredit (slot : Nat) (n : Nat) (s : State) : Res :=
  let y := s.wg.slot slot
  let at_ := y.bar.landed.toNat
  let k := min n (16384 - at_)
  match s.slotJob slot y with
  | none => .next s
  | some j =>
    if s.mayLand y j && decide (0 < k) then
      let base := (y.park.map fun r => s.wg.coAddr s.ln.desc r).getD 0
      if y.reland && s.coBad s.ln base then .next (s.haltLaunch s.ln.lid true)
      else
        let j := s.begun j
        let s := if y.reland then s.devTouch s.ln base else s
        let cells := (List.range k).map fun i => (0x60000 + 0x4000 * slot + at_ + i, s.landingByte s.ln y j base (at_ + i))
        let w : Workgroup := { s.wg with sp := cells.foldl (fun (m : Mem) c => m.set c.1 c.2) s.wg.sp }
        let w := w.modSlot slot fun y => { y with st := .landing, bar := { y.bar with landed := y.bar.landed + BitVec.ofNat 32 k } }
        if at_ + k = 16384 then .next (({ s with wg := w.landed slot } : State).dropJob j)
        else .next (({ s with wg := w } : State).modJob j.id fun _ => j)
    else .next s

/-! ## PGET (01 R28 to R33, 16 R278) -/

/-- A group that holds the block of a slot. -/
def Group.hold (g : Group) (idx pageno slotno pstat : Nat) : Group :=
  { g with
    blkidx := BitVec.ofNat 32 idx
    pageno := BitVec.ofNat 32 pageno
    slotno := BitVec.ofNat 32 slotno
    pstat := BitVec.ofNat 32 pstat }

/-- The re-offerable parked block that a `PGET` of a group hands out: the number of its record (01 R29 step 1). It is the one that
the group has taken already, where there is one (R33); else the first that no group has. -/
def Workgroup.reoffered (w : Workgroup) (gid : Nat) : Option Nat :=
  let rs := (List.range w.parked.length).filterMap fun r =>
    match w.parked[r]? with
    | some (some p) =>
      if !w.offerable p then none
      else if p.taker = some gid then some (r, 0)
      else if p.taker.isNone then some (r, p.offer.getD 0 + 1) else none
    | _ => none
  match rs with
  | [] => none
  | x :: xs => some (xs.foldl (fun m y => if y.2 < m.2 then y else m) x).1

/-- A parked record loaded into the group that takes the block (01 R33), with the lane path of a unit that a handler had set
aside (R40, log 80); its registers are bound one by one. -/
def State.resumeBlock (s : State) (r : Nat) (p : Parked) : State :=
  let s : State := { s with
    g := { s.g.hold p.blkidx.toNat p.pageno.toNat (p.slot.getD 0xFFFFFFFF) p.pstat.toNat with
      s := p.s, p := p.p, t := p.t, o := p.o, v := p.v, pc := p.pc, loop := none, run := p.lane }
    wg := { s.wg with parked := s.wg.parked.set r none } }
  let s := (List.range 128).foldl (fun s n => s.bindReg n 0xFFFFFFFF) s
  let s := match p.slot with
    | some n => { s with wg := s.wg.modSlot n fun y => { y with st := .held, holder := some s.g.gid, park := none } }
    | none => s
  (s.acquire s.wg.coreId 3).checkEnd s.ln.lid

/-- Registers that a parked record maps. -/
def Parked.mapped (p : Parked) : Nat := (p.v.toList.filter fun r => r.live != 0).length

/-- The pair of an outcome written (16 R278). -/
def State.outcome (s : State) (d : SReg) (code v : Nat) : State :=
  (s.writeS d (BitVec.ofNat 32 code)).writeS (d + 1) (BitVec.ofNat 32 v)

/-- A block handed out from the head of the offers (01 R28, R32). -/
def State.takeOffer (s : State) (d : SReg) (x : Offer) : State :=
  let s : State := { s with wg := { s.wg with offers := s.wg.offers.drop 1 } }
  match x with
  | .slot n =>
    let y := s.wg.slot n
    let s : State := { s with
      g := s.g.hold y.idx y.lpn n y.pstat.toNat
      wg := s.wg.modSlot n fun y => { y with st := .held, holder := some s.g.gid } }
    (s.outcome d 0 y.idx).checkEnd s.ln.lid
  | .bad i =>
    (({ s with g := s.g.hold i 0xFFFFFFFF 0xFFFFFFFF 0x800 } : State).outcome d 0 i).checkEnd s.ln.lid

/-- A parked block taken by a `PGET` that waits for float for its registers: no other group is handed it (01 R33). -/
def State.takeParked (s : State) (r : Nat) (p : Parked) : State :=
  { s with
    g := { s.g with want := s.g.floatNeed s.ln.desc.floor p.mapped }
    wg := { s.wg with parked := s.wg.parked.set r (some { p with taker := some s.g.gid }) } }

/-- `PGET Sd` (16 R278). -/
def execPget (d : SReg) (s : State) : Res :=
  if !s.scalarGate true true [] then .next s.scalarWait
  else if s.g.holds then .next (s.scalarFault 0x21 3)
  else
    match (s.wg.reoffered s.g.gid).bind fun r => ((s.wg.parked[r]?).bind id).map fun p => (r, p) with
    | some (r, p) =>
      let t : State := { s with g := { s.g with v := Vector.replicate 128 VReg.unmapped } }
      if t.canBind p.mapped then
        let t := t.resumeBlock r p
        .next { t with g := { t.g with want := 0, granted := 0 } }
      else .next (t.takeParked r p)
    | none =>
      match s.wg.offers with
      | .bad i :: _ => .next ((s.takeOffer d (.bad i)).scalarFault 0x21 0)
      | x :: _ => .next (s.finish (s.takeOffer d x))
      | [] =>
        match s.wg.idxq with
        | i :: is =>
          .next (s.finish ((({ s with
            wg := { s.wg with idxq := is }
            g := s.g.hold i 0xFFFFFFFF 0xFFFFFFFF 0 } : State).outcome d 0 i).checkEnd s.ln.lid))
        | [] =>
          if s.wg.atEnd s.ln then .next (s.finish (s.outcome d 2 0))
          else .next (s.finish (s.outcome d 1 (s.wg.lbar.phase + 1).toNat))

/-! ## PYIELD (01 R39 to R41, 16 R279) -/

/-- The record that parking a block makes (01 R40). -/
def State.parkRecord (s : State) (j : Nat) : Parked where
  s := s.g.s
  p := s.g.p
  t := s.g.t
  o := s.g.o
  v := Vector.ofFn fun i => { vget s.g.v i.val VReg.unmapped with phys := none }
  pc := s.g.after.1
  lane := s.g.saved.bind (·.run)
  blkidx := s.g.blkidx
  pageno := s.g.pageno
  pstat := s.g.pstat
  awaited := j
  slot := if s.g.slotno.toNat < 8 then some s.g.slotno.toNat else none
  copied := false
  trap := (s.wg.slot s.g.slotno.toNat).trap
  offer := none
  taker := none

/-- The device bytes of record r's place in the copy-out area; none where its address translates nowhere (01 R41). -/
def State.coRange (s : State) (l : Launch) (w : Workgroup) (r : Nat) : List (Nat × Nat × Nat) :=
  let va := w.coAddr l.desc r
  ((s.walk l.cmd.tenant va).map fun x => (memSpace, x.1 * 0x10000 + va % 0x10000, 0x4000)).toList

/-- The block parked in record r: the slot is parked, or copied out by a job of the gang where seven others are (01 R40, R41). -/
def State.park (s : State) (r j : Nat) : State :=
  let p := s.parkRecord j
  let others := (List.range 8).filter fun n => decide (n ≠ s.g.slotno.toNat) && (s.wg.slot n).st == .parked
  let out := p.slot.isSome && decide (7 ≤ others.length)
  let w := { s.wg with parked := s.wg.parked.set r (some { p with copied := out }) }
  let w := match p.slot with
    | some n => w.modSlot n fun y => { y with st := if out then .copiedOut else .parked, holder := none, park := some r }
    | none => w
  let t : State := { s with
    wg := w
    g := { s.g.releaseV.dropBlock with
      o := Vector.replicate 8 Lanes.zero
      saved := s.g.saved.map fun v => { v with run := none } } }
  match p.slot with
  | some n => if out then t.acceptOwn w copyOutKind r (slotRange w.id n) (t.coRange s.ln w r) else t
  | none => t

/-- The lanes of a unit that a handler set aside are on two paths, a join is open, or its stack is not empty (01 R39, 15
R247). -/
def RunUnit.divergent (r : RunUnit) : Bool :=
  (r.ls0.isSome && r.ls1.isSome) || !r.stack.isEmpty || r.joins.toList.any (·.isSome)

/-- `PYIELD Sa` (16 R279): it waits for every long-latency operation of the group, then R39's table in order. The lane
side is idle, but a handler may have set a divergent unit aside. The record is the lowest that is free (DESIGN CHOICE,
log 79). -/
def execPyield (a : SReg) (s : State) : Res :=
  scalarTry s fun s =>
    if !s.g.flights.isEmpty then none
    else
      let j := (s.readS a).toNat
      some (
        if !s.g.holds then .error { code := 0x21, detail := 2 }
        else if s.ln.desc.count ≤ j || j = s.g.blkidx.toNat then .error { code := 0x21, detail := 1 }
        else if s.ln.retired.contains j then .ok (s.latch a)
        else if (s.g.saved.bind (·.run)).any RunUnit.divergent then .error { code := 0x22, detail := 2 }
        else if s.ln.desc.parklive < s.g.mapped then .error { code := 0x22, detail := 1 }
        else
          match (List.range s.wg.parked.length).find? fun r => (s.wg.parked[r]?) == some none with
          | none => .error { code := 0x22, detail := 0 }
          | some r => .ok ((((s.latch a).park r j).checkDeadlock s.ln.lid).checkEnd s.ln.lid))

/-- `PRETIRE Sa` (16 R280, 01 R35): a release at device scope, then the retirement. -/
def execPretire (a : SReg) (s : State) : Res :=
  scalarTry s fun s =>
    if !s.g.holds then some (.error { code := 0x21, detail := 2 })
    else if !s.released s.g s.ln.lid 3 then none
    else
      some (.ok (((s.latch a).publish s.g.wgId s.g.gid).retireHeld s.g.wgId s.g.gid false (s.readS a)))

/-! ## Copy-out and re-landing (01 R41, R42, R49) -/

/-- `COPY_OUT` (01 R41): the copy-out job of a record of the workgroup in the focus completes once the jobs before it have,
and the slot is free; the slot's touch trap goes into the record (R49). It waits while a trap of the slot is being handled
(R36, log 7). A poisoned area cancels the launch. -/
def execCopyOut (rec : Nat) (s : State) : Res :=
  match s.ownJob s.wg.id copyOutKind rec with
  | none => .next s
  | some j =>
    match j.reads.head?.map fun x => (x.2.1 - 0x60000) / 0x4000 with
    | none => .next s
    | some n =>
      let y := s.wg.slot n
      if !j.preds.isEmpty || s.jobHeld s.ln.lid || y.stalled then .next s
      else
        match s.areaAddr s.ln (s.wg.coAddr s.ln.desc rec) with
        | .error _ => .next (s.haltLaunch s.ln.lid true)
        | .ok da =>
          let s := s.batch (cellsAt da (s.wg.sp.bytes (0x60000 + 0x4000 * n) 0x4000))
          let out := fun (p : Parked) => { p with slot := none, trap := y.trap }
          let w := s.wg.modSlot n Slot.emptied
          let w := if y.st == .copiedOut then { w with parked := w.parked.mapIdx fun i o => if i = rec then o.map out else o } else w
          .next (({ s with wg := w } : State).dropJob j)

/-- `RELANDING` (01 R42): a copied-out block whose awaited block has retired takes the next free slot of its core; the
bytes then land from the copy-out area, by a job of the gang. -/
def execRelanding (rec : Nat) (s : State) : Res :=
  match (s.wg.parked[rec]?).bind id, s.wg.freeSlot with
  | some p, some n =>
    let first := s.wg.parkedBlocks.all fun q => !q.awaitsSlot || decide (p.offer.getD 0 ≤ q.offer.getD 0)
    if p.awaitsSlot && s.wg.active && s.ln.st == .running && s.groupsLeft s.ln.lid && first then
      let pst := p.pstat ||| 0x80
      let w := s.wg.modSlot n fun y => { Slot.free with
        st := .landing, idx := p.blkidx.toNat, lpn := p.pageno.toNat, pstat := pst.setWidth 16, trap := p.trap
        park := some rec, reland := true, bar := y.bar.arm s.ln.ticket }
      let w := { w with parked := w.parked.set rec (some { p with slot := some n, copied := false, pstat := pst }) }
      .next (({ s with wg := w } : State).acceptOwn w relandKind rec (s.coRange s.ln w rec) (slotRange w.id n))
    else .next s
  | _, _ => .next s

end Sys2Proof.Machine
end

