-- ==== Sys2Proof/Machine/Jobs.lean ====
section
/-! DEFINITION. Engine jobs (16 R272 to R277, 08 R135 to R138, R141, 26 R363 to R365, R369, 28 R376): `JOB`, the start of a job,
its steps by kind, its completion, and transfers between devices of the gallery. -/
namespace Sys2Proof.Machine

/-! ## Regions (16 R274) -/

/-- Device ranges of n bytes at a virtual address, frame by frame (16 R274); `bad` says what an access of one frame
meets. `fuel` bounds the frames. -/
def frameRanges (bad : Nat → Reach) : Nat → Nat → Nat → Except (BitVec 8 × Nat) (List (Nat × Nat × Nat))
  | 0, _, _ => .ok []
  | fuel + 1, va, n =>
    if n = 0 then .ok []
    else
      let k := min n (0x10000 - va % 0x10000)
      match bad (va % 2 ^ 56) with
      | .fault c => .error (c, va % 2 ^ 56)
      | .ok da => (frameRanges bad fuel (va + k) (n - k)).map fun rs => (memSpace, da, k) :: rs
      | .absent d => (frameRanges bad fuel (va + k) (n - k)).map fun rs => (memSpace, d * 0x10000 + va % 0x10000, k) :: rs

/-- Frames that n bytes at an address meet at most. -/
def frameFuel (n : Nat) : Nat := n / 0x10000 + 2

/-- n bytes at an offset lie within the regions of a workgroup, taken together (07 R99, 16 R274). -/
def Desc.covers (d : Desc) (off n : Nat) : Bool :=
  d.owns off n ||
  (d.pageGrid && d.splen == 0x5FF00 && decide (off + n ≤ 0x80000)) ||
  (!d.pageGrid && d.splen == 0x5FF80 && decide (off + n ≤ 0x5FF90))

/-! ## The card (16 R273 to R276) -/

/-- A region descriptor of a card. -/
def regionOf (r : Nat) : Region where
  kind := BitVec.ofNat 2 (bitsN r 127 126)
  peer := r.testBit 125
  nsid := BitVec.ofNat 4 (bitsN r 123 120)
  len := bitsN r 103 64
  addr := BitVec.ofNat 56 (bitsN r 55 0)

/-- The reserved bits of a region descriptor are 0, and so is every field that it does not use (16 R274). -/
def regionClean (r : Nat) : Bool :=
  let g := regionOf r
  bitsN r 124 124 == 0 && bitsN r 119 104 == 0 && bitsN r 63 56 == 0 &&
  (g.kind != 0 || (g.len == 0 && g.addr == 0)) && (g.nsid == 0 || g.kind == 3) && (!g.peer || g.kind == 1)

/-- The region kinds that a kind of job allows for region i; none where the region must be absent (16 R275). -/
def allowedKinds (kind i : Nat) : Option (List (BitVec 2)) :=
  match kind, i with
  | 1, 0 | 1, 4 | 2, 0 | 2, 1 | 2, 4 | 3, 4 | 4, 4 | 5, 0 | 7, 0 | 8, 4 => some [1, 2]
  | 4, 0 | 5, 4 => some [3]
  | 6, 0 | 6, 1 | 6, 4 | 7, 4 | 8, 0 => some [1]
  | _, _ => none

/-- Region i of a kind of job is of a kind it allows, PEER where the kind has it, and in whole pages for flash. -/
def regionFits (kind i : Nat) (r : Region) : Bool :=
  match allowedKinds kind i with
  | none => r.kind == 0
  | some ks => ks.contains r.kind && decide (1 ≤ r.len) && r.peer == ((kind == 7 && i == 4) || (kind == 8 && i == 0)) &&
      (r.kind != 3 || r.len % 0x4000 == 0)

/-- The lengths of regions 0, 1 and 4 are as the kind requires (16 R275). -/
def lengthsFit (kind param l0 l1 l4 : Nat) : Bool :=
  match kind with
  | 2 => l0 % 4 == 0 && l4 == l0 / 4 * 2 ^ (param % 8)
  | 3 => l4 % 4 == 0
  | 6 => decide (16 ≤ l0) && decide (l0 ≤ 0x10000) && l0 % 16 == 0 && l1 == 16 && l4 == l0
  | _ => l4 == l0

/-- The open stream and key of a CIPHER_IN PARAM; none where it is outside its range (26 R364). -/
def Ctx.cipher (c : Ctx) (param : Nat) : Option (CStream × VaultKey) :=
  match c.streams.find? fun x => x.n == param % 256, c.vault.find? fun k => k.slot == bitsN param 15 8 with
  | some st, some k =>
    if st.slot = bitsN param 15 8 && k.use == .cipherIn && st.next != 0xFFFFFFFFFFFFFFFF then .some (st, k) else .none
  | _, _ => .none

/-- PARAM is within the range of the kind (16 R275, 26 R364). -/
def State.paramFits (s : State) (t kind param : Nat) : Bool :=
  match kind with
  | 2 => decide (param ≤ 4)
  | 3 => true
  | 6 => decide (param < 0x10000) && ((s.ctx t).cipher param).isSome
  | 7 | 8 => decide (param < 64)
  | _ => param == 0

/-- A VF is in RUN (26 R361, R364). -/
def State.vfRun (s : State) (fn : Nat) : Bool := (s.funcs[fn]?).any fun f => f.tdisp == .run

/-- The ranges of region i of a card, or its fault and address (16 R274, R276 step 7, 26 R364). The check meets no byte of a frame: one that
holds an error of its own is a poisoned one to it. -/
def State.regionRanges (s : State) (kind param i : Nat) (r : Region) : Except SFault (List (Nat × Nat × Nat)) :=
  match r.kind.toNat with
  | 0 => .ok []
  | 1 =>
    if r.peer then .ok [(peerSpace param, r.addr.toNat, r.len)]
    else if kind = 6 && i = 4 && !s.vfRun s.ln.func then .error { code := 0x15, va := r.addr.toNat }
    else
      match frameRanges (fun va => s.reachVa s.tenant s.ln.ticket va (decide (4 ≤ i))) (frameFuel r.len) r.addr.toNat r.len with
      | .error e => .error { code := poisonCause e.1, va := e.2 }
      | .ok rs =>
        if kind = 6 && i = 4 && rs.any (fun x => (s.fitOf (x.2.1 / 0x10000)).any fun e => !e.prot) then
          .error { code := 0x15, va := r.addr.toNat }
        else .ok rs
  | 2 =>
    let a : Word := BitVec.ofNat 32 r.addr.toNat
    match s.spTarget a 1 with
    | .ok (w, off) => if s.ln.desc.covers off r.len then .ok [(w, off, r.len)] else .error { code := 0x13 }
    | .error _ => .error { code := 0x13 }
  | _ =>
    let n := vget s.nss r.nsid.toNat Namespace.none
    let lpn := r.addr.toNat % 2 ^ 32
    if !n.valid || n.owner ≠ s.tenant || n.pages < lpn + r.len / 0x4000 then .error { code := 0x15 }
    else if 4 ≤ i && n.rdonly then .error { code := 0x11 }
    else .ok [(flashSpace r.nsid.toNat, lpn, r.len / 0x4000)]

/-- The ranges of several regions in order. -/
def State.rangesOf (s : State) (kind param : Nat) : List (Nat × Region) → Except SFault (List (Nat × Nat × Nat))
  | [] => .ok []
  | (i, r) :: rest =>
    match s.regionRanges kind param i r with
    | .error e => .error e
    | .ok xs => (s.rangesOf kind param rest).map fun ys => xs ++ ys

/-- The job that a card of 128 bytes describes, or the first check that it fails (16 R276 steps 3 to 7), with the links
it follows. -/
def State.jobOfCard (s : State) (card : List Byte) : Except SFault (Job × List (BitVec 16)) :=
  let bits := leNat card
  let h := bits % 2 ^ 128
  let tail := bits / 2 ^ 896
  let rb := fun i => bits / 2 ^ (128 * (i + 1)) % 2 ^ 128
  let rs := (List.range 6).map fun i => regionOf (rb i)
  let len := fun i => ((rs[i]?).map (·.len)).getD 0
  let kind := bitsN h 7 0
  let param := bitsN h 63 32
  let cred := h.testBit 8
  let stat := bitsN tail 95 64
  let bar := bitsN tail 31 0
  let clean := bitsN h 79 64 == 0 && bitsN h 31 9 == 0 && bitsN tail 127 96 == 0 && bitsN tail 63 32 == 0 &&
    (cred || bar == 0) && (List.range 6).all (fun i => regionClean (rb i))
  let ir := (List.range 6).zip rs
  if kind = 0 || 8 < kind then .error { code := 0x32, detail := 0 }
  else if !clean || !s.paramFits s.tenant kind param then .error { code := 0x32, detail := 1 }
  else if !ir.all (fun p => regionFits kind p.1 p.2) || !lengthsFit kind param (len 0) (len 1) (len 4) then
    .error { code := 0x32, detail := 2 }
  else if (cred && (decide (0xFFFFFFFF < len 4 + len 5) || (s.spTarget (BitVec.ofNat 32 bar) 16).toOption.isNone)) ||
      (stat != 0xFFFFFFFF && (stat.testBit 22 || (s.spTarget (BitVec.ofNat 32 stat) 4).toOption.isNone)) then
    .error { code := 0x32, detail := 3 }
  else
    match s.rangesOf kind param (ir.take 4), s.rangesOf kind param (ir.drop 4) with
    | .error e, _ => .error e
    | _, .error e => .error e
    | .ok reads, .ok writes =>
      let after := [BitVec.ofNat 16 (bitsN h 111 96), BitVec.ofNat 16 (bitsN h 127 112)]
      .ok ({ Job.fresh s.newJob s.ln.lid s.wg.id s.g.gid s.g.blkidx with
        kind := BitVec.ofNat 8 kind
        param := BitVec.ofNat 32 param
        cred := cred
        tag := BitVec.ofNat 16 (bitsN h 95 80)
        regions := rs
        stat := BitVec.ofNat 32 stat
        credbar := BitVec.ofNat 32 bar
        preds := s.predsOf s.ln.lid reads writes after
        reads := reads
        writes := writes }, after)

/-- What acceptance of a CIPHER_IN job does in one step with its checks: its counter is taken, and its frames are
claimed (26 R365, R354). -/
def State.claim (s : State) (j : Job) : State × Job :=
  if j.kind ≠ 0x06 then (s, j)
  else
    match (s.ctx s.tenant).cipher j.param.toNat with
    | none => (s, j)
    | some (st, _) =>
      let s := s.modCtx s.tenant fun c => { c with
        streams := c.streams.map fun x => if x.n == st.n then { x with next := x.next + 1 } else x }
      let ds := nub (j.writes.map fun r => r.2.1 / 0x10000)
      ({ s with fit := s.fit.map fun e => if ds.contains e.dfn then { e with owned := true, ticket := s.ln.ticket } else e },
       { j with iv := st.fixed ++ st.next })

/-- Entries of the engine queue held on the core in the focus, by every workgroup placed there (16 R272); a matrix
instruction and a copy of the device's own hold none (log 78). -/
def State.queued (s : State) : Nat :=
  let ids := (s.allWgs.filter fun w => w.id != 0 && w.coreId == s.wg.coreId).map (·.id)
  (s.jobs.filter fun j => ids.contains j.wgId && j.ofCard).length

/-- The card read, its checks, and the job accepted or turned away for want of an entry (16 R272, R276). -/
def State.offerCard (s : State) (p : BitVec 3) (va : Nat) : Except SFault State :=
  if va % 128 ≠ 0 then .error { code := 0x12, va := va }
  else
    match s.reachVa s.tenant s.ln.ticket va false with
    | .fault c => .error { code := c, va := va }
    | .absent _ => .error { code := 0x16, va := va }
    | .ok da =>
      match s.jobOfCard (s.loadBytes da 128) with
      | .error e => .error e
      | .ok (j, _) =>
        let s := s.touch da false
        if 64 ≤ s.queued then .ok (s.writeP p 0)
        else
          let t := s.claim j
          .ok (({ t.1 with jobs := t.1.jobs ++ [t.2] } : State).writeP p 0xFFFFFFFF)

/-- `JOB` (16 R272): it drains, releases at device scope, and then reads and checks the card. -/
def execJob (p : BitVec 3) (a : SReg) (s : State) : Res :=
  if !s.scalarGate true true [] then .next s.scalarWait
  else if !s.released s.g s.ln.lid 3 then .next s
  else
    let t := s.publish s.g.wgId s.g.gid
    match t.offerCard p ((t.readPair a).toNat % 2 ^ 56) with
    | .error f => .next (t.scalarFault f.code f.detail f.va)
    | .ok u => .next (s.finish (u.latch a))

/-! ## Pieces of regions -/

/-- The pieces of n bytes from position a of ranges, each with the address it has when position 0 stands at va: (va,
space, first, count). -/
def cutAt : List (Nat × Nat × Nat) → Nat → Nat → Nat → List (Nat × Nat × Nat × Nat)
  | [], _, _, _ => []
  | r :: rs, va, a, n =>
    if n = 0 then []
    else if r.2.2 ≤ a then cutAt rs (va + r.2.2) (a - r.2.2) n
    else
      let k := min n (r.2.2 - a)
      (va + a, r.1, r.2.1 + a, k) :: cutAt rs (va + r.2.2) 0 (n - k)

/-- Region i of a job. -/
def Job.region (j : Job) (i : Nat) : Region := (j.regions[i]?).getD ⟨0, false, 0, 0, 0⟩

/-- Where region i begins in the read ranges. -/
def Job.readBase (j : Job) (i : Nat) : Nat := ((j.regions.take i).map (·.len)).sum

/-- The pieces of n bytes at position a of read region i. -/
def Job.readPieces (j : Job) (i a n : Nat) : List (Nat × Nat × Nat × Nat) :=
  (cutAt j.reads 0 (j.readBase i + a) n).map fun p => ((j.region i).addr.toNat + (p.1 - j.readBase i), p.2)

/-- The pieces of n bytes at position a of the write region. -/
def Job.writePieces (j : Job) (a n : Nat) : List (Nat × Nat × Nat × Nat) := cutAt j.writes (j.region 4).addr.toNat a n

/-- Bytes of the write region. -/
def Job.total (j : Job) : Nat := (j.region 4).len + (j.region 5).len

/-- Byte a of a space as of the job's start; zeros in a slot that a disposition made so (08 R136, 16 R275, 01 R37). -/
def Job.byte (j : Job) (sp a : Nat) : Byte :=
  if sp = memSpace then j.startMem.get a
  else if decide (0x60000 ≤ a) && j.zeros.contains (sp, (a - 0x60000) / 0x4000) then 0
  else
    match j.startSp.find? fun x => x.1 == sp with
    | some x => x.2.get a
    | none => 0

/-- n bytes at position a of read region i, as of the job's start. -/
def Job.read (j : Job) (i a n : Nat) : List Byte :=
  (j.readPieces i a n).flatMap fun p => (List.range p.2.2.2).map fun k => j.byte p.2.1 (p.2.2.1 + k)

/-! ## Start (08 R135, R136, 07 R111) -/

/-- The absent frames of some ranges. -/
def State.absentIn (s : State) (rs : List (Nat × Nat × Nat)) : List Nat :=
  (nub (rs.flatMap fun r =>
    if r.1 = memSpace then (List.range ((r.2.1 + r.2.2 + 0xFFFF) / 0x10000 - r.2.1 / 0x10000)).map fun i => r.2.1 / 0x10000 + i
    else [])).filter fun d => (s.fitOf d).any fun e => e.st == .absent

/-- A residency request made on a job's behalf, once (07 R111). GID 16 names no group. -/
def State.askFor (s : State) (j : Job) (frames : List Nat) : State :=
  if s.resreqs.any fun q => q.gid == 16 && q.wgId == j.wgId && q.frames == frames then s
  else { s with resreqs := s.resreqs ++ [⟨s.newReq, j.wgId, 16, j.lid, j.blkidx, frames, false, none, none⟩] }

/-- A scratchpad with the bytes of its slot and landing barriers in place, as a load returns them (01 R18, R383). -/
def Workgroup.image (w : Workgroup) (d : Desc) : Mem :=
  (List.range 144).foldl (fun m i => if (w.devBar d (0x5FF00 + i)).isSome then m.set (0x5FF00 + i) (w.byte d (0x5FF00 + i)) else m)
    w.sp

/-- The written pages of some flash ranges, by LPN. -/
def State.flashOf (s : State) (rs : List (Nat × Nat × Nat)) : List (Nat × Mem) :=
  rs.flatMap fun r =>
    if decide (2 ^ 64 ≤ r.1) && decide (r.1 < 2 ^ 65) then
      let ns := r.1 - 2 ^ 64
      ((List.range r.2.2).filter fun i => s.pageWritten ns (r.2.1 + i)).map fun i => (r.2.1 + i, s.flashPage ns (r.2.1 + i))
    else []

/-- The job with its read regions' bytes as of now. -/
def State.started (s : State) (j : Job) (d : Desc) : Job :=
  { j with
    st := .running
    startMem := s.mem
    startFlash := s.flashOf j.reads
    startSp := (nub (j.reads.map (·.1))).filterMap fun w => (s.findWg w).map fun x => (w, x.image d) }

/-- `JOB_START` (08 R135): predecessor count 0, footprint resident. -/
def execJobStart (j : Nat) (s : State) : Res :=
  match s.findJob j with
  | none => .next s
  | some k =>
    match s.findLaunch k.lid with
    | none => .next s
    | some l =>
      if k.st == .waiting && k.ofCard && k.preds.isEmpty && !s.jobHeld k.lid then
        match s.absentIn (k.reads ++ k.writes) with
        | [] => .next (s.modJob j fun k => s.started k l.desc)
        | ds => .next (s.askFor k ds)
      else .next s

/-! ## What a step meets (01 R36, 24 R331, R348) -/

/-- What stands before a job step. -/
inductive StepMeets
  | go
  | wait
  | fault (code : BitVec 8) (va : Nat)
  | touch (w slot va : Nat)
  | stall (w slot : Nat)
  deriving DecidableEq, Repr

/-- What a piece of device memory meets: the firewall, poison, absence. -/
def State.memMeets (s : State) (l : Launch) (p : Nat × Nat × Nat × Nat) : StepMeets :=
  match s.frameCheck l.cmd.tenant l.ticket p.2.2.1 with
  | .ok _ => .go
  | .absent _ => .wait
  | .fault c => .fault c (p.1 % 2 ^ 56)

/-- What a piece of a scratchpad of the gang meets: a slot whose trap is being handled, or whose trap fires, with the scratchpad address of
the first byte there (01 R36, 07 R116). -/
def State.slotMeets (s : State) (j : Job) (d : Desc) (p : Nat × Nat × Nat × Nat) : StepMeets :=
  if !d.pageGrid then .go
  else
    match s.findWg p.2.1 with
    | none => .go
    | some w =>
      let meets := fun k : Nat =>
        decide (p.2.2.1 < 0x60000 + 0x4000 * (k + 1)) && decide (0x60000 + 0x4000 * k < p.2.2.1 + p.2.2.2) &&
        ((w.slot k).stalled || ((w.slot k).fires && !j.zeros.contains (w.id, k)))
      match (List.range 8).find? meets with
      | some k => if (w.slot k).stalled then .stall w.id k else .touch w.id k (p.1 + (0x60000 + 0x4000 * k - p.2.2.1))
      | none => .go

/-- What a piece that a step reads meets. -/
def State.readMeets (s : State) (j : Job) (l : Launch) (p : Nat × Nat × Nat × Nat) : StepMeets :=
  if p.2.1 = memSpace then s.memMeets l p else s.slotMeets j l.desc p

/-- What a piece that a step writes meets. -/
def State.writeMeets (s : State) (l : Launch) (p : Nat × Nat × Nat × Nat) : StepMeets :=
  if p.2.1 = memSpace then s.memMeets l p else .go

/-- The first of several meetings that is not `go`. -/
def firstMeets : List StepMeets → StepMeets
  | [] => .go
  | .go :: ms => firstMeets ms
  | m :: _ => m

/-- The group that enqueued a job has ended, or is no more. -/
def State.ended (s : State) (w gid : Nat) : Bool :=
  match s.findGroup w gid with
  | some g => g.st == .ended
  | none => true

/-- A job stopped by an imprecise fault at its enqueuer (24 R332, SRC 3 of 17 R301). Where the group has ended, the fault
is late and the job ends with no effect (log 25). -/
def State.jobFault (s : State) (j : Job) (code : BitVec 8) (va : Nat) (tslot : Option TSlot) : State :=
  let s := match s.findLaunch j.lid with
    | some l => s.metFrame l.cmd.tenant va code
    | none => s
  let f : PendFault := ⟨code, 3, 0, BitVec.ofNat 56 va, 0, some j.id, tslot, tslot.isSome, 1, j.blkidx⟩
  if code = 0x14 then s.integrityHalt j.lid
  else
    match s.ended j.wgId j.gid, s.findWg j.wgId with
    | true, some x => s.lateFault x j.gid f
    | true, none => s.dropJob j
    | false, _ => (s.modJob j.id fun k => { k with st := .stopped }).modGroup j.wgId j.gid fun g => { g with
        faults := g.faults ++ [f] }

/-- A touch trap fired by a job (01 R36): a fault of its enqueuer, or, once that has ended, ZERO_RESUME and a late fault
(16 R277). -/
def State.jobTouch (s : State) (j : Job) (w k va : Nat) : State :=
  (s.fireTrap w k).jobFault j 0x20 va (some (s.trapAt w k))

/-- A read of a job waits for the disposition of a touch trap, and then reads zeros (01 R36). -/
def Job.stall (j : Job) (w k : Nat) : Job := if j.zeros.contains (w, k) then j else { j with zeros := (w, k) :: j.zeros }

/-! ## Steps (16 R275) -/

/-- Bytes stored to scratchpads, piece by piece. -/
def State.spPieces (s : State) (j : Job) (d : Desc) : List (Nat × Nat × Nat × Nat) → List Byte → State
  | [], _ => s
  | p :: ps, bs =>
    let s := s.modWg p.2.1 fun x => (cellsAt p.2.2.1 (bs.take p.2.2.2)).foldl (fun x c => x.store d j.wgId c.1 c.2) x
    s.spPieces j d ps (bs.drop p.2.2.2)

/-- n bytes of the write region from position pos made: scratchpad bytes at once, global ones kept until completion (08
R136). `last` says that nothing but completion follows the last byte. -/
def State.stepWrites (s : State) (j : Job) (d : Desc) (bs : List Byte) (last : Bool) : State :=
  let s := if (j.region 4).kind = 2 then s.spPieces j d (j.writePieces j.pos bs.length) bs else s
  s.modJob j.id fun k => { k with
    pos := j.pos + bs.length
    out := if (j.region 4).kind = 2 then k.out else k.out ++ bs
    st := if last && decide (j.total ≤ j.pos + bs.length) then .stepped else k.st }

/-- The frames that a step reads marked accessed (07 R103). -/
def State.readFrames (s : State) (j : Job) (rs : List (Nat × Nat × Nat)) : State :=
  (rs.flatMap fun r => j.readPieces r.1 r.2.1 r.2.2).foldl (fun s p => if p.2.1 = memSpace then s.touch p.2.2.1 false else s) s

/-- One step of a running job of a kind, of at most `size` bytes: what it reads as (region, position, count), and its
effect once nothing stands before it. -/
def jobStep (s : State) (id : Nat) (kind : BitVec 8) (size : Job → Nat) (reads : Job → Nat → List (Nat × Nat × Nat))
    (eff : State → Job → Launch → Nat → State) : Res :=
  match s.findJob id with
  | none => .next s
  | some j =>
    match s.findLaunch j.lid with
    | none => .next s
    | some l =>
      let n := min (size j) (j.total - j.pos)
      if j.kind = kind && j.ofCard && j.st == .running && decide (0 < n) && !s.jobHeld j.lid then
        let ms := ((reads j n).flatMap fun r => (j.readPieces r.1 r.2.1 r.2.2).map (s.readMeets j l)) ++
          (j.writePieces j.pos n).map (s.writeMeets l)
        match firstMeets ms with
        | .go => .next (eff (s.readFrames j (reads j n)) j l n)
        | .wait => .next s
        | .fault c va => .next (s.jobFault j c va none)
        | .touch w k va => .next (s.jobTouch j w k va)
        | .stall w k => .next (s.modJob j.id fun j => j.stall w k)
      else .next s

/-- `COPY` (16 R275). -/
def execCopy (j : Nat) (s : State) : Res :=
  jobStep s j 0x01 (fun _ => 4096) (fun j n => [(0, j.pos, n)]) fun s j l n => s.stepWrites j l.desc (j.read 0 j.pos n) true

/-- Bytes of a table element. -/
def Job.elem (j : Job) : Nat := 2 ^ (j.param.toNat % 8)

/-- Where in the table element i of a GATHER stands, if the table holds it whole. -/
def Job.gathered (j : Job) (i : Nat) : Option Nat :=
  let x := leNat (j.read 0 (4 * i) 4) * j.elem
  if x + j.elem ≤ (j.region 1).len then some x else none

/-- The elements that n bytes of a GATHER step make. -/
def Job.elems (j : Job) (n : Nat) : List Nat := (List.range (n / j.elem)).map fun i => j.pos / j.elem + i

/-- `GATHER` (16 R275): elements beyond the table are written zero and counted, up to 0xFFFF. -/
def execGather (j : Nat) (s : State) : Res :=
  jobStep s j 0x02 (fun _ => 4096)
    (fun j n => (0, 4 * (j.pos / j.elem), 4 * (n / j.elem)) ::
      (j.elems n).filterMap fun i => (j.gathered i).map fun x => (1, x, j.elem))
    fun s j l n =>
      let bs := (j.elems n).flatMap fun i =>
        match j.gathered i with
        | some x => j.read 1 x j.elem
        | none => List.replicate j.elem 0
      let z := ((j.elems n).filter fun i => (j.gathered i).isNone).length
      (s.stepWrites j l.desc bs true).modJob j.id fun k => { k with
        code := if z = 0 then k.code else 0x03
        detail := min 0xFFFF (k.detail + z) }

/-- `FILL` (16 R275). -/
def execFill (j : Nat) (s : State) : Res :=
  jobStep s j 0x03 (fun _ => 4096) (fun _ _ => []) fun s j l n =>
    s.stepWrites j l.desc ((List.range n).map fun i => BitVec.ofNat 8 (j.param.toNat / 2 ^ (8 * ((j.pos + i) % 4)))) true

/-- `FLASH_READ` (16 R275): one page as it stood at the start, recovered as 01 R27 or zeros. -/
def execFlashRead (j : Nat) (ok : Bool) (s : State) : Res :=
  jobStep s j 0x04 (fun _ => 0x4000) (fun _ _ => []) fun s j l n =>
    let page := j.pos / 0x4000
    let ns := (j.region 0).nsid.toNat
    let lpn := (j.region 0).addr.toNat % 2 ^ 32 + page
    let written := j.startFlash.find? fun x => x.1 == lpn
    let bad := !(ok && s.pageKeyed ns lpn) && written.isSome
    let m : Mem := if bad then [] else (written.map (·.2)).getD []
    let s := s.stepWrites j l.desc (m.bytes 0 n) true
    if bad && j.code = 0 then s.modJob j.id fun k => { k with code := 0x02, detail := page } else s

/-- A page of a namespace programmed (16 R275, 26 R366). -/
def State.program (s : State) (ns lpn : Nat) (bs : List Byte) : State :=
  { s with
    flash := s.flash.filter (fun p => p.1 != (ns, lpn)) ++ [((ns, lpn), Mem.write [] 0 bs)]
    nss := vset s.nss ns (let n := vget s.nss ns Namespace.none
      { n with written := n.written.filter (fun x => x.1 != lpn) ++ [(lpn, s.nsKey ns)] }) }

/-- `FLASH_WRITE` (16 R275): one page. -/
def execFlashWrite (j : Nat) (s : State) : Res :=
  jobStep s j 0x05 (fun _ => 0x4000) (fun j n => [(0, j.pos, n)]) fun s j l n =>
    let lpn := (j.region 4).addr.toNat % 2 ^ 32 + j.pos / 0x4000
    let bs := j.read 0 j.pos n
    (s.program (j.region 4).nsid.toNat lpn bs).stepWrites j l.desc bs true

/-- `CIPHER_IN` (26 R365): the whole buffer in one step; nothing is written where the tag fails, and nothing at all
follows where the VF has left RUN (R369). -/
def execCipherIn (j : Nat) (s : State) : Res :=
  jobStep s j 0x06 (fun j => j.total) (fun _ n => [(0, 0, n), (1, 0, 16)]) fun s j l n =>
    if !s.vfRun l.func then s.dropJob j
    else
      let c := s.ctx l.cmd.tenant
      let key := ((c.vault.find? fun k => k.slot == bitsN j.param.toNat 15 8).map (·.key)).getD 0
      match gcmDecrypt key (beBytes 12 j.iv.toNat) (j.read 0 0 n) (j.read 1 0 16) with
      | some p => s.stepWrites j l.desc p true
      | none =>
        (s.modJob j.id fun k => { k with pos := n, code := 0x01, st := .stepped }).modErr l.cmd.tenant fun e =>
          { e with tagf := satInc e.tagf }

/-- `SEND` (28 R376): bytes of region 0 leave for the peer; the transfer is over when the peer has answered. -/
def execSend (j : Nat) (s : State) : Res :=
  jobStep s j 0x07 (fun _ => 4096) (fun j n => [(0, j.pos, n)]) fun s j l n => s.stepWrites j l.desc (j.read 0 j.pos n) false

/-- `FETCH` (28 R376): bytes that the peer sent are written. -/
def execFetch (j : Nat) (s : State) : Res :=
  match s.findJob j with
  | none => .next s
  | some k =>
    if k.out.length < k.total then .next s
    else
      jobStep s j 0x08 (fun _ => 4096) (fun _ _ => []) fun s (j : Job) l n =>
        let bs := (j.out.drop j.pos).take n
        let s := if (j.region 4).kind = 2 then s.spPieces j l.desc (j.writePieces j.pos n) bs else s
        s.modJob j.id fun k => { k with pos := j.pos + n, st := if j.total ≤ j.pos + n then JobSt.stepped else k.st }

/-! ## Completion (16 R277) -/

/-- Global bytes of a job as cells, piece by piece. -/
def memCells : List (Nat × Nat × Nat × Nat) → List Byte → List (Nat × Byte)
  | [], _ => []
  | p :: ps, bs =>
    (if p.2.1 = memSpace then cellsAt p.2.2.1 (bs.take p.2.2.2) else []) ++ memCells ps (bs.drop p.2.2.2)

/-- The status word of a job (16 R277). -/
def Job.status (j : Job) : Word := BitVec.ofNat 32 (j.detail % 2 ^ 16 * 2 ^ 16 + j.code.toNat)

/-- One arrival with bytes at a scratchpad address, made for group gid of workgroup w of a launch and carrying a release
of a job or store; a refused one is an imprecise or a late fault (08 R131, 16 R277). -/
def State.jobCredit (s : State) (j : Job) (l : Launch) (bytes : Nat) : State :=
  match s.findWg j.wgId with
  | none => s
  | some own =>
    let ad := j.credbar
    let target := if isRemote ad then
        s.allWgs.find? fun x => x.lid == l.lid && x.coreId == hallOf own.coreId * 8 + bitsN ad.toNat 21 19 && x.id != 0
      else some own
    let bad := fun c => s.imprecise j.wgId j.gid ⟨c, 3, 0, BitVec.ofNat 56 ad.toNat, 0, none, none, true, 1, j.blkidx⟩
    match target with
    | none => bad 0x31
    | some x =>
      match x.arrive l.desc (ad.toNat % 0x80000) l.ticket 1 bytes (some ⟨j.wgId, some j.gid⟩) with
      | .ok x' => s.modWg x.id fun _ => x'
      | .error c => bad c

/-- The status word written, where the card names a place. -/
def State.jobStatus (s : State) (j : Job) (l : Launch) : State :=
  if j.stat = 0xFFFFFFFF then s
  else
    s.modWg j.wgId fun x => (cellsAt (j.stat.toNat % 0x80000) (leBytes 4 j.status.toNat)).foldl
      (fun x c => x.store l.desc j.wgId c.1 c.2) x

/-- `JOB_COMPLETE` (16 R277): the publication, the status word, the credit, in this order. It is no step of the job: it goes on
while a tenant is switched out, and the credit goes to the arrival log (24 R344). -/
def execJobComplete (j : Nat) (s : State) : Res :=
  match s.findJob j with
  | none => .next s
  | some k =>
    match s.findLaunch k.lid with
    | none => .next s
    | some l =>
      if k.st == .stepped && k.ofCard then
        let s := s.batch (memCells (k.writePieces 0 k.out.length) k.out)
        let s := s.jobStatus k l
        let s := if k.cred then s.jobCredit k l k.total else s
        .next (s.dropJob k)
      else .next s

/-! ## Transfers between devices (28 R376) -/

/-- The local tenant that a pair of sender device and tenant maps to. -/
def State.peerTenant (s : State) (dev tenant : Nat) : Option Nat :=
  (s.dev.peers.find? fun p => p.1 == (dev, tenant)).map (·.2)

/-- A transfer asked for by a peer: its checks, then the bytes written and published here; a fetch reads them. -/
def State.incoming (s : State) (t : Transfer) (ok : Bool) : State :=
  let done : State := { s with dev := { s.dev with transfers := s.dev.transfers.filter fun x => x.id != t.id } }
  match s.peerTenant t.device t.tenant with
  | none => done
  | some loc =>
    match frameRanges (fun va => s.reachVa loc 0 va t.send) (frameFuel t.len) t.va.toNat t.len with
    | .error _ => done
    | .ok rs =>
      if !(s.absentIn rs).isEmpty then s
      else if !ok then done
      else if t.send then done.batch (memCells (cutAt rs t.va.toNat 0 t.len) t.data)
      else rs.foldl (fun s r => s.touch r.2.1 false) done

/-- The result of a transfer of job k with a peer: the bytes fetched, or CODE 0x04 with nothing written. -/
def Job.answered (k : Job) (ok : Bool) (data : List Byte) : Job :=
  if !ok then { k with st := .stepped, code := 0x04, out := [] }
  else if k.kind = 0x08 then { k with out := (data ++ List.replicate k.total 0).take k.total }
  else { k with st := .stepped, out := [] }

/-- `PEER_TRANSFER` (28 R376): the peer has answered a whole SEND or FETCH of this device, or this device is the peer of
transfer j. -/
def execPeerTransfer (j : Nat) (ok : Bool) (data : List Byte) (s : State) : Res :=
  match s.findJob j with
  | some k =>
    let ok := ok && s.dev.links != 0
    let whole := (k.kind = 0x07 && k.pos = k.total) || (k.kind = 0x08 && k.out.isEmpty) || (!ok && k.kind = 0x07)
    if k.st == .running && whole && k.ofCard then .next (s.modJob j fun k => k.answered ok data) else .next s
  | none =>
    match s.dev.transfers.find? fun t => t.id == j with
    | some t => .next (s.incoming t ok)
    | none => .next s

end Sys2Proof.Machine
end

