-- ==== Sys2Proof/Machine/Stairwell.lean ====
section
/-! DEFINITION. The Stairwell (07 R101, R109, R111, R112, R117): residency requests completed, frames moved between tiers,
frames evicted to the host and returned from it. -/
namespace Sys2Proof.Machine

/-! ## Places of frames -/

/-- Frame numbers of a tier that hold a frame (07 R103). -/
def State.usedIn (s : State) (t : Tier) : List Nat :=
  (s.fit.filter fun e => e.tier == t && e.st != .poisoned).map fun e => e.loc.toNat

/-- Frame numbers of a tier that keep the lower copy of a frame (07 R103 LOWER). -/
def State.copiesIn (s : State) (t : Tier) : List Nat :=
  (s.fit.filter fun e => e.lower && e.lowTier == t).map fun e => e.lowLoc.toNat

/-- Frames that a tier holds at most: tier B has the 4 TiB of the module in its lowest places, and above them what the CXL ports
add (00 R2, 28 R377; how much a port adds, and where, is a DESIGN CHOICE, log 81). -/
def State.tierSize (s : State) : Tier → Nat
  | .a => Config.tierAFrames
  | .b => Config.tierBFrames + s.dev.cxl.toList.sum
  | _ => 0

/-- The least number not in a list of n numbers. -/
def leastFree (used : List Nat) : Nat := ((List.range (used.length + 1)).find? fun n => !used.contains n).getD 0

/-- The lowest frame number of a tier that holds no frame and no copy; where there is none, the lowest that holds no frame. -/
def State.freeIn (s : State) (t : Tier) : Option Nat :=
  let n := leastFree (s.usedIn t ++ s.copiesIn t)
  let m := leastFree (s.usedIn t)
  if n < s.tierSize t then some n else if m < s.tierSize t then some m else none

/-- A place of a tier is taken: a lower copy that stood there is lost. -/
def State.vacate (s : State) (t : Tier) (loc : Nat) : State :=
  { s with fit := s.fit.map fun e => if e.lower && e.lowTier == t && e.lowLoc.toNat == loc then { e with lower := false } else e }

/-- The place in tier A, or else in tier B, that a frame takes which is new or returns (23 R315, 07 R112). -/
def State.home (s : State) : Option (Tier × Nat) :=
  match s.freeIn .a, s.freeIn .b with
  | some n, _ => some (.a, n)
  | none, some n => some (.b, n)
  | none, none => none

/-- A tenant runs: a workgroup of it is resident on a core (07 R117). -/
def State.tenantRuns (s : State) (t : Nat) : Bool :=
  s.allWgs.any fun w => w.id != 0 && w.place == .resident && (s.findLaunch w.lid).any fun l => l.cmd.tenant == t && l.st == .running

/-- A frame may leave tier A: it is no copy-out area, which is pinned there, and no other area of a launch that could then only go to a
backing store (01 R17, R21). -/
def State.mayFall (s : State) (e : FitEntry) : Bool :=
  !s.coPinned e.tenant e.dfn && (!s.pinned e.tenant e.dfn || (s.freeIn .b).isSome)

/-- A frame that the Stairwell may move down: resident in tier A, of a context that is not running (07 R111, R117), and not kept
there by a launch. -/
def State.movable (s : State) (e : FitEntry) : Bool :=
  e.st == .resident && e.tier == .a && !s.tenantRuns e.tenant && s.mayFall e

/-- COUNT of the tile of a frame. -/
def State.tileCount (s : State) (e : FitEntry) : DWord :=
  ((s.tree.find? fun r => e.tile != 0 && r.index == bitsN e.tile.toNat 23 0).map (·.count)).getD 0

/-- A frame moved up: the copy that it leaves in tier B or in the swap area stays valid until the frame is written; the count that
its last move down recorded stands (10 R155, log 29). -/
def FitEntry.up (e : FitEntry) (t : Tier) (loc : Nat) : FitEntry :=
  { e with
    st := .resident, tier := t, loc := BitVec.ofNat 48 loc, dirty := false, evicted := false
    lower := e.tier == .b || (e.tier == .backing && !e.evicted), lowTier := e.tier, lowLoc := e.loc }

/-- A frame moved to another tier of the module in one update (07 R109); the count of its tile is recorded (10 R155). -/
def FitEntry.move (e : FitEntry) (t : Tier) (loc : Nat) (count : DWord) : FitEntry :=
  { e with st := .resident, tier := t, loc := BitVec.ofNat 48 loc, lower := false, dirty := false, lowCount := count }

/-- A frame moved to a backing store: absent, its VERSION raised (07 R103, R112), the count of its tile recorded (10 R155). -/
def FitEntry.away (e : FitEntry) (loc : Nat) (host : Bool) (count : DWord) : FitEntry :=
  { e with
    st := .absent, tier := .backing, loc := BitVec.ofNat 48 loc, version := e.version + 1, lower := false, dirty := false
    evicted := host, lowCount := count }

/-- The test of R117: the frame was written since its lower copy was made, or, of a tile, its count differs from the one recorded. -/
def State.dirtyNow (s : State) (e : FitEntry) : Bool := e.dirty || (e.tile != 0 && s.tileCount e != e.lowCount)

/-- A frame of tier A moved down: to its lower copy where that is still good, which needs no copying; else to tier B, or to the swap
area where B is full (07 R117). The swap area always has a place: 28 R378 gives no size of it (DESIGN CHOICE, log 52). -/
def State.fall (s : State) (e : FitEntry) : State :=
  let n := s.tileCount e
  let back := fun (loc : Nat) => (s.vacate .backing loc).modFit e.dfn fun e => e.away loc false n
  let b := fun (loc : Nat) => (s.vacate .b loc).modFit e.dfn fun e => e.move .b loc n
  if e.lower && !s.dirtyNow e && (e.lowTier == .b || !s.pinned e.tenant e.dfn) then
    if e.lowTier = .b then b e.lowLoc.toNat else back e.lowLoc.toNat
  else
    match s.freeIn .b with
    | some loc => b loc
    | none => back (leastFree (s.usedIn .backing ++ s.copiesIn .backing))

/-- Frames that a switch-in or a launch's acceptance still waits for (07 R117). -/
def State.incomingFrames (s : State) : List Nat := (s.resreqs.filter fun q => decide (17 ≤ q.gid)).flatMap (·.frames)

/-- Frames that the Stairwell may move down to make room for some others (07 R111, R117). -/
def State.fallers (s : State) (keep : List Nat) : List FitEntry := s.fit.filter fun e => s.movable e && !keep.contains e.dfn

/-- Room made in tier A by one frame, none of those to keep: first of frames that no incoming working set has, and of these the lowest
DFN (07 R117). -/
def State.makeRoom (s : State) (keep : List Nat) : State :=
  let es := s.fallers keep
  let inc := s.incomingFrames
  let first := es.filter fun e => !inc.contains e.dfn
  match (if first.isEmpty then es else first) with
  | [] => s
  | e :: rest => s.fall (rest.foldl (fun m e => if e.dfn < m.dfn then e else m) e)

/-- A frame brought to tier A, with room made by none of the frames to keep. -/
def State.bringUp (s : State) (keep : List Nat) (dfn : Nat) : State :=
  let s := if (s.freeIn .a).isSome then s else s.makeRoom keep
  match s.freeIn .a with
  | some n => (s.vacate .a n).modFit dfn fun e => e.up .a n
  | none => s

/-! ## RESIDE_COMPLETE (07 R111) -/

/-- The frame counts as resident in tier A: it stands there, or it is homed in tier C by a HOST mapping. -/
def FitEntry.isUp (e : FitEntry) : Bool := e.st != .absent && (e.tier == .a || e.tier == .c)

/-- The frames of a switch-in's working set wait while the footprints of the same context are being brought up (07 R117). -/
def State.footFirst (s : State) (q : ResReq) : Bool :=
  let tenants := fun (q : ResReq) => q.frames.filterMap fun d => (s.fitOf d).map (·.tenant)
  q.gid == 19 && s.resreqs.any fun r => r.gid == 18 && (tenants r).any fun t => (tenants q).contains t

/-- Frames of a request that are not yet up and can still come up. -/
def State.needed (s : State) (q : ResReq) : List FitEntry := (q.frames.filterMap s.fitOf).filter fun e => !e.isUp && e.st != .poisoned

/-- The frames of a request brought up as far as tier A holds them. -/
def State.lift (s : State) (q : ResReq) : State := (s.needed q).foldl (fun s e => s.bringUp q.frames e.dfn) s

/-- The footprint of a launch that waits for admission stays wanted until all of it is up (07 R119). -/
def State.stillWanted (s : State) (q : ResReq) : Bool :=
  q.gid == 20 && !(s.needed q).isEmpty && (s.findLaunch q.lid).any fun l => l.st == .waiting

/-- `RESIDE_COMPLETE` (07 R111): a request completes with one status; it waits for frames that the host has still to
return. Where tier A cannot hold all of its frames it completes NOSPACE and moves none; a footprint or a working set that no
gang asked for comes up as far as tier A holds it (R117, R119). -/
def execResideComplete (id : Nat) (s : State) : Res :=
  match s.resreqs.find? fun q => q.id == id with
  | none => .next s
  | some q =>
    let t := s.lift q
    let own := decide (18 ≤ q.gid)
    if q.bad then .next (s.reqDone q .translation)
    else if !own && (q.frames.filterMap s.fitOf).any (fun e => e.st == .poisoned) then .next (s.reqDone q .poisoned)
    else if !own && !(t.needed q).isEmpty then .next (s.reqDone q .nospace)
    else if s.footFirst q || (s.needed q).any fun e => e.evicted then .next s
    else .next (if t.stillWanted q then t else t.reqDone q .done)

/-! ## Moves (07 R109, R112) -/

/-- `FRAME_MIGRATION` (07 R109): a frame moves to a free place of tier A or B, or a frame of a context that is not running
goes to the swap area. A frame of a HOST mapping never moves (R119), a running context's frame never moves down, and an area of a
launch that runs stays resident (01 R17, R21). -/
def execFrameMigration (dfn : Nat) (tier : Tier) (loc : BitVec 48) (s : State) : Res :=
  match s.fitOf dfn with
  | none => .next s
  | some e =>
    let free : Bool := !(s.usedIn tier).contains loc.toNat
    let n := s.tileCount e
    let t := s.vacate tier loc.toNat
    if e.tier == .c || e.st == .poisoned || e.evicted || !free then .next s
    else
      match tier with
      | .a => if loc.toNat < Config.tierAFrames then
          .next (t.modFit dfn fun e => if e.tier == .a then e.move .a loc.toNat n else e.up .a loc.toNat) else .next s
      | .b =>
        if s.tierSize .b ≤ loc.toNat || (e.st == .resident && e.tier == .a && (s.tenantRuns e.tenant || s.coPinned e.tenant dfn)) then
          .next s
        else .next (t.modFit dfn fun e => e.move .b loc.toNat n)
      | .backing =>
        if e.st != .resident || s.tenantRuns e.tenant || s.pinned e.tenant dfn then .next s
        else .next (t.modFit dfn fun e => e.away loc.toNat false n)
      | .c => .next s

/-- `FRAME_EVICTION` (07 R112): a frame of a context that is not running goes to a host eviction buffer, enciphered where
it is protected; the ciphertext is the host's to keep. An area of a launch that runs stays (01 R17, R21). -/
def execFrameEviction (dfn : Nat) (loc : BitVec 48) (s : State) : Res :=
  match s.fitOf dfn with
  | none => .next s
  | some e =>
    if e.tier == .c || e.st == .poisoned || e.evicted || s.tenantRuns e.tenant || s.pinned e.tenant dfn then .next s
    else .next (s.modFit dfn fun e => e.away loc.toNat true (s.tileCount e))

/-- A frame poisoned: its tile's count rises, and POISON of its tenant (10 R148, 24 R338). -/
def State.poisonFrame (s : State) (e : FitEntry) (f : FitEntry → FitEntry) : State :=
  let s := s.modFit e.dfn fun e => f { e with st := .poisoned }
  (s.raiseTile e.dfn).modErr e.tenant fun r => { r with poison := satInc r.poison }

/-- The tenant's interrupt: vector 0 of the functions that firmware gave the tenant (log 30). -/
def State.tenantInterrupt (s : State) (t : Nat) : State :=
  { s with funcs := s.funcs.map fun f => if f.enabled && f.bound && f.tenant == t then { f with irqs := f.irqs ++ [⟨0, f.gen⟩] } else f }

/-- A frame whose returned bytes fail their tag: poisoned, at a place that none of them reaches (07 R103, R112); its lower copy is none. -/
def FitEntry.failed (e : FitEntry) (t : Tier) (loc : Nat) (integ : Bool) : FitEntry := { e.up t loc with st := .poisoned, lower := false, integ := integ }

/-- `FRAME_RETURN` (07 R112): the host returns a frame, which takes a place in tier A or B (log 52); where the tag of a protected frame
fails, the frame is poisoned, requests for it complete INTEGRITY, and the gangs that made them halt. Where no gang asked for it, the first
access meets 0x14. -/
def execFrameReturn (dfn : Nat) (tagOk : Bool) (s : State) : Res :=
  match s.fitOf dfn with
  | none => .next s
  | some e =>
    if !e.evicted || e.st != .absent then .next s
    else
      let s := if (s.freeIn .a).isSome then s else s.makeRoom [dfn]
      match s.home with
      | none => .next s
      | some (tier, n) =>
        let s := s.vacate tier n
        if tagOk || !e.prot then
          .next (s.modFit dfn fun e => if tier = .a then e.up .a n else { e.move tier n (s.tileCount e) with evicted := false })
        else
          let qs := s.resreqs.filter fun q => q.frames.contains dfn
          let gangs := qs.filter fun q => decide (q.gid < 17)
          let s := s.poisonFrame e fun e => e.failed tier n gangs.isEmpty
          let s := s.modErr e.tenant fun r => { r with integ := satInc r.integ }
          let s := s.tenantInterrupt e.tenant
          let s := (qs.filter fun q => decide (q.gid < 18)).foldl (fun s q => s.reqDone q .integrity) s
          .next ((nub (gangs.map (·.lid))).foldl (fun s l => s.haltLaunch l true) s)

end Sys2Proof.Machine
end

