-- ==== Sys2Proof/Machine/Matrix.lean ====
section
/-! DEFINITION. The matrix sequencer and engine (11 R157 to R173, 17 R284 to R299, 05 R89 to R93): the words of the stream,
K-steps of an `MMA`, rows of an `MST`, barriers of the sequencer, and the scalar words that start and end a stream. -/
namespace Sys2Proof.Machine

/-! ## Running a word (17 R284) -/

/-- The workgroup in the focus with its sequencer changed. -/
def State.modSeq (s : State) (f : Seq → Seq) : State := { s with wg := { s.wg with seq := f s.wg.seq } }

/-- M register n. -/
def Seq.reg (q : Seq) (n : Nat) : DWord := vget q.m n 0

/-- M register n written. -/
def Seq.setReg (q : Seq) (n : Nat) (v : DWord) : Seq := { q with m := vset q.m n v }

/-- Record n. -/
def Seq.record (q : Seq) (n : Nat) : Nat := (vget q.recs n 0).toNat

/-- The stream of the workgroup in the focus executes words: it runs, awaits no disposition, and is not stopped for
pre-emption (11 R173). -/
def State.matrixLive (s : State) : Bool :=
  s.wg.id != 0 && s.wg.seq.run && !s.wg.seq.flt && !s.wg.stop && s.wg.place == .resident && !s.core.halted

/-- A matrix fault (17 R284): the sequencer stops on the word, and the owner has it; once the owner has ended, it is late,
the stream ends, and a touch trap stays disarmed (log 74). `sp` says that the address is in a scratchpad, `tslot` whose
touch trap fired. -/
def State.matrixFault (s : State) (code : BitVec 8) (va : Nat) (sp : Bool := false) (tslot : Option TSlot := none) : State :=
  let q := s.wg.seq
  let s := s.metFrame s.tenant va code
  let s := match tslot with
    | some t => s.fireTrap t.wgId t.slot
    | none => s
  let f : PendFault := ⟨code, 2, 0, BitVec.ofNat 56 va, 0, none, tslot, sp, 2, q.blk⟩
  if code = 0x14 then s.integrityHalt s.ln.lid
  else if s.ended s.wg.id q.owner then
    let s := match tslot with
      | some t => s.endTrap t
      | none => s
    (s.late s.ln.lid (f.toLate s.wg.coreId q.owner)).seqEnd s.wg.id
  else
    (s.modSeq fun q => { q with flt := true }).modGroup s.wg.id q.owner fun g => { g with faults := g.faults ++ [f] }

/-- Why a matrix word does not complete: a fault with its address, a touch trap that fires, one that is being handled, or
nothing yet. -/
inductive MStop
  | fault (code : BitVec 8) (va : Nat) (sp : Bool)
  | touch (w slot va : Nat)
  | stall (w slot : Nat)
  | wait
  deriving DecidableEq, Repr

/-- A read of the sequencer waits for the disposition of a touch trap, and then reads zeros (01 R36). -/
def State.seqStall (s : State) (w k : Nat) : State :=
  s.modSeq fun q => if q.zeros.contains (w, k) then q else { q with zeros := (w, k) :: q.zeros }

/-- A matrix word that does not transfer control: its effect, then the next word; past the section 0x10 at the word,
which then has no effect (17 R298, log 16) and raises no fault of its own (DESIGN CHOICE, log 106). -/
def matrixWord (s : State) (eff : State → Except MStop State) : Res :=
  if !s.matrixLive then .next s
  else if s.ln.desc.mlen ≤ s.wg.seq.mpc + 1 then .next (s.matrixFault 0x10 0)
  else
    match eff s with
    | .error (.fault c va sp) => .next (s.matrixFault c va sp)
    | .error (.touch w k va) => .next (s.matrixFault 0x20 va true (some (s.trapAt w k)))
    | .error (.stall w k) => .next (s.seqStall w k)
    | .error .wait => .next s
    | .ok t => .next (t.modSeq fun q => { q with mpc := q.mpc + 1, zeros := [] })

/-! ## Register words (17 R288 to R290) -/

/-- `MNOP`. -/
def execMnop (s : State) : Res := matrixWord s fun s => .ok s

/-- `MLI.Qn`: one 16-bit quarter of a register. -/
def execMli (q : BitVec 2) (a : BitVec 4) (i : BitVec 16) (s : State) : Res :=
  matrixWord s fun s => .ok (s.modSeq fun x =>
    let v := x.reg a.toNat
    let m : DWord := (0xFFFF : DWord) <<< (16 * q.toNat)
    x.setReg a.toNat ((v &&& ~~~m) ||| (i.setWidth 64 <<< (16 * q.toNat))))

/-- `MMOV`. -/
def execMmov (a b : BitVec 4) (s : State) : Res := matrixWord s fun s => .ok (s.modSeq fun x => x.setReg a.toNat (x.reg b.toNat))

/-- `MADD`. -/
def execMadd (a b : BitVec 4) (i : BitVec 16) (s : State) : Res :=
  matrixWord s fun s => .ok (s.modSeq fun x => x.setReg a.toNat (x.reg b.toNat + i.signExtend 64))

/-- The slot with a touch trap, or one being handled, that a read of the sequencer meets at an offset, which scratchpad address a names (01
R36, 07 R116). -/
def State.matrixTrap (s : State) (w off a : Nat) : Option MStop :=
  match slotOf s.ln.desc off, s.findWg w with
  | some k, some x =>
    let y := x.slot k
    if y.stalled then some (.stall w k)
    else if y.fires && !s.wg.seq.zeros.contains (w, k) then some (.touch w k a)
    else none
  | _, _ => none

/-- A byte of a scratchpad as the sequencer reads it: zero in a slot that a disposition made so (01 R37). -/
def State.matrixByte (s : State) (w off : Nat) : Byte :=
  match slotOf s.ln.desc off with
  | some k => if s.wg.seq.zeros.contains (w, k) then 0 else leByte s w off
  | none => leByte s w off
where
  /-- The byte as a load returns it. -/
  leByte (s : State) (w off : Nat) : Byte := ((s.spLoad w off 1)[0]?).getD 0

/-- `MLD`: 8 bytes of local scratchpad. -/
def execMld (a : BitVec 4) (i : BitVec 16) (s : State) : Res :=
  matrixWord s fun s =>
    let off := 8 * i.toNat
    if !s.ln.desc.owns off 8 then .error (.fault 0x13 off true)
    else
      match s.matrixTrap s.wg.id off off with
      | some e => .error e
      | none =>
        let bs := (List.range 8).map fun k => s.matrixByte s.wg.id (off + k)
        .ok (s.modSeq fun x => x.setReg a.toNat (BitVec.ofNat 64 (leNat bs)))

/-- FMT of a record. -/
def recFmt (r : Nat) : Nat := bitsN r 151 148
/-- SPN of a record. -/
def recSpn (r : Nat) : Nat := bitsN r 147 144
/-- LENKIB of a record. -/
def recLen (r : Nat) : Nat := bitsN r 136 128
/-- OFFKIB of a record. -/
def recOff (r : Nat) : Nat := bitsN r 127 120

/-- A record passes the checks of 11 R163 beside those against the other records. -/
def recordOk (r obkib : Nat) : Bool :=
  let f := recFmt r
  let g := bitsN r 159 152
  let n := recSpn r
  bitsN r 141 137 == 0 && bitsN r 119 0 == 0 && decide (f ≤ 5) && decide (1 ≤ recLen r) && decide (recLen r ≤ 256) &&
  decide (recOff r + recLen r ≤ obkib) && bitsN r 167 160 == (if f = 2 then 128 else 0) &&
  (if f = 4 then [32, 64, 128].contains g else g == 0) && [0, 2, 3, 4, 6].contains n &&
  (n == 0 || (r.testBit 143 && f != 4 && f != 5))

/-- The buffer ranges of two records overlap. -/
def recordsMeet (a b : Nat) : Bool :=
  decide (recOff a < recOff b + recLen b) && decide (recOff b < recOff a + recLen a)

/-- `MRES` (17 R289). -/
def execMres (a x : BitVec 4) (s : State) : Res :=
  matrixWord s fun s =>
    let q := s.wg.seq
    let n := a.toNat
    let v : BitVec 256 := q.reg (n + 3) ++ q.reg (n + 2) ++ q.reg (n + 1) ++ q.reg n
    let r := v.toNat
    let clash := (List.range 16).any fun k => decide (k ≠ x.toNat) && (q.record k).testBit 142 && recordsMeet r (q.record k)
    if s.ln.desc.recn ≤ x.toNat || !recordOk r s.ln.desc.obkib || clash then .error (.fault 0x38 0 false)
    else .ok (s.modSeq fun q => { q with recs := vset q.recs x.toNat v })

/-- `MREL` (17 R289). -/
def execMrel (x : BitVec 4) (s : State) : Res :=
  matrixWord s fun s =>
    if s.ln.desc.recn ≤ x.toNat then .error (.fault 0x38 0 false)
    else .ok (s.modSeq fun q => { q with recs := vset q.recs x.toNat 0 })

/-- `MMOD` (17 R290). -/
def execMmod (a : BitVec 4) (s : State) : Res :=
  matrixWord s fun s =>
    let v := s.wg.seq.reg a.toNat
    if modulusOk v.toNat then .ok (s.modSeq fun q => { q with modq := v }) else .error (.fault 0x09 0 false)

/-! ## Operands and tiles (11 R162, R165) -/

/-- An operand pair. -/
structure MOpnd where
  sp     : Bool
  addr   : Nat
  recNo  : Nat
  stride : Nat
  deriving DecidableEq, Repr

/-- The pair at an even register; none where a reserved bit is set. -/
def Seq.pair (q : Seq) (n : Nat) : Option MOpnd :=
  let lo := (q.reg n).toNat
  let hi := (q.reg (n + 1)).toNat
  if bitsN lo 62 56 ≠ 0 || bitsN hi 63 36 ≠ 0 then none
  else some ⟨lo.testBit 63, bitsN lo 55 0, bitsN hi 35 32, bitsN hi 31 0⟩

/-- A tile with its mask. -/
structure Tile where
  rown  : Nat
  coln  : Nat
  klen  : Nat
  tr    : Nat
  tc    : Nat
  cbase : Nat
  deriving DecidableEq, Repr

/-- The tile of a word; none where the checks of the mask and the allotment fail. -/
def State.tile (s : State) (k : BitVec 4) (tr : BitVec 3) (tc : BitVec 4) (cb : BitVec 7) : Option Tile :=
  let m := (s.wg.seq.reg k.toNat).toNat
  let t : Tile := ⟨bitsN m 15 8, bitsN m 24 16, bitsN m 51 32, 16 * (tr.toNat + 1), 16 * (tc.toNat + 1), 256 * cb.toNat⟩
  if bitsN m 63 52 ≠ 0 || bitsN m 31 25 ≠ 0 || bitsN m 7 0 ≠ 0 then none
  else if 256 * s.ln.desc.accu < t.cbase + t.tr * t.tc || t.tr < t.rown || t.tc < t.coln then none
  else some t

/-- The units of 256 accumulators of a tile. -/
def Tile.units (t : Tile) : List Nat :=
  (List.range ((t.tr * t.tc + 255) / 256)).map fun i => t.cbase / 256 + i

/-- Accumulators read and written; one that is 0 has no entry, and entries rise. -/
def accGet : List (Nat × DWord) → Nat → DWord
  | [], _ => 0
  | c :: m, a => if a < c.1 then 0 else if c.1 = a then c.2 else accGet m a

/-- An accumulator written. -/
def accSet : List (Nat × DWord) → Nat → DWord → List (Nat × DWord)
  | [], a, v => if v = 0 then [] else [(a, v)]
  | c :: m, a, v =>
    if a < c.1 then (if v = 0 then c :: m else (a, v) :: c :: m)
    else if c.1 = a then (if v = 0 then m else (a, v) :: m)
    else c :: accSet m a v

/-- Tags of units set (17 R291). -/
def Seq.tag (q : Seq) (us : List Nat) (t : AccTag) : Seq := { q with tags := us.foldl (fun ts u => ts.set u t) q.tags }

/-- `MZERO` (17 R294). -/
def execMzero (k : BitVec 4) (tr : BitVec 3) (tc : BitVec 4) (cb : BitVec 7) (s : State) : Res :=
  matrixWord s fun s =>
    match s.tile k tr tc cb with
    | none => .error (.fault 0x38 0 false)
    | some t =>
      .ok (s.modSeq fun q =>
        let q := { q with acc := (List.range t.rown).foldl (fun m i =>
          (List.range t.coln).foldl (fun m j => accSet m (t.cbase + i * t.tc + j) 0) m) q.acc }
        if t.rown = t.tr && t.coln = t.tc then q.tag t.units .zero else q)

/-! ## Reading operands (11 R164) -/

/-- Bytes that a step reads: n bytes at an address, in elements of es bytes that must be aligned. -/
structure Fetch where
  sp   : Bool
  addr : Nat
  n    : Nat
  es   : Nat
  deriving DecidableEq, Repr

/-- Bytes through an operand pair at a distance from its address: the sum wraps at 56 bits, and for scratchpad at 32, where the bits of
the address above go unread (DESIGN CHOICE, log 97). -/
def MOpnd.fetch (o : MOpnd) (d n es : Nat) : Fetch := ⟨o.sp, (o.addr + d) % 2 ^ (if o.sp then 32 else 56), n, es⟩

/-- A scratchpad element of the sequencer; only the causes of 17 R305 arise (log 26). -/
def State.matrixSp (s : State) (a n : Nat) : Except (BitVec 8) (Nat × Nat) :=
  match s.spTarget (BitVec.ofNat 32 a) n with
  | .ok p => .ok p
  | .error c => .error (if c = 0x12 then 0x12 else 0x13)

/-- What a scratchpad element meets. -/
def State.spMeets (s : State) (a es : Nat) : Option MStop :=
  match s.matrixSp (a % 2 ^ 32) es with
  | .error c => some (.fault c (a % 2 ^ 32) true)
  | .ok p => s.matrixTrap p.1 p.2 (a % 2 ^ 32)

/-- The frames that n bytes meet, as (address, bytes). -/
def framePieces (va n : Nat) : List (Nat × Nat) :=
  (List.range ((va % 0x10000 + n + 0xFFFF) / 0x10000)).map fun i =>
    let a := if i = 0 then va else (va / 0x10000 + i) * 0x10000
    (a % 2 ^ 56, min (va + n) ((va / 0x10000 + i + 1) * 0x10000) - a)

/-- What an access to a frame by the sequencer meets (11 R164, 17 R295). -/
def State.vaMeets (s : State) (va : Nat) (write : Bool) : Option MStop :=
  match s.reachVa s.tenant s.ln.ticket va write with
  | .ok _ => none
  | .absent _ => some .wait
  | .fault c => some (.fault c va false)

/-- What a fetch meets first. -/
def State.fetchMeets (s : State) (f : Fetch) : Option MStop :=
  if f.n = 0 then none
  else if f.addr % f.es ≠ 0 then some (.fault 0x12 f.addr f.sp)
  else if f.sp then (List.range (f.n / f.es)).findSome? fun i => s.spMeets (f.addr + i * f.es) f.es
  else (framePieces f.addr f.n).findSome? fun p => s.vaMeets p.1 false

/-- The bytes of a fetch: scratchpad as it is, global memory as of the instruction's start (08 R136, R141). -/
def State.fetchBytes (s : State) (start : Mem) (f : Fetch) : List Byte :=
  if f.sp then
    (List.range (f.n / f.es)).flatMap fun i =>
      match s.matrixSp ((f.addr + i * f.es) % 2 ^ 32) f.es with
      | .ok p => (List.range f.es).map fun k => s.matrixByte p.1 (p.2 + k)
      | .error _ => List.replicate f.es 0
  else
    (framePieces f.addr f.n).flatMap fun p =>
      match s.walk s.tenant p.1 with
      | some (dfn, _, _) => start.bytes (dfn * 0x10000 + p.1 % 0x10000) p.2
      | none => List.replicate p.2 0

/-! ## Elements and sums (05 R89 to R93) -/

/-- The width of an element of a mode in bytes (11 R162). -/
def MMode.esize : MMode → Nat
  | .f16 | .bf16 => 2
  | .e4m3 | .i8 => 1
  | .mod64 => 8

/-- K-step depth of a mode (11 R166). -/
def MMode.depth : MMode → Nat
  | .e4m3 => 128
  | _ => 16

/-- FMT of the A records that a mode takes. -/
def MMode.fmt : MMode → Nat
  | .f16 => 0
  | .bf16 => 1
  | .e4m3 => 2
  | .i8 => 3
  | .mod64 => 5

/-- FMT of the B records that a mode takes. -/
def MMode.takesB (m : MMode) (f : Nat) : Bool := f == MMode.fmt m || (m == .bf16 && f == 4)

/-- The tag that a mode sets (17 R291). -/
def MMode.tag : MMode → AccTag
  | .i8 => .int
  | .mod64 => .mod
  | _ => .float

/-- An element: a floating-point value, or a whole number. -/
inductive Elem
  | fp (v : FVal)
  | int (v : Int)
  deriving DecidableEq, Repr

/-- The element that a number stands for in a mode. -/
def MMode.elem (m : MMode) (x : Nat) : Elem :=
  match m with
  | .f16 => .fp (Fmt.f16.unpack x)
  | .bf16 => .fp (Fmt.bf16.unpack x)
  | .e4m3 => .fp (Fmt.e4m3.unpack x)
  | .i8 => .int (BitVec.ofNat 8 x).toInt
  | .mod64 => .int x

/-- The zero of a mode. -/
def MMode.zero (m : MMode) : Elem := MMode.elem m 0

/-- The elements that bytes hold. -/
def MMode.elems (m : MMode) (bs : List Byte) : List Elem :=
  (List.range (bs.length / MMode.esize m)).map fun i =>
    MMode.elem m (leNat ((bs.drop (i * MMode.esize m)).take (MMode.esize m)))

/-- The canonical NaN of the accumulators (05 R89). -/
def nanM : FVal := .nan false (2 ^ 51) true

/-- A product, exact; an invalid one and any NaN give the canonical NaN. -/
def prodM (a b : FVal) : FVal :=
  if a.isNan || b.isNan then nanM
  else
    match (rawMul a b).1 with
    | some v => v
    | none => nanM

/-- The exact sum of finite values on the grid of the least exponent. -/
def sumFin (vs : List FVal) : FVal :=
  let q := vs.foldl (fun q v => match v with
    | .fin _ _ e => min q e
    | _ => q) (0 : Int)
  let n := vs.foldl (fun n v => match v with
    | .fin s m e => n + onGrid s m e q
    | _ => n) (0 : Int)
  if n = 0 then .fin (vs.all fun v => v.isZero && v.neg) 0 0 else .fin (decide (n < 0)) n.natAbs q

/-- An exact sum under IEEE 754: a zero sum is negative only where every term is a negative zero. -/
def sumM (vs : List FVal) : FVal :=
  let inf := fun s => vs.any fun v => match v with
    | .inf t => t == s
    | _ => false
  if vs.any FVal.isNan || (inf true && inf false) then nanM
  else if inf true then .inf true
  else if inf false then .inf false
  else sumFin vs

/-- The binary64 encoding of a value rounded to nearest even. -/
def enc64 (v : FVal) : DWord :=
  match v with
  | .nan _ _ _ => 0x7FF8000000000000
  | .inf s => if s then 0xFFF0000000000000 else 0x7FF0000000000000
  | .fin s m e => BitVec.ofNat 64 (Fmt.f64.round 0 false s m e).1

/-- The binary64 value that 64 bits hold. -/
def dec64 (w : DWord) : FVal := Fmt.f64.unpack w.toNat

/-- Floating-point values of a list of elements. -/
def Elem.val : Elem → FVal
  | .fp v => v
  | .int _ => .fin false 0 0

/-- Whole numbers of a list of elements. -/
def Elem.num : Elem → Int
  | .int v => v
  | .fp _ => 0

/-- One accumulator after one K-step (05 R90, R91). `sa` and `sb` are the FP32 scales of the scaled FP8 mode. -/
def MMode.update (m : MMode) (q : Nat) (c : DWord) (xs ys : List Elem) (sa sb : FVal) : DWord :=
  let ps := fun (_ : Unit) => (xs.zip ys).map fun p => prodM p.1.val p.2.val
  let dot := fun (_ : Unit) => ((xs.zip ys).map fun p => p.1.num * p.2.num).sum
  match m with
  | .f16 | .bf16 => enc64 (sumM (dec64 c :: ps ()))
  | .e4m3 =>
    let s := ne64 (prodM (ne64 (prodM (sumM (ps ())) sa)) sb)
    enc64 (sumM [dec64 c, s])
  | .i8 => BitVec.ofInt 64 (c.toInt + dot ())
  | .mod64 => BitVec.ofNat 64 ((c.toNat + dot ()) % q).toNat

/-! ## One K-step (11 R166 to R169) -/

/-- An accepted `MMA`: mode, operands, records, tile. -/
structure MmaOp where
  mode : MMode
  a    : MOpnd
  b    : MOpnd
  ra   : Nat
  rb   : Nat
  t    : Tile
  deriving DecidableEq, Repr

/-- The `MMA` that a word names, with the checks of 17 R292 in their order. -/
def State.mmaOf (s : State) (m : MMode) (a b k : BitVec 4) (tr : BitVec 3) (tc : BitVec 4) (cb : BitVec 7) :
    Except (BitVec 8) MmaOp :=
  let q := s.wg.seq
  match q.pair a.toNat, q.pair b.toNat, s.tile k tr tc cb with
  | some x, some y, some t =>
    let ra := q.record x.recNo
    let rb := q.record y.recNo
    let okA := decide (x.recNo < s.ln.desc.recn) && ra.testBit 142 && !ra.testBit 143 && recFmt ra == MMode.fmt m
    let okB := decide (y.recNo < s.ln.desc.recn) && rb.testBit 142 && rb.testBit 143 && MMode.takesB m (recFmt rb)
    if !okA || !okB then .error 0x38
    else if m = .mod64 && q.modq = 0 then .error 0x09
    else .ok ⟨m, x, y, ra, rb, t⟩
  | _, _, _ => .error 0x38

/-- Depths of a step in mask: first, and the one after the last. -/
def MmaOp.depths (o : MmaOp) (ks : Nat) : Nat × Nat :=
  (MMode.depth o.mode * ks, min o.t.klen (MMode.depth o.mode * (ks + 1)))

/-- Rows of a row block in mask. -/
def MmaOp.rows (o : MmaOp) (rb : Nat) : List Nat :=
  (List.range 16).filterMap fun i => if 16 * rb + i < o.t.rown then some (16 * rb + i) else none

/-- The A bytes of a row for a step. -/
def MmaOp.fetchA (o : MmaOp) (ks i : Nat) : Fetch :=
  let d := o.depths ks
  o.a.fetch (i * o.a.stride + d.1 * MMode.esize o.mode) ((d.2 - d.1) * MMode.esize o.mode) (MMode.esize o.mode)

/-- The bytes of row k of a dense B operand. -/
def MmaOp.fetchB (o : MmaOp) (k : Nat) : Fetch :=
  if recFmt o.rb = 4 then o.b.fetch (k * o.b.stride) ((o.t.coln + 1) / 2) 1
  else o.b.fetch (k * o.b.stride) (o.t.coln * MMode.esize o.mode) (MMode.esize o.mode)

/-- Bytes of one run of a sparse B operand (11 R162). -/
def MmaOp.runBytes (o : MmaOp) : Nat := recSpn o.rb * MMode.esize o.mode + (recSpn o.rb + 1) / 2

/-- The runs that a step overlaps (11 R168). -/
def MmaOp.runs (o : MmaOp) (ks : Nat) : List Nat :=
  let d := o.depths ks
  (List.range ((d.2 + 11) / 12 - d.1 / 12)).map fun i => d.1 / 12 + i

/-- The metadata bytes of run r of column j. -/
def MmaOp.fetchMeta (o : MmaOp) (j r : Nat) : Fetch :=
  o.b.fetch (j * o.b.stride + r * o.runBytes + recSpn o.rb * MMode.esize o.mode) ((recSpn o.rb + 1) / 2) 1

/-- The bytes of kept value v of run r of column j. -/
def MmaOp.fetchKept (o : MmaOp) (j r v : Nat) : Fetch :=
  o.b.fetch (j * o.b.stride + r * o.runBytes + v * MMode.esize o.mode) (MMode.esize o.mode) 1

/-- The indices that metadata bytes hold (05 R93). -/
def runIndices (n : Nat) (bs : List Byte) : List Nat :=
  (List.range n).map fun v => bitsN (byteAt bs (v / 2)).toNat (4 * (v % 2) + 3) (4 * (v % 2))

/-- Indices are good: strictly rising, none above 11. -/
def indicesOk : List Nat → Bool
  | [] => true
  | [i] => decide (i ≤ 11)
  | i :: j :: is => decide (i < j) && indicesOk (j :: is)

/-- Element at (row, column) of the scale or parameter array of a record (11 R163): an INT4 parameter is one access of 4 bytes too, aligned
to 4 (DESIGN CHOICE, log 97). -/
def scaleFetch (r row col : Nat) : Fetch := ⟨false, (bitsN r 255 200 + row * bitsN r 199 168 + 4 * col) % 2 ^ 56, 4, 4⟩

/-- Scales and parameters that a step reads. -/
def MmaOp.fetchScales (o : MmaOp) (rb ks : Nat) : List Fetch :=
  let d := o.depths ks
  if o.mode = .e4m3 then
    (o.rows rb).map (fun i => scaleFetch o.ra i ks) ++
      (List.range ((o.t.coln + 127) / 128)).map fun nb => scaleFetch o.rb ks nb
  else if recFmt o.rb = 4 then
    let g := bitsN o.rb 159 152
    (List.range ((d.2 - 1) / g + 1 - d.1 / g)).flatMap fun i =>
      (List.range o.t.coln).map fun j => scaleFetch o.rb (d.1 / g + i) j
  else []

/-- What a step meets before it changes any accumulator: its A rows, its B operand, its scales (log 27); bad metadata at
the run that holds it. -/
def State.stepMeets (s : State) (start : Mem) (o : MmaOp) (rb ks : Nat) : Option MStop :=
  let d := o.depths ks
  let depths := (List.range (d.2 - d.1)).map fun i => d.1 + i
  let run := fun j r =>
    match s.fetchMeets (o.fetchMeta j r) with
    | some e => some e
    | none =>
      let is := runIndices (recSpn o.rb) (s.fetchBytes start (o.fetchMeta j r))
      if !indicesOk is then some (.fault 0x34 (o.fetchMeta j r).addr (o.fetchMeta j r).sp)
      else (List.range is.length).findSome? fun v =>
        if 12 * r + (is[v]?).getD 0 < o.t.klen then s.fetchMeets (o.fetchKept j r v) else none
  let b := fun (_ : Unit) =>
    if recSpn o.rb = 0 then depths.findSome? fun k => s.fetchMeets (o.fetchB k)
    else (List.range o.t.coln).findSome? fun j => (o.runs ks).findSome? fun r => run j r
  match (o.rows rb).findSome? fun i => s.fetchMeets (o.fetchA ks i) with
  | some e => some e
  | none =>
    match b () with
    | some e => some e
    | none => (o.fetchScales rb ks).findSome? s.fetchMeets

/-- An INT4 weight expanded to BF16 (05 R92), read from its parameter word. -/
def int4Value (w prm : Nat) : FVal :=
  let z := bitsN prm 19 16
  let d : Int := (w : Int) - z
  match prodM (.fin (decide (d < 0)) d.natAbs 0) (Fmt.bf16.unpack (prm % 2 ^ 16)) with
  | .fin s m e => Fmt.bf16.unpack (Fmt.bf16.round 0 false s m e).1
  | x => x

/-- Column j of B over the depths of a step. -/
def State.columnB (s : State) (start : Mem) (o : MmaOp) (ks j : Nat) : List Elem :=
  let d := o.depths ks
  let es := MMode.esize o.mode
  let depths := (List.range (d.2 - d.1)).map fun i => d.1 + i
  if recSpn o.rb ≠ 0 then
    let kept := (o.runs ks).flatMap fun r =>
      let is := runIndices (recSpn o.rb) (s.fetchBytes start (o.fetchMeta j r))
      (List.range is.length).filterMap fun v =>
        let k := 12 * r + (is[v]?).getD 0
        if d.1 ≤ k && k < d.2 then some (k, MMode.elem o.mode (leNat (s.fetchBytes start (o.fetchKept j r v)))) else none
    depths.map fun k => ((kept.find? fun p => p.1 == k).map (·.2)).getD (MMode.zero o.mode)
  else if recFmt o.rb = 4 then
    let g := bitsN o.rb 159 152
    depths.map fun k =>
      let b := (byteAt (s.fetchBytes start (o.fetchB k)) (j / 2)).toNat
      .fp (int4Value (bitsN b (4 * (j % 2) + 3) (4 * (j % 2))) (leNat (s.fetchBytes start (scaleFetch o.rb (k / g) j))))
  else depths.map fun k => MMode.elem o.mode (leNat (((s.fetchBytes start (o.fetchB k)).drop (j * es)).take es))

/-- The FP32 scale at (row, column) of a record's array; read in the scaled FP8 mode only. -/
def State.scale (s : State) (start : Mem) (o : MmaOp) (r row col : Nat) : FVal :=
  if o.mode = .e4m3 then Fmt.f32.unpack (leNat (s.fetchBytes start (scaleFetch r row col))) else .fin false 0 0

/-- The accumulators after K-step (rb, ks). -/
def State.applyStep (s : State) (start : Mem) (o : MmaOp) (rb ks : Nat) : List (Nat × DWord) :=
  let q := s.wg.seq
  let cols := (List.range o.t.coln).map fun j => (j, s.columnB start o ks j, s.scale start o o.rb ks (j / 128))
  (o.rows rb).foldl (fun m i =>
    let xs := MMode.elems o.mode (s.fetchBytes start (o.fetchA ks i))
    let sa := s.scale start o o.ra i ks
    cols.foldl (fun m c =>
      let at_ := o.t.cbase + i * o.t.tc + c.1
      accSet m at_ (MMode.update o.mode q.modq.toNat (accGet m at_) xs c.2.1 sa c.2.2)) m) q.acc

/-! ## Acceptance and progress (17 R299, 11 R171 to R173) -/

/-- TAIL of MPROG. -/
def tailBit : Word := 0x40000000

/-- MPROG that names a row and a K-step. -/
def progAt (row ks : Nat) : Word := BitVec.ofNat 32 (row % 128 * 2 ^ 16 + ks % 2 ^ 16)

/-- ROW of MPROG. -/
def progRow (p : Word) : Nat := bitsN p.toNat 22 16
/-- KSTEP of MPROG. -/
def progStep (p : Word) : Nat := bitsN p.toNat 15 0

/-- Ranges of n bytes at an address for the comparison of 08 R135; bytes that translate nowhere are left out. -/
def State.rangesAt (s : State) (f : Fetch) : List (Nat × Nat × Nat) :=
  if f.n = 0 then []
  else if f.sp then
    match s.spTarget (BitVec.ofNat 32 f.addr) 1 with
    | .ok p => [(p.1, p.2, f.n)]
    | .error _ => []
  else (framePieces f.addr f.n).filterMap fun p =>
    (s.walk s.tenant p.1).map fun w => (memSpace, w.1 * 0x10000 + p.1 % 0x10000, p.2)

/-- What an `MMA` reads (08 R138). -/
def State.mmaReads (s : State) (o : MmaOp) : List (Nat × Nat × Nat) :=
  let es := MMode.esize o.mode
  let a := (List.range o.t.rown).map fun i => o.a.fetch (i * o.a.stride) (o.t.klen * es) 1
  let b := if recSpn o.rb = 0 then (List.range o.t.klen).map o.fetchB
    else (List.range o.t.coln).map fun j => o.b.fetch (j * o.b.stride) ((o.t.klen + 11) / 12 * o.runBytes) 1
  let blocks := (List.range ((o.t.rown + 15) / 16)).flatMap fun rb =>
    (List.range ((o.t.klen + MMode.depth o.mode - 1) / MMode.depth o.mode)).flatMap fun ks => o.fetchScales rb ks
  (a ++ b ++ blocks).flatMap s.rangesAt

/-- The current word accepted as a job of the gang. -/
def State.acceptWord (s : State) (reads writes : List (Nat × Nat × Nat)) : State :=
  let j : Job := { Job.fresh s.newJob s.ln.lid s.wg.id s.wg.seq.owner s.wg.seq.blk with
    matrix := true
    preds := s.predsOf s.ln.lid reads writes []
    reads := reads
    writes := writes }
  ({ s with jobs := s.jobs ++ [j] } : State).modSeq fun q => { q with job := some j.id }

/-- The job that the current word was accepted as. -/
def State.wordJob (s : State) : Option Job := s.wg.seq.job.bind s.findJob

/-- The accepted word begins, or goes on after a stop with its reads as of now, once its predecessors are done and its
footprint is resident (17 R299, 11 R164, R172, R173). -/
def State.beginWord (s : State) (j : Job) : State :=
  if !j.preds.isEmpty then s
  else
    match s.absentIn (j.reads ++ j.writes) with
    | [] => s.modJob j.id fun j => { j with st := .running, startMem := s.mem }
    | ds => s.askFor j ds

/-- The current word is over: its job completes, MPROG is 0, and the sequencer goes on. -/
def State.endWord (s : State) : State :=
  let s := match s.wordJob with
    | some j => s.dropJob j
    | none => s
  s.modSeq fun q => { q with mpc := q.mpc + 1, mprog := 0, job := none, zeros := [] }

/-- The current word stopped part-way (11 R171, R172); its reads are made anew when it goes on. Rows that a store has
written to global memory are seen by no other core before it completes (08 R136, R138). -/
def State.stopWord (s : State) (p : Word) : State :=
  let s := match s.wordJob with
    | some j => s.modJob j.id fun j => { j with st := .stopped }
    | none => s
  s.modSeq fun q => { q with mprog := p ||| stopBit }

/-- A stop of the current word at a place for what a step meets; for what is only absent, a request. -/
def State.meetStop (s : State) (j : Job) (p : Word) : MStop → State
  | .fault c va sp => (s.stopWord p).matrixFault c va sp
  | .touch w k va => (s.stopWord p).matrixFault 0x20 va true (some (s.trapAt w k))
  | .stall w k => s.seqStall w k
  | .wait =>
    match s.absentIn (j.reads ++ j.writes) with
    | [] => s
    | ds => s.askFor j ds

/-- K-steps of an `MMA` along K. -/
def MmaOp.steps (o : MmaOp) : Nat := (o.t.klen + MMode.depth o.mode - 1) / MMode.depth o.mode

/-- Frames that a fetch reads marked accessed. -/
def State.touchFetch (s : State) (f : Fetch) : State :=
  if f.sp then s
  else (framePieces f.addr f.n).foldl (fun s p =>
    match s.walk s.tenant p.1 with
    | some (dfn, _, _) => s.touch (dfn * 0x10000) false
    | none => s) s

/-- What a step reads of a sparse B operand: the metadata of each run that it overlaps, and the values kept of it below depth klen. -/
def State.sparseFetches (s : State) (start : Mem) (o : MmaOp) (ks : Nat) : List Fetch :=
  (List.range o.t.coln).flatMap fun j => (o.runs ks).flatMap fun r =>
    let is := runIndices (recSpn o.rb) (s.fetchBytes start (o.fetchMeta j r))
    o.fetchMeta j r :: ((List.range is.length).filter fun v => decide (12 * r + (is[v]?).getD 0 < o.t.klen)).map (o.fetchKept j r)

/-- Row block and K-step that a running `MMA` comes to. -/
def Seq.stepAt (q : Seq) : Nat × Nat := (progRow q.mprog / 16, progStep q.mprog)

/-- The word at MPC, decoded (17 R284). -/
def State.fetchMatrix (s : State) : Except (BitVec 8) Instr :=
  match s.ln.matrixAt s.wg.seq.mpc with
  | none => .error 0x10
  | some w => (decodeMatrix w).mapError DecodeError.code

/-- The sequencer of the workgroup in the focus has a K-step to take: an `MMA` that has begun, not waiting for what its step meets. -/
def State.kReady (s : State) : Bool :=
  s.matrixLive &&
  match s.fetchMatrix, s.wordJob with
  | .ok (.mma m a b k tr tc cb), some j =>
    j.st == .running &&
    match s.mmaOf m a b k tr tc cb with
    | .ok o =>
      match s.stepMeets j.startMem o s.wg.seq.stepAt.1 s.wg.seq.stepAt.2 with
      | some (.stall _ _) | some .wait => false
      | _ => true
    | .error _ => false
  | _, _ => false

/-- Workgroup a comes before b in the round that follows workgroup k: by number, round the end (log 85). -/
def roundBefore (k a b : Nat) : Bool :=
  if k < a then decide (b ≤ k) || decide (a ≤ b) else decide (b ≤ k) && decide (a ≤ b)

/-- It is this sequencer's turn among those of its core that have a K-step to take: whole K-steps go round (11 R167). -/
def State.kTurn (s : State) : Bool :=
  (s.wgsOn s.core.id).all fun w =>
    w.id == s.wg.id || roundBefore s.core.kLast s.wg.id w.id || !(s.focusOn w.id w.seq.owner).kReady

/-- The next K-step of a running `MMA`, at its turn: applied whole, or the sequencer stops before it (11 R167, R172). -/
def State.kStep (s : State) (o : MmaOp) (j : Job) : State :=
  let p := s.wg.seq.mprog
  let rb := s.wg.seq.stepAt.1
  let ks := s.wg.seq.stepAt.2
  match s.stepMeets j.startMem o rb ks with
  | some e => s.meetStop j (progAt (16 * rb) ks) e
  | none =>
    if !s.kTurn then s else
    let s : State := { s with core := { s.core with kLast := s.wg.id } }
    let acc := s.applyStep j.startMem o rb ks
    let d := o.depths ks
    let t := ((o.rows rb).map (o.fetchA ks) ++ o.fetchScales rb ks ++
      (if recSpn o.rb = 0 then (List.range (d.2 - d.1)).map fun i => o.fetchB (d.1 + i)
       else s.sparseFetches j.startMem o ks)).foldl State.touchFetch s
    let t := t.modSeq fun q => { q with acc := acc, zeros := [] }.tag o.t.units (MMode.tag o.mode)
    if ks + 1 < o.steps then t.modSeq fun q => { q with mprog := progAt (16 * rb) (ks + 1) ||| (p &&& stopBit) }
    else if 16 * (rb + 1) < o.t.rown then t.modSeq fun q => { q with mprog := progAt (16 * (rb + 1)) 0 ||| (p &&& stopBit) }
    else t.endWord

/-- A word accepted as a job: checked and accepted, then begun, then step by step. `check` answers its operation, `empty`
says that it completes at once, `ranges` its reads and writes, `go` one step. -/
def jobWord {α : Type} (s : State) (check : State → Except (BitVec 8) α) (empty : α → Bool)
    (ranges : State → α → List (Nat × Nat × Nat) × List (Nat × Nat × Nat)) (go : State → α → Job → State) : Res :=
  if !s.matrixLive then .next s
  else if s.ln.desc.mlen ≤ s.wg.seq.mpc + 1 then .next (s.matrixFault 0x10 0)
  else
    match check s with
    | .error c => .next (s.matrixFault c 0)
    | .ok o =>
      if empty o then .next s.endWord
      else
        match s.wordJob with
        | none => .next (s.acceptWord (ranges s o).1 (ranges s o).2)
        | some j => .next (if j.st == .running then go s o j else s.beginWord j)

/-- `MMA` (17 R292). -/
def execMma (m : MMode) (a b k : BitVec 4) (tr : BitVec 3) (tc : BitVec 4) (cb : BitVec 7) (s : State) : Res :=
  jobWord s (fun s => s.mmaOf m a b k tr tc cb) (fun o => o.t.rown == 0 || o.t.coln == 0 || o.t.klen == 0)
    (fun s o => (s.mmaReads o, [])) State.kStep

/-- `MMA_K_STEP` (11 R167): one K-step of the `MMA` at MPC, once it has begun. -/
def execMmaKStep (s : State) : Res :=
  match s.fetchMatrix, s.wordJob with
  | .ok (.mma m a b k tr tc cb), some j =>
    if s.matrixLive && j.st == .running then
      match s.mmaOf m a b k tr tc cb with
      | .ok o => .next (s.kStep o j)
      | .error c => .next (s.matrixFault c 0)
    else .next s
  | _, _ => .next s

/-! ## The matrix store (11 R170, 17 R295) -/

/-- Element size of a store format. -/
def SFmt.esize : SFmt → Nat
  | .x64 => 8
  | .f32 | .i32sat => 4
  | .f16 | .bf16 => 2
  | .e4m3 | .i8sat => 1

/-- A tag suits a store format. -/
def SFmt.suits : SFmt → AccTag → Bool
  | .x64, _ => true
  | .i32sat, t | .i8sat, t => t != .float
  | _, t => t == .zero || t == .float

/-- An `MST`: format, destination, tile, the binary64 scale, and the barrier that it credits. -/
structure MstOp where
  fmt : SFmt
  d   : MOpnd
  t   : Tile
  sc  : DWord
  bar : Option Nat
  deriving DecidableEq, Repr

/-- The `MST` that a word names, with the checks of 17 R295. -/
def State.mstOf (s : State) (f : SFmt) (cr : Bool) (a k x : BitVec 4) (tr : BitVec 3) (tc : BitVec 4) (cb : BitVec 7)
    (bar : BitVec 4) : Except (BitVec 8) MstOp :=
  let q := s.wg.seq
  match q.pair a.toNat, s.tile k tr tc cb with
  | some d, some t =>
    if t.units.all fun u => SFmt.suits f ((q.tags[u]?).getD .zero) then
      .ok ⟨f, d, t, q.reg x.toNat, if cr then some bar.toNat else none⟩
    else .error 0x38
  | _, _ => .error 0x38

/-- A clamp of an INT64, with ISAT where it clamps (05 R87). -/
def clampSat (lo hi : Int) (v : Int) : Int × Word := if v < lo then (lo, stISAT) else if hi < v then (hi, stISAT) else (v, 0)

/-- An accumulator as the bytes and sticky bits of a store format but E4M3. -/
def SFmt.convert (f : SFmt) (nanc : Bool) (c : DWord) : List Byte × Word :=
  let flt := fun (g : Fmt) (n : Nat) =>
    let r := g.convert .f64 ⟨0, false, nanc⟩ c.toNat
    (leBytes n r.1, r.2)
  let int := fun (n : Nat) (r : Int × Word) => (leBytes n (BitVec.ofInt 32 r.1).toNat, r.2)
  match f with
  | .x64 | .e4m3 => (leBytes 8 c.toNat, 0)
  | .f32 => flt .f32 4
  | .f16 => flt .f16 2
  | .bf16 => flt .bf16 2
  | .i32sat => int 4 (clampSat (-2 ^ 31) (2 ^ 31 - 1) c.toInt)
  | .i8sat => int 1 (clampSat (-128) 127 c.toInt)

/-- NANC of the owner's ASTAT. -/
def State.ownerNanc (s : State) : Bool := (s.findGroup s.wg.id s.wg.seq.owner).any fun g => g.astat.getLsbD 4

/-- The bytes of row i of a store, with its sticky bits. Where the scale is a negative NaN, an E4M3 byte keeps that sign (DESIGN CHOICE, log
91: R88 does not say, and the canonical NaN of R89 is positive). -/
def State.rowBytes (s : State) (o : MstOp) (i : Nat) : List Byte × Word :=
  let cs := (List.range o.t.coln).map fun j => accGet s.wg.seq.acc (o.t.cbase + i * o.t.tc + j)
  let rs :=
    if o.fmt = .e4m3 then
      (List.range ((o.t.coln + 15) / 16)).map fun b =>
        let r := narrowBlock (((cs.drop (16 * b)).take 16).map fun c =>
          Fmt.f64.unpack (Fmt.f64.mul FCtl.ne c.toNat o.sc.toNat).1) (.fin false 0 0)
        (r.1.map (BitVec.ofNat 8), r.2)
    else cs.map (SFmt.convert o.fmt s.ownerNanc)
  (rs.flatMap (·.1), rs.foldl (fun w r => w ||| r.2) 0)

/-- The bytes that row i of a store writes. -/
def MstOp.row (o : MstOp) (i : Nat) : Fetch :=
  o.d.fetch (i * o.d.stride) (o.t.coln * SFmt.esize o.fmt) (SFmt.esize o.fmt)

/-- What row i of a store meets (17 R295). -/
def State.rowMeets (s : State) (f : Fetch) : Option MStop :=
  if f.n = 0 then none
  else if f.addr % f.es ≠ 0 then some (.fault 0x12 f.addr f.sp)
  else if f.sp then
    (List.range (f.n / f.es)).findSome? fun i =>
      match s.matrixSp ((f.addr + i * f.es) % 2 ^ 32) f.es with
      | .error c => some (.fault c ((f.addr + i * f.es) % 2 ^ 32) true)
      | .ok _ => none
  else (framePieces f.addr f.n).findSome? fun p => s.vaMeets p.1 true

/-- Row bytes written: to scratchpad at once, to global memory when the store completes (08 R136, R138). -/
def State.writeRow (s : State) (f : Fetch) (bs : List Byte) : State :=
  if f.sp then
    (List.range (f.n / f.es)).foldl (fun s i =>
      match s.matrixSp ((f.addr + i * f.es) % 2 ^ 32) f.es with
      | .ok p => s.spStore s.wg.id p.1 p.2 ((bs.drop (i * f.es)).take f.es)
      | .error _ => s) s
  else
    let cells := (framePieces f.addr f.n).flatMap fun p =>
      match s.walk s.tenant p.1 with
      | some (dfn, _, _) => (List.range p.2).map fun k =>
          (dfn * 0x10000 + p.1 % 0x10000 + k, byteAt bs ((p.1 + 2 ^ 56 - f.addr) % 2 ^ 56 + k))
      | none => []
    s.modSeq fun q => { q with pend := q.pend ++ cells }

/-- An arrival of the sequencer on numbered barrier n with bytes (11 R161): released with every store before it. -/
def State.seqArrive (s : State) (n bytes : Nat) : Except MStop State :=
  let off := s.ln.desc.mbbase + 16 * n
  match s.wg.arrive s.ln.desc off s.ln.ticket 1 bytes (if s.wg.seq.stored then some ⟨s.wg.id, none⟩ else none) with
  | .error c => .error (.fault c off true)
  | .ok w => .ok { s with wg := w }

/-- The end of a store whose rows are all written: publication and sticky bits, TAIL, then the credit (17 R295).
With TAIL set, ROW shows ROWN, whose 128 reads 0 in its 7 bits (DESIGN CHOICE, log 97). -/
def State.storeTail (s : State) (o : MstOp) : State :=
  let s := s.batch s.wg.seq.pend
  let s := s.modGroup s.wg.id s.wg.seq.owner fun g => g.raise s.wg.seq.sticky
  let s := s.modSeq fun q => { q with
    pend := []
    sticky := 0
    stored := true
    mprog := progAt o.t.rown 0 ||| tailBit ||| (q.mprog &&& stopBit) }
  match o.bar with
  | none => s.endWord
  | some n =>
    match s.seqArrive n (o.t.rown * o.t.coln * SFmt.esize o.fmt) with
    | .ok t => t.endWord
    | .error (.fault c va sp) => (s.stopWord s.wg.seq.mprog).matrixFault c va sp
    | .error _ => s

/-- The next row of a running store, or its tail. -/
def State.storeStep (s : State) (o : MstOp) (j : Job) : State :=
  let p := s.wg.seq.mprog
  let i := progRow p
  if (p &&& tailBit) ≠ 0 || o.t.coln = 0 || o.t.rown ≤ i then s.storeTail o
  else
    match s.rowMeets (o.row i) with
    | some e => s.meetStop j (progAt i 0) e
    | none =>
      let r := s.rowBytes o i
      let s := (s.writeRow (o.row i) r.1).modSeq fun q => { q with
        sticky := q.sticky ||| r.2, mprog := progAt (i + 1) 0 ||| (p &&& stopBit) }
      if i + 1 < o.t.rown then s else s.storeTail o

/-- What an `MST` writes (08 R138). -/
def State.mstWrites (s : State) (o : MstOp) : List (Nat × Nat × Nat) :=
  (List.range o.t.rown).flatMap fun i => s.rangesAt (o.row i)

/-- `MST` (17 R295). -/
def execMst (f : SFmt) (cr : Bool) (a k x : BitVec 4) (tr : BitVec 3) (tc : BitVec 4) (cb : BitVec 7) (bar : BitVec 4)
    (s : State) : Res :=
  jobWord s (fun s => s.mstOf f cr a k x tr tc cb bar) (fun _ => false) (fun s o => ([], s.mstWrites o)) State.storeStep

/-- `MST_ROW` (17 R295): one row of the `MST` at MPC, once it has begun, with the tail after the last. -/
def execMstRow (s : State) : Res :=
  match s.fetchMatrix, s.wordJob with
  | .ok (.mst f cr a k x tr tc cb bar), some j =>
    if s.matrixLive && j.st == .running then
      match s.mstOf f cr a k x tr tc cb bar with
      | .ok o => .next (s.storeStep o j)
      | .error c => .next (s.matrixFault c 0)
    else .next s
  | _, _ => .next s

/-! ## Barriers and steering (17 R296 to R298) -/

/-- `MWAIT` (17 R296). -/
def execMwait (bar x : BitVec 4) (i : BitVec 16) (s : State) : Res :=
  matrixWord s fun s =>
    let off := s.ln.desc.mbbase + 16 * bar.toNat
    let b := s.wg.softBar off
    let p : BitVec 16 := (s.wg.seq.reg x.toNat).setWidth 16 + i
    if b.ticket ≠ s.ln.ticket then .error (.fault 0x31 off true)
    else if b.passed p then .ok (s.acquireBar s.wg off p none)
    else .error .wait

/-- `MARV` (17 R297). -/
def execMarv (bar : BitVec 4) (s : State) : Res := matrixWord s fun s => s.seqArrive bar.toNat 0

/-- `MEND` (17 R297): the arrival, then the end; MPC keeps the index. -/
def execMend (bar : BitVec 4) (s : State) : Res :=
  if !s.matrixLive then .next s
  else
    match s.seqArrive bar.toNat 0 with
    | .error (.fault c va sp) => .next (s.matrixFault c va sp)
    | .error _ => .next s
    | .ok t => .next (t.modSeq fun q => { q with run := false })

/-- A transfer of control of the sequencer: 0x10 outside the section, with no effect (17 R298). -/
def matrixJump (s : State) (target : Int) (eff : Seq → Seq) : Res :=
  if !s.matrixLive then .next s
  else if target < 0 || s.ln.desc.mlen ≤ target then .next (s.matrixFault 0x10 0)
  else .next (s.modSeq fun q => { eff q with mpc := target.toNat, zeros := [] })

/-- `MBR` (17 R298). -/
def execMbr (i : BitVec 16) (s : State) : Res := matrixJump s (s.wg.seq.mpc + i.toInt) id

/-- `MLOOP` (17 R298). -/
def execMloop (x : BitVec 4) (i : BitVec 16) (s : State) : Res :=
  let n := s.wg.seq.reg x.toNat
  if n.toNat ≤ 1 then matrixJump s (s.wg.seq.mpc + 1 : Nat) fun q => q.setReg x.toNat 0
  else matrixJump s (s.wg.seq.mpc + i.toInt) fun q => q.setReg x.toNat (n - 1)

/-! ## Starting and ending a stream (17 R286, R287) -/

/-- `MSTART` (17 R286). -/
def execMstart (a : SReg) (i : BitVec 20) (s : State) : Res :=
  scalarWord s false [a] fun s =>
    let idx := i.toNat + (s.readS a).toNat
    if s.ln.desc.mlen ≤ idx then .error { code := 0x10 }
    else if s.ln.desc.recn = 0 then .error { code := 0x38 }
    else if s.wg.seq.run then .error { code := 0x37 }
    else
      .ok ((s.latch a).modSeq fun q => { Seq.idle with
        run := true, mpc := idx, acc := q.acc, tags := q.tags, owner := s.g.gid, blk := s.g.blkidx })

/-- A write of 1 to MSTAT.END (17 R287): the stream ends where it stands, and a fault that awaits its disposition is
discarded; reads that waited for that disposition go on. -/
def State.endStream (s : State) : State :=
  if !s.wg.seq.run then s
  else
    let mine := fun (g : Group) => g.wgId == s.wg.id
    let ts := (s.allGroups.filter mine).flatMap fun g => (g.faults.filter fun f => f.src == 2).filterMap (·.tslot)
    let s := ts.foldl State.endTrap s
    (s.modGroups mine fun g => { g with
      faults := g.faults.filter fun f => f.src != 2
      saved := g.saved.map fun v => { v with seq := false } }).seqEnd s.wg.id

/-- `MSTAT_END` (17 R287). -/
def execMstatEnd (s : State) : Res := .next s.endStream

/-- The sequencer of a workgroup stopped for pre-emption (11 R173, 17 R299): a word not begun is accepted anew on resume,
a running one has STOP set. -/
def State.seqPreempt (s : State) (w : Nat) : State :=
  match s.findWg w with
  | none => s
  | some x =>
    match x.seq.job.bind s.findJob with
    | none => s
    | some j =>
      match j.st with
      | .waiting => (s.dropJob j).modWg w fun x => { x with seq := { x.seq with job := none } }
      | _ => (s.modJob j.id fun j => { j with st := .stopped }).modWg w fun x =>
          { x with seq := { x.seq with mprog := x.seq.mprog ||| stopBit } }

end Sys2Proof.Machine
end

