-- ==== Sys2Proof/Machine/System.lean ====
section
/-! DEFINITION. The system words (17 R300 to R304): `TRAP`, the three forms of `HRET` with their dispositions (24 R336, 01 R37, R38,
19 R307), `SRR`, `SRW` and `HALT`. -/
namespace Sys2Proof.Machine

/-! ## TRAP and HALT -/

/-- `TRAP` (17 R300): TEPC names the next word. -/
def execTrap (i : BitVec 20) (s : State) : Res :=
  if s.scalarGate true true [] then
    .next (s.takeFault { code := 0x0A, detail := i.setWidth 32, tepc := s.g.pc + 4 })
  else .next s.scalarWait

/-- `HALT` (17 R304). -/
def execHalt (s : State) : Res :=
  if s.scalarGate true true [] then .next (s.haltLaunch s.ln.lid false) else .next s.scalarWait

/-! ## Returning from a handler (17 R302, 24 R336) -/

/-- CODE of TCAUSE. -/
def Group.tcode (g : Group) : BitVec 8 := field g.tcause 0 8

/-- SRC of TCAUSE. -/
def Group.tsrc (g : Group) : Nat := bitsN g.tcause.toNat 31 29

/-- The loop that goes on at a scalar address: its body word there; outside the body no loop runs (log 28). -/
def loopFrom (l : Option LoopSt) (pc : Nat) : Option LoopSt :=
  match l with
  | none => none
  | some x => if x.body ≤ pc && pc < x.body + 4 * x.blen then some { x with word := (pc - x.body) / 4 } else none

/-- The stopped path of a set-aside unit changed. -/
def Saved.modPath (v : Saved) (f : Path → Path) : Saved :=
  match v.slot with
  | none => v
  | some b => { v with run := v.run.map fun r => r.setPath b ((r.path b).map f) }

/-- The slot that the stopped path of a set-aside unit reads as zeros when it goes on (01 R37); not where the trap stopped the sequencer
or a job. -/
def Saved.readZeros (v : Saved) : Saved :=
  if v.seq || v.job.isSome then v
  else v.modPath fun p => { p with zeros := p.zeros ++ v.tslot.toList.map fun t => (t.wgId, t.slot) }

/-- What a fault stopped beside the streams has been let go already. -/
def Saved.settled (v : Saved) : Saved := if v.seq || v.job.isSome then { v with seq := false, job := none, tslot := none } else v

/-- The work that a fault stopped beside the streams goes on (17 R302): the sequencer for SRC 2, the job for SRC 3. -/
def State.resumeStopper (s : State) (v : Saved) : State :=
  let s := if v.seq then s.seqGoOn s.wg.id v.tslot else s
  match v.job with
  | some j => s.modJob j fun k => k.goOn v.tslot
  | none => s

/-- Plain resume, with a scalar address to go on at where SRC is 0 (17 R302). -/
def State.resumeAt (s : State) (v : Saved) (pc : Option Nat) : State :=
  let s := s.resumeStopper v
  let g := s.g.restore v.readZeros
  { s with g := match pc with
      | some a => { g with pc := a, loop := loopFrom v.loop a }
      | none => g }

/-- A scalar address to resume at: 0x12 where misaligned, 0x10 outside the section (17 R302). -/
def State.resumeCheck (s : State) (pc : Nat) : Except SFault Nat :=
  if pc % 4 ≠ 0 then .error { code := 0x12 } else if s.ln.desc.slen < pc + 4 then .error { code := 0x10 } else .ok pc

/-- The address after the faulting word, in its loop where one runs (01 R38). -/
def State.afterFault (s : State) (v : Saved) : Nat × Option LoopSt :=
  { s.g with pc := s.g.tepc.toNat, loop := loopFrom v.loop s.g.tepc.toNat }.after

/-- ZR set in PSTAT of the group in the focus and of the slot of its block (01 R37, R38); on an index grid PSTAT reads 0 for
every block (R26). -/
def State.setZr (s : State) : State :=
  if s.ln.desc.pageGrid then
    { s with
      g := { s.g with pstat := zrBit s.g.pstat }
      wg := s.wg.modSlot s.g.slotno.toNat fun y => { y with pstat := zrBit y.pstat } }
  else s

/-- The block that group gid of workgroup w holds retired poisoned with the group's release; sequencers and jobs stopped
on its slot go on (01 R37, 19 R307). -/
def State.poisonHeld (s : State) (w gid : Nat) : State :=
  match s.findGroup w gid with
  | none => s
  | some g =>
    let t := s.trapAt w g.slotno.toNat
    let s := if g.slotno.toNat < 8 then (s.resumeStoppers t).endTrap t else s
    (s.publish w gid).retireHeld w gid true 0xFFFFFFFF

/-- RETIRE_POISON of the block whose touch trap fired (01 R37), wherever it stands: a holder other than the group in the
focus abandons it at its next delivery point; a parked block retires from its record. Answers the state and whether the
group itself held it. -/
def State.poisonTrap (s : State) (t : TSlot) : State × Bool :=
  match s.trapBlock t with
  | none => (s, false)
  | some y =>
    match y.holder, y.park with
    | some h, _ =>
      let s := s.poisonHeld t.wgId h
      if s.focused t.wgId h then (s, true) else (s.modGroup t.wgId h fun g => { g with abandon := true }, false)
    | none, some r => ((s.endTrap t).retireParked t.wgId r, false)
    | none, none => (s, false)

/-- An `HRET` of a form: it drains, the form must suit the cause, and then its disposition. `eff` answers none while a
release that it makes is not over. -/
def hretWord (s : State) (poisons : Bool) (eff : State → Saved → Option (Except SFault State)) : Res :=
  if !s.scalarGate true true [] then .next s.scalarWait
  else
    match s.g.saved with
    | none => .next (s.scalarFault 0x0B)
    | some v =>
      let special : Bool := s.g.tcode == 0x20 || s.g.tcode == 0x21
      if special != poisons then .next (s.scalarFault 0x0B)
      else
        match eff s v with
        | none => .next s
        | some (.error f) => .next (s.scalarFault f.code)
        | some (.ok t) => .next t

/-- The lane header that an imprecise fault resumes at (24 R336): the one named by TEPC, within the section; none where no unit ran, and of
a matrix word, whose TEPC is MPC. -/
def State.resumeHeader (s : State) (v : Saved) : Except SFault Saved :=
  if s.g.tsrc = 2 || s.g.tepc = 0xFFFFFFFF then .ok v
  else if s.ln.desc.llen ≤ s.g.tepc.toNat then .error { code := 0x10 }
  else .ok (v.modPath fun p => { p with pc := s.g.tepc.toNat })

/-- `HRET` (17 R302): a precise fault of a scalar word resumes at TEPC, an imprecise one at the header that TEPC names (24 R336), every
other where its delivery left the group (R301; log 48). -/
def execHret (s : State) : Res :=
  hretWord s false fun s v =>
    some (
      if s.g.tcause.getLsbD 28 then (s.resumeHeader v).map fun v => s.resumeAt v none
      else if s.g.tsrc = 0 then (s.resumeCheck s.g.tepc.toNat).map fun pc => s.resumeAt v (some pc)
      else .ok (s.resumeAt v none))

/-- The group in the focus abandons its block in a state s' for REENTRY, where that lies in the section (19 R307, 12 R176). -/
def State.reenter (s s' : State) : Except SFault State :=
  (s.resumeCheck s.ln.desc.reentry).map fun pc => { s' with g := s'.g.abandonBlock pc }

/-- `HRET.POISON` (17 R302, 01 R37, R38): the release of 01 R35, then the block retires poisoned and its holder abandons
it. -/
def execHretPoison (s : State) : Res :=
  hretWord s true fun s v =>
    if !s.released s.g s.ln.lid 3 then none
    else
      let s := s.publish s.wg.id s.g.gid
      some (
        if s.g.tcode = 0x20 then
          match v.tslot with
          | none => .ok (s.resumeAt v none)
          | some t =>
            let r := (s.resumeStopper v).poisonTrap t
            if r.2 then s.reenter r.1 else .ok (r.1.resumeAt v.settled none)
        else s.reenter (if s.g.tdetail = 2 then s else s.poisonHeld s.wg.id s.g.gid))

/-- `HRET.ZERO` (17 R302, 01 R37, R38): ZR is set; the faulting access is executed again and reads zeros, or the faulting
word is skipped. -/
def execHretZero (s : State) : Res :=
  hretWord s true fun s v =>
    some (
      if s.g.tcode = 0x20 then
        match v.tslot with
        | some t => .ok ((s.zeroResume t).resumeAt v none)
        | none => .ok (s.resumeAt v none)
      else
        let n := s.afterFault v
        (s.resumeCheck n.1).map fun pc =>
          let t := if s.g.tdetail = 2 then s else s.setZr
          let t := t.resumeAt v (some pc)
          { t with g := { t.g with loop := n.2 } })

/-! ## Status registers (17 R303) -/

/-- MSTAT (17 R287). -/
def Seq.mstat (q : Seq) : Word := BitVec.ofBool q.run ++ BitVec.ofBool q.flt ++ (0 : BitVec 10) ++ BitVec.ofNat 20 q.mpc

/-- REGOCC (03 R77). -/
def Group.regocc (g : Group) : Word :=
  (0 : BitVec 8) ++ BitVec.ofNat 8 g.spilled ++ BitVec.ofNat 8 g.bound ++ BitVec.ofNat 8 g.mapped

/-- A status register of the group in the focus, or of its workgroup. -/
def State.sysRead (s : State) (n : Nat) : Word :=
  match n with
  | 0x000 => s.g.gstat
  | 0x001 => s.g.missed
  | 0x002 => s.g.regocc
  | 0x003 => s.g.astat
  | 0x004 => s.g.rstat
  | 0x010 => s.wg.seq.mstat
  | 0x011 => s.wg.seq.mprog
  | 0x020 => s.g.tcause
  | 0x021 => s.g.tdetail
  | 0x022 => s.g.tepc
  | 0x023 => s.g.tvalo
  | 0x024 => s.g.tvahi
  | 0x025 => s.g.tlanes
  | 0x026 => s.g.tpass
  | 0x030 => s.g.hentry
  | _ => 0

/-- `SRR` of a register stalls until lane work is over (17 R303). -/
def srrWaits (n : Nat) : Bool := decide (n ≤ 0x004)

/-- `SRR` (17 R303). -/
def execSrr (d : SReg) (n : BitVec 12) (s : State) : Res :=
  if srrWaits n.toNat && !s.g.laneIdle then .next s.scalarWait
  else scalarWord s false [d] fun s => .ok (s.writeS d (s.sysRead n.toNat))

/-- `SRW` (17 R303): what each register takes; HENTRY is checked first (R301). -/
def State.sysWrite (s : State) (n : Nat) (v : Word) : Except SFault State :=
  match n with
  | 0x000 => .ok { s with g := { s.g with gstat := gstatWrite s.g.gstat v } }
  | 0x001 => .ok { s with g := { s.g with missed := v } }
  | 0x003 => .ok { s with g := { s.g with astat := astatWrite s.g.astat v } }
  | 0x004 => .ok { s with g := { s.g with rstat := (s.g.rstat &&& ~~~0xF00) ||| (v &&& 0xF00) } }
  | 0x010 => .ok (if v.getLsbD 29 then s.endStream else s)
  | 0x022 => .ok (if s.g.tsrc = 0 then { s with g := { s.g with tepc := v } } else s)
  | 0x030 =>
    if v.toNat % 4 ≠ 0 then .error { code := 0x12 }
    else if s.ln.desc.slen < v.toNat + 4 then .error { code := 0x10 }
    else .ok { s with g := { s.g with hentry := v } }
  | _ => .error { code := 0x02 }

/-- `SRW` (17 R303). -/
def execSrw (a : SReg) (n : BitVec 12) (s : State) : Res :=
  scalarWord s true [] fun s => (s.sysWrite n.toNat (s.readS a)).map fun t => t.latch a

end Sys2Proof.Machine
end

