-- ==== Sys2Proof/Machine/Tables.lean ====
section
/-! DEFINITION. Frames and page tables as commands and contexts change them (07 R104, R108, 14 R218, 23 R314, R315): new frames,
table entries, the mappings of a context, invalidation, frames written with zeros, and the areas of a launch (01 R17). -/
namespace Sys2Proof.Machine

/-! ## Frames -/

/-- The lowest n consecutive device frame numbers, from 1, that name no frame (log 31); none where 28 bits do not hold
them. -/
def State.freeDfn (s : State) (n : Nat) : Option Nat :=
  match ((List.range (s.fit.length * n + 1)).map (· + 1)).find? fun d => (List.range n).all fun i => (s.fitOf (d + i)).isNone with
  | some d => if d + n ≤ 2 ^ 28 then some d else none
  | none => none

/-- The FIT entry of a new frame (23 R315). -/
def FitEntry.fresh (dfn tenant : Nat) (prot table : Bool) (tier : Tier) (loc : Nat) : FitEntry where
  dfn := dfn
  tile := 0
  version := 0
  st := .resident
  tier := tier
  tenant := tenant
  prot := prot
  acc := false
  dirty := false
  lower := false
  loc := BitVec.ofNat 48 loc
  owned := false
  ticket := 0
  table := table
  integ := false
  ecc := false
  evicted := false
  lowCount := 0
  lowTier := .a
  lowLoc := 0

/-- A byte of a view does not lie in a frame. -/
def outside (d : Nat) (v : VCell) : Bool := v.addr / 0x10000 != d

/-- A core that holds nothing of a frame: neither a store, nor a byte of its snapshot, nor one of the host. -/
def Core.scrub (c : Core) (d : Nat) : Core :=
  { c with view := c.view.filter (outside d), host := c.host.filter (outside d), snap := c.snap.clear (d * 0x10000) 0x10000 }

/-- A frame written with zeros, for every reader (23 R315, 26 R354, R367). -/
def State.scrubFrame (s : State) (d : Nat) : State :=
  let f := fun (g : Group) => { g with wset := g.wset.filter (outside d) }
  { s with
    mem := s.mem.clear (d * 0x10000) 0x10000
    core := s.core.scrub d
    cores := s.cores.map fun c => c.scrub d
    g := f s.g
    groups := s.groups.map f }

/-- The entry of a new frame; a lower copy that stood at its place is lost. -/
def State.addFrame (s : State) (e : FitEntry) : State :=
  let s := s.vacate e.tier e.loc.toNat
  { s with fit := s.fit ++ [e] }

/-- A new frame of zeros; none where neither tier has room (log 32). -/
def State.newFrame (s : State) (t : Nat) (prot table : Bool) : Option (State × Nat) :=
  match s.freeDfn 1, s.home with
  | some d, some (tier, loc) =>
    some ((s.addFrame (FitEntry.fresh d t prot table tier loc)).scrubFrame d, d)
  | _, _ => none

/-- A byte of host memory: that of the frame of tier C homed there, if one is. -/
def State.hostByte (s : State) (a : Nat) : Byte :=
  match s.fit.find? fun e => e.tier == .c && e.loc.toNat == a / 0x10000 with
  | some e => s.mem.get (e.dfn * 0x10000 + a % 0x10000)
  | none => s.hmem.get a

/-- n bytes of host memory. -/
def State.hostBytes (s : State) (a n : Nat) : List Byte := (List.range n).map fun i => s.hostByte (a + i)

/-- A new frame homed in tier C: its bytes are those of host memory, as every frame homed there shows them (23 R315, 07
R101; `State.homed`). No store to it stands in a view, and every core's snapshot holds what host memory holds at the mapping. -/
def State.hostFrame (s : State) (t : Nat) (addr : Nat) : Option (State × Nat) :=
  match s.freeDfn 1 with
  | none => none
  | some d =>
    let bs := s.hostBytes (addr / 0x10000 * 0x10000) 0x10000
    let s := ({ s with fit := s.fit ++ [FitEntry.fresh d t false false .c (addr / 0x10000)] } : State).scrubFrame d
    let put := fun (c : Core) => { c with snap := c.snap.write (d * 0x10000) bs }
    some ({ s with mem := s.mem.write (d * 0x10000) bs, core := put s.core, cores := s.cores.map put }, d)

/-- Frames that a context holds (23 R314 FRAMEQ): its table frames do not count (R315). -/
def State.framesOf (s : State) (t : Nat) : Nat := (s.fit.filter fun e => e.tenant == t && !e.table).length

/-- A frame released: host memory keeps the bytes of a frame of tier C; any other is zeros (23 R315). -/
def State.dropFrame (s : State) (d : Nat) : State :=
  match s.fitOf d with
  | none => s
  | some e =>
    let s : State := if e.tier = .c then
        { s with hmem := s.hmem.write (e.loc.toNat * 0x10000) (s.mem.bytes (d * 0x10000) 0x10000) }
      else s
    let s := s.scrubFrame d
    { s with
      fit := s.fit.filter fun e => e.dfn != d
      dev := { s.dev with hostNew := s.dev.hostNew.filter fun x => x.addr / 0x10000 != d } }

/-- A byte written to host memory, and to every frame of tier C homed there. -/
def State.hostSet (s : State) (a : Nat) (b : Byte) : State :=
  { s with
    hmem := s.hmem.set a b
    mem := (s.fit.filter fun e => e.tier == .c && e.loc.toNat == a / 0x10000).foldl
      (fun (m : Mem) e => m.set (e.dfn * 0x10000 + a % 0x10000) b) s.mem }

/-- Bytes written to host memory. -/
def State.hostWrite (s : State) (a : Nat) (bs : List Byte) : State := (cellsAt a bs).foldl (fun s c => s.hostSet c.1 c.2) s

/-- The device addresses at which a byte of host memory shows. -/
def State.hostShows (s : State) (a : Nat) : List Nat :=
  (s.fit.filter fun e => e.tier == .c && e.loc.toNat == a / 0x10000).map fun e => e.dfn * 0x10000 + a % 0x10000

/-- Bytes written to host memory by the host: those that show on the device are noted for the launches to come (27 R368). -/
def State.hostStore (s : State) (a : Nat) (bs : List Byte) : State :=
  let n := s.dev.hostNum + 1
  let new := (cellsAt a bs).flatMap fun c => (s.hostShows c.1).map fun d => (⟨d, c.2, n⟩ : HostByte)
  let t := s.hostWrite a bs
  { t with dev := { t.dev with hostNum := n, hostNew := new ++ t.dev.hostNew.filter fun x => !new.any fun y => y.addr == x.addr } }

/-! ## Page tables (07 R104) -/

/-- A page-table entry with V set. -/
def pteBits (dfn : Nat) (wr x : Bool) : Nat := 2 ^ 63 + (if wr then 2 ^ 62 else 0) + (if x then 2 ^ 61 else 0) + dfn

/-- A page-table entry written. -/
def State.writePte (s : State) (a v : Nat) : State := { s with mem := s.mem.writeLE a 8 v }

/-- The table that an entry of a table names for an address, made where there is none (23 R315). -/
def State.nextTable (s : State) (t tbl level va : Nat) : Option (State × Nat) :=
  let a := pteAddr tbl level va
  let e := s.mem.readLE a 8
  if pteValid e then some (s, bitsN e 27 0)
  else (s.newFrame t false true).map fun r => (r.1.writePte a (pteBits r.2 true true), r.2)

/-- The level-0 entry of an address written, its tables made as needed. -/
def State.mapPage (s : State) (t va dfn : Nat) (wr x : Bool) : Option State :=
  match s.nextTable t (s.ctx t).root 2 va with
  | none => none
  | some (s1, l1) =>
    match s1.nextTable t l1 1 va with
    | none => none
    | some (s2, l0) => some (s2.writePte (pteAddr l0 0 va) (pteBits dfn wr x))

/-- Device address of the level-0 entry of a mapped address. -/
def State.leafAddr (s : State) (t va : Nat) : Option Nat :=
  let e2 := s.mem.readLE (pteAddr (s.ctx t).root 2 va) 8
  let e1 := s.mem.readLE (pteAddr (bitsN e2 27 0) 1 va) 8
  if (s.walk t va).isSome then some (pteAddr (bitsN e1 27 0) 0 va) else none

/-- The valid entries of a table: (index, DFN). -/
def tableEntries (m : Mem) (tbl frames : Nat) : List (Nat × Nat) :=
  let base := tbl * 0x10000
  let is := nub ((m.filter fun c => decide (base ≤ c.1) && decide (c.1 < base + frames * 0x10000)).map fun c => (c.1 - base) / 8)
  is.filterMap fun i =>
    let e := m.readLE (base + 8 * i) 8
    if pteValid e then some (i, bitsN e 27 0) else none

/-- The mappings of a context: (virtual address, DFN). -/
def State.mappings (s : State) (t : Nat) : List (Nat × Nat) :=
  if (s.ctx t).valid then
    (tableEntries s.mem (s.ctx t).root 2).flatMap fun a =>
      (tableEntries s.mem a.2 1).flatMap fun b =>
        (tableEntries s.mem b.2 1).map fun c => (a.1 * 2 ^ 42 + b.1 * 2 ^ 29 + c.1 * 2 ^ 16, c.2)
  else []

/-! ## Invalidation (07 R108, 14 R218) -/

/-- The run of a register and a range of addresses meet; both go on from address 0 at the end of the 56 bits (log 98). -/
def TReg.touches (t : TReg) (va len : Nat) : Bool :=
  let ahead := fun (a b : Nat) => (b % 2 ^ 56 + 2 ^ 56 - a % 2 ^ 56) % 2 ^ 56
  decide (0 < t.limit.toNat) && decide (0 < len) &&
    (decide (ahead va t.base.toNat < len) || decide (ahead t.base.toNat va < t.limit.toNat))

/-- VALID cleared where the run of a register touches a range. -/
def TReg.inval (t : TReg) (va len : Nat) : TReg := if t.touches va len then { t with valid := false } else t

/-- The copies of a lane unit. -/
def LaneUnit.inval (u : LaneUnit) (va len : Nat) : LaneUnit := { u with t := u.t.map fun t => t.inval va len }

/-- The registers of a group and the copies of its units, set-aside ones included. -/
def Group.inval (g : Group) (va len : Nat) : Group :=
  let run := fun (r : RunUnit) => { r with u := r.u.inval va len }
  { g with
    t := g.t.map fun t => t.inval va len
    run := g.run.map run
    queue := g.queue.map fun u => u.inval va len
    saved := g.saved.map fun v => { v with run := v.run.map run, queue := v.queue.map fun u => u.inval va len } }

/-- A workgroup's parked records, with the copies of a unit that a handler had set aside. -/
def Workgroup.inval (w : Workgroup) (va len : Nat) : Workgroup :=
  { w with parked := w.parked.map fun o => o.map fun p => { p with
      t := p.t.map fun t => t.inval va len
      lane := p.lane.map fun r => { r with u := r.u.inval va len } } }

/-- The workgroups of a tenant. -/
def State.wgsOf (s : State) (t : Nat) : List Workgroup := s.allWgs.filter fun w => w.id != 0 && s.tenantOf w == some t

/-- The translation-invalidate over a range of a tenant's context (07 R108, 14 R218). -/
def State.tinval (s : State) (t va len : Nat) : State :=
  let ids := (s.wgsOf t).map (·.id)
  let s := s.modGroups (fun g => ids.contains g.wgId) fun g => g.inval va len
  ids.foldl (fun s i => s.modWg i fun w => w.inval va len) s

/-! ## Frames in use (23 R315) -/

/-- An engine job or matrix instruction of a tenant translated to the frame and has not completed, or an access to it waits at a porter (23
R315). -/
def State.frameUsed (s : State) (t d : Nat) : Bool :=
  (s.porters.any fun q => (s.findLaunch q.lid).any (fun l => l.cmd.tenant == t) &&
    q.lanes.any fun x => (s.walk t x.va.toNat).any (fun w => w.1 == d) ||
      (x.part != .plain && (s.walk t (x.c.toNat % 2 ^ 56)).any fun w => w.1 == d)) ||
  s.jobs.any fun j => (j.reads ++ j.writes).any fun r =>
    r.1 == memSpace && decide (r.2.1 < (d + 1) * 0x10000) && decide (d * 0x10000 < r.2.1 + r.2.2)

end Sys2Proof.Machine
end

