-- ==== Sys2Proof/Machine/Queues.lean ====
section
/-! DEFINITION. Queues and the journal (23 R309 to R317, R350): functions and their queues, the journal and its mirror, completion
records, reading a ring, and the steps `NOTIFY`, `QUEUE_ENABLE`, `QUEUE_DISABLE` and `JOURNAL_MIRROR_COMPLETE`. -/
namespace Sys2Proof.Machine

/-! ## Functions and queues (28 R370, 23 R309) -/

/-- A PCIe function, where it is enabled. -/
def State.func (s : State) (fn : Nat) : Option Func := (s.funcs[fn]?).bind fun f => if f.enabled then some f else none

/-- A function is one of a tenant's (28 R370). -/
def Func.of (f : Func) (t : Nat) : Bool := f.bound && f.tenant == t

/-- A function of a tenant is paused for a migration: its work stands still (28 R375). -/
def State.pausedTenant (s : State) (t : Nat) : Bool := s.funcs.any fun f => f.enabled && f.of t && f.run == .paused

/-- A PCIe function changed. -/
def State.modFunc (s : State) (fn : Nat) (f : Func → Func) : State :=
  { s with funcs := s.funcs.mapIdx fun i x => if i == fn then f x else x }

/-- Queue q of a tenant. -/
def State.queueOf (s : State) (t q : Nat) : Option Queue := s.queues.find? fun x => x.tenant == t && x.q == q

/-- Queue q of a tenant changed. -/
def State.modQueue (s : State) (t q : Nat) (f : Queue → Queue) : State :=
  { s with queues := s.queues.map fun x => if x.tenant == t && x.q == q then f x else x }

/-- The queue that block q of a function controls: one of the function's tenant, assigned to it (28 R370). -/
def State.queueAt (s : State) (fn q : Nat) : Option Queue :=
  match s.func fn with
  | some f => (s.queueOf f.tenant q).bind fun x => if x.func = fn then some x else none
  | none => none

/-- Entries of a ring (23 R309). -/
def Queue.size (x : Queue) : Nat := 2 ^ x.log2

/-- A function lets traffic of its tenant pass: a protected context's only where its IDE stream is established (26 R351). -/
def State.passes (s : State) (fn t : Nat) : Bool := !((s.ctx t).valid && (s.ctx t).prot) || (s.func fn).any (·.ide)

/-! ## The journal (23 R316) -/

/-- The code of a KIND. -/
def JKind.code : JKind → Nat
  | .accept => 1
  | .complete => 2
  | .abort => 3
  | .notifyDrop => 4
  | .release => 5
  | .capacity => 6
  | .reset => 7

/-- The 512 bits of an entry. -/
def JEntry.bits (e : JEntry) : Nat :=
  e.jseq % 2 ^ 64 * 2 ^ 448 + e.time.toNat * 2 ^ 384 + e.tenant % 16 * 2 ^ 380 + e.queue % 64 * 2 ^ 374 + e.func % 64 * 2 ^ 368 +
    JKind.code e.kind * 2 ^ 360 + e.cstatus.toNat * 2 ^ 352 + e.lid.toNat * 2 ^ 320 + e.rindex.toNat * 2 ^ 256 +
    (e.cmd.take 4).foldr (fun w n => w.toNat + 2 ^ 64 * n) 0

/-- An entry without command or completion. -/
def JEntry.plain (kind : JKind) (tenant queue func : Nat) (rindex : DWord) : JEntry where
  jseq := 0
  time := 0
  tenant := tenant
  queue := queue
  func := func
  kind := kind
  cstatus := 0
  lid := 0
  rindex := rindex
  cmd := []
  record := none

/-- An entry appended with the next JSEQ and the device time; of the ring, 16,384 entries stay, and those not mirrored. -/
def State.append (s : State) (e : JEntry) : State :=
  let n := s.dev.jseq + 1
  { s with dev := { s.dev with
      jseq := n
      journal := (s.dev.journal.filter fun x => decide (n < x.jseq + Config.journalEntries) || decide (s.dev.jhead < x.jseq)) ++
        [{ e with jseq := n, time := s.dev.time }] } }

/-! ## Completions (23 R317) -/

/-- The launches of a queue that have not ended and will complete. -/
def State.openLaunches (s : State) (t q : Nat) : List Launch :=
  s.allLaunches.filter fun l => l.lid != 0 && l.st != .ended && !l.mute && l.cmd.tenant == t && l.cmd.queue == q

/-- A write of EN 0 that waits takes effect once every accepted command of the queue has completed (23 R309). -/
def State.settleQueue (s : State) (t q : Nat) : State :=
  match s.queueOf t q with
  | some x =>
    if x.enPend && x.cmds.isEmpty && (s.openLaunches t q).isEmpty then s.modQueue t q fun x => { x with en := false, enPend := false }
    else s
  | none => s

/-- The 256 bits of a completion record (23 R317). -/
def recordBits (late lid : Nat) (c : CmdRef) (cs : BitVec 8) (grid : Nat) : BitVec 256 :=
  BitVec.ofNat 256 (late % 2 ^ 32 * 2 ^ 224 + lid % 2 ^ 32 * 2 ^ 192 + c.tag.toNat * 2 ^ 176 + c.seq.toNat * 2 ^ 160 +
    cs.toNat * 2 ^ 128 + grid % 2 ^ 128)

/-- A command completes: its COMPLETE entry, whose mirroring lets the record be written (23 R316). -/
def State.completeCmd (s : State) (c : CmdRef) (cs : BitVec 8) (lid grid late : Nat) : State :=
  let fn := ((s.queueOf c.tenant c.queue).map (·.func)).getD 0
  let e := JEntry.plain .complete c.tenant c.queue fn c.rindex
  (s.append { e with
    cstatus := cs, lid := BitVec.ofNat 32 lid, record := some (recordBits late lid c cs grid, c) }).settleQueue c.tenant c.queue

/-- A completion record written where its command came from, and its vector signalled once it is written: in the completion area of
the queue, which traffic through its function reaches (26 R351), or behind a timer's template (23 R317, R328). -/
def State.writeRecord (s : State) (r : BitVec 256 × CmdRef) : State :=
  match s.queueOf r.2.tenant r.2.queue with
  | none => s
  | some x =>
    let bs := leBytes 32 r.1.toNat
    let signal := fun (s : State) => s.interrupt x.func x.ivec
    match r.2.timer with
    | none => if s.passes x.func x.tenant then signal (s.hostWrite (x.cqbase.toNat + 32 * (r.2.rindex.toNat % x.size)) bs) else s
    | some (_, tmpl) =>
      match s.reachVa r.2.tenant 0 ((tmpl + 64) % 2 ^ 56) true with
      | .ok da => signal (s.batch (cellsAt da bs))
      | .absent d => signal (s.batch (cellsAt (d * 0x10000 + (tmpl + 64) % 0x10000) bs))
      | .fault _ => s

/-- The next entry mirrored to flash: JHEAD advances, and the record it lets through is written (23 R316, 28 R371). -/
def State.mirrorNext (s : State) : State :=
  match s.dev.journal.find? fun e => e.jseq == s.dev.jhead + 1 with
  | none => s
  | some e =>
    let s : State := { s with dev := { s.dev with
        jhead := e.jseq
        mirror := (s.dev.mirror.filter fun x => decide (e.jseq < x.jseq + Config.journalEntries)) ++ [{ e with record := none }] } }
    match e.record with
    | some r => s.writeRecord r
    | none => s

/-- `JOURNAL_MIRROR_COMPLETE` (23 R316). -/
def execJournalMirrorComplete (s : State) : Res := .next s.mirrorNext

/-! ## Reading a ring (23 R310, R312) -/

/-- Words of 8 bytes. -/
def dwords (bs : List Byte) : List DWord := (List.range (bs.length / 8)).map fun i => BitVec.ofNat 64 (leNat ((bs.drop (8 * i)).take 8))

/-- Word i of a command entry. -/
def wordAt (ws : List DWord) (i : Nat) : DWord := (ws[i]?).getD 0

/-- The command processor may read the next ring entry of a queue: it has been notified, and reading has not stopped (23 R312, 28
R382, 26 R351). -/
def State.mayRead (s : State) (x : Queue) : Bool :=
  s.passes x.func x.tenant && x.en && !x.enPend && !x.stall && s.dev.pstate != .d3hot && decide (x.ridx.toNat < x.mark.toNat)

/-- The 64 bytes of the next ring entry of a queue. -/
def State.ringWords (s : State) (x : Queue) : List DWord :=
  dwords (s.hostBytes (x.qbase.toNat + 64 + 64 * (x.ridx.toNat % x.size)) 64)

/-- The entry has been written: SEQ and SEQ16 are those of its index (23 R312). -/
def Queue.written (x : Queue) (ws : List DWord) : Bool :=
  (field (wordAt ws 0) 32 16 : BitVec 16) == field x.ridx 0 16 && (wordAt ws 0).getLsbD 8 == x.ridx.getLsbD 16

/-- The entry at the ring index that comes next, where it has been notified and written (23 R312). -/
def State.ringEntry (s : State) (x : Queue) : Option (List DWord) :=
  if s.mayRead x && x.written (s.ringWords x) then some (s.ringWords x) else none

/-- A command accepted into its queue, with its ACCEPT entry (23 R316). -/
def State.acceptCmd (s : State) (c : CmdRef) (fn : Nat) (ws : List DWord) : State :=
  let e := JEntry.plain .accept c.tenant c.queue fn c.rindex
  let opc : BitVec 8 := field (wordAt ws 0) 0 8
  let s := s.append { e with cmd := ws.take 4, lid := if opc = 0x01 then BitVec.ofNat 32 (s.dev.jseq + 1) else 0 }
  s.modQueue c.tenant c.queue fun x => { x with cmds := x.cmds ++ [⟨c, s.dev.jseq, ws⟩] }

/-- The next ring entry of a queue read and accepted; RIDX moves on in the register and in the control block. One that is not yet
written stops reading until the next NOTIFY write (23 R312). -/
def State.readRing (s : State) (x : Queue) : State :=
  match s.ringEntry x with
  | none => if s.mayRead x then s.modQueue x.tenant x.q fun x => { x with stall := true } else s
  | some ws =>
    let h := wordAt ws 0
    let s := s.acceptCmd ⟨x.tenant, x.q, field h 48 16, field h 32 16, x.ridx, none⟩ x.func ws
    let s := s.modQueue x.tenant x.q fun x => { x with ridx := x.ridx + 1 }
    s.hostWrite x.qbase.toNat (leBytes 8 (x.ridx + 1).toNat)

/-- The command that an entry spells; none where it is MALFORMED: its OPC is not listed, or an operand that it does not
use is not 0 (23 R313). -/
def cmdInstr (k : Cmd) : Option Instr :=
  let w := wordAt k.words
  let zero := fun (is : List Nat) => is.all fun i => w i == 0
  match bitsN (w 0).toNat 7 0 with
  | 0x01 => if zero [2, 3, 4, 5, 6, 7] && decide ((w 1).toNat < 2 ^ 56) then some (.launch k.ref (w 1)) else none
  | 0x02 => if zero [3, 4, 5, 6, 7] then some (.tinval k.ref (w 1) (w 2)) else none
  | 0x03 => if zero [2, 3, 4, 5, 6, 7] && decide ((w 1).toNat < 2 ^ 32) then some (.cancel k.ref (field (w 1) 0 32)) else none
  | 0x04 => if zero [2, 3, 4, 5, 6, 7] then some (.arm k.ref (w 1)) else none
  | 0x05 => if zero [2, 3, 4, 5, 6, 7] && decide ((w 1).toNat < 2 ^ 13) then some (.disarm k.ref (field (w 1) 0 13)) else none
  | 0x06 => if zero [1, 2, 3, 4, 5, 6, 7] then some (.drain k.ref) else none
  | 0x07 => if zero [5, 6, 7] then some (.map k.ref (w 1) (w 2) (w 3) (w 4)) else none
  | 0x08 => if zero [3, 4, 5, 6, 7] then some (.unmap k.ref (w 1) (w 2)) else none
  | _ => none

/-- The command is a LAUNCH, MALFORMED or not. -/
def Cmd.isLaunch (k : Cmd) : Bool := bitsN (wordAt k.words 0).toNat 7 0 == 1

/-- LAUNCHID of an accepted LAUNCH (23 R316). -/
def Cmd.lid (k : Cmd) : Nat := if k.isLaunch then k.jseq % 2 ^ 32 else 0

/-- The grid words of a launch with a status (01 R46). -/
def Launch.gridWords (l : Launch) (status : Nat) : Nat :=
  l.firstPark.toNat * 2 ^ 96 + l.nretired % 2 ^ 32 * 2 ^ 64 + l.poisoned % 2 ^ 32 * 2 ^ 32 + l.nparked % 2 ^ 24 * 2 ^ 8 + status

/-- The command at the head of a queue leaves it. -/
def State.popCmd (s : State) (c : CmdRef) : State := s.modQueue c.tenant c.queue fun x => { x with cmds := x.cmds.drop 1 }

/-- What a queue's turn does (23 R312, R313, R328): the command at its head is carried out (answered with the state), one
that is MALFORMED completes (a LAUNCH with its LAUNCHID and with grid words that say REJECTED, log 83), and with none the
next ring entry is read; nothing while it waits behind a launch. -/
def State.queueTurn (s : State) (t q : Nat) : State × Option Instr :=
  match s.queueOf t q with
  | none => (s, none)
  | some x =>
    if x.busy.isSome then (s, none)
    else
      match x.cmds with
      | [] => (s.readRing x, none)
      | k :: _ =>
        match cmdInstr k with
        | some i => (s, some i)
        | none =>
          if k.isLaunch then ((s.popCmd k.ref).completeCmd k.ref 0x01 k.lid (Launch.absent.gridWords 3) 0, none)
          else ((s.popCmd k.ref).completeCmd k.ref 0x01 0 0 0, none)

/-- How far a command has come. -/
inductive CmdOut
  | wait (s : State)
  | done (s : State) (cs : BitVec 8)
  deriving DecidableEq, Repr

/-- The command at the head of its queue carried out. -/
def cmdWord (s : State) (c : CmdRef) (eff : State → CmdOut) : Res :=
  match s.queueOf c.tenant c.queue with
  | none => .next s
  | some x =>
    match x.cmds with
    | [] => .next s
    | k :: _ =>
      if k.ref = c && x.busy.isNone then
        match eff s with
        | .wait t => .next t
        | .done t cs => .next ((t.popCmd c).completeCmd c cs 0 0 0)
      else .next s

/-! ## NOTIFY and EN (23 R309, R311, R330, R350) -/

/-- A NOTIFY dropped, with its journal entry (23 R330). -/
def State.dropNotify (s : State) (fn q : Nat) : State :=
  s.append (JEntry.plain .notifyDrop (((s.func fn).map (·.tenant)).getD 0) q fn 0)

/-- A NOTIFY taken by its queue: the mark is the largest value written (23 R312); dropped at a queue that is not enabled,
and journalled (R330, log 33). -/
def State.takeNotify (s : State) (fn q : Nat) (v : DWord) : State :=
  match s.queueAt fn q with
  | none => s
  | some x =>
    if x.en then s.modQueue x.tenant x.q fun x => { x with mark := if x.mark.toNat < v.toNat then v else x.mark, stall := false }
    else s.dropNotify fn q

/-- A NOTIFY that reaches its queue: dropped and journalled in ERROR (26 R361), and for a protected context whose traffic the function
does not let pass (26 R351, log 88). -/
def State.notify (s : State) (fn q : Nat) (v : DWord) : State :=
  match s.func fn with
  | some f => if f.tdisp = .error || !s.passes fn f.tenant then s.dropNotify fn q else s.takeNotify fn q v
  | none => s

/-- `NOTIFY` (23 R311, R312): dropped and journalled in ERROR (26 R361), dropped in D3hot (28 R382), held while the function is
paused (R375). -/
def execNotify (fn q : Nat) (v : DWord) (s : State) : Res :=
  match s.func fn, s.queueAt fn q with
  | some f, some _ =>
    if f.tdisp = .error then .next (s.dropNotify fn q)
    else if s.dev.pstate = .d3hot then .next s
    else if f.run = .paused then .next (s.modFunc fn fun f => { f with held := f.held ++ [(q, v)] })
    else .next (s.notify fn q v)
  | _, _ => .next s

/-- `QUEUE_ENABLE` (23 R350): RIDX and the notify mark are 0; ignored before READY, without a context (28 R371, 23 R314), and where
the traffic of a protected one cannot pass (26 R351, log 88). -/
def execQueueEnable (fn q : Nat) (s : State) : Res :=
  match s.queueAt fn q with
  | none => .next s
  | some x =>
    if x.en || !s.dev.ready || !(s.ctx x.tenant).valid || !s.passes fn x.tenant then .next s
    else
      let s := s.modQueue x.tenant x.q fun x => { x with en := true, enPend := false, ridx := 0, mark := 0, stall := false }
      .next (s.hostWrite x.qbase.toNat (leBytes 8 0))

/-- `QUEUE_DISABLE` (23 R309): the write of EN 0 waits for every accepted command. -/
def execQueueDisable (fn q : Nat) (s : State) : Res :=
  match s.queueAt fn q with
  | none => .next s
  | some x =>
    if x.en then .next ((s.modQueue x.tenant x.q fun x => { x with enPend := true }).settleQueue x.tenant x.q) else .next s

end Sys2Proof.Machine
end

