-- ==== Sys2Proof/Machine/Launches.lean ====
section
/-! DEFINITION. Launches from acceptance to end: the descriptor and its checks (23 R318, 01 R15 to R17, 03 R73, 07 R118, 11 R157,
18 R306), `LAUNCH`, `ADMISSION` (23 R324, R325, 03 R66, 07 R119), `LAUNCH_END` (01 R44 to R47, 26 R354) and `CANCEL`. -/
namespace Sys2Proof.Machine

/-! ## The descriptor -/

/-- Bits [hi:lo] of the section that begins at a byte offset of a descriptor. -/
def sect (b off hi lo : Nat) : Nat := bitsN (b / 2 ^ (8 * off)) hi lo

/-- The descriptor that 192 bytes hold, without the footprint list. -/
def Desc.parse (b : Nat) : Desc where
  slen := sect b 0 447 416
  llen := sect b 0 415 384
  mlen := sect b 0 255 224
  scodeVa := sect b 0 503 448
  lcodeVa := sect b 0 375 320
  mcodeVa := sect b 0 311 256
  hentry := sect b 0 223 192
  gang := sect b 0 191 183
  entry := sect b 0 159 128
  reentry := sect b 64 383 352
  count := sect b 64 351 320
  dsdepth := sect b 64 319 312
  nsid := sect b 64 311 304
  parkrec := sect b 64 303 296
  parklive := sect b 64 295 288
  pageGrid := sect b 64 257 256 == 1
  plan := sect b 64 255 200
  cobase := sect b 64 199 144
  resbase := sect b 64 143 88
  listbase := sect b 64 87 32
  xlen := Vector.ofFn fun i => sect b 112 (39 + 8 * i.val) (32 + 8 * i.val)
  strict := sect b 112 24 24 == 1
  peak := sect b 112 23 16
  floor := sect b 112 15 8
  ngroups := sect b 112 4 0
  foot := []
  resthr := sect b 128 183 176
  restier := sect b 128 175 174
  splen := sect b 128 159 128
  lfbase := sect b 128 127 72
  mbbase := sect b 160 95 64
  recn := sect b 160 39 32
  obkib := sect b 160 31 23
  accu := sect b 160 7 0
  arglen := sect b 176 95 64
  argbase := sect b 176 55 0

/-- The reserved fields of a descriptor: (section, high bit, low bit). -/
def descReserved : List (Nat × Nat × Nat) :=
  [(0, 511, 504), (0, 383, 376), (0, 319, 312), (0, 182, 160), (0, 127, 0), (64, 287, 258), (64, 31, 0), (112, 127, 64),
   (112, 31, 25), (112, 7, 5), (128, 173, 160), (128, 71, 0), (160, 127, 96), (160, 63, 40), (160, 22, 8), (176, 127, 96),
   (176, 63, 56)]

/-- FOOTBASE and FOOTN. -/
def footList (b : Nat) : Nat × Nat := (sect b 128 255 200, sect b 128 199 184)

/-- Bytes of divergence stacks, spill area and parked area (01 R16, R40, 03 R65). -/
def Desc.hidden (d : Desc) : Nat :=
  d.ngroups * (16 * d.dsdepth + 128 * (d.peak - d.floor)) + d.parkrec * (512 + 128 * (d.parklive + 8))

/-- Scratchpad bytes that a workgroup takes in all (07 R99, 01 R18, R383). -/
def Desc.spNeed (d : Desc) : Nat :=
  d.splen + d.hidden + (if d.pageGrid then 0x20100 else if d.splen ≤ 0x5FF80 then 16 else 0)

/-- Every field lies in its range and is aligned, and the workgroup fits a scratchpad. -/
def Desc.ranged (d : Desc) (b : Nat) : Bool :=
  decide (sect b 64 257 256 ≤ 1) && decide (1 ≤ d.count) && decide (d.count ≤ 0x80000000) && decide (d.parkrec ≤ 64) &&
  decide (d.parklive ≤ 32) && d.plan % 2 == 0 && d.resbase % 8 == 0 &&
  (!d.pageGrid || (d.listbase % 4 == 0 && d.cobase % 0x4000 == 0)) &&
  decide (1 ≤ d.ngroups) && decide (d.ngroups ≤ 16) && decide (d.floor ≤ 32) && decide (max d.floor 1 ≤ d.peak) &&
  decide (d.peak ≤ 128) && d.xlen.toList.all (fun x => decide (x ≤ 64)) &&
  (footList b).1 % 16 == 0 && decide ((footList b).2 ≤ 4096) && decide (d.resthr ≤ 128) && decide (d.restier ≤ 1) &&
  d.splen % 256 == 0 && decide (d.splen ≤ if d.pageGrid then 0x5FF00 else 0x80000) && d.lfbase % 0x800 == 0 &&
  decide (d.recn ≤ 16) && decide (d.obkib ≤ 256) && decide (d.accu ≤ 128) &&
  (d.recn == 0 || (d.mbbase % 16 == 0 && decide (d.mbbase + 256 ≤ d.splen))) && decide (d.arglen ≤ 0x200000) &&
  d.scodeVa % 4 == 0 && d.slen % 4 == 0 && decide (1 ≤ d.llen) && decide (d.llen ≤ 65536) && d.lcodeVa % 4 == 0 &&
  d.mcodeVa % 8 == 0 && (d.mlen != 0 || d.mcodeVa == 0) && decide (1 ≤ d.gang) && decide (d.gang ≤ 256) &&
  d.entry % 4 == 0 && decide (d.entry < d.slen) && d.hentry % 4 == 0 && decide (d.hentry < d.slen) &&
  decide (d.hidden ≤ 384 * 1024) && decide (d.spNeed ≤ 0x80000)

/-- NSID names a namespace of the tenant, on a page grid (01 R16). -/
def State.nsOk (s : State) (t : Nat) (d : Desc) : Bool :=
  !d.pageGrid || (decide (d.nsid < 16) && (vget s.nss d.nsid Namespace.none).valid && (vget s.nss d.nsid Namespace.none).owner == t)

/-! ## Reading at acceptance -/

/-- What n bytes of a context are to the command processor. -/
inductive Span
  | ok (bytes : List Byte)
  | absent (dfns : List Nat)
  | bad
  deriving DecidableEq, Repr

/-- n bytes at a virtual address read by the command processor: each frame's walk, fetch permission where `x` is set, its
tenant, that no gang owns it (26 R353), and poison; a frame that is absent is brought first, where `wait` is set (23 R318, 07 R118). -/
def State.span (s : State) (t va n : Nat) (x wait : Bool) : Span :=
  let ps := (pagesOf va n).map fun p => s.walk t p
  if decide (2 ^ 56 < va + n) || ps.any (fun w => match w with
      | some (d, _, xx) => (x && !xx) || !(s.fitOf d).any fun e => e.tenant == t && !e.table && !e.owned && e.st != .poisoned
      | none => true) then .bad
  else
    let ds := ps.filterMap fun w => w.map (·.1)
    let away := nub (ds.filter fun d => (s.fitOf d).any fun e => e.st == .absent)
    if wait && !away.isEmpty then .absent away
    else .ok ((List.range n).map fun i => s.mem.get (((ds[(va + i) / 0x10000 - va / 0x10000]?).getD 0) * 0x10000 + (va + i) % 0x10000))

/-- The frames of bytes that the device has read marked accessed (07 R103). -/
def State.touchSpan (s : State) (t va n : Nat) : State :=
  (pagesOf va n).foldl (fun s p => match s.walk t p with
    | some (d, _, _) => s.touch (d * 0x10000) false
    | none => s) s

/-- A residency request that no gang made stands. A GID from 17 names no group: 17 is the command processor, 18 the footprints of a
switch-in, 19 its working set, 20 the footprint of a launch that was accepted. -/
def State.asked (s : State) (gid lid : Nat) (frames : List Nat) : Bool :=
  s.resreqs.any fun q => q.gid == gid && q.lid == lid && q.frames == frames

/-- A residency request that no gang made, once (07 R111, R117, R119). -/
def State.askAs (s : State) (gid lid : Nat) (frames : List Nat) : State :=
  if frames.isEmpty || s.asked gid lid frames then s
  else { s with resreqs := s.resreqs ++ [⟨s.newReq, 0, gid, lid, 0, frames, false, none, none⟩] }

/-- A residency request made by the command processor for a tenant (07 R111). -/
def State.hostAsk (s : State) (lid : Nat) (frames : List Nat) : State := s.askAs 17 lid frames

/-- The entries of a footprint list, where each has its reserved fields 0 and some bytes (07 R118). -/
def footOf (n : Nat) (bs : List Byte) : Option (List (Nat × Nat)) :=
  let es := (List.range n).map fun i => leNat ((bs.drop (16 * i)).take 16)
  if es.all fun e => bitsN e 127 104 == 0 && bitsN e 63 56 == 0 && bitsN e 103 64 != 0 then
    some (es.map fun e => (bitsN e 55 0, bitsN e 103 64))
  else none

/-- A launch that has been accepted, before its admission. -/
def Launch.accepted (lid : Nat) (ticket : BitVec 21) (c : CmdRef) (fn : Nat) (d : Desc) (sc lc mc : List Byte) : Launch :=
  { Launch.absent with
    lid := lid
    ticket := ticket
    cmd := c
    func := fn
    st := .waiting
    desc := d
    scode := Mem.write [] 0 sc
    lcode := Mem.write [] 0 lc
    mcode := Mem.write [] 0 mc }

/-- What acceptance finds. -/
inductive Accept
  | wait (dfns : List Nat)
  | reject
  | take (d : Desc) (sc lc mc : List Byte)
  deriving DecidableEq, Repr

/-- The checks of a launch at acceptance (23 R318, 01 R16, 03 R73, 07 R118, 11 R157, 18 R306). The descriptor is read here, once, as 23
R318 says; 01 R15 and 03 R73 speak of admission (DESIGN CHOICE, log 89). -/
def State.checkLaunch (s : State) (t va : Nat) : Accept :=
  if va % 64 ≠ 0 then .reject
  else
    match s.span t va 192 false true with
    | .bad => .reject
    | .absent ds => .wait ds
    | .ok bs =>
      let b := leNat bs
      let d := Desc.parse b
      if descReserved.any (fun r => sect b r.1 r.2.1 r.2.2 != 0) || !d.ranged b || !s.nsOk t d then .reject
      else
        match s.span t (footList b).1 (16 * (footList b).2) false true with
        | .bad => .reject
        | .absent ds => .wait ds
        | .ok fs =>
          match footOf (footList b).2 fs, s.span t d.scodeVa d.slen true false, s.span t d.lcodeVa (12 * d.llen) true false,
              s.span t d.mcodeVa (8 * d.mlen) true false with
          | some foot, .ok sc, .ok lc, .ok mc => .take { d with foot := foot } sc lc mc
          | _, _, _, _ => .reject

/-- The lowest gang ticket of the pool: none is 0, and one is out while its launch lives or work of the launch is left (26
R352). -/
def State.freeTicket (s : State) : Nat :=
  let used := ((s.allLaunches.filter fun l => l.lid != 0 && (l.st != .ended || s.jobs.any (fun j => j.lid == l.lid) ||
    s.porters.any (fun r => r.lid == l.lid) || s.resreqs.any (fun q => q.lid == l.lid))).map fun l => l.ticket.toNat)
  leastFree (0 :: used)

/-- The frames of a launch's footprint: its entries, list, plan and cells (07 R119). -/
def Desc.footPages (d : Desc) : List Nat :=
  let area := fun (a : Nat × Nat) => pagesOf a.1 a.2
  nub (d.foot.flatMap area ++ area (d.resbase, 8 * d.count) ++
    (if d.pageGrid then area (d.listbase, 4 * d.count) else []) ++ d.planArea.flatMap fun a => area (a.1, a.2.1))

/-- The measurement register of a tenant extended with the code sections of a launch (26 R356); a section of no bytes is
none. -/
def State.measureCode (s : State) (t : Nat) (secs : List (List Byte)) : State :=
  s.modCtx t fun c => { c with
    tmr := (secs.filter fun x => !x.isEmpty).foldl (fun m x => extendMr m (measure x)) c.tmr }

/-- What acceptance has read marked accessed: descriptor, footprint list and code sections (07 R103). -/
def State.touchLaunch (s : State) (t va : Nat) (d : Desc) : State :=
  let foot := match s.span t va 192 false true with
    | .ok bs => footList (leNat bs)
    | _ => (0, 0)
  [(va, 192), (foot.1, 16 * foot.2), (d.scodeVa, d.slen), (d.lcodeVa, 12 * d.llen), (d.mcodeVa, 8 * d.mlen)].foldl
    (fun s a => s.touchSpan t a.1 a.2) s

/-- An accepted `LAUNCH` that has not been carried out ends ABORTED. -/
def State.cancelCmd (s : State) (k : Cmd) : State :=
  (s.modQueue k.ref.tenant k.ref.queue fun x => { x with cmds := x.cmds.filter fun y => y.jseq != k.jseq }).completeCmd k.ref 0x03
    (k.jseq % 2 ^ 32) (Launch.absent.gridWords 4) 0

/-- As `cancelCmd`, made by the device: counted in DABORT (24 R338, 26 R361). -/
def State.abortLaunch (s : State) (k : Cmd) : State := (s.modErr k.ref.tenant fun e => { e with dabort := satInc e.dabort }).cancelCmd k

/-- The interface of a function is in ERROR (26 R361). -/
def State.inError (s : State) (fn : Nat) : Bool := (s.func fn).any fun f => f.tdisp == .error

/-- `LAUNCH` (23 R318): read at acceptance; rejected, or accepted with a LAUNCHID and a ticket, and then waiting for
admission while the Stairwell brings its footprint and its copy-out area up (07 R119, 01 R17). Of a VF in ERROR it ends ABORTED (26
R361). -/
def execLaunch (c : CmdRef) (va : DWord) (s : State) : Res :=
  match s.queueOf c.tenant c.queue with
  | none => .next s
  | some x =>
    match x.cmds with
    | [] => .next s
    | k :: _ =>
      if k.ref ≠ c || x.busy.isSome then .next s
      else if s.inError x.func then .next (s.abortLaunch k)
      else
        let lid := k.jseq % 2 ^ 32
        match s.checkLaunch c.tenant va.toNat with
        | .wait ds => .next (s.hostAsk lid ds)
        | .reject => .next ((s.popCmd c).completeCmd c 0x02 lid (Launch.absent.gridWords 3) 0)
        | .take d sc lc mc =>
          let l := Launch.accepted lid (BitVec.ofNat 21 s.freeTicket) c x.func d sc lc mc
          let s := (s.touchLaunch c.tenant va.toNat d).measureCode c.tenant [sc, lc, mc]
          let s := (s.popCmd c).modQueue c.tenant c.queue fun x => { x with busy := some lid }
          let s : State := { s with launches := s.launches ++ [l] }
          let ds := nub ((d.footPages ++ d.coPages).filterMap fun p => (s.walk c.tenant p).map (·.1))
          .next (s.askAs 20 lid (ds.filter fun f => (s.fitOf f).any fun e => !e.isUp && e.st != .poisoned))

/-! ## The end of a launch (01 R44 to R47, 26 R354) -/

/-- Frames owned under a ticket written with zeros and released; the zero-write raises their tiles' counts (26 R354). -/
def State.zeroOwned (s : State) (ticket : BitVec 21) : State :=
  ((s.fit.filter fun e => e.owned && e.ticket == ticket).map (·.dfn)).foldl (fun s d =>
    (((s.scrubFrame d).touch (d * 0x10000) true).raiseTile d).modFit d fun e => { e with owned := false, ticket := 0 }) s

/-- A view whose bytes of some workgroups, which are all published, belong to nobody: an id may be used again. -/
def Core.disown (k : Core) (ids : List Nat) : Core :=
  { k with
    view := k.view.map fun v => if ids.contains v.wgId then { v with wgId := 0 } else v
    host := k.host.filter fun v => !ids.contains v.wgId }

/-- A launch's workgroups, groups, jobs and requests taken away. -/
def State.dropGang (s : State) (lid : Nat) : State :=
  let ids := (s.launchWgs lid).map (·.id)
  let focus := ids.contains s.wg.id
  { s with
    g := if focus then Group.absent else s.g
    wg := if focus then Workgroup.absent else s.wg
    core := s.core.disown ids
    cores := s.cores.map fun k => k.disown ids
    groups := s.groups.filter fun g => !ids.contains g.wgId
    wgs := s.wgs.filter fun w => !ids.contains w.id
    jobs := s.jobs.filter fun j => j.lid != lid
    resreqs := s.resreqs.filter fun q => q.lid != lid }

/-- Some workgroup of a tenant is resident. -/
def State.tenantIn (s : State) (t : Nat) : Bool := (s.wgsOf t).any fun w => w.place == .resident

/-- Frames marked accessed, in ascending number (07 R117). -/
def State.accessed (s : State) (t : Nat) : List Nat :=
  ((s.fit.filter fun e => e.tenant == t && e.acc).map (·.dfn)).mergeSort

/-- A tenant switched out: its working set is recorded and ACC cleared, and its functions are descheduled (07 R117, 23 R329, 24 R343 step
5, R344). -/
def State.tenantOut (s : State) (t : Nat) : State :=
  let s := s.modCtx t fun c => { c with workset := s.accessed t, presence := .away }
  { s with
    fit := s.fit.map fun e => if e.tenant == t then { e with acc := false } else e
    funcs := s.funcs.map fun f => if f.of t && f.run == .running then { f with run := .descheduled } else f }

/-- A tenant whose work has left a core is switched out once no workgroup of it is resident and no core is still to give up its work for
it (24 R343 step 5, R344). -/
def State.tenantLeaves (s : State) (t : Nat) : State :=
  if s.tenantIn t || s.allCores.any fun k => k.stopFor == some t then s else s.tenantOut t

/-- The tenants of which nothing is left here and that no hall runs are switched out, however their last work left (24 R343 step 5, R344). -/
def State.tenantsLeave (s : State) : State :=
  ((List.range 16).filter fun t => (s.ctx t).presence == .here && !s.dev.hallRun.contains (some t)).foldl State.tenantLeaves s

/-- No tenant has a gang resident: IDLE (28 R382). -/
def State.restPower (s : State) : State :=
  let busy := s.allWgs.any fun w => w.id != 0 && w.place == .resident
  { s with dev := { s.dev with pstate :=
      if s.dev.pstate = .active && !busy then .idle else if s.dev.pstate = .idle && busy then .active else s.dev.pstate } }

/-- How a launch ended (01 R45, R46). -/
def Launch.status (l : Launch) : Nat := if l.aborted then 4 else if l.deadlock then 1 else if l.lateCnt ≠ 0 then 2 else 0

/-- A launch that waits for admission goes, or one whose work is over ends: cells of parked blocks, owned frames, grid
words and completion (01 R45 to R47, 26 R354, 23 R317). -/
def State.endLaunch (s : State) (lid : Nat) (rejected : Bool) : State :=
  let s := match s.findLaunch lid with
    | some l =>
      if l.aborted then s.modLaunch lid fun l => { l with nparked := l.nparked + (s.parkedOf lid).length }
      else if l.deadlock then s else s.dropParked lid false
    | none => s
  match s.findLaunch lid with
  | none => s
  | some l =>
    let s := (s.zeroOwned l.ticket).dropGang lid
    let s := s.modLaunch lid fun l => { l with st := .ended }
    let s := s.modQueue l.cmd.tenant l.cmd.queue fun x => if x.busy = some lid then { x with busy := none } else x
    let s := if l.mute then s
      else if rejected then s.completeCmd l.cmd 0x02 lid (l.gridWords 3) l.lateCnt
      else s.completeCmd l.cmd (if l.aborted then 0x03 else 0x00) lid (l.gridWords l.status) l.lateCnt
    s.restPower.tenantsLeave

/-- The launch may end: groups, streams, jobs (copy-outs and re-landings among them) and reductions are over (01 R45). A settle of it that
is still outstanding does not hold it, and arrives no more (DESIGN CHOICE, log 108). -/
def State.launchOver (s : State) (lid : Nat) : Bool :=
  !s.groupsLeft lid && (s.launchWgs lid).all (fun w => !w.seq.run) && !(s.jobs.any fun j => j.lid == lid) &&
  !(s.porters.any fun r => r.lid == lid && r.flight.isNone)

/-- `LAUNCH_END` (01 R45): the launch in the focus ends once everything of it is over. -/
def execLaunchEnd (s : State) : Res :=
  if s.ln.lid != 0 && s.ln.st == .running && s.launchOver s.ln.lid then .next (s.endLaunch s.ln.lid false) else .next s

/-- A launch cancelled (01 R47, 23 R313, R330, 26 R361): as `HALT` does while it runs; one that waits for admission ends at
once. -/
def State.cancelLaunch (s : State) (lid : Nat) (dev : Bool) : State :=
  match s.findLaunch lid with
  | none => s
  | some l =>
    let s := s.haltLaunch lid dev
    if l.st = .waiting then s.endLaunch lid false else s

/-- The accepted `LAUNCH` of a tenant with a LAUNCHID that still stands in its queue (23 R313). -/
def State.launchCmd (s : State) (t lid : Nat) : Option Cmd :=
  ((s.queues.filter fun x => x.tenant == t).flatMap (·.cmds)).find? fun k =>
    k.jseq % 2 ^ 32 == lid && (match cmdInstr k with
      | some (.launch _ _) => true
      | _ => false)

/-- `CANCEL` (23 R313): DONE whatever the LAUNCHID names; only a launch of the tenant that has not ended is cancelled, and one accepted
that its queue has not yet come to. -/
def execCancel (c : CmdRef) (lid : Word) (s : State) : Res :=
  cmdWord s c fun s =>
    match s.findLaunch lid.toNat with
    | some l => if l.cmd.tenant = c.tenant && l.st != .ended then .done (s.cancelLaunch lid.toNat false) 0x00 else .done s 0x00
    | none =>
      match s.launchCmd c.tenant lid.toNat with
      | some k => .done (s.cancelCmd k) 0x00
      | none => .done s 0x00

/-! ## Admission (23 R324, R325) -/

/-- The residency threshold is met (07 R119): a frame that fails translation counts as not resident, one homed in tier C
counts under either RESTIER. -/
def State.thresholdMet (s : State) (l : Launch) : Bool :=
  let ws := l.desc.footPages.map fun p => (p, (s.walk l.cmd.tenant p).map (·.1))
  let ds := nub (ws.filterMap (·.2))
  let failed := (ws.filter fun w => w.2.isNone).length
  let up := ds.filter fun d => (s.fitOf d).any fun e =>
    (e.st == .resident || e.st == .migrating) && (e.tier == .a || e.tier == .c || (l.desc.restier == 1 && e.tier == .b))
  decide (l.desc.resthr * (ds.length + failed) ≤ up.length * 128)

/-- The copy-out area is resident in tier A, as far as it translates and is not poisoned (01 R17). -/
def State.coReady (s : State) (l : Launch) : Bool :=
  l.desc.coPages.all fun p =>
    match (s.walk l.cmd.tenant p).bind fun w => s.fitOf w.1 with
    | some e => e.isUp || e.st == .poisoned || e.tenant != l.cmd.tenant
    | none => true

/-- The areas of the launch pass their checks (01 R17). -/
def State.areasOk (s : State) (l : Launch) : Bool :=
  l.desc.areas.all fun a => (pagesOf a.1 a.2.1).all fun p =>
    match s.walk l.cmd.tenant p with
    | some (d, wr, _) => (wr || !a.2.2) && (s.fitOf d).any fun e => e.tenant == l.cmd.tenant && !e.table
    | none => false

/-- A workgroup of the launch fits a core beside those given (03 R66, 07 R99, 11 R157, 01 R8, R14, 00 R2): of groups that have
ended, nothing stays reserved (14 R219); what is reserved for the others counts as taken, bound or not (DESIGN CHOICE, log 103). -/
def State.fits (s : State) (beside : List Workgroup) (d : Desc) : Bool :=
  let ds := beside.map s.descOf
  let gs := s.groupsOf beside
  let sum := fun (f : Desc → Nat) => f d + (ds.map f).sum
  let reserved := d.reserve + reservedFor gs
  decide (beside.length < 4) && decide (sum (·.ngroups) ≤ 16) && !(d.pageGrid && ds.any (·.pageGrid)) &&
  decide (sum (·.recn) ≤ 16) && decide (sum (·.obkib) ≤ 256) && decide (sum (·.accu) ≤ 128) && decide (sum Desc.spNeed ≤ 0x80000) &&
  decide (reserved ≤ Config.pool) && (d :: gs.map (·.2)).all (fun e => decide (e.peak - e.floor ≤ Config.pool - reserved)) &&
  decide (d.reserve ≤ floatLeft gs)

/-- The runs of cores that a gang may take: within one hall where it has at most 8 cores (23 R325). -/
def gangRuns (n : Nat) : List (List Nat) :=
  ((List.range (256 + 1 - n)).filter fun c => decide (8 < n) || hallOf c == hallOf (c + n - 1)).map fun c =>
    (List.range n).map (c + ·)

/-- The lowest run of cores in some halls on which a workgroup of a launch fits beside its tenant's own (23 R324, R325). -/
def State.placeIn (s : State) (l : Launch) (hall : Nat → Bool) : Option (List Nat) :=
  (gangRuns l.desc.gang).find? fun cs => cs.all fun c =>
    hall (hallOf c) && s.fits ((s.wgsOf l.cmd.tenant).filter fun w => w.coreId == c) l.desc

/-- The lowest run of cores on which every core is its tenant's, is not stopping, fits the workgroup, and has room for its runs of
registers beside those of residents, at once or after compaction (23 R324, R325, 03 R74). -/
def State.lowestRun (s : State) (l : Launch) : Option (List Nat) :=
  (gangRuns l.desc.gang).find? fun cs => cs.all fun c =>
    vget s.dev.hallRun (hallOf c) none == some l.cmd.tenant &&
    (s.findCore c).any (fun k => !k.halted && k.stopFor.isNone) &&
    s.fits (s.beside c) l.desc && (placeRuns (s.runRegs c) l.desc.runLens).isSome

/-- The cores on which a launch is placed: its lowest run, once its runs of registers are free on each; before that the launch waits for
the compactor (03 R74). -/
def State.placement (s : State) (l : Launch) : Option (List Nat) :=
  match s.lowestRun l with
  | some cs => if cs.all fun c => (placeRuns (s.physUsed c) l.desc.runLens).isSome then some cs else none
  | none => none

/-- A group at its start (03 R50, 18 R306, 03 R77). -/
def Group.start (d : Desc) (w gid age : Nat) (t0 : TReg) (bases : List Nat) : Group :=
  { Group.absent with
    st := .running
    wgId := w
    gid := gid
    age := age
    pc := d.entry
    x := Vector.ofFn fun i =>
      let n := vget d.xlen i.val 0
      ⟨n, n, (bases[4 * gid + i.val]?).getD 0, List.replicate (runLen n) Lanes.zero⟩
    t := vset (Vector.replicate 8 TReg.zero) 0 t0
    gstat := if d.strict then 0x100 else 0
    hentry := BitVec.ofNat 32 d.hentry }

/-- A workgroup at its start: every place free, the landing barrier at phase 0 with the gang's ticket (01 R23, R24, log 45),
every tag ZERO (17 R291). -/
def Workgroup.start (l : Launch) (id k core : Nat) : Workgroup :=
  { Workgroup.absent with
    id := id
    lid := l.lid
    k := k
    coreId := core
    parked := List.replicate l.desc.parkrec none
    lbar := { Barrier.zero with ticket := l.ticket, scope := 1, expected := 1 }
    seq := { Seq.idle with tags := List.replicate l.desc.accu .zero } }

/-- A byte that the host wrote since the core's snapshot was taken, and over which the core's view holds no newer one: that is one of its
own stores whose publication reached memory last (08 R124; log 34). -/
def State.newsTo (s : State) (k : Core) (x : HostByte) : Bool :=
  decide (k.hostAt < x.num) &&
    !(k.view.any fun v => v.addr == x.addr && !s.unpublished v && v.byte == s.mem.get x.addr && v.byte != x.byte)

/-- What the host wrote is read by the groups of a workgroup that begins on a core beside others: the snapshot, which changes only with an
acquire, stays (27 R368, 08 R123, log 34). -/
def State.seeHost (s : State) (c id : Nat) : State :=
  s.modCore c fun k => { k with
    host := ((s.dev.hostNew.filter (s.newsTo k)).map fun x => ⟨x.addr, x.byte, id, 0⟩) ++ k.host }

/-- A workgroup of a launch placed on a core with its groups. On a core where no workgroup stands, and whose shadow or save area holds
none, no group sees that its start replaces the whole snapshot (log 34). -/
def State.startWg (s : State) (l : Launch) (id k core age : Nat) : State :=
  let t0 := s.tmapRun l.cmd.tenant l.desc.argbase l.desc.arglen
  let bases := (placeRuns (s.physUsed core) l.desc.runLens).getD []
  let t : State := { s with
    wgs := s.wgs ++ [Workgroup.start l id k core]
    groups := s.groups ++ (List.range l.desc.ngroups).map fun g => Group.start l.desc id g age t0 bases }
  if s.allWgs.any fun w => w.id != 0 && w.coreId == core then t.seeHost core id else t.snapshot core

/-- A tenant that is back: its functions run, and the Stairwell brings up the footprints of its waiting launches and then
its recorded working set (07 R117, 23 R329). -/
def State.tenantBack (s : State) (t : Nat) : State :=
  let s : State := { s.modCtx t (fun c => { c with presence := .here }) with
    funcs := s.funcs.map fun f => if f.of t && f.run == .descheduled then { f with run := .running } else f }
  let up := fun (ds : List Nat) => ds.filter fun d => (s.fitOf d).any fun e => e.tenant == t && !e.isUp && e.st != .poisoned
  let foot := nub ((s.launches.filter fun l => l.st == .waiting && l.cmd.tenant == t).flatMap fun l =>
    (l.desc.footPages ++ l.desc.coPages).filterMap fun p => (s.walk t p).map (·.1))
  (s.askAs 18 0 (up foot)).askAs 19 0 (up (s.ctx t).workset)

/-- A launch begins on its cores (01 R8, R14); a tenant that was not here comes with it (24 R343 step 5). -/
def State.startLaunch (s : State) (l : Launch) (cs : List Nat) : State :=
  let s := if (s.ctx l.cmd.tenant).presence = .here then s else s.tenantBack l.cmd.tenant
  let id := s.allWgs.foldl (fun m w => max m w.id) 0 + 1
  let age := s.allGroups.foldl (fun m g => max m g.age) 0 + 1
  let s := (List.range cs.length).foldl (fun s k => s.startWg l (id + k) k ((cs[k]?).getD 0) age) s
  let s := s.modLaunch l.lid fun l => { l with st := .running, cores := cs }
  let s := s.modQueue l.cmd.tenant l.cmd.queue fun x => if x.busy = some l.lid then { x with busy := none } else x
  s.restPower

/-- The waiting launch of a tenant that is offered to admission next: the tenant's queues take turns (23 R324). -/
def State.offered (s : State) (t : Nat) : Option Nat :=
  let at_ := fun (q : Nat) => (s.allLaunches.find? fun l =>
    l.lid != 0 && l.st == .waiting && l.cmd.tenant == t && l.cmd.queue == q).map (·.lid)
  (List.range 64).findSome? fun i => at_ (((s.ctx t).rr + i) % 64)

/-- `ADMISSION` (23 R324): a waiting launch, offered in its turn, whose threshold is met and that has a placement begins; one whose
areas fail their checks completes REJECTED (01 R17). None of a tenant that is paused begins (28 R375). -/
def execAdmission (lid : Nat) (s : State) : Res :=
  match s.findLaunch lid with
  | none => .next s
  | some l =>
    if l.st == .waiting && s.dev.ready && !s.pausedTenant l.cmd.tenant && s.offered l.cmd.tenant == some lid then
      let s := s.modCtx l.cmd.tenant fun c => { c with rr := (l.cmd.queue + 1) % 64 }
      if s.thresholdMet l && s.coReady l then
        match s.placement l with
        | none => .next s
        | some cs => if s.areasOk l then .next (s.startLaunch l cs) else .next (s.endLaunch lid true)
      else .next s
    else .next s

end Sys2Proof.Machine
end

