-- ==== Sys2Proof/Machine/Commands.lean ====
section
/-! DEFINITION. The other commands (23 R313): `TINVAL` (07 R108), `DRAIN`, `MAP` and `UNMAP` (R315), `ARM` and `DISARM` with the timer
wheel's `TIMER_RELEASE` (R327, R328). -/
namespace Sys2Proof.Machine

/-! ## TINVAL, DRAIN -/

/-- `TINVAL` (23 R313, 07 R108). -/
def execTinval (c : CmdRef) (va len : DWord) (s : State) : Res :=
  cmdWord s c fun s => .done (s.tinval c.tenant va.toNat len.toNat) 0x00

/-- `DRAIN` (23 R313): every earlier command of the queue has completed; the others complete in order, so only launches
can be left. -/
def execDrain (c : CmdRef) (s : State) : Res :=
  cmdWord s c fun s => if (s.openLaunches c.tenant c.queue).isEmpty then .done s 0x00 else .wait s

/-! ## MAP and UNMAP (23 R315) -/

/-- The flags of a `MAP`. -/
structure MapFlags where
  wr     : Bool
  x      : Bool
  host   : Bool
  shared : Bool
  remap  : Bool
  alias_ : Bool
  deriving DecidableEq, Repr

/-- The flags in word 3. -/
def MapFlags.of (w : DWord) : MapFlags :=
  ⟨w.getLsbD 0, w.getLsbD 1, w.getLsbD 2, w.getLsbD 3, w.getLsbD 4, w.getLsbD 5⟩

/-- A range of a MAP or UNMAP: whole frames, some, within 56 bits. -/
def rangeOk (va len : Nat) : Bool := va % 0x10000 == 0 && len % 0x10000 == 0 && len != 0 && decide (va + len ≤ 2 ^ 56)

/-- The virtual frames of a range in ascending order, by their offset in it. -/
def offsetsOf (len : Nat) : List Nat := (List.range (len / 0x10000)).map (0x10000 * ·)

/-- A `MAP` is MALFORMED (23 R315). -/
def State.mapBad (s : State) (t va len : Nat) (fl w4 : DWord) : Bool :=
  let f := MapFlags.of fl
  !rangeOk va len || fl.toNat / 64 != 0 || w4.toNat % 0x10000 != 0 || (!f.host && !f.alias_ && w4 != 0) || (f.host && f.alias_) ||
  (f.host && (s.ctx t).prot && !f.shared) ||
  (f.alias_ && (offsetsOf len).any fun o => (s.walk t (w4.toNat + o)).isNone || decide (2 ^ 56 ≤ w4.toNat + o)) ||
  (!f.remap && (offsetsOf len).any fun o => (s.walk t (va + o)).isSome)

/-- The frame that a virtual frame not yet mapped receives: an existing one, one of host memory, or a new one. -/
def State.frameFor (s : State) (t o : Nat) (f : MapFlags) (w4 : Nat) : Option (State × Nat) :=
  if f.alias_ then (s.walk t (w4 + o)).map fun w => (s, w.1)
  else if f.host then s.hostFrame t (w4 + o)
  else s.newFrame t ((s.ctx t).prot && !f.shared) false

/-- One virtual frame of a `MAP`: a frame mapped before keeps its DFN and takes the new permissions. -/
def State.mapOne (s : State) (t va o : Nat) (f : MapFlags) (w4 : Nat) : Option State :=
  match s.walk t (va + o), s.leafAddr t (va + o) with
  | some (d, _, _), some a => some (s.writePte a (pteBits d f.wr f.x))
  | _, _ =>
    match s.frameFor t o f w4 with
    | some (s', d) => s'.mapPage t (va + o) d f.wr f.x
    | none => none

/-- The frames of a `MAP` in ascending address; none where the device has no frame left. -/
def State.mapAll (s : State) (t va : Nat) (f : MapFlags) (w4 : Nat) : List Nat → Option State
  | [] => some s
  | o :: os =>
    match s.mapOne t va o f w4 with
    | some s' => s'.mapAll t va f w4 os
    | none => none

/-- A range reaches a frame of an area of a launch of the tenant that runs (01 R17). -/
def State.reachesArea (s : State) (t va len : Nat) : Bool :=
  (offsetsOf len).any fun o => (s.walk t (va + o)).any fun w => s.pinned t w.1

/-- `MAP` (23 R315): MALFORMED or NOSPACE with no effect, or the whole range mapped and invalidated; a remap of a running
launch's areas waits. -/
def execMap (c : CmdRef) (va len flags w4 : DWord) (s : State) : Res :=
  cmdWord s c fun s =>
    let t := c.tenant
    let f := MapFlags.of flags
    if s.mapBad t va.toNat len.toNat flags w4 then .done s 0x01
    else if f.remap && s.reachesArea t va.toNat len.toNat then .wait s
    else
      let fresh := if f.alias_ then 0 else ((offsetsOf len.toNat).filter fun o => (s.walk t (va.toNat + o)).isNone).length
      if (s.ctx t).frameq < s.framesOf t + fresh then .done s 0x05
      else
        match s.mapAll t va.toNat f w4.toNat (offsetsOf len.toNat) with
        | some s' => .done (s'.tinval t va.toNat len.toNat) 0x00
        | none => .done s 0x05

/-- A tile withdrawn with its frame (10 R146). -/
def State.untile (s : State) (d : Nat) : State :=
  match s.fitOf d with
  | none => s
  | some e =>
    match s.tree.find? fun r => e.tile != 0 && r.handle == e.tile && r.kind == .tile with
    | some r =>
      match s.withdraw r with
      | .ok s' => s'
      | .error _ => s
    | none => s

/-- One virtual frame unmapped; its frame is freed where no other address maps it (23 R315). -/
def State.unmapOne (s : State) (t va : Nat) : State :=
  match s.walk t va, s.leafAddr t va with
  | some (d, _, _), some a =>
    let s := s.writePte a 0
    if (s.mappings t).any fun m => m.2 == d then s else (s.untile d).dropFrame d
  | _, _ => s

/-- An `UNMAP` waits for a frame that a gang owns, that an area of a running launch needs, or that a job or an access at a porter
translated to (23 R315). -/
def State.unmapWaits (s : State) (t va len : Nat) : Bool :=
  (offsetsOf len).any fun o => (s.walk t (va + o)).any fun w =>
    s.pinned t w.1 || s.frameUsed t w.1 || (s.fitOf w.1).any fun e => e.owned

/-- `UNMAP` (23 R315). -/
def execUnmap (c : CmdRef) (va len : DWord) (s : State) : Res :=
  cmdWord s c fun s =>
    let t := c.tenant
    if !rangeOk va.toNat len.toNat then .done s 0x01
    else if s.unmapWaits t va.toNat len.toNat then .wait s
    else .done (((offsetsOf len.toNat).foldl (fun s o => s.unmapOne t (va.toNat + o)) s).tinval t va.toNat len.toNat) 0x00

/-! ## Timers (23 R327, R328) -/

/-- A template area translates with write permission (23 R327). -/
def State.tmplOk (s : State) (t va : Nat) : Bool :=
  va % 32 == 0 && decide (va + 96 ≤ 2 ^ 56) &&
  (pagesOf va 96).all fun p =>
    match s.walk t p with
    | some (_, wr, _) => wr
    | none => false

/-- A packet as `ARM` reads it (23 R327); none where it is MALFORMED. -/
def State.packet (s : State) (t va : Nat) (bs : List Byte) : Option Timer :=
  let b := leNat bs
  let q := bitsN b 151 146
  if bitsN b 145 136 ≠ 0 || bitsN b 63 13 ≠ 0 then none
  else
    match s.queueOf t q with
    | none => none
    | some x =>
      if s.tmplOk t (bitsN b 135 80) then
        some ⟨bitsN b 12 0, t, x.func, va, BitVec.ofNat 64 (bitsN b 255 192), BitVec.ofNat 40 (bitsN b 191 152), q, bitsN b 135 80,
          BitVec.ofNat 16 (bitsN b 79 64)⟩
      else none

/-- `ARM` (23 R327). -/
def execArm (c : CmdRef) (va : DWord) (s : State) : Res :=
  cmdWord s c fun s =>
    if va.toNat % 32 ≠ 0 then .done s 0x01
    else
      match s.span c.tenant va.toNat 32 false true with
      | .bad => .done s 0x01
      | .absent ds => .wait (s.hostAsk 0 ds)
      | .ok bs =>
        let s := s.touchSpan c.tenant va.toNat 32
        match s.packet c.tenant va.toNat bs with
        | none => .done s 0x01
        | some p =>
          if 8192 ≤ s.dev.timers.length || s.dev.timers.any fun x => x.tenant == c.tenant && x.num == p.num then .done s 0x04
          else .done { s with dev := { s.dev with timers := s.dev.timers ++ [p] } } 0x00

/-- The armed packets without one. -/
def State.disarm (s : State) (t num : Nat) : State :=
  { s with dev := { s.dev with timers := s.dev.timers.filter fun x => !(x.tenant == t && x.num == num) } }

/-- `DISARM` (23 R313). -/
def execDisarm (c : CmdRef) (num : BitVec 13) (s : State) : Res :=
  cmdWord s c fun s => .done (s.disarm c.tenant num.toNat) 0x00

/-- Periods that a packet is late (23 R328): m. -/
def Timer.late (p : Timer) (now : DWord) : Nat := if p.period = 0 then 0 else (now.toNat - p.time.toNat) / p.period.toNat

/-- A count of 16 bits that stays at its largest value. -/
def sat16 (n : Nat) : BitVec 16 := BitVec.ofNat 16 (min 0xFFFF n)

/-- A packet after a release (23 R328): MISSED rises, and a periodic one takes its next time; a single one is gone. The
packet in memory shows MISSED. -/
def State.advance (s : State) (p : Timer) (skipped : Bool) : State :=
  let m := p.late s.dev.time
  let miss := sat16 (p.missed.toNat + m + if skipped then 1 else 0)
  let s := match s.reachVa p.tenant 0 (p.pva + 8) true with
    | .ok da => s.batch (cellsAt da (leBytes 2 miss.toNat))
    | _ => s
  if p.period = 0 then s.disarm p.tenant p.num
  else
    { s with dev := { s.dev with timers := s.dev.timers.map fun (x : Timer) => if x.tenant == p.tenant && x.num == p.num then
        { x with missed := miss, time := BitVec.ofNat 64 (p.time.toNat + (m + 1) * p.period.toNat) } else x } }

/-- RINDEX of a released command (23 R328). -/
def Timer.rindex (p : Timer) : DWord := BitVec.ofNat 64 (0xFFFFFFFFFFFFE000 + p.num)

/-- A release skipped: its journal entry says so (23 R328). -/
def State.skipRelease (s : State) (p : Timer) : State :=
  (s.append { JEntry.plain .release p.tenant p.queue p.func p.rindex with cstatus := 0x06 }).advance p true

/-- A packet is to be released now, or its absent template to be asked for (23 R328): its time has come, and its function is not
paused. -/
def State.timerDue (s : State) (p : Timer) : Bool :=
  decide (p.time.toNat ≤ s.dev.time.toNat) && !(s.func p.func).any (fun f => f.run == .paused) && s.dev.pstate != .d3hot &&
  (match (s.queueOf p.tenant p.queue).map (·.en), s.span p.tenant p.tmpl 96 false true with
    | some true, .absent ds => !s.asked 17 0 ds
    | _, _ => true)

/-- `TIMER_RELEASE` (23 R328): a packet whose time has come is released into its queue, or skipped; one whose function is
paused, or whose template is absent, waits. -/
def execTimerRelease (tenant num : Nat) (s : State) : Res :=
  match s.dev.timers.find? fun x => x.tenant == tenant && x.num == num with
  | none => .next s
  | some p =>
    let paused := (s.func p.func).any fun f => f.run == .paused
    if s.dev.time.toNat < p.time.toNat || paused || s.dev.pstate == .d3hot then .next s
    else
      match s.queueOf tenant p.queue with
      | none => .next (s.skipRelease p)
      | some x =>
        if !x.en then .next (s.skipRelease p)
        else
          match s.span tenant p.tmpl 96 false true with
          | .bad => .next (s.skipRelease p)
          | .absent ds => .next (s.hostAsk 0 ds)
          | .ok bs =>
            if (pagesOf p.tmpl 96).any fun a => (s.walk tenant a).any fun w => (s.fitOf w.1).any fun e => e.owned then
              .next (s.skipRelease p)
            else
              let ws := dwords (bs.take 64)
              let h := wordAt ws 0
              let s := s.touchSpan tenant p.tmpl 96
              let s := s.append (JEntry.plain .release tenant p.queue p.func p.rindex)
              let s := s.acceptCmd ⟨tenant, p.queue, field h 48 16, field h 32 16, p.rindex, some (num, p.tmpl)⟩ p.func ws
              .next (s.advance p false)

end Sys2Proof.Machine
end

