-- ==== Sys2Proof/Machine/Switch.lean ====
section
/-! DEFINITION. Time, slices and tenant switches: `HEARTBEAT_TICK` (08 R134), `PERIOD_BOUNDARY` and `SLICE_START` (23 R319 to R322),
`STOP_REQUEST`, `CORE_HALT`, `STOP_TIMEOUT` (24 R339, R340), `SHADOW_EXCHANGE`, `IMAGE_SAVE`, `IMAGE_STAGE` (R341 to R344, 07 R117, 08
R133), `HALL_REVOCATION` and `HALL_SCRUB` (23 R323, 24 R345), `INTERRUPT_DELIVERY` (23 R329). -/
namespace Sys2Proof.Machine

/-! ## Time -/

/-- aclk in MHz: 1.5 GHz until firmware has set it (00 R2, 28 R382). -/
def Dev.mhz (d : Dev) : Nat := if d.aclk = 0 then 1500 else d.aclk

/-- The period that a device time lies in (23 R319). -/
def periodOf (time : DWord) : Nat := time.toNat / 100000

/-- A period boundary has come that has not been taken (23 R319, R320). -/
def Dev.periodDue (d : Dev) : Bool := decide (d.period < periodOf d.time)

/-- The next slice of the period has come (23 R319). -/
def Dev.sliceDue (d : Dev) : Bool := decide (d.slice < 4) && decide (100000 * d.period + 25000 * d.slice ≤ d.time.toNat)

/-- The step that the device time calls for before it goes on: a period boundary, a slice start, the release of a packet (23 R319,
R328). -/
def State.due (s : State) : Option Instr :=
  if s.dev.ready && s.dev.periodDue then some .periodBoundary
  else if s.dev.ready && s.dev.sliceDue then some .sliceStart
  else (s.dev.timers.find? s.timerDue).map fun p => .timerRelease p.tenant p.num

/-- `HEARTBEAT_TICK` (08 R134): 128 aclk cycles pass, once what the time calls for has been done. -/
def execHeartbeatTick (s : State) : Res :=
  if s.due.isSome then .next s
  else
    let n := s.dev.frac + 128000
    .next { s with dev := { s.dev with
      tick := s.dev.tick + 1
      time := s.dev.time + BitVec.ofNat 64 (n / s.dev.mhz)
      frac := n % s.dev.mhz } }

/-! ## Grant tables (23 R319 to R321) -/

/-- A grant-table entry (23 R320). -/
structure Grant where
  v    : Bool
  prim : Nat
  bv   : Bool
  borr : Nat
  deriving DecidableEq, Repr

/-- The fields of an entry. -/
def Grant.of (e : BitVec 16) : Grant := ⟨e.getLsbD 15, bitsN e.toNat 14 11, e.getLsbD 10, bitsN e.toNat 9 6⟩

/-- A tenant may be named for a hall: the hall is its partition's, or a margin hall in a wing where its partition holds a
guaranteed hall (23 R320). -/
def State.mayName (s : State) (h t : Nat) : Bool :=
  let p := (s.ctx t).part
  s.dev.guarHalls.contains (h, p) || s.dev.marginHalls.contains (h, p) ||
  (s.dev.marginHalls.any (fun x => x.1 == h) && s.dev.guarHalls.any fun x => x.2 == p && x.1 / 4 == h / 4)

/-- An entry of a hall as the device reads it: V is 0 where it names a tenant that it may not (23 R320). -/
def State.readGrant (s : State) (h : Nat) (e : BitVec 16) : Grant :=
  let g := Grant.of e
  if s.mayName h g.prim && (!g.bv || s.mayName h g.borr) then g else { g with v := false }

/-- The entry of a hall and slice in the table in use. -/
def State.grantAt (s : State) (h sl : Nat) : Grant := s.readGrant h (vget s.dev.grants (4 * h + sl) 0)

/-- `PERIOD_BOUNDARY` (23 R319, R320): at a multiple of 100,000 ns, the buffer that firmware marked ready is taken, or the previous
table used again; the scheduler reads the policy region of each tenant (28 R374). -/
def execPeriodBoundary (s : State) : Res :=
  if !s.dev.periodDue then .next s
  else
    let d := { s.dev with period := periodOf s.dev.time, slice := 0 }
    .next { s with
      ctxs := s.ctxs.map fun c => { c with asked := c.region }
      dev :=
      if d.marked then { d with grants := d.spareTable, spareTable := d.grants, marked := false } else { d with stale := d.stale + 1 } }

/-- A tenant has a gang resident on a hall: a workgroup placed there whose launch has not ended, switched out or not. -/
def State.residentOn (s : State) (h t : Nat) : Bool := (s.wgsOf t).any fun w => hallOf w.coreId == h

/-- A launch of a tenant that waits for admission could be placed on a hall, beside the tenant's own workgroups (23 R321,
log 35). -/
def State.placeableOn (s : State) (h t : Nat) : Bool :=
  s.launches.any fun l =>
    l.st == .waiting && l.cmd.tenant == t && s.thresholdMet l && s.coReady l &&
    (gangRuns l.desc.gang).any fun cs => cs.any (fun c => hallOf c == h) &&
      cs.all fun c => s.fits ((s.wgsOf t).filter fun w => w.coreId == c) l.desc

/-- The tenant that a hall runs in a slice, and whether it borrows (23 R321); a hall that was taken back is scrubbed first (24
R345). -/
def State.decide_ (s : State) (h sl : Nat) : Option Nat × Bool :=
  let g := s.grantAt h sl
  if !g.v || vget s.dev.revoked h false then (none, false)
  else if s.residentOn h g.prim || s.placeableOn h g.prim then (some g.prim, false)
  else if g.bv && (s.residentOn h g.borr || s.placeableOn h g.borr) then (some g.borr, true)
  else (none, false)

/-- `SLICE_START` (23 R319, R321): every 25,000 ns, each hall's tenant for the slice; DEBT rises for a borrower. A tenant with nothing
resident that no hall runs any more is switched out (24 R343, R344). -/
def execSliceStart (s : State) : Res :=
  if !s.dev.sliceDue then .next s
  else
    let ds := (List.range 32).map fun h => s.decide_ h s.dev.slice
    let at_ := fun (h : Nat) => (ds[h]?).getD (none, false)
    let s : State := { s with dev := { s.dev with
      slice := s.dev.slice + 1
      hallRun := Vector.ofFn fun h => (at_ h.val).1
      hallBorrow := Vector.ofFn fun h => (at_ h.val).2 } }
    .next (ds.foldl (fun s d => match d with
      | (some t, true) => s.modCtx t fun c => { c with debt := c.debt + 1 }
      | _ => s) s).tenantsLeave

/-! ## Stopping (24 R339, R340, 01 R48, 03 R76, 11 R173) -/

/-- Every hall that a launch's gang occupies is granted to its tenant, and no function of the tenant is paused (23 R322,
28 R375). -/
def State.granted (s : State) (l : Launch) : Bool :=
  l.cores.all (fun c => vget s.dev.hallRun (hallOf c) none == some l.cmd.tenant) &&
  !s.pausedTenant l.cmd.tenant

/-- A workgroup asked to stop: its groups, its sequencer, its landings; the core will halt. -/
def State.stopWg (s : State) (w : Workgroup) (t : Nat) : State :=
  let s := s.modGroups (fun g => g.wgId == w.id && g.st == .running) fun g => { g with stop := true }
  let s := s.modWg w.id fun w => { w with stop := true }
  (s.seqPreempt w.id).modCore w.coreId fun c => { c with stopFor := some t }

/-- The gangs for which p holds and that are not granted every hall asked to stop whole (23 R322). -/
def State.stopGangs (s : State) (p : Launch → Bool) : State :=
  let ls := s.allLaunches.filter fun l => l.lid != 0 && l.st == .running && p l && !s.granted l
  let ws := s.allWgs.filter fun w => w.id != 0 && w.place == .resident && !w.stop && ls.any fun l => l.lid == w.lid
  ws.foldl (fun s w => s.stopWg w ((s.tenantOf w).getD 0)) s

/-- `STOP_REQUEST` (24 R339): the gangs on a hall that their tenants' grants no longer cover are asked to stop. -/
def execStopRequest (hall : Nat) (s : State) : Res := .next (s.stopGangs fun l => l.cores.any fun c => hallOf c == hall)

/-- The workgroups on a core that are asked to stop. -/
def State.stopping (s : State) (c : Nat) : List Workgroup := (s.wgsOn c).filter (·.stop)

/-- Every group of a workgroup has stopped or ended (24 R339). -/
def State.wgQuiet (s : State) (w : Workgroup) : Bool :=
  s.allGroups.all fun g => g.wgId != w.id || g.st == .stopped || g.st == .ended || g.st == .absent

/-- The core that a step names halts. -/
def State.haltCore (s : State) (c : Nat) : State := s.modCore c fun k => { k with halted := true }

/-- `CORE_HALT` (24 R339): sequencers and jobs stand at boundaries between steps, so the groups decide. -/
def execCoreHalt (core : Nat) (s : State) : Res :=
  match s.findCore core with
  | none => .next s
  | some k =>
    if k.stopFor.isSome && !k.halted && (s.stopping core).all s.wgQuiet then .next (s.haltCore core) else .next s

/-- `STOP_TIMEOUT` (24 R340): a core forced to halt; the launches whose groups have not stopped there are cancelled with
0x51. -/
def execStopTimeout (core : Nat) (s : State) : Res :=
  match s.findCore core with
  | none => .next s
  | some k =>
    if k.stopFor.isSome && !k.halted then
      let ls := nub (((s.stopping core).filter fun w => !s.wgQuiet w).map (·.lid))
      let s := ls.foldl (fun s lid =>
        match s.findLaunch lid with
        | some l => (s.modErr l.cmd.tenant fun e => { e with stopto := satInc e.stopto }).haltLaunch lid true
        | none => s) s
      .next (s.haltCore core)
    else .next s

/-! ## The exchange (24 R341 to R344) -/

/-- The V registers of a group bound to no physical register: its image leaves the core (03 R76). -/
def Group.unbind (g : Group) : Group := { g with v := g.v.map fun r => { r with phys := none } }

/-- The images of some workgroups leave a core for its shadow storage. -/
def State.switchOut (s : State) (ws : List Workgroup) : State :=
  let ids := ws.map (·.id)
  let s := s.modGroups (fun g => ids.contains g.wgId) Group.unbind
  ids.foldl (fun s i => s.modWg i fun w => { w with place := .shadow }) s

/-- Logged arrivals added to the barriers of a workgroup (08 R133). -/
def Workgroup.applyLog (w : Workgroup) : Workgroup :=
  let w := w.arrLog.foldl (fun (w : Workgroup) a =>
    let b := w.softBar a.off
    match b.credit b.ticket a.arrivals a.bytes with
    | .ok b' => (w.setBar a.off b').carry a.off b' (b.phase + 1) a.jobs
    | .error _ => w) w
  { w with arrLog := [] }

/-- The live V registers of a group bound anew to the lowest free physical registers of its core (03 R76, log 19). -/
def State.rebind (s : State) (c w gid : Nat) : State :=
  (List.range 128).foldl (fun s n =>
    match s.findGroup w gid with
    | some g =>
      let r := g.vreg n
      if r.live != 0 && r.phys.isNone && !r.spilled then
        let k := s.freePhys c
        s.modGroup w gid fun g => g.modV n 1 fun _ r => { r with phys := some k }
      else s
    | none => s) s

/-- A workgroup goes on: its groups from their saved points, its sequencer, its landings (24 R343 step 4). -/
def State.restartWg (s : State) (w : Nat) : State :=
  let s := s.modWg w fun w => { w with stop := false }
  s.modGroups (fun g => g.wgId == w) fun g => { g with
    st := if g.st = .stopped then .running else g.st
    stop := false
    laneStop := false }

/-- Images return to their core: logged arrivals first, then registers, then the work. -/
def State.switchIn (s : State) (ws : List Workgroup) : State :=
  let s := ws.foldl (fun s w => s.modWg w.id fun w => ({ w with place := .resident } : Workgroup).applyLog) s
  ws.foldl (fun s w =>
    let gids := (s.allGroups.filter fun g => g.wgId == w.id && g.st != .absent && g.st != .ended).map (·.gid)
    (gids.foldl (fun s g => s.rebind w.coreId w.id g) s).restartWg w.id) s

/-- Bytes of a group in an image (24 R341): S, P, T, O, the V registers it maps, the trap registers. -/
def Group.imageBytes (g : Group) : Nat := 4 * 48 + 4 * 8 + 16 * 8 + 128 * 8 + 128 * g.mapped + 64

/-- Bytes of the image of some workgroups (24 R341), array runs last (log 82): scratchpad and hidden areas, groups, accumulators, M0 to
M15 and the reservation records, runs. -/
def State.imageBytes (s : State) (ws : List Workgroup) : Nat :=
  (ws.map fun w =>
    let d := s.descOf w
    d.spNeed + 2048 * d.accu + 640 + ((s.groupsOf [w]).map fun p => p.1.imageBytes + 128 * (d.xlen.toList.map runLen).sum).sum).sum

/-- What of an image does not fit 1 MiB of shadow storage: it goes to the save area (24 R341). -/
def State.beyond (s : State) (ws : List Workgroup) : Nat := s.imageBytes ws - 0x100000

/-- The workgroups of a tenant placed on a core whose images are out. -/
def State.imagesOf (s : State) (c t : Nat) : List Workgroup := (s.wgsOf t).filter fun w => w.coreId == c && w.place != .resident

/-- `SHADOW_EXCHANGE` (24 R342, R343): the halted core's stopped workgroups leave as the staged image enters; it waits
until the incoming tenant's image is staged and the shadow holds no other. A gang returns only when all its halls are
granted (23 R322). A core on which nothing was asked to stop is free to take an image (log 44). A tenant that comes in without an image
has its footprints and working set brought up all the same, and one all of whose stopped work has ended since goes out all the same
(24 R343 step 5). -/
def execShadowExchange (core : Nat) (s : State) : Res :=
  match s.findCore core with
  | none => .next s
  | some k =>
    let t := vget s.dev.hallRun (hallOf core) none
    let stopped := s.stopping core
    let gone := stopped.filter fun w => !(s.findLaunch w.lid).any s.granted
    let images := match t with
      | some t => s.imagesOf core t
      | none => []
    let back := images.filter fun w => (s.findLaunch w.lid).any s.granted
    let staged := back.isEmpty || k.shadow == t
    let room := k.shadow.isNone || (k.shadow == t && !back.isEmpty) || gone.isEmpty
    if (k.stopFor.isSome && !k.halted) || !staged || !room then .next s
    else
      let outT := gone.head?.bind s.tenantOf
      let s := images.foldl (fun s w => s.modWg w.id fun w => { w with place := .saved }) s
      let s := s.switchOut gone
      let s := s.switchIn back
      let s := (stopped.filter fun w => (s.findLaunch w.lid).any s.granted).foldl (fun s w => s.restartWg w.id) s
      let s := s.modCore core fun k => { k with
        halted := false
        stopFor := none
        shadow := if gone.isEmpty then (if back.isEmpty then k.shadow else none) else outT
        excess := if gone.isEmpty then (if back.isEmpty then k.excess else 0) else s.beyond gone }
      let s := match if gone.isEmpty then k.stopFor.filter fun o => t != some o else outT with
        | some o => s.tenantLeaves o
        | none => s
      .next ((match t with
        | some t => if back.isEmpty && k.stopFor.isNone && (s.ctx t).presence == Presence.here then s else s.tenantBack t
        | none => s).tenantsLeave.restPower)

/-- The images in a core's shadow storage moved to their save areas. -/
def State.saveImages (s : State) (core : Nat) : State :=
  let ids := (s.allWgs.filter fun w => w.id != 0 && w.coreId == core && w.place == .shadow).map (·.id)
  (ids.foldl (fun s i => s.modWg i fun w => { w with place := .saved }) s).modCore core fun k => { k with shadow := none, excess := 0 }

/-- `IMAGE_SAVE` (24 R342). -/
def execImageSave (core : Nat) (s : State) : Res := .next (s.saveImages core)

/-- The tenant that the grant tables name next for a hall after the one it runs: in the slices still to come, then in those of the
next period's table (24 R342, 23 R320). -/
def State.nextTenant (s : State) (h : Nat) : Option Nat :=
  let now := ((List.range 4).drop s.dev.slice).map fun i => vget s.dev.grants (4 * h + i) 0
  let then_ := (List.range 4).map fun i => vget (if s.dev.marked then s.dev.spareTable else s.dev.grants) (4 * h + i) 0
  ((now ++ then_).map (s.readGrant h)).findSome? fun g =>
    if g.v && some g.prim != vget s.dev.hallRun h none then some g.prim else none

/-- `IMAGE_STAGE` (24 R342): an image staged in an empty shadow: that of the tenant that the grant table names next for the core, or of
the tenant that takes the core now. -/
def execImageStage (core tenant : Nat) (s : State) : Res :=
  match s.findCore core with
  | none => .next s
  | some k =>
    let ws := (s.imagesOf core tenant).filter fun w => w.place == .saved
    let due := vget s.dev.hallRun (hallOf core) none == some tenant || s.nextTenant (hallOf core) == some tenant
    if k.shadow.isSome || ws.isEmpty || !due then .next s
    else
      .next ((ws.foldl (fun s w => s.modWg w.id fun w => { w with place := .shadow }) s).modCore core fun k =>
        { k with shadow := some tenant, excess := s.beyond ws })

/-! ## Revocation (23 R323, 24 R345) -/

/-- The partition whose margin hall a hall is. -/
def State.marginOf (s : State) (h : Nat) : Option Nat := (s.dev.marginHalls.find? fun x => x.1 == h).map (·.2)

/-- A margin hall of a partition is lent to a tenant of another. -/
def State.lent (s : State) (p h : Nat) : Bool :=
  s.marginOf h == some p && (vget s.dev.hallRun h none).any fun t => (s.ctx t).part != p

/-- A margin hall of a partition was taken back and is not yet scrubbed. -/
def State.returning (s : State) (p h : Nat) : Bool := s.marginOf h == some p && vget s.dev.revoked h false

/-- A margin hall that comes back or is lent, as long as it is kept for no waiting launch of another tenant. -/
def State.toHave (s : State) (l : Launch) (h : Nat) : Bool :=
  let p := (s.ctx l.cmd.tenant).part
  (s.returning p h || s.lent p h) && !(s.launches.any fun x =>
    x.lid == vget s.dev.takenFor h 0 && x.st == .waiting && x.cmd.tenant != l.cmd.tenant)

/-- The run of cores for whose sake margin halls are taken back: the lowest on the tenant's halls and those already taken for the
launch, or else the lowest on its halls and every one it may have (23 R323, R325). A run once chosen stays, whatever is lent
meanwhile (DESIGN CHOICE, log 102). -/
def State.wantRun (s : State) (l : Launch) : Option (List Nat) :=
  let own := fun h => vget s.dev.hallRun h none == some l.cmd.tenant
  match s.placeIn l fun h => own h || (s.toHave l h && vget s.dev.takenFor h 0 == l.lid) with
  | some cs => some cs
  | none => s.placeIn l fun h => own h || s.toHave l h

/-- A launch that waits would take a hall: it has no placement on some halls, and the run it is to have takes the hall (23 R323, R325). -/
def State.wants (s : State) (l : Launch) (without : Nat → Bool) (h : Nat) : Bool :=
  l.st == .waiting && s.thresholdMet l && s.coReady l && (s.placeIn l without).isNone &&
    (s.wantRun l).any fun cs => cs.any fun c => hallOf c == h

/-- A launch needs a lent hall: those that its tenant runs and those that come back to it do not hold it. -/
def State.launchNeeds (s : State) (l : Launch) (h : Nat) : Bool :=
  s.wants l (fun k => vget s.dev.hallRun k none == some l.cmd.tenant ||
    (s.returning (s.ctx l.cmd.tenant).part k && s.toHave l k)) h

/-- A launch takes a hall that has come back. -/
def State.launchTakes (s : State) (l : Launch) (h : Nat) : Bool :=
  s.wants l (fun k => vget s.dev.hallRun k none == some l.cmd.tenant) h

/-- A launch of a partition for which something holds: that of the lowest tenant, and of its launches the first (DESIGN CHOICE, log 102). -/
def State.launchFor (s : State) (p : Nat) (f : Launch → Bool) : Option Launch :=
  (List.range 16).findSome? fun t =>
    if (s.ctx t).valid && (s.ctx t).part == p then s.launches.find? fun l => l.cmd.tenant == t && f l else none

/-- The halls that a launch's run takes from others kept for it. -/
def State.keepHalls (s : State) (l : Launch) : Vector Nat 32 :=
  let hs := ((s.wantRun l).getD []).map hallOf
  s.dev.takenFor.mapIdx fun h x => if hs.contains h && s.toHave l h then l.lid else x

/-- The tenant that a hall which was taken back goes to: that of the launch it was taken for, where it still waits, else of one that takes it
(23 R323). -/
def State.takerOf (s : State) (p h : Nat) : Option Nat :=
  match s.launches.find? fun l => l.lid == vget s.dev.takenFor h 0 && l.st == .waiting with
  | some l => some l.cmd.tenant
  | none => (s.launchFor p fun l => s.launchTakes l h).map (·.cmd.tenant)

/-- `HALL_REVOCATION` (23 R323): a margin hall that another partition's tenant runs on is taken back as soon as a launch
of its own partition needs it: the borrower is asked to stop, and the run's halls are kept for that launch. -/
def execHallRevocation (hall : Nat) (s : State) : Res :=
  match s.marginOf hall, vget s.dev.hallRun hall none with
  | some p, some t =>
    match if (s.ctx t).part != p then s.launchFor p fun l => s.launchNeeds l hall else none with
    | some l =>
      let s : State := { s with dev := { s.dev with
        takenFor := s.keepHalls l
        hallRun := vset s.dev.hallRun hall none
        hallBorrow := vset s.dev.hallBorrow hall false
        revoked := vset s.dev.revoked hall true } }
      .next (s.stopGangs fun l => l.cores.any fun c => hallOf c == hall).tenantsLeave
    | none => .next s
  | _, _ => .next s

/-- A core scrubbed (24 R345): its registers and storage hold nothing. The view and the snapshot are no part of them: what it keeps of
its groups' stores stays (08 R121, R123). -/
def Core.wipe (k : Core) : Core := { k with halted := false, stopFor := none, shadow := none, excess := 0 }

/-- `HALL_SCRUB` (24 R345, 23 R323): once every core of a margin hall that was taken back has given up its work and every image has left,
their storage is zeros, and the hall goes to the tenant of its own partition that needs it. -/
def execHallScrub (hall : Nat) (s : State) : Res :=
  match s.marginOf hall with
  | some p =>
    let here := s.allWgs.any fun w => w.id != 0 && hallOf w.coreId == hall && w.place != .saved
    let full := s.allCores.any fun k => hallOf k.id == hall && (k.shadow.isSome || k.stopFor.isSome)
    if !vget s.dev.revoked hall false || here || full then .next s
    else
      let tenant := s.takerOf p hall
      let s := (List.range 8).foldl (fun s i => s.modCore (8 * hall + i) Core.wipe) s
      .next ({ s with dev := { s.dev with
        hallRun := vset s.dev.hallRun hall tenant, revoked := vset s.dev.revoked hall false, takenFor := vset s.dev.takenFor hall 0 } } :
          State).tenantsLeave
  | none => .next s

/-! ## Interrupts (23 R329) -/

/-- `INTERRUPT_DELIVERY` (23 R329): the oldest event of a function is sent, kept, or dropped. -/
def execInterruptDelivery (fn : Nat) (s : State) : Res :=
  match s.func fn with
  | none => .next s
  | some f =>
    match f.irqs with
    | [] => .next s
    | i :: is =>
      let s' := s.modFunc fn fun f => { f with irqs := is }
      if i.gen != f.gen then .next s'
      else if f.run != .running then .next s
      else if f.bound && !s.passes fn f.tenant then .next s'
      else .next { s' with dev := { s'.dev with msgs := s'.dev.msgs ++ [(fn, i.vec)] } }

end Sys2Proof.Machine
end

