-- ==== Sys2Proof/Machine/Tenancy.lean ====
section
/-! DEFINITION. Contexts and namespaces (23 R314, 28 R378), the teardown of a tenant (26 R367), and the function-level reset (23 R330,
25 R349). -/
namespace Sys2Proof.Machine

/-! ## Teardown (26 R367) -/

/-- Launches torn down: cancelled; then what they had issued meets its porters, whose failures count; then they end (26 R367, 17 R304, 01
R45). -/
def State.tearLaunches (s : State) (lids : List Nat) : State :=
  let s := lids.foldl (fun s l => s.haltLaunch l true) s
  lids.foldl (fun s l => s.endLaunch l false) (State.meetPorters lids s.porterWork s)

/-- The accepted `LAUNCH`es that stand in some queues. -/
def State.launchCmds (s : State) (p : Queue → Bool) : List Cmd :=
  ((s.queues.filter p).flatMap (·.cmds)).filter fun k =>
    match cmdInstr k with
    | some (.launch _ _) => true
    | _ => false

/-- The launches of a tenant that have not ended. -/
def State.launchesOf (s : State) (t : Nat) : List Nat :=
  (s.allLaunches.filter fun l => l.lid != 0 && l.st != .ended && l.cmd.tenant == t).map (·.lid)

/-- Frames of a tenant other than its table frames. -/
def State.dataFrames (s : State) (t : Nat) : List Nat := (s.fit.filter fun e => e.tenant == t && !e.table).map (·.dfn)

/-- Table frames of a tenant below its root (23 R314, R315). -/
def State.lowerTables (s : State) (t : Nat) : List Nat :=
  let r := (s.ctx t).root
  (s.fit.filter fun e => e.tenant == t && e.table && e.dfn != r && e.dfn != r + 1).map (·.dfn)

/-- Records of a tenant free, no count changed (10 R146). -/
def State.freeTree (s : State) (t : Nat) : State :=
  { s with tree := s.tree.map fun r => if r.tenant == t then { r with kind := .free, parent := 0, nchild := 0 } else r }

/-- SPDM sessions that are left without those of a tenant's functions. -/
def State.sessionsLeft (s : State) (t : Nat) : List Session :=
  s.dev.sessions.filter fun x => !(s.func x.fn).any fun f => f.of t

/-- Vault, streams, frame key and measurement of a context discarded. -/
def Ctx.discard (c : Ctx) : Ctx :=
  { c with vault := [], streams := [], frameKey := 0, tmr := 0, tmrPlug := 0, workset := [], snap := [], snapPages := [], sent := [] }

/-- Steps 1 to 4 of a teardown (26 R367): launches cancelled and ended, those that stand in a queue with them; keys (with them what the tenant's namespaces hold, R366), streams,
sessions and measurement discarded; frames written with zeros and freed, with the records of the tree; shadow images gone. The page table then
maps nothing: its root is zeros and the tables below it are freed (log 37). -/
def State.teardown (s : State) (t : Nat) : State :=
  let s := s.tearLaunches (s.launchesOf t)
  let s := (s.launchCmds fun x => x.tenant == t).foldl State.abortLaunch s
  let s : State := { s with dev := { s.dev with sessions := s.sessionsLeft t } }
  let s := s.modCtx t Ctx.discard
  let s := (s.dataFrames t ++ s.lowerTables t).foldl State.dropFrame s
  let r := (s.ctx t).root
  let s := if (s.ctx t).valid then (s.scrubFrame r).scrubFrame (r + 1) else s
  let s := s.freeTree t
  { s with
    core := if s.core.shadow = some t then { s.core with shadow := none, excess := 0 } else s.core
    cores := s.cores.map fun k => if k.shadow = some t then { k with shadow := none, excess := 0 } else k }

/-! ## Commands aborted (23 R330, 25 R349) -/

/-- The ABORT entry of a command. -/
def State.abortCmd (s : State) (c : CmdRef) (fn lid : Nat) : State :=
  s.append { JEntry.plain .abort c.tenant c.queue fn c.rindex with lid := BitVec.ofNat 32 lid }

/-- The commands of a queue that are not yet carried out aborted, and the queue disabled. -/
def State.abortQueue (s : State) (x : Queue) : State :=
  let s := x.cmds.foldl (fun s k => s.abortCmd k.ref x.func k.lid) s
  s.modQueue x.tenant x.q fun x => { x with en := false, enPend := false, stall := false, cmds := [], busy := none }

/-! ## Contexts (23 R314) -/

/-- RESULT of a tenant's context-control block. -/
def State.ctxResult (s : State) (t : Nat) (r : BitVec 8) : State := s.modCtx t fun c => { c with result := r }

/-- Quotas promised to the contexts that exist. -/
def State.promised (s : State) (f : Ctx → Nat) : Nat := ((s.ctxs.toList.filter (·.valid)).map f).sum

/-- The partition holds a hall (23 R319). -/
def State.partHolds (s : State) (p : Nat) : Bool :=
  s.dev.guarHalls.any (fun x => x.2 == p) || s.dev.marginHalls.any fun x => x.2 == p

/-- A root table: two consecutive frames of zeros in no address space (07 R104). -/
def State.newRoot (s : State) (t : Nat) : Option (State × Nat) :=
  match s.freeDfn 2, s.home with
  | some d, some (ta, la) =>
    let s1 := s.addFrame (FitEntry.fresh d t false true ta la)
    match s1.home with
    | some (tb, lb) =>
      some (((s1.addFrame (FitEntry.fresh (d + 1) t false true tb lb)).scrubFrame d).scrubFrame (d + 1), d)
    | none => none
  | _, _ => none

/-- The context of a CREATE with the settings of CCFG. -/
def Ctx.create (c : Ctx) (root : Nat) (key : BitVec 256) : Ctx :=
  let b := c.ccfg.toNat
  { Ctx.none with
    ccfg := c.ccfg
    valid := true
    prot := c.ccfg.msb
    part := bitsN b 59 56
    recq := bitsN b 55 32
    frameq := bitsN b 31 0
    root := root
    result := 0x01
    frameKey := if c.ccfg.msb then key else 0
    debt := c.debt
    policy := c.policy
    region := c.region
    asked := c.asked
    presence := c.presence }

/-- A context created as CCFG says, or the RESULT of the refusal: one exists, the quotas exceed what the device has free (log 38), or
the partition holds no hall (23 R314). -/
def State.createCtx (s : State) (t : Nat) : Except (BitVec 8) State :=
  let c := s.ctx t
  let b := c.ccfg.toNat
  if c.valid then .error 0x02
  else if s.tierSize .a + s.tierSize .b < s.promised (·.frameq) + bitsN b 31 0 ||
      Config.treeRecords < s.promised (·.recq) + bitsN b 55 32 then .error 0x04
  else if !s.partHolds (bitsN b 59 56) then .error 0x05
  else
    match s.newRoot t with
    | none => .error 0x04
    | some (s', root) => .ok (({ s' with free := s'.free + 1 } : State).modCtx t fun c => c.create root (Config.frameKey s'.free))

/-- `CONTEXT_CREATE` (23 R314); before bring-up has ended nothing carries the request out. -/
def execContextCreate (t : Nat) (s : State) : Res :=
  if 16 ≤ t || !s.dev.ready then .next s
  else
    match s.createCtx t with
    | .ok s' => .next s'
    | .error r => .next (s.ctxResult t r)

/-- The functions of a tenant. -/
def State.funcsOf (s : State) (t : Nat) : List Nat :=
  (List.range s.funcs.length).filter fun i => (s.func i).any fun f => f.of t

/-- `CONTEXT_DELETE` (23 R314): refused where none exists; else steps 1 to 4 of 26 R367, the tenant's namespaces deleted, its
table frames freed, VALID cleared, its queues disabled and its VFs in CONFIG_UNLOCKED; for a protected tenant the journal records a RESET
entry, of its first VF (26 R367, log 90). -/
def execContextDelete (t : Nat) (s : State) : Res :=
  if 16 ≤ t || !s.dev.ready then .next s
  else if !(s.ctx t).valid then .next (s.ctxResult t 0x02)
  else
    let prot := (s.ctx t).prot
    let s := s.teardown t
    let mine := (List.range 16).filter fun n => (vget s.nss n Namespace.none).valid && (vget s.nss n Namespace.none).owner == t
    let r := (s.ctx t).root
    let s := (s.dropFrame r).dropFrame (r + 1)
    let s := (s.queues.filter fun x => x.tenant == t).foldl State.abortQueue s
    let s := s.modCtx t fun c => { Ctx.none with
      ccfg := c.ccfg, result := 0x01, debt := c.debt, err := c.err, policy := c.policy, region := c.region, asked := c.asked
      presence := c.presence }
    let s := if prot then s.append (JEntry.plain .reset t 0 ((s.funcsOf t).head?.getD 0) 0) else s
    .next { s with
      dev := { s.dev with
        vault := s.dev.vault.filter fun v => !mine.contains v.1, sealedKeys := s.dev.sealedKeys.filter fun v => !mine.contains v.1 }
      flash := s.flash.filter fun p => !mine.contains p.1.1
      nss := s.nss.map fun n => if n.valid && n.owner == t then { Namespace.none with ncfg := n.ncfg, result := n.result } else n
      funcs := s.funcs.mapIdx fun i f => if i != 0 && f.of t then { f with tdisp := .unlocked } else f }

/-! ## Namespaces (28 R378) -/

/-- A namespace. -/
def State.ns (s : State) (n : Nat) : Namespace := vget s.nss n Namespace.none

/-- A namespace changed. -/
def State.modNs (s : State) (n : Nat) (f : Namespace → Namespace) : State := { s with nss := vset s.nss n (f (s.ns n)) }

/-- The highest vault slot of a tenant that holds no key, where the key of a namespace goes (log 39). -/
def Ctx.topSlot (c : Ctx) : Option Nat := ((List.range 256).map (255 - ·)).find? fun k => c.vault.all fun v => v.slot != k

/-! ### Sealed keys (26 R360) -/

/-- The sealing key: from the sealing secret, MR0 to MR3, and what a tenant adds, if any (26 R360, R366). -/
def Dev.sealWith (d : Dev) (part : List Byte) : BitVec 256 :=
  let mr := fun (i : Nat) => leBytes 64 (vget d.mr i 0).toNat
  let m := beBytes 32 (Config.sealingSecret Config.uniqueSecret).toNat ++ mr 0 ++ mr 1 ++ mr 2 ++ mr 3 ++ part
  BitVec.ofNat 256 (beNat ((shake256 m).take 32))

/-- The code of a USE in a blob. -/
def useCode : KeyUse → Byte
  | .cipherIn => 0
  | .flash => 1
  | .frame => 2

/-- The 50 bytes of a key with its attributes (log 41). -/
def VaultKey.bytes (k : VaultKey) : List Byte :=
  keyBytes k.key ++ [useCode k.use, if k.exportable then 1 else 0] ++ beBytes 16 k.owner.toNat

/-- The key of a new namespace put in a FLASH slot: of its owner's vault, or of the device's own, where it is kept sealed with no tenant part
(26 R366). -/
def State.holdKey (s : State) (n owner : Nat) (slot : Option Nat) (key : BitVec 256) : State :=
  let v : VaultKey := ⟨slot.getD 0, key, .flash, false, 0⟩
  match slot with
  | some _ => s.modCtx owner fun c => { c with vault := c.vault ++ [v] }
  | none => { s with dev := { s.dev with
      vault := s.dev.vault ++ [(n, key)], sealedKeys := s.dev.sealedKeys ++ [(n, keyWrap (s.dev.sealWith []) v.bytes)] } }

/-- The key of a namespace deleted (26 R366). -/
def State.dropKey (s : State) (n : Nat) : State :=
  match (s.ns n).slot with
  | some k => s.modCtx (s.ns n).owner fun c => { c with vault := c.vault.filter fun v => !(v.slot == k && v.use == .flash) }
  | none => { s with dev := { s.dev with
      vault := s.dev.vault.filter fun v => v.1 != n, sealedKeys := s.dev.sealedKeys.filter fun v => v.1 != n } }

/-- No die of the flash has a spare block left (28 R380). -/
def Dev.noSpareBlock (d : Dev) : Bool := decide (1024 ≤ d.noBlocks.length)

/-- `NAMESPACE_CREATE` (28 R378): refused where the namespace exists or its owner has no context, or where all namespaces would
exceed the user capacity; also where the vault of a protected owner has no slot for the key (log 39). -/
def execNamespaceCreate (n : Nat) (s : State) : Res :=
  if 16 ≤ n || !s.dev.ready then .next s
  else
    let x := s.ns n
    let owner := bitsN x.ncfg.toNat 63 60
    let pages := bitsN x.ncfg.toNat 33 0
    if x.valid || !(s.ctx owner).valid then .next (s.modNs n fun x => { x with result := 0x02 })
    else if Config.userPages < ((s.nss.toList.filter (·.valid)).map (·.pages)).sum + pages ||
        ((s.ctx owner).prot && (s.ctx owner).topSlot.isNone) then
      .next (s.modNs n fun x => { x with result := 0x04 })
    else
      let slot := if (s.ctx owner).prot then (s.ctx owner).topSlot else none
      let s := ({ s with free := s.free + 1 } : State).holdKey n owner slot (Config.xtsKey s.free)
      .next (s.modNs n fun x => { x with
        valid := true, rdonly := s.dev.noSpareBlock, owner := owner, pages := pages, result := 0x01, slot := slot, written := [] })

/-- A launch or a job of the owner names a namespace (28 R378). -/
def State.nsUsed (s : State) (n : Nat) : Bool :=
  (s.allLaunches.any fun l => l.lid != 0 && l.st != .ended && l.desc.pageGrid && l.desc.nsid == n && l.cmd.tenant == (s.ns n).owner) ||
  s.jobs.any fun j => j.regions.any fun r => r.kind == 3 && r.nsid.toNat == n

/-- `NAMESPACE_DELETE` (28 R378): the key goes, and with it the pages. -/
def execNamespaceDelete (n : Nat) (s : State) : Res :=
  if 16 ≤ n || !s.dev.ready then .next s
  else
    let x := s.ns n
    if !x.valid then .next (s.modNs n fun x => { x with result := 0x02 })
    else if s.nsUsed n then .next (s.modNs n fun x => { x with result := 0x05 })
    else
      let s := s.dropKey n
      let s : State := { s with flash := s.flash.filter fun p => p.1.1 != n }
      .next (s.modNs n fun x => { Namespace.none with ncfg := x.ncfg, result := 0x01 })

/-! ## Function-level reset (23 R330, 25 R349) -/

/-- The launches of a function that will complete. -/
def State.launchesOn (s : State) (fn : Nat) : List Launch :=
  s.allLaunches.filter fun l => l.lid != 0 && l.st != .ended && !l.mute && l.func == fn

/-- TDISP state after a function-level reset: only STOP_INTERFACE_REQUEST leaves ERROR (26 R362). -/
def Tdisp.reset : Tdisp → Tdisp
  | .error => .error
  | _ => .unlocked

/-- A function after its reset: GEN rises, what it held is gone. -/
def Func.flr (f : Func) : Func := { f with gen := f.gen + 1, held := [], tdisp := f.tdisp.reset }

/-- Completion records of a function that wait for their mirroring are not written (23 R330). -/
def JEntry.hush (e : JEntry) (fn : Nat) : JEntry := if e.func = fn then { e with record := none } else e

/-- `FUNCTION_LEVEL_RESET` (23 R330, 25 R349): ABORT entries for the accepted commands and launches of the function, then its
RESET entry; its queues are disabled, so that a later NOTIFY is dropped; its launches end ABORTED without a record. -/
def execFunctionLevelReset (fn : Nat) (s : State) : Res :=
  match s.func fn with
  | none => .next s
  | some f =>
    let qs := s.queues.filter fun x => x.func == fn
    let ls := s.launchesOn fn
    let s := ls.foldl (fun s l => s.abortCmd l.cmd fn l.lid) s
    let s := qs.foldl State.abortQueue s
    let s : State := { s with dev := { s.dev with journal := s.dev.journal.map fun e => e.hush fn } }
    let s := s.append (JEntry.plain .reset f.tenant 0 fn 0)
    let s := s.modFunc fn Func.flr
    .next (ls.foldl (fun s l => (s.modLaunch l.lid fun l => { l with mute := true }).cancelLaunch l.lid true) s)

end Sys2Proof.Machine
end

