-- ==== Sys2Proof/Machine/Registers.lean ====
section
/-! DEFINITION. The registers of BAR0 (28 R370, R371, 23 R309, R314, 24 R338, R347, 26 R361, R363, 28 R372, R378, R379): what a read
returns, and the writes that have no behaviour of their own; locked configuration (26 R362). -/
namespace Sys2Proof.Machine

/-! ## TDISP errors (26 R361) -/

/-- The accepted `LAUNCH`es that stand in the queues of a function. -/
def State.launchCmdsOn (s : State) (fn : Nat) : List Cmd := s.launchCmds fun x => x.func == fn

/-- An interface moved to ERROR: every launch of the VF ends ABORTED and counts in DABORT. -/
def State.toError (s : State) (fn : Nat) (cause : BitVec 4) : State :=
  let ls := s.launchesOn fn
  let ks := s.launchCmdsOn fn
  let s := s.modFunc fn fun f => { f with tdisp := .error, cause := cause }
  ks.foldl State.abortLaunch (ls.foldl (fun s l => s.cancelLaunch l.lid true) s)

/-- The configuration of a function is locked. -/
def Func.locked (f : Func) : Bool := f.tdisp == .locked || f.tdisp == .run

/-- A write that would change configuration: dropped where it is locked, with ERROR and CAUSE 1 (26 R362). -/
def State.lockedWrite (s : State) (fn : Nat) (same : Bool) (eff : State → State) : State :=
  match s.func fn with
  | none => s
  | some f => if same then s else if fn != 0 && f.locked then s.toError fn 1 else eff s

/-- `CONFIG_WRITE` (26 R362): a BAR or a register of MSI-X of a function, by its number. -/
def execConfigWrite (fn reg : Nat) (v : DWord) (s : State) : Res :=
  let old := (((s.func fn).bind fun f => f.cfg.find? fun c => c.1 == reg).map (·.2)).getD 0
  .next (s.lockedWrite fn (old == v) fun s => s.modFunc fn fun f =>
    { f with cfg := f.cfg.filter (fun c => c.1 != reg) ++ [(reg, v)] })

/-! ## Error records (24 R338, R347) -/

/-- Count k of an error record, from the most significant: UNCORR is 0. -/
def ErrRec.count (e : ErrRec) (k : Nat) : Word :=
  match k with
  | 0 => e.uncorr
  | 1 => e.poison
  | 2 => e.stopto
  | 3 => e.dblf
  | 4 => e.tagf
  | 5 => e.integ
  | 6 => e.dabort
  | _ => 0

/-- Count k of an error record set. -/
def ErrRec.setCount (e : ErrRec) (k : Nat) (v : Word) : ErrRec :=
  match k with
  | 0 => { e with uncorr := v }
  | 1 => { e with poison := v }
  | 2 => { e with stopto := v }
  | 3 => { e with dblf := v }
  | 4 => { e with tagf := v }
  | 5 => { e with integ := v }
  | 6 => { e with dabort := v }
  | _ => e

/-- The count at a byte offset of an error record: the last four bytes hold the most significant. -/
def countAt (off : Nat) : Nat := 7 - off % 32 / 4

/-! ## Writes -/

/-- LOG2SIZE as it is written (23 R309). -/
def log2Written (v : DWord) : Nat := if 4 ≤ bitsN v.toNat 4 0 && bitsN v.toNat 4 0 ≤ 16 then bitsN v.toNat 4 0 else 4

/-- A write to the block of a queue (23 R309): QBASE, LOG2SIZE where EN is 0, CQBASE, IVEC. EN and NOTIFY have steps of
their own. -/
def State.queueWrite (s : State) (fn : Nat) (x : Queue) (off : Nat) (v : DWord) : State :=
  let set := fun (s : State) (f : Queue → Queue) => s.modQueue x.tenant x.q f
  match off with
  | 0x00 => s.lockedWrite fn (x.qbase == v) fun s => set s fun x => { x with qbase := v }
  | 0x08 =>
    if x.en then s else s.lockedWrite fn (x.log2 == log2Written v) fun s => set s fun x => { x with log2 := log2Written v }
  | 0x10 => s.lockedWrite fn (x.cqbase == v) fun s => set s fun x => { x with cqbase := v }
  | 0x30 => s.lockedWrite fn (x.ivec == v.toNat % 2048) fun s => set s fun x => { x with ivec := v.toNat % 2048 }
  | _ => s

/-- A write to a register of BAR0 that the PF alone has (28 R370). -/
def State.pfWrite (s : State) (off : Nat) (v : DWord) : State :=
  if 0x20000 ≤ off && decide (off < 0x20200) then
    s.modErr ((off - 0x20000) / 32) fun e => e.setCount (countAt off) (field v 0 32)
  else if 0x20200 ≤ off && decide (off < 0x20220) then
    { s with dev := { s.dev with corrected := vset s.dev.corrected (countAt off) (field v 0 32) } }
  else if 0x140000 ≤ off && decide (off < 0x140400) && off % 64 == 0 then
    s.modCtx ((off - 0x140000) / 64) fun c => { c with ccfg := v &&& 0x8FFFFFFFFFFFFFFF }
  else if 0x140400 ≤ off && decide (off < 0x140800) && off % 64 == 0 then
    s.modNs ((off - 0x140400) / 64) fun n => { n with ncfg := v &&& 0xF0000003FFFFFFFF }
  else s

/-- `REGISTER_WRITE` (28 R370): a write to BAR0 of a function at an offset; counts of error records are words of 32 bits,
the other registers of 64 (log 40). Any other offset ignores it. -/
def execRegisterWrite (fn off : Nat) (v : DWord) (s : State) : Res :=
  match s.func fn with
  | none => .next s
  | some f =>
    if 0x10000 ≤ off && decide (off < 0x11000) then
      match s.queueAt fn ((off - 0x10000) / 64) with
      | some x => .next (s.queueWrite fn x (off % 64) v)
      | none => .next s
    else if fn = 0 then .next (s.pfWrite off v)
    else if 0x20000 ≤ off && decide (off < 0x20020) then
      .next (s.modErr f.tenant fun e => e.setCount (countAt off) (field v 0 32))
    else .next s

/-- `PWRLIM_WRITE` (28 R371), a register of the PF: clamped to 1,000 to 3,400 W. -/
def execPwrlimWrite (v : Word) (s : State) : Res :=
  let w := v.toNat % 4096
  if (s.func 0).isNone then .next s
  else .next { s with dev := { s.dev with watts := BitVec.ofNat 12 (if w < 1000 then 1000 else if 3400 < w then 3400 else w) } }

/-! ## Reads -/

/-- The code of a PSTATE (28 R371). -/
def PState.code : PState → Nat
  | .active => 0
  | .capped => 1
  | .idle => 2
  | .d3hot => 3

/-- The code of a TDISP state (26 R361). -/
def Tdisp.code : Tdisp → Nat
  | .unlocked => 0
  | .locked => 1
  | .run => 2
  | .error => 3

/-- A bit as a number. -/
def bitN (b : Bool) : Nat := if b then 1 else 0

/-- DEVSTAT (28 R371). -/
def Dev.devstat (d : Dev) : Nat :=
  bitN d.ready * 2 ^ 31 + PState.code d.pstate * 2 ^ 28 + d.aclk % 4096 * 2 ^ 16 + (d.spares.toList.filter id).length * 2 ^ 8 + d.stage

/-- The TDISP state register of a VF (26 R361). -/
def Func.tdispReg (f : Func) : Nat := f.cause.toNat * 256 + bitN f.ide * 8 + Tdisp.code f.tdisp

/-- A register of a queue block (23 R309). -/
def Queue.reg (x : Queue) (off : Nat) : Nat :=
  match off with
  | 0x00 => x.qbase.toNat
  | 0x08 => bitN x.en * 2 ^ 63 + x.tenant * 2 ^ 52 + x.log2
  | 0x10 => x.cqbase.toNat
  | 0x20 => x.ridx.toNat
  | 0x30 => x.ivec
  | _ => 0

/-- A register of a context-control block (23 R314). -/
def Ctx.reg (c : Ctx) (off : Nat) : Nat :=
  match off with
  | 0x00 => c.ccfg.toNat
  | 0x10 => bitN c.valid * 2 ^ 63 + bitN c.prot * 2 ^ 62 + c.part * 2 ^ 58 + c.result.toNat
  | 0x18 => c.root
  | _ => 0

/-- A register of a namespace-control block (28 R378). -/
def Namespace.reg (n : Namespace) (off : Nat) : Nat :=
  match off with
  | 0x00 => n.ncfg.toNat
  | 0x10 => bitN n.valid * 2 ^ 63 + bitN n.rdonly * 2 ^ 62 + n.owner * 2 ^ 58 + n.pages * 2 ^ 8 + n.result.toNat
  | _ => 0

/-- The 128 bits of a cipher stream record (26 R363). -/
def Ctx.streamReg (c : Ctx) (n : Nat) : Nat :=
  match c.streams.find? fun x => x.n == n with
  | some x => 2 ^ 127 + x.slot * 2 ^ 112 + x.fixed.toNat * 2 ^ 64 + x.next.toNat
  | .none => 0

/-- The 128 bits of entry i of the capacity log, a ring of 256 (28 R379). -/
def Dev.capReg (d : Dev) (i : Nat) : Nat :=
  match (d.caplog.zipIdx.filter fun p => p.2 % 256 == i).getLast? with
  | some (c, _) => c.jseq % 2 ^ 64 * 2 ^ 64 + c.part.toNat * 2 ^ 56 + c.unit.toNat * 2 ^ 32 + c.left.toNat
  | none => 0

/-- The 512 bits of entry i of the journal window (28 R372). -/
def Dev.journalReg (d : Dev) (i : Nat) : Nat :=
  match (d.journal.filter fun e => (e.jseq - 1) % Config.journalEntries == i).getLast? with
  | some e => e.bits
  | none => 0

/-- 32 bytes of an error record. -/
def ErrRec.bits (e : ErrRec) : Nat := (List.range 7).foldl (fun n k => n + (e.count k).toNat * 2 ^ (224 - 32 * k)) 0

/-- The device error record (24 R347). -/
def Dev.errBits (d : Dev) : Nat := (List.range 7).foldl (fun n k => n + (vget d.corrected k 0).toNat * 2 ^ (224 - 32 * k)) 0

/-- Word i of 64 bits. -/
def word64 (b i : Nat) : Nat := b / 2 ^ (64 * i) % 2 ^ 64

/-- What a read of the 64-bit word at an offset of BAR0 of the PF alone returns (28 R370). -/
def State.pfRead (s : State) (off : Nat) : Nat :=
  if 0x20000 ≤ off && decide (off < 0x20200) then word64 (s.ctx ((off - 0x20000) / 32)).err.bits (off % 32 / 8)
  else if 0x20200 ≤ off && decide (off < 0x20220) then word64 s.dev.errBits (off % 32 / 8)
  else if off = 0x30000 then s.dev.devstat
  else if off = 0x30008 then s.dev.jhead
  else if off = 0x30010 then s.dev.watts.toNat
  else if 0x31000 ≤ off && decide (off < 0x32000) then word64 (s.dev.capReg ((off - 0x31000) / 16)) (off % 16 / 8)
  else if 0x40000 ≤ off && decide (off < 0x140000) then word64 (s.dev.journalReg ((off - 0x40000) / 64)) (off % 64 / 8)
  else if 0x140000 ≤ off && decide (off < 0x140400) then (s.ctx ((off - 0x140000) / 64)).reg (off % 64)
  else if 0x140400 ≤ off && decide (off < 0x140800) then (s.ns ((off - 0x140400) / 64)).reg (off % 64)
  else 0

/-- What a read of the 64-bit word at an offset of BAR0 of a VF alone returns (28 R370). -/
def State.vfRead (s : State) (f : Func) (off : Nat) : Nat :=
  if 0x20000 ≤ off && decide (off < 0x20020) then word64 (s.ctx f.tenant).err.bits (off % 32 / 8)
  else if off = 0x20040 then f.tdispReg
  else if 0x21000 ≤ off && decide (off < 0x22000) then word64 ((s.ctx f.tenant).streamReg ((off - 0x21000) / 16)) (off % 16 / 8)
  else 0

/-- What a read of the 64-bit word at an offset, a multiple of 8, of BAR0 of a function returns (28 R370); any other
offset reads 0. -/
def State.regRead (s : State) (fn off : Nat) : DWord :=
  match s.func fn with
  | none => 0
  | some f =>
    BitVec.ofNat 64 (
      if 0x10000 ≤ off && decide (off < 0x11000) then ((s.queueAt fn ((off - 0x10000) / 64)).map fun x => x.reg (off % 64)).getD 0
      else if fn = 0 then s.pfRead off
      else s.vfRead f off)

end Sys2Proof.Machine
end

