-- ==== Sys2Proof/Machine/Trust.lean ====
section
/-! DEFINITION. Trust (26): the TDISP messages (R361, R362, R367), the requests of a secured session to the key vault (R359, R360, R363),
identity, sessions and measurements (R356 to R358), and the boot chain (R355, 28 R373, R381). -/
namespace Sys2Proof.Machine

/-! ## TDISP (26 R361, R367) -/

/-- A TDISP message to a VF; the PF is no device interface. -/
def State.tdispMsg (s : State) (fn : Nat) (eff : Func → State) : State :=
  match s.func fn with
  | some f => if fn = 0 then s else eff f
  | none => s

/-- `LOCK_INTERFACE_REQUEST` (26 R361). -/
def execLockInterfaceRequest (fn : Nat) (s : State) : Res :=
  .next (s.tdispMsg fn fun f =>
    if f.tdisp = .unlocked && f.ide then s.modFunc fn fun f => { f with tdisp := .locked } else s)

/-- What a responder answers, in order (26 R358, R359, R362). -/
def State.respond (s : State) (r : Reply) : State := { s with dev := { s.dev with replies := s.dev.replies ++ [r] } }

/-- `START_INTERFACE_REQUEST` (26 R361): from any state but CONFIG_LOCKED it receives an error response (R362). -/
def execStartInterfaceRequest (fn : Nat) (s : State) : Res :=
  .next (s.tdispMsg fn fun f =>
    if f.tdisp = .locked then s.modFunc fn fun f => { f with tdisp := .run } else s.respond (.startError fn))

/-- `STOP_INTERFACE_REQUEST` (26 R367): a protected tenant is torn down and the journal records a RESET entry; the VF enters
CONFIG_UNLOCKED. -/
def execStopInterfaceRequest (fn : Nat) (s : State) : Res :=
  .next (s.tdispMsg fn fun f =>
    let s := if f.bound && (s.ctx f.tenant).valid && (s.ctx f.tenant).prot then
        (s.teardown f.tenant).append (JEntry.plain .reset f.tenant 0 fn 0)
      else s
    s.modFunc fn fun f => { f with tdisp := .unlocked })

/-- `IDE_STREAM_ESTABLISH` (26 R351, R361). -/
def execIdeStreamEstablish (fn : Nat) (s : State) : Res :=
  match s.func fn with
  | some _ => .next (s.modFunc fn fun f => { f with ide := true })
  | none => .next s

/-- `IDE_LOSS` (26 R361): the stream of a VF is lost and its interface enters ERROR with CAUSE 2; the PF only loses its
stream. -/
def execIdeLoss (fn : Nat) (s : State) : Res :=
  match s.func fn with
  | none => .next s
  | some f =>
    if f.ide then
      let s := s.modFunc fn fun f => { f with ide := false }
      .next (if fn = 0 then s else s.toError fn 2)
    else .next s

/-- `FIRMWARE_INTERFACE_ERROR` (26 R361). -/
def execFirmwareInterfaceError (fn : Nat) (s : State) : Res := .next (s.tdispMsg fn fun _ => s.toError fn 3)

/-! ## The key vault (26 R359, R360) -/

/-- OWNERTAG of the requester of a session: the first 16 bytes of SHAKE256 of its public key (26 R359). -/
def Session.ownerTag (x : Session) : BitVec 128 := BitVec.ofNat 128 (beNat ((shake256 x.key).take 16))

/-- A session after one more request. -/
def State.countReq (s : State) (session : Nat) : State :=
  { s with dev := { s.dev with sessions := s.dev.sessions.map fun x => if x.id == session then { x with seq := x.seq + 1 } else x } }

/-- 32 bytes as the session protects them: under the counter stream of AES-256-GCM, whose IV takes in the number of the request (26
R358; log 87). The tag is checked before the request is one, as that of every message of the session. -/
def Session.opened (x : Session) (c : BitVec 256) : BitVec 256 :=
  let iv := beBytes 12 (Config.sessionIv x.secret ^^^ BitVec.ofNat 96 x.seq).toNat
  BitVec.ofNat 256 (beNat (gcmStream (roundKeys (keyBytes x.secret)) iv (keyBytes c)))

/-- A vendor-defined request inside a session of a tenant's function, to a slot that holds no key with a different OWNERTAG; the effect
is given the tenant, the session and the slot's key, and answers none where it refuses too (26 R359). -/
def State.vaultReq (s : State) (session slot : Nat) (eff : Nat → Session → Option VaultKey → Option State) : State :=
  match s.dev.sessions.find? fun x => x.id == session with
  | none => s
  | some x =>
    match (s.func x.fn).bind fun f =>
        let k := (s.ctx f.tenant).vault.find? fun v => v.slot == slot
        if f.bound && decide (slot < 256) && k.all (fun v => v.owner == x.ownerTag) then eff f.tenant x k else none with
    | some t => (t.countReq session).respond .vaultDone
    | none => (s.countReq session).respond .vaultRefused

/-- A key put in its slot. -/
def Ctx.putKey (c : Ctx) (k : VaultKey) : Ctx := { c with vault := c.vault.filter (fun v => v.slot != k.slot) ++ [k] }

/-- `KEY_IMPORT` (26 R359): the key comes protected by the session. -/
def execKeyImport (session slot : Nat) (use : KeyUse) (ex : Bool) (key : BitVec 256) (s : State) : Res :=
  .next (s.vaultReq session slot fun t x _ => some (s.modCtx t fun c => c.putKey ⟨slot, x.opened key, use, ex, x.ownerTag⟩))

/-- The sealing key of a tenant (26 R360). -/
def State.seal (s : State) (t : Nat) : BitVec 256 :=
  s.dev.sealWith (leBytes 64 (s.ctx t).tmrPlug.toNat ++ leBytes 64 (measure (s.ctx t).policy).toNat)

/-- The key that 50 bytes stand for. -/
def VaultKey.ofBytes (slot : Nat) (bs : List Byte) : Option VaultKey :=
  let mk := fun (u : KeyUse) => some (VaultKey.mk slot (BitVec.ofNat 256 (beNat (bs.take 32))) u (byteAt bs 33 == 1)
    (BitVec.ofNat 128 (beNat (bs.drop 34))))
  if bs.length ≠ 50 || decide (1 < (byteAt bs 33).toNat) then none
  else
    match (byteAt bs 32).toNat with
    | 0 => mk .cipherIn
    | 1 => mk .flash
    | 2 => mk .frame
    | _ => none

/-- `KEY_WRAPPED_IMPORT` (26 R359, R360): refused, with no slot changed, where the blob does not unwrap. -/
def execKeyWrappedImport (session slot : Nat) (blob : List Byte) (s : State) : Res :=
  .next (s.vaultReq session slot fun t _ _ =>
    ((keyUnwrap (s.seal t) blob).bind (VaultKey.ofBytes slot)).map fun k => s.modCtx t fun c => c.putKey k)

/-- `KEY_EXPORT` (26 R359, R360): the blob is returned; refused without EXPORT. -/
def execKeyExport (session slot : Nat) (s : State) : Res :=
  .next (s.vaultReq session slot fun t _ k =>
    k.bind fun k =>
      if k.exportable then some { s with dev := { s.dev with exported := s.dev.exported ++ [keyWrap (s.seal t) k.bytes] } } else none)

/-- `KEY_DELETE` (26 R359). -/
def execKeyDelete (session slot : Nat) (s : State) : Res :=
  .next (s.vaultReq session slot fun t _ _ => some (s.modCtx t fun c => { c with vault := c.vault.filter fun v => v.slot != slot }))

/-- `STREAM_OPEN` (26 R359, R363): the stream is bound to the slot with NEXT 0. -/
def execStreamOpen (session stream slot : Nat) (fixed : Word) (s : State) : Res :=
  .next (s.vaultReq session slot fun t _ _ =>
    if stream < 256 then
      some (s.modCtx t fun c => { c with streams := c.streams.filter (fun x => x.n != stream) ++ [⟨stream, slot, fixed, 0⟩] })
    else none)

/-! ## Identity, sessions and measurements (26 R356 to R358) -/

/-- The private device identity key, from the unique secret alone (26 R357). -/
def deviceKey : BitVec 384 := Config.identityKey Config.uniqueSecret []

/-- The private alias key, from the unique secret with MR0 to MR3 (26 R357). -/
def Dev.aliasKey (d : Dev) : BitVec 384 :=
  Config.identityKey Config.uniqueSecret ((List.range 4).flatMap fun i => leBytes 64 (vget d.mr i 0).toNat)

/-- A signature over bytes, by their SHA-384 digest (26 R358). -/
def signBytes (key : BitVec 384) (bs : List Byte) : BitVec 768 := Config.signature key (sha384 bs)

/-- The certificates of the device: its identity key, certified at manufacture, and the alias key, which the identity key certifies (26
R357; log 87). -/
def Dev.certificates (d : Dev) : List Certificate :=
  let pub := Config.publicKey d.aliasKey
  [⟨Config.publicKey deviceKey, Config.deviceCertificate⟩, ⟨pub, signBytes deviceKey (beBytes 96 pub.toNat)⟩]

/-- The responder signs with the alias key (26 R357). -/
def Dev.sign (d : Dev) (transcript : List Byte) : BitVec 768 := signBytes d.aliasKey transcript

/-- The register at a measurement index that a requester on a function may read. -/
def State.measurement (s : State) (fn index : Nat) (f : Func) : Option (BitVec 512) :=
  if 1 ≤ index && index ≤ 4 then some (vget s.dev.mr (index - 1) 0)
  else if 16 ≤ index && index < 32 && (fn == 0 || (f.bound && index == 16 + f.tenant)) then some (s.ctx (index - 16)).tmr
  else none

/-- A measurement block in the DMTF format: its index, the format's code, the size, and the register's 64 bytes as a raw bit stream (26
R358; log 87). -/
def dmtfBlock (index : Nat) (m : BitVec 512) : List Byte :=
  [BitVec.ofNat 8 index, 0x01] ++ leBytes 2 67 ++ [if index = 1 then 0x80 else 0x81] ++ leBytes 2 64 ++ leBytes 64 m.toNat

/-- The SPDM versions that the responder speaks: 1.3, and 1.2 (26 R358). -/
def spdmVersions : List Byte := [0x13, 0x12]

/-- The version exchange of the requester on a function: its request, and the answer with the versions (log 87). -/
def versionExchange : List Byte := [0x10, 0x84, 0, 0] ++ [0x10, 0x04, 0, 0, 0, 2] ++ spdmVersions.flatMap fun v => [0, v]

/-- What the requester on a function has exchanged before: its version exchange, if it made one. -/
def Dev.begun (d : Dev) (fn : Nat) : List Byte := ((d.vca.find? fun x => x.1 == fn).map (·.2)).getD []

/-- The request for versions (26 R358): the transcripts of its requester begin with it. -/
def State.getVersions (s : State) (fn : Nat) : State :=
  if (s.func fn).isNone then s
  else
    ({ s with dev := { s.dev with vca := s.dev.vca.filter (fun x => x.1 != fn) ++ [(fn, versionExchange)] } } : State).respond
      (.versions spdmVersions)

/-- The transcript that the answer to a measurement request is signed over: what came before, the request, and the answer (26 R358;
log 87). -/
def Dev.measureTranscript (d : Dev) (fn index : Nat) (answer : List Byte) : List Byte :=
  d.begun fn ++ [0x13, 0xE0, 1, BitVec.ofNat 8 index] ++ [0x13, 0x60, 0, 0] ++ answer

/-- Blocks answered, with the signature of the transcript under the alias key. -/
def State.answer (s : State) (fn index : Nat) (bs : List Byte) : State :=
  s.respond (.blocks bs (s.dev.sign (s.dev.measureTranscript fn index bs)))

/-- `GET_MEASUREMENTS` (26 R358): the block of an index that the requester may read; for any other, no block. -/
def execGetMeasurements (fn index : Nat) (s : State) : Res :=
  match s.func fn with
  | none => .next s
  | some f =>
    match s.measurement fn index f with
    | some m =>
      .next (({ s with dev := { s.dev with measured := s.dev.measured ++ [m] } } : State).answer fn index (dmtfBlock index m))
    | none => .next (s.answer fn index [])

/-- The digest of the certificate chain (26 R357, R358). -/
def Dev.chainDigest (d : Dev) : List Byte :=
  beBytes 48 (sha384 (d.certificates.flatMap fun c => beBytes 96 c.subject.toNat ++ beBytes 96 c.sig.toNat)).toNat

/-- The transcript of a key exchange: what came before, the digest of the chain, the request, and the answer with the responder's
exchange data (26 R358; log 87). -/
def Dev.exchangeTranscript (d : Dev) (fn id : Nat) (version : Byte) (key : List Byte) (mine : BitVec 768) : List Byte :=
  d.begun fn ++ d.chainDigest ++ ([version, 0xE4, 0, 0xFF] ++ leBytes 4 id ++ key) ++ ([version, 0x64, 0, 0] ++ beBytes 96 mine.toNat)

/-- `KEY_EXCHANGE` (26 R358): a session opened for a function, at most 32 across the device; a further one receives
SessionLimitExceeded. `key` is the requester's ECDHE exchange data of 96 bytes and then its public key (log 87); the session's AES-256-GCM
key comes from the shared secret and the transcript. -/
def execKeyExchange (fn id : Nat) (version : Byte) (key : List Byte) (s : State) : Res :=
  if (s.func fn).isNone || s.dev.sessions.any (fun x => x.id == id) then .next s
  else if !spdmVersions.contains version then .next (s.respond .versionMismatch)
  else if 32 ≤ s.dev.sessions.length then .next (s.respond .sessionLimitExceeded)
  else
    let mine := Config.ephemeralKey s.free
    let pub := Config.publicKey mine
    let tr := s.dev.exchangeTranscript fn id version key pub
    let sig := s.dev.sign tr
    let secret := Config.sessionKey (Config.ecdhe mine (key.take 96)) (sha384 (tr ++ beBytes 96 sig.toNat))
    .next (({ s with
      free := s.free + 1
      dev := { s.dev with sessions := s.dev.sessions ++ [⟨fn, id, version, key.drop 96, secret, 0⟩] } } : State).respond
      (.session id pub sig))

/-- `SPDM_SESSION_END` (26 R358). -/
def execSpdmSessionEnd (id : Nat) (s : State) : Res :=
  .next { s with dev := { s.dev with sessions := s.dev.sessions.filter fun x => x.id != id } }

/-! ## The boot chain (26 R355, R356, 28 R373, R381) -/

/-- A stage of the chain passed: its measurement extends its register, and STAGE says it. -/
def Dev.stagePassed (d : Dev) (m : BitVec 512) : Dev :=
  { d with stage := d.stage + 1, mr := vset d.mr d.stage (extendMr (vget d.mr d.stage 0) m) }

/-- The PF enumerates (28 R381 step 4). -/
def State.enumerate (s : State) : State := { s with funcs := s.funcs.mapIdx fun i f => if i == 0 then { f with enabled := true } else f }

/-- Bring-up after the chain (28 R381): FIT initialised, the journal restored from its mirror and one RESET entry
appended (R373), the PF enumerated, READY. -/
def State.bringUpEnd (s : State) : State :=
  let last := (s.dev.mirror.getLast?.map (·.jseq)).getD 0
  let s : State := { s with
    fit := []
    dev := { s.dev with journal := s.dev.mirror, jseq := last, jhead := last } }
  let s := (s.append (JEntry.plain .reset 0 0 0 0)).enumerate
  { s with dev := { s.dev with ready := true, aclk := 1500, pstate := .idle } }

/-- The check of the next image (26 R355): the ROM checks the key of the first image against its digest in fuses; a later stage takes a
key that it carries. Both check the Falcon-1024 signature. -/
def Dev.imageOk (d : Dev) (key sig image : List Byte) : Bool :=
  (if d.stage = 1 then shake256 key == Config.fuseDigest else d.keys.contains key) && Config.falconCheck key sig image

/-- `BOOT_STAGE` (26 R355): the check of the next stage, its measurement and its start; a failed check stops the chain, and only the PF
enumerates. The first stage is the boot ROM, which nothing checks, measured with the fuse configuration. -/
def execBootStage (key sig image : List Byte) (s : State) : Res :=
  if s.dev.bootHalt || s.dev.ready || 4 ≤ s.dev.stage then .next s
  else if s.dev.stage = 0 then .next { s with dev := s.dev.stagePassed Config.romMeasure }
  else if !s.dev.imageOk key sig image then .next { s.enumerate with dev := { s.dev with bootHalt := true } }
  else
    let s : State := { s with dev := { s.dev.stagePassed (measure image) with keys := Config.keysCarried image } }
    .next (if s.dev.stage = 4 then s.bringUpEnd else s)

end Sys2Proof.Machine
end

