-- ==== Sys2Proof/Machine/Manage.lean ====
section
/-! DEFINITION. What a management core reaches (28 R374, 26 R353, 07 R108): device memory, the policy region and the queue statistics
of each tenant, under its PMP; what is refused to it and logged; its instructions. -/
namespace Sys2Proof.Machine

/-- A management core. -/
def State.mgmtCore (s : State) (k : Nat) : Mgmt := vget s.dev.mgmt k Mgmt.reset

/-- A management core changed. -/
def State.modMgmt (s : State) (k : Nat) (f : Mgmt → Mgmt) : State :=
  { s with dev := { s.dev with mgmt := vset s.dev.mgmt k (f (s.mgmtCore k)) } }

/-- A frame that an access touches and that is barred to it: one with PROT set (26 R353), and to a store one that holds a page
table (07 R108). -/
def State.barred (s : State) (addr n : Nat) (write : Bool) : Option Nat :=
  ((List.range n).map fun i => (addr + i) / 0x10000).find? fun d => (s.fitOf d).any fun e => e.prot || (write && e.table)

/-- Where the 128 KiB of the plug-in of a tenant begin: its policy region of 64 KiB, then its queue statistics (28 R374; where they
stand is log 86's). -/
def plugBase (t : Nat) : Nat := 2 ^ 44 + t * 0x20000

/-- The statistics of a queue in 64 bytes: RIDX, the notify mark and the commands not yet carried out (log 86). -/
def Queue.stats (x : Queue) : List Byte := leBytes 8 x.ridx.toNat ++ leBytes 8 x.mark.toNat ++ leBytes 8 x.cmds.length

/-- A byte of the queue statistics of a tenant. -/
def State.statByte (s : State) (t off : Nat) : Byte := ((s.queueOf t (off / 64)).map fun x => byteAt x.stats (off % 64)).getD 0

/-- n bytes at an address; none where nothing is there. -/
def State.mgmtBytes (s : State) (addr n : Nat) : Option (List Byte) :=
  let t := (addr - 2 ^ 44) / 0x20000
  let off := (addr - 2 ^ 44) % 0x20000
  if addr + n ≤ 2 ^ 44 then some (s.mem.bytes addr n)
  else if 2 ^ 44 ≤ addr ∧ t < 16 ∧ off + n ≤ 0x10000 then some ((s.ctx t).region.bytes off n)
  else if 2 ^ 44 ≤ addr ∧ t < 16 ∧ 0x10000 ≤ off ∧ off + n ≤ 0x11000 then
    some ((List.range n).map fun i => s.statByte t (off - 0x10000 + i))
  else none

/-- Bytes written at an address; none where nothing takes them. -/
def State.mgmtPut (s : State) (addr : Nat) (bs : List Byte) : Option State :=
  let t := (addr - 2 ^ 44) / 0x20000
  let off := (addr - 2 ^ 44) % 0x20000
  if addr + bs.length ≤ 2 ^ 44 then some (s.batch (cellsAt addr bs))
  else if 2 ^ 44 ≤ addr ∧ t < 16 ∧ off + bs.length ≤ 0x10000 then some (s.modCtx t fun c => { c with region := c.region.write off bs })
  else none

/-- The frames of device memory that n bytes meet marked accessed (07 R103). -/
def State.mgmtTouch (s : State) (addr n : Nat) : State :=
  if addr + n ≤ 2 ^ 44 then
    { s with fit := s.fit.map fun e =>
        if (List.range n).any fun i => (addr + i) / 0x10000 == e.dfn then { e with acc := true } else e }
  else s

/-- The M-mode monitor logs the refused access of a core to a frame (26 R353). -/
def State.monitor (s : State) (k d : Nat) : State := { s with dev := { s.dev with mlog := s.dev.mlog ++ [(k, d)] } }

/-- A load of n bytes: under the PMP, and zero, logged, from a frame barred to it; the cause of a trap where the PMP does not let it
through or nothing is there. -/
def State.mgmtLoad (s : State) (k addr n : Nat) : Except Nat (State × Nat) :=
  if !(s.mgmtCore k).allows (s.mgmtCore k).dataMode addr n .read then .error 5
  else
    match s.barred addr n false, s.mgmtBytes addr n with
    | some d, _ => .ok (s.monitor k d, 0)
    | none, some bs => .ok (s.mgmtTouch addr n, leNat bs)
    | none, none => .error 5

/-- The reservations that n bytes at an address meet are lost. -/
def State.breakResv (s : State) (addr n : Nat) : State :=
  let meets := fun (r : Nat × Nat) => decide (r.1 < addr + n) && decide (addr < r.1 + r.2)
  { s with dev := { s.dev with mgmt := s.dev.mgmt.map fun m => if m.resv.any meets then { m with resv := none } else m } }

/-- A store of n bytes: under the PMP, and only logged to a frame barred to it. -/
def State.mgmtStore (s : State) (k addr n : Nat) (v : DWord) : Except Nat State :=
  if !(s.mgmtCore k).allows (s.mgmtCore k).dataMode addr n .write then .error 7
  else
    match s.barred addr n true, (s.breakResv addr n).mgmtPut addr (leBytes n v.toNat) with
    | some d, _ => .ok (s.monitor k d)
    | none, some t => .ok t
    | none, none => .error 7

/-- n bytes of a load as a register takes them. -/
def loaded (n v : Nat) (signed : Bool) : DWord := if signed then sx (8 * n) v else BitVec.ofNat 64 v

/-- What an AMO of n bytes leaves, from what it read. -/
def amoBytes (f5 n v : Nat) (b : DWord) : DWord :=
  if n = 4 then ((rvAmo f5 (BitVec.ofNat 32 v) (b.setWidth 32)).getD 0).setWidth 64 else (rvAmo f5 (BitVec.ofNat 64 v) b).getD 0

/-- A trap of core k. -/
def State.mgmtTrap (s : State) (k cause : Nat) (tval : DWord) : State := s.modMgmt k fun m => m.trap cause tval

/-- What an instruction of `len` bytes comes to, done. -/
def State.mgmtDo (s : State) (k len : Nat) (o : RvOut) : State :=
  let on := fun (s : State) (rd : Nat) (v : DWord) => s.modMgmt k fun m => { m.setX rd v with pc := m.pc + BitVec.ofNat 64 len }
  match o with
  | .next m => s.modMgmt k fun _ => m
  | .trap c v => s.mgmtTrap k c v
  | .load rd addr n signed =>
    match s.mgmtLoad k addr n with
    | .ok (t, v) => on t rd (loaded n v signed)
    | .error c => s.mgmtTrap k c (BitVec.ofNat 64 addr)
  | .store addr n v =>
    match s.mgmtStore k addr n v with
    | .ok t => on t 0 0
    | .error c => s.mgmtTrap k c (BitVec.ofNat 64 addr)
  | .lr rd addr n =>
    match s.mgmtLoad k addr n with
    | .ok (t, v) => on (t.modMgmt k fun m => { m with resv := some (addr, n) }) rd (loaded n v true)
    | .error c => s.mgmtTrap k c (BitVec.ofNat 64 addr)
  | .sc rd addr n v =>
    let held := (s.mgmtCore k).resv == some (addr, n)
    let s := s.modMgmt k fun m => { m with resv := none }
    if held then
      match s.mgmtStore k addr n v with
      | .ok t => on t rd 0
      | .error c => s.mgmtTrap k c (BitVec.ofNat 64 addr)
    else on s rd 1
  | .amo f5 rd addr n v =>
    match s.barred addr n true, s.mgmtLoad k addr n with
    | some d, .ok _ => if (s.mgmtCore k).allows (s.mgmtCore k).dataMode addr n .write then on (s.monitor k d) rd 0
      else s.mgmtTrap k 7 (BitVec.ofNat 64 addr)
    | _, .error _ => s.mgmtTrap k 7 (BitVec.ofNat 64 addr)
    | none, .ok (_, old) =>
      match s.mgmtStore k addr n (amoBytes f5 n old v) with
      | .ok t => on t rd (loaded n old true)
      | .error c => s.mgmtTrap k c (BitVec.ofNat 64 addr)

/-- One instruction of management core k, whose word it fetches at its pc (28 R374; where the firmware's images stand in memory is not
part of the spec, so that the turn brings the word, log 86). -/
def State.mgmtStep (s : State) (k : Nat) (insn : Word) : State :=
  let m := s.mgmtCore k
  let len := if insn.toNat % 4 = 3 then 4 else 2
  if !m.allows m.mode m.pc.toNat len .fetch then s.mgmtTrap k 1 m.pc
  else
    match (if len = 4 then some insn.toNat else rvExpand (insn.toNat % 0x10000)) with
    | some w => s.mgmtDo k len (rvStep k m w len)
    | none => s.mgmtTrap k 2 (BitVec.ofNat 64 (insn.toNat % 0x10000))

end Sys2Proof.Machine
end

