-- ==== Sys2Proof/Machine/Service.lean ====
section
/-! DEFINITION. Power and service (28 R371, R373, R375, R377, R379 to R382): power states, SR-IOV, migration (10 R156), spares, soft
errors (24 R346 to R348), lost memory devices and links, and what host and firmware do from outside the table. -/
namespace Sys2Proof.Machine

/-! ## Power (28 R373, R381, R382) -/

/-- Host memory with the bytes of the frames homed there. -/
def State.hostMem (s : State) : Mem :=
  (s.fit.filter fun e => e.tier == .c).foldl (fun (m : Mem) e => m.write (e.loc.toNat * 0x10000) (s.mem.bytes (e.dfn * 0x10000) 0x10000))
    s.hmem

/-- `POWER_LOSS` (28 R373): everything volatile is lost; the mirror of the journal stays. -/
def execPowerLoss (s : State) : Res :=
  .next { State.reset with
    hmem := s.hostMem
    turns := s.turns
    free := s.free
    dev := { Dev.reset with powered := false, mirror := s.dev.mirror } }

/-- `POWER_GOOD` (28 R381): bring-up starts, with device time 0. -/
def execPowerGood (s : State) : Res :=
  if s.dev.powered then .next s
  else
    .next { State.reset with
      hmem := s.hostMem
      turns := s.turns
      free := s.free
      dev := { Dev.reset with mirror := s.dev.mirror } }

/-- `POWER_CAP` (28 R382): demand exceeds WATTS; aclk falls by 100 MHz, down to 800 MHz. -/
def execPowerCap (s : State) : Res :=
  if s.dev.ready then
    .next { s with dev := { s.dev with
      aclk := max 800 (s.dev.aclk - 100)
      pstate := if s.dev.pstate = .d3hot then .d3hot else .capped } }
  else .next s

/-- `DEMAND_WITHIN_WATTS` (28 R382): aclk is 1.5 GHz again. -/
def execDemandWithinWatts (s : State) : Res :=
  if s.dev.ready then
    .next (({ s with dev := { s.dev with
      aclk := 1500
      pstate := if s.dev.pstate = .capped then .active else s.dev.pstate } } : State).restPower)
  else .next s

/-- `D3HOT_ENTRY` (28 R382): the PF is put in D3hot; the journal is mirrored to its last entry, and queues accept nothing. -/
def execD3hotEntry (s : State) : Res :=
  if (s.func 0).isNone then .next s
  else
    let s := (List.range (s.dev.jseq - s.dev.jhead)).foldl (fun s _ => s.mirrorNext) s
    .next { s with dev := { s.dev with pstate := .d3hot } }

/-- `D3HOT_EXIT` (28 R382). -/
def execD3hotExit (s : State) : Res :=
  if s.dev.pstate = .d3hot then
    .next (({ s with dev := { s.dev with pstate := if s.dev.ready && s.dev.aclk != 1500 then .capped else .active } } : State).restPower)
  else .next s

/-- `SRIOV_ENABLE` (28 R370, R381): up to 63 VFs appear; a device whose boot failed has only its PF (26 R355). -/
def execSriovEnable (n : Nat) (s : State) : Res :=
  if s.dev.ready && !s.dev.sriov then
    .next { s with
      dev := { s.dev with sriov := true }
      funcs := s.funcs.mapIdx fun i f => if i != 0 && decide (i ≤ n) then { f with enabled := true } else f }
  else .next s

/-! ## Migration (28 R375, 10 R156) -/

/-- `VF_PAUSE` (28 R375): NOTIFY writes are held, timers wait, interrupts stay pending, and the tenant's work stops on every
hall. -/
def execVfPause (fn : Nat) (s : State) : Res :=
  match s.func fn with
  | none => .next s
  | some f =>
    if fn = 0 || f.run = .paused then .next s
    else .next ((s.modFunc fn fun f => { f with run := .paused }).stopGangs fun l => f.of l.cmd.tenant)

/-- How a function of a tenant runs that is not paused (23 R329, 24 R344). -/
def State.funcRun (s : State) (t : Nat) : FnRun := if (s.ctx t).presence = .away then .descheduled else .running

/-- `VF_UNPAUSE` (28 R375): the held NOTIFY writes are applied in their order of arrival (dropped in ERROR, 26 R361), and the VF goes on;
it is descheduled while its tenant is switched out. -/
def execVfUnpause (fn : Nat) (s : State) : Res :=
  match s.func fn with
  | none => .next s
  | some f =>
    if f.run = .paused then
      let s := s.modFunc fn fun g => { g with
        held := []
        run := s.funcRun f.tenant }
      .next (f.held.foldl (fun s h => s.notify fn h.1 h.2) s)
    else .next s

/-- The bytes of a frame. -/
def State.framePage (s : State) (d : Nat) : Mem := s.mem.filter fun c => c.1 / 0x10000 == d

/-- `MIGRATION_SNAPSHOT` (10 R156): each root settled, the COUNT of every record recorded, and the frames as they stand. -/
def execMigrationSnapshot (t : Nat) (s : State) : Res :=
  if (s.ctx t).valid then
    let s := s.drainTree t
    let rs := s.tree.filter fun r => r.tenant == t && r.kind != .free
    .next (s.modCtx t fun c => { c with
      snap := rs.map fun r => (r.handle, r.count)
      snapPages := (s.dataFrames t).map fun d => (d, s.framePage d) })
  else .next s

/-- The COUNT of a record differs from the one recorded; a saturated one always does (10 R156, R150). -/
def Ctx.countDiffers (c : Ctx) (r : TreeRec) : Bool :=
  r.count.toNat == maxCount || (c.snap.find? fun x => x.1 == r.handle).all fun x => x.2 != r.count

/-- The tiles that changed beneath some records: the search descends only into records whose COUNT differs (10 R156). `fuel` bounds
the depth. -/
def State.changedTiles (s : State) (c : Ctx) : Nat → List TreeRec → List TreeRec
  | 0, _ => []
  | fuel + 1, rs =>
    (rs.filter c.countDiffers).flatMap fun r =>
      if r.kind = .tile then [r] else s.changedTiles c fuel (s.tree.filter fun x => x.kind != .free && x.parent == r.handle)

/-- The frames of the delta of a migration: tiles that changed, and frames with no tile (10 R156). -/
def State.deltaFrames (s : State) (t : Nat) : List Nat :=
  let tiles := s.changedTiles (s.ctx t) 17 (s.tree.filter fun r => r.tenant == t && r.kind != .free && r.parent == 0)
  (s.fit.filter fun e => e.tenant == t && !e.table && (e.tile == 0 || tiles.any fun r => r.handle == e.tile)).map (·.dfn)

/-- A context sent to another device (28 R375 step 3): a VF of it is paused and its work stopped; each root is settled, and the last
snapshot goes with the delta. A protected one goes only to a destination that has attested, over a Belrik link. -/
def State.migrate (s : State) (t : Nat) (attested : Bool) : State :=
  let c := s.ctx t
  if c.valid && s.pausedTenant t && !s.tenantIn t && (!c.prot || (attested && s.dev.links != 0)) then
    let s := s.drainTree t
    let ds := s.deltaFrames t
    s.modCtx t fun c => { c with
      sent := (c.snapPages.filter fun p => !ds.contains p.1) ++ ds.map fun d => (d, s.framePage d) }
  else s

/-- A frame that a migration brings, in a place of its own, mapped where it was. -/
def State.takeFrame (s : State) (t : Nat) (f : MovedFrame) : Option State :=
  match s.newFrame t f.prot false with
  | none => none
  | some (s, d) =>
    let s : State := { s with mem := s.mem.write (d * 0x10000) (f.page.bytes 0 0x10000) }
    f.maps.foldl (fun s m => s.bind fun s => s.mapPage t m.1 d m.2.1 m.2.2) (some (s.modFit d fun e => { e with tile := f.tile }))

/-- A context that arrives by migration (28 R375; what else than R156 names goes with it is log 95): created with its CCFG; its frames, its
records under their handles, and its VF with the NOTIFY writes held and the interrupts pending, which waits paused, so that VF_UNPAUSE
applies the writes before the VF goes on. Nothing is taken where it cannot be created, where an index is in use, or, of a protected one, without attestation and
a Belrik link. -/
def State.receive (s : State) (t fn : Nat) (m : Moved) : State :=
  let u := s.modCtx t fun c => { c with ccfg := m.ccfg }
  let secure := !m.ccfg.msb || (m.attested && s.dev.links != 0)
  let clash := m.recs.any fun r => r.index = 0 || Config.treeRecords < r.index ||
    s.tree.any fun x => x.index == r.index && x.kind != .free
  match u.createCtx t with
  | .ok u =>
    if fn = 0 || 16 ≤ t || !s.dev.ready || !secure || clash || !(s.func fn).any (fun f => f.of t) then s
    else
      match m.frames.foldl (fun s f => s.bind fun s => s.takeFrame t f) (some u) with
      | none => s
      | some u =>
        (u.takeRecords t m.recs).modFunc fn fun f => { f with run := .paused, held := m.held, irqs := m.irqs }
  | .error _ => s

/-! ## Spares (28 R379, R380) -/

/-- The code of a part (28 R379). -/
def partCode : Part → BitVec 8
  | .core => 1
  | .hbmRow => 2
  | .hbmChannel => 3
  | .flashBlock => 4
  | .lane => 5
  | .ldpc => 6

/-- A substitution logged: a CAPACITY entry, and the next entry of the ring of 256. -/
def State.logSpare (s : State) (part : Part) (unit : BitVec 24) (left : Word) : State :=
  let s := s.append (JEntry.plain .capacity 0 0 0 0)
  let log := if 512 ≤ s.dev.caplog.length then s.dev.caplog.drop 256 else s.dev.caplog
  { s with dev := { s.dev with caplog := log ++ [⟨s.dev.jseq, partCode part, unit, left⟩] } }

/-- A die without spare blocks; with none left on the device every namespace becomes read-only (28 R380). -/
def State.dieSpent (s : State) (die : Nat) : State :=
  let s : State := { s with dev := { s.dev with
    noBlocks := if s.dev.noBlocks.contains die then s.dev.noBlocks else s.dev.noBlocks ++ [die] } }
  if s.dev.noSpareBlock then { s with nss := s.nss.map fun n => if n.valid then { n with rdonly := true } else n } else s

/-- The wear counted for a part (28 R379). -/
def State.wornBy (s : State) (p : Part) (unit : BitVec 24) : Nat :=
  ((s.dev.wear.find? fun w => w.1 == (partCode p, unit)).map (·.2)).getD 0

/-- The wear counter of a part set; one at 0 is not listed. -/
def State.setWear (s : State) (p : Part) (unit : BitVec 24) (n : Nat) : State :=
  let others := s.dev.wear.filter fun w => w.1 != (partCode p, unit)
  { s with dev := { s.dev with wear := if n = 0 then others else others ++ [((partCode p, unit), n)] } }

/-- A wear counter of a part with a spare raised (28 R379): of a core and of HBM by what was corrected there, of the others by firmware
(DESIGN CHOICE, log 93). -/
def State.wear (s : State) (p : Part) (unit : BitVec 24) : State := s.setWear p unit (s.wornBy p unit + 1)

/-- The counter of a part has gone beyond its threshold (28 R379), which the spec does not give (free, log 93). -/
def State.worn (s : State) (p : Part) (unit : BitVec 24) : Bool := decide (Config.wearThreshold (partCode p) < s.wornBy p unit)

/-- The Stairwell has moved every frame out of the pseudo-channel of a unit that is replaced next (28 R380); which places these are is free (log 93). -/
def State.channelFree (s : State) (unit : BitVec 24) : Bool :=
  s.fit.all fun e => e.tier != .a || !Config.inChannel unit s.dev.caplog.length e.loc.toNat

/-- `SPARE_SUBSTITUTION` (28 R379, R380): of a part whose wear has crossed its threshold; the spare begins unworn. A core is replaced only
while it is halted and its hall has a spare, an HBM pseudo-channel once no frame stands in it; the core keeps its COREID and
whatever software reads. -/
def execSpareSubstitution (part : Part) (unit : BitVec 24) (left : Word) (s : State) : Res :=
  let taken := fun (s : State) (left : Word) => (s.setWear part unit 0).logSpare part unit left
  if !s.worn part unit then .next s
  else
    match part with
    | .core =>
      let h := hallOf unit.toNat
      if (s.findCore unit.toNat).any (·.halted) && vget s.dev.spares h false then
        .next (taken { s with dev := { s.dev with spares := vset s.dev.spares h false } } 0)
      else .next s
    | .flashBlock => .next (if left = 0 then (taken s left).dieSpent unit.toNat else taken s left)
    | .hbmChannel => .next (if s.channelFree unit then taken s left else s)
    | .hbmRow => .next (taken s left)
    | .lane => .next (taken s left)
    | .ldpc => .next (taken s left)

/-! ## Soft errors (24 R346 to R348) -/

/-- A corrected soft error counted by its array, 0 REGS to 6 TIERB (24 R347). -/
def State.corrected (s : State) (array : Nat) : State :=
  { s with dev := { s.dev with corrected := vset s.dev.corrected array (satInc (vget s.dev.corrected array 0)) } }

/-- The parts with spares that an array of the device record belongs to (24 R347, 28 R379): the arrays of a core, and the rows and
pseudo-channels of HBM. -/
def wearParts (array : Nat) : List Part := if array ≤ 3 then [.core] else if array = 5 then [.hbmRow, .hbmChannel] else []

/-- `SOFT_ERROR_CORRECTED` (24 R346): counted in the device record and, for an array with spares, in the wear counters of its unit. -/
def execSoftErrorCorrected (array : Nat) (unit : BitVec 24) (s : State) : Res :=
  .next ((wearParts array).foldl (fun s p => s.wear p unit) (s.corrected array))

/-- An uncorrectable soft error charged to a tenant (24 R348). -/
def State.charge (s : State) (t : Nat) : State := s.modErr t fun e => { e with uncorr := satInc e.uncorr }

/-- `UNCORRECTABLE_ECC` (24 R348), by where the error lies; of a frame in host memory it is a dirty line of a slice. An error
in a device table is repaired by firmware and counted in the device record (28 R374, log 42). -/
def execUncorrectableEcc (site : EccSite) (s : State) : Res :=
  match site with
  | .cleanLine t => .next ((s.charge t).corrected 4)
  | .operandBuffer t => .next ((s.charge t).corrected 2)
  | .table => .next (s.corrected 5)
  | .frame d =>
    match s.fitOf d with
    | none => .next s
    | some e =>
      if e.table then .next (s.corrected 5)
      else if e.st = .absent || e.st = .poisoned || e.tier = .backing then .next s
      else .next ((s.poisonFrame e fun e => { e with ecc := true }).charge e.tenant)
  | .workgroup w =>
    match (s.findWg w).bind fun x => s.findLaunch x.lid with
    | none => .next s
    | some l => .next ((s.charge l.cmd.tenant).haltLaunch l.lid true)

/-! ## Lost devices and links (28 R376, R377) -/

/-- `CXL_DEVICE_LOSS` (28 R377): the frames homed on the device, which holds the places from `lo` to `hi` of tier B, all above
the memory on the module, are poisoned, and the copies there are lost. -/
def execCxlDeviceLoss (lo hi : BitVec 48) (s : State) : Res :=
  let on := fun (loc : BitVec 48) =>
    decide (Config.tierBFrames ≤ loc.toNat) && decide (lo.toNat ≤ loc.toNat) && decide (loc.toNat ≤ hi.toNat)
  let s : State := { s with fit := s.fit.map fun e => if e.lower && e.lowTier == .b && on e.lowLoc then { e with lower := false } else e }
  let es := s.fit.filter fun e => e.tier == .b && (e.st == .resident || e.st == .migrating) && on e.loc
  .next (es.foldl (fun s e => s.poisonFrame e id) s)

/-- `BELRIK_LINK_LOSS` (28 R376): with no link left, transfers that the peer has not begun to write end with PEER_FAULT,
and those asked for from here are gone. -/
def execBelrikLinkLoss (port : Nat) (s : State) : Res :=
  let s : State := { s with dev := { s.dev with links := s.dev.links &&& ~~~((1 : BitVec 16) <<< port) } }
  if s.dev.links = 0 then
    .next { s with
      jobs := s.jobs.map fun j =>
        if !j.matrix && j.st == .running && (j.kind == 0x07 || (j.kind == 0x08 && j.out.isEmpty)) then j.answered false [] else j
      dev := { s.dev with transfers := [] } }
  else .next s

/-! ## What host and firmware do (log 1) -/

/-- A queue as firmware assigns it, before the host has written its block (23 R309). -/
def Queue.fresh (t q fn : Nat) : Queue := ⟨t, q, fn, 0, false, false, 4, 0, 0, 0, 0, false, [], none⟩

/-- The halls of a partition set; a hall belongs to no second partition (23 R319). -/
def Dev.setPartition (d : Dev) (p : Nat) (gs ms : List Nat) : Dev :=
  let keep := fun (l : List (Nat × Nat)) => l.filter fun x => x.2 != p && !gs.contains x.1 && !ms.contains x.1
  { d with
    guarHalls := keep d.guarHalls ++ (gs.filter fun h => decide (h < 32)).map fun h => (h, p)
    marginHalls := keep d.marginHalls ++ (ms.filter fun h => decide (h < 32) && !gs.contains h).map fun h => (h, p) }

/-- An act of the host or of firmware. -/
def State.hostAct (s : State) (a : HostAct) : State :=
  match a with
  | .write addr bs => s.hostStore addr bs
  | .bindFunc fn t => if t < 16 then s.modFunc fn fun f => { f with
      tenant := t, bound := true, run := if f.run = .paused then .paused else s.funcRun t } else s
  | .bindQueue t q fn =>
    if 16 ≤ t || 64 ≤ q then s
    else if (s.queueOf t q).isSome then s.modQueue t q fun x => { x with func := fn }
    else { s with queues := s.queues ++ [Queue.fresh t q fn] }
  | .partition p gs ms => if p < 16 then { s with dev := s.dev.setPartition p gs ms } else s
  | .plugin t image => s.modCtx t fun c =>
      let m := extendMr c.tmr (measure image)
      { c with tmr := m, tmrPlug := m }
  | .peer d t loc =>
    { s with dev := { s.dev with peers := s.dev.peers.filter (fun x => x.1 != (d, t)) ++ [((d, t), loc)] } }
  | .clearDebt t => s.modCtx t fun c => { c with debt := 0 }
  | .transfer x => { s with dev := { s.dev with transfers := s.dev.transfers ++ [x] } }
  | .cxl port frames =>
    if s.dev.ready then s else { s with dev := { s.dev with cxl := vset s.dev.cxl port frames } }
  | .migrate t ok => s.migrate t ok
  | .receive t fn m => s.receive t fn m
  | .mgmt k w => s.mgmtStep k w
  | .policy t bs => s.modCtx t fun c => { c with policy := bs }
  | .wear p unit => s.wear p unit
  | .spdmVersions fn => s.getVersions fn
  | .spdmCertificates fn => if (s.func fn).isNone then s else s.respond (.chain s.dev.certificates)
  | .table es =>
    { s with dev := { s.dev with spareTable := Vector.ofFn fun i => (es[i.val]?).getD 0, marked := true } }

end Sys2Proof.Machine
end

