-- ==== Sys2Proof/Machine/Fetch.lean ====
section
/-! DEFINITION. What a step takes up (log 1): the turn that comes next, and what it runs: the word at a program counter, decoded
where it stands (12 R174, R176, R186), a step of the device, or the next command of a queue. Also a word placed where the
next step fetches it. -/
namespace Sys2Proof.Machine

/-! ## Turns -/

/-- What moves where no turn is given: the lane side of the group in the focus, its next unit, its scalar stream; else what
the time calls for, and else time passes. -/
def State.ownTurn (s : State) : TurnOp :=
  if s.g.st = .running then
    match s.g.run with
    | some r => .lane r.ls0.isNone
    | none => if s.g.queue.isEmpty then .scalar else .event .unitStart
  else .event (s.due.getD .heartbeatTick)

/-- The turn that comes next. -/
def State.nextTurn (s : State) : Turn := (s.turns.head?).getD ⟨0, 0, s.ownTurn⟩

/-- The next turn taken up: it leaves the list, and its group stands in the focus. -/
def State.takeTurn (s : State) : State :=
  let t := s.nextTurn
  let s : State := { s with turns := s.turns.drop 1 }
  if t.wgId = 0 then s else s.focusOn t.wgId t.gid

/-- The group that a turn names stands in the focus. -/
def State.hasTurn (s : State) (t : Turn) : Bool := t.wgId == 0 || (s.focused t.wgId t.gid && s.wg.id == t.wgId)

/-- The machine has power, or the turn brings it (28 R381). -/
def State.mayMove (s : State) : Bool := s.dev.powered || s.nextTurn.op == .event .powerGood

/-! ## Fetching -/

/-- What bars the fetch of the scalar word at the PC: nothing where a loop runs, whose body stands in its buffer (14 R211). -/
def State.wordBar (s : State) : Option (BitVec 8 × Nat) := if s.g.loop.isSome then none else s.fetchBar (s.ln.desc.scodeVa + s.g.pc) 4

/-- The scalar word at the PC; where it raises a fault, that fault once the word begins (12 R174, R176, 07 R104). -/
def State.fetchOrFault (s : State) : State × Option Instr :=
  match (match s.wordBar with
    | some c => Except.error (SFault.mk c.1 0 c.2)
    | none => s.fetchScalar) with
  | .ok i => (s, some i)
  | .error f => (if s.scalarGate false false [] then s.scalarFault f.code f.detail f.va else s.scalarWait, none)

/-- Where the instruction at a path stands in its clause. -/
def ClauseSt.place (c : ClauseSt) : ClausePlace :=
  ⟨c.left == 1, c.len == 1, (if c.s0.isSome then 1 else 0) + (if c.s1.isSome then 1 else 0)⟩

/-- The lane word at a path decoded: a clause header where none has begun, else an instruction (12 R186). -/
def State.fetchLane (s : State) (p : Path) : Except (BitVec 8) Instr :=
  match s.ln.laneAt p.pc with
  | none => .error 0x10
  | some w =>
    match p.clause with
    | none => ((decodeHeader w).map Instr.clauseHeader).mapError DecodeError.code
    | some c => (decodeLaneAt c.place w).mapError DecodeError.code

/-- The lane word of the issuing slot, or its fault. -/
def State.laneOrFault (s : State) : State × Option Instr :=
  match s.path with
  | none => (s, none)
  | some p =>
    let fault := fun (c : BitVec 8) (va : Nat) => if s.laneGate.isSome || s.headerGate.isSome then s.laneFault c 0 0 va else s
    match s.fetchBar (s.ln.desc.lcodeVa + 12 * p.pc) 12, s.fetchLane p with
    | some c, _ => (fault c.1 c.2, none)
    | none, .ok i => (s, some i)
    | none, .error c => (fault c 0, none)

/-- The matrix word at MPC, or its fault (17 R284). -/
def State.matrixOrFault (s : State) : State × Option Instr :=
  if !s.matrixLive then (s, none)
  else
    match s.fetchBar (s.ln.desc.mcodeVa + 8 * s.wg.seq.mpc) 8, s.fetchMatrix with
    | some c, _ => (s.matrixFault c.1 c.2, none)
    | none, .ok i => (s, some i)
    | none, .error c => (s.matrixFault c 0, none)

/-- What a turn runs, with the state it runs in; none where the state is all that the turn does. -/
def State.fetch (s : State) (op : TurnOp) : State × Option Instr :=
  match op with
  | .scalar => s.fetchOrFault
  | .lane b => ({ s with slot := b } : State).laneOrFault
  | .matrix => s.matrixOrFault
  | .event i => (s, some i)
  | .command t q => s.queueTurn t q
  | .host a => (s.hostAct a, none)

/-! ## A word placed for the next step (log 43) -/

/-- The launch of a group that is put into an empty focus. -/
def Launch.stage (lid : Nat) : Launch :=
  { Launch.absent with lid := lid, ticket := 1, st := .running, desc := { Desc.zero with peak := 128, floor := 32, ngroups := 1 } }

/-- A running group in the focus: the one there, or a new one on the core in the focus. -/
def State.stage (s : State) : State :=
  if s.g.st = .running && s.wg.id != 0 && s.ln.lid != 0 then s
  else
    let lid := s.allLaunches.foldl (fun m l => max m l.lid) 0 + 1
    let id := s.allWgs.foldl (fun m w => max m w.id) 0 + 1
    { s with
      launches := s.allLaunches.filter fun l => l.lid != 0
      wgs := s.allWgs.filter fun w => w.id != 0
      groups := s.allGroups.filter fun g => g.st != .absent
      ln := Launch.stage lid
      wg := { Workgroup.absent with id := id, lid := lid, coreId := s.core.id }
      g := { Group.absent with st := .running, wgId := id, hentry := 0 } }

/-- The focus lets its group go on: nothing holds it back. -/
def State.ready (s : State) : State :=
  { s with
    core := { s.core with halted := false }
    wg := { s.wg with place := .resident, stop := false }
    g := { s.g with faults := [], abandon := false, stop := false, laneStop := false, spillOut := false, queue := [], run := none }
    dev := { s.dev with powered := true } }

/-- A scalar word at the PC. -/
def State.placeScalar (s : State) (w : Nat) : State :=
  let pc := s.g.pc - s.g.pc % 4
  { s with
    g := { s.g with pc := pc, loop := none }
    ln := { s.ln with
      scode := s.ln.scode.writeLE pc 4 w
      desc := { s.ln.desc with slen := max s.ln.desc.slen (pc + 8) } } }

/-- A lane word at index 0 for a path of all lanes: a clause header, or the one instruction of a clause. -/
def State.placeLane (s : State) (w : Nat) : State :=
  let header := (field (BitVec.ofNat 96 w) 88 8 : BitVec 8) == 0xC1
  let u : LaneUnit := ⟨0, Vector.replicate 64 0, Vector.replicate 8 0, Vector.replicate 8 TReg.zero, 0, false, false⟩
  let c : ClauseSt := ⟨0, 1, 1, some 0, some 1, true, true⟩
  let p : Path := ⟨0, 0xFFFFFFFF, none, [], if header then none else some c, false, false, []⟩
  { s with
    slot := false
    g := { s.g with run := some ⟨u, some p, none, [], Vector.replicate 16 none⟩ }
    ln := { s.ln with
      lcode := s.ln.lcode.writeLE 0 12 w
      desc := { s.ln.desc with llen := max s.ln.desc.llen 2 } } }

/-- A matrix word at MPC of a running stream. -/
def State.placeMatrix (s : State) (w : Nat) : State :=
  let q := s.wg.seq
  { s with
    wg := { s.wg with seq := { q with run := true, flt := false, owner := s.g.gid, job := none, mprog := 0 } }
    ln := { s.ln with
      mcode := s.ln.mcode.writeLE (8 * q.mpc) 8 w
      desc := { s.ln.desc with mlen := max s.ln.desc.mlen (q.mpc + 2) } } }

/-- An instruction of nbits bits placed where the next step fetches it. -/
def State.placeWord (s : State) (nbits w : Nat) : State :=
  let s := s.stage.ready
  let turn := fun (op : TurnOp) (s : State) => { s with turns := ⟨0, 0, op⟩ :: s.turns }
  if nbits = 96 then turn (.lane false) (s.placeLane w)
  else if nbits = 64 then turn .matrix (s.placeMatrix w)
  else turn .scalar (s.placeScalar w)

end Sys2Proof.Machine
end

