-- ==== Sys2Proof/Machine/LaneMod.lean ====
section
/-! DEFINITION. The meanings of the modular lane instructions (15 R238, R239, 05 R81). -/
namespace Sys2Proof.Machine

/-- The modulus in an even S pair of the unit's copies. -/
def RunUnit.modulus (r : RunUnit) (n : Nat) : Nat := (r.u.sreg (n + 1) 0 true ++ r.u.sreg n 0 true : DWord).toNat

/-- The check of R81, before every other (R227). -/
def badModulus (q : Nat) : Option (BitVec 8) := if modulusOk q then none else some 0x09

/-- The number of the S pair that a specifier names. -/
def Opnd.sNum : Opnd → Nat
  | .s n => n.toNat
  | _ => 0

/-- A residue as a 64-bit lane value. -/
def residue (q : Nat) (x : Int) : DWord := BitVec.ofInt 64 (x % q)

/-- A modular instruction of two residue operands with q named by OPC (R238). -/
def mod2 (s : State) (o : LaneOps) (f : Int → Int → Int) : Res :=
  laneInstr s o 2 (fun _ => LaneOps.srcsAB o 2) (fun r => badModulus (r.modulus (Opnd.sNum o.c))) fun r _ vs =>
    { out := pairOf fun l =>
        residue (r.modulus (Opnd.sNum o.c)) (f ((srcAt vs 0).pair l).toNat ((srcAt vs 1).pair l).toNat) }

/-- A butterfly: three residue operands, with q named by IMM32 [5:0] (R239). -/
def butterfly (s : State) (o : LaneOps) (f : Int → Int → Int → Int) : Res :=
  laneInstr s o 2 (fun _ => LaneOps.srcsABC o 2) (fun r => badModulus (r.modulus (bitsN o.imm.toNat 5 0))) fun r _ vs =>
    { out := pairOf fun l =>
        residue (r.modulus (bitsN o.imm.toNat 5 0))
          (f ((srcAt vs 0).pair l).toNat ((srcAt vs 1).pair l).toNat ((srcAt vs 2).pair l).toNat) }

/-- `MODADD`. -/
def execModadd (o : LaneOps) (s : State) : Res := mod2 s o fun a b => a + b

/-- `MODSUB`. -/
def execModsub (o : LaneOps) (s : State) : Res := mod2 s o fun a b => a - b

/-- `MODMUL`. -/
def execModmul (o : LaneOps) (s : State) : Res := mod2 s o fun a b => a * b

/-- `NTTBF.ADD`. -/
def execNttbfAdd (o : LaneOps) (s : State) : Res := butterfly s o fun x y w => x + w * y

/-- `NTTBF.SUB`. -/
def execNttbfSub (o : LaneOps) (s : State) : Res := butterfly s o fun x y w => x - w * y

/-- `NTTBI.ADD`. -/
def execNttbiAdd (o : LaneOps) (s : State) : Res := butterfly s o fun x y _ => x + y

/-- `NTTBI.SUB`. -/
def execNttbiSub (o : LaneOps) (s : State) : Res := butterfly s o fun x y w => (x - y) * w

end Sys2Proof.Machine
end

