-- ==== Sys2Proof/Machine/LaneInt.lean ====
section
/-! DEFINITION. The meanings of the lane integer instructions (15 R232 to R234, 05 R87). -/
namespace Sys2Proof.Machine

/-- An exact result of w bits wrapped, or clamped to the signed or unsigned range with ISAT (R232). `x` is exact on the
operands read as signed, `u` on them read as unsigned. -/
def clampTo (w : Nat) (m : Sat) (x u : Int) : BitVec w × Word :=
  match m with
  | .wrap => (BitVec.ofInt w x, 0)
  | .sat =>
    if x < -2 ^ (w - 1) then (BitVec.ofInt w (-2 ^ (w - 1)), stISAT)
    else if 2 ^ (w - 1) ≤ x then (BitVec.ofInt w (2 ^ (w - 1) - 1), stISAT)
    else (BitVec.ofInt w x, 0)
  | .usat =>
    if u < 0 then (0, stISAT)
    else if 2 ^ w ≤ u then (BitVec.allOnes w, stISAT)
    else (BitVec.ofInt w u, 0)

/-- A two-operand instruction on 32-bit lanes. -/
def int2 (s : State) (o : LaneOps) (f : Word → Word → Word) : Res :=
  lane32 s o (LaneOps.srcsAB o) fun l vs => f ((srcAt vs 0).word l) ((srcAt vs 1).word l)

/-- A one-operand instruction on 32-bit lanes. -/
def int1 (s : State) (o : LaneOps) (f : Word → Word) : Res :=
  lane32 s o (LaneOps.srcsA o) fun l vs => f ((srcAt vs 0).word l)

/-- A two-operand instruction on pairs with sticky bits. -/
def int64 (s : State) (o : LaneOps) (f : DWord → DWord → DWord × Word) : Res :=
  laneInstr s o 2 (fun _ => LaneOps.srcsAB o 2) (fun _ => none) fun _ mask vs =>
    { out := pairOf fun l => (f ((srcAt vs 0).pair l) ((srcAt vs 1).pair l)).1
      sticky := stickyOf mask fun l => (f ((srcAt vs 0).pair l) ((srcAt vs 1).pair l)).2 }

/-- The sum of R232 in a saturation mode. -/
def satAdd {w : Nat} (m : Sat) (a b : BitVec w) : BitVec w × Word := clampTo w m (a.toInt + b.toInt) (a.toNat + b.toNat)

/-- The difference of R232 in a saturation mode. -/
def satSub {w : Nat} (m : Sat) (a b : BitVec w) : BitVec w × Word :=
  clampTo w m (a.toInt - b.toInt) ((a.toNat : Int) - b.toNat)

/-- `IADD`. -/
def execIadd (o : LaneOps) (m : Sat) (s : State) : Res :=
  lane32s s o (LaneOps.srcsAB o) fun _ l vs => satAdd m ((srcAt vs 0).word l) ((srcAt vs 1).word l)

/-- `ISUB`. -/
def execIsub (o : LaneOps) (m : Sat) (s : State) : Res :=
  lane32s s o (LaneOps.srcsAB o) fun _ l vs => satSub m ((srcAt vs 0).word l) ((srcAt vs 1).word l)

/-- `IMUL`. -/
def execImul (o : LaneOps) (s : State) : Res := int2 s o fun a b => a * b

/-- `IMULH`. -/
def execImulh (o : LaneOps) (u : Bool) (s : State) : Res := int2 s o fun a b => if u then mulHU a b else mulHS a b

/-- `IMAD`. -/
def execImad (o : LaneOps) (s : State) : Res :=
  lane32 s o (LaneOps.srcsABC o) fun l vs =>
    (srcAt vs 0).word l * (srcAt vs 1).word l + (srcAt vs 2).word l

/-- `IAND`. -/
def execIand (o : LaneOps) (s : State) : Res := int2 s o fun a b => a &&& b

/-- `IOR`. -/
def execIor (o : LaneOps) (s : State) : Res := int2 s o fun a b => a ||| b

/-- `IXOR`. -/
def execIxor (o : LaneOps) (s : State) : Res := int2 s o fun a b => a ^^^ b

/-- `INOT`. -/
def execInot (o : LaneOps) (s : State) : Res := int1 s o fun a => ~~~a

/-- `ISHL`. -/
def execIshl (o : LaneOps) (s : State) : Res := int2 s o fun a b => shl32 a (amount b)

/-- `ISHR`. -/
def execIshr (o : LaneOps) (s : State) : Res := int2 s o fun a b => shr32 a (amount b)

/-- `ISRA`. -/
def execIsra (o : LaneOps) (s : State) : Res := int2 s o fun a b => sra32 a (amount b)

/-- `IMIN`. -/
def execImin (o : LaneOps) (u : Bool) (s : State) : Res :=
  int2 s o fun a b => if (if u then a.ult b else a.slt b) then a else b

/-- `IMAX`. -/
def execImax (o : LaneOps) (u : Bool) (s : State) : Res :=
  int2 s o fun a b => if (if u then a.ult b else a.slt b) then b else a

/-- A condition of `ICMP`, signed or unsigned (R233). -/
def icondHolds (c : ICond) (u : Bool) (a b : Word) : Bool :=
  let less := fun (a b : Word) => if u then a.ult b else a.slt b
  match c with
  | .eq => a == b
  | .ne => a != b
  | .lt => less a b
  | .le => !less b a
  | .gt => less b a
  | .ge => !less a b

/-- `ICMP.cc`. -/
def execIcmp (o : LaneOps) (cc : ICond) (u : Bool) (s : State) : Res :=
  lanePred s o (LaneOps.srcsAB o) fun _ l vs => (icondHolds cc u ((srcAt vs 0).word l) ((srcAt vs 1).word l), 0)

/-- `IPOPC`. -/
def execIpopc (o : LaneOps) (s : State) : Res := int1 s o popc32

/-- `ICLZ`. -/
def execIclz (o : LaneOps) (s : State) : Res := int1 s o clz32

/-- `IADD64`. -/
def execIadd64 (o : LaneOps) (m : Sat) (s : State) : Res := int64 s o (satAdd m)

/-- `ISUB64`. -/
def execIsub64 (o : LaneOps) (m : Sat) (s : State) : Res := int64 s o (satSub m)

/-- `IMUL64`. -/
def execImul64 (o : LaneOps) (s : State) : Res := int64 s o fun a b => (a * b, 0)

/-- The sum of four INT8 products and an INT32, exact (R234). -/
def dot4 (a b c : Word) : Int :=
  c.toInt + ((List.range 4).map fun k =>
    (field a (8 * k) 8 : BitVec 8).toInt * (field b (8 * k) 8 : BitVec 8).toInt).sum

/-- `IDOT4` (R234). -/
def execIdot4 (o : LaneOps) (sat : Bool) (s : State) : Res :=
  lane32s s o (LaneOps.srcsABC o) fun _ l vs =>
    let x := dot4 ((srcAt vs 0).word l) ((srcAt vs 1).word l) ((srcAt vs 2).word l)
    clampTo 32 (if sat then .sat else .wrap) x x

end Sys2Proof.Machine
end

