-- ==== Sys2Proof/Machine/LaneMove.lean ====
section
/-! DEFINITION. The meanings of moves, predicate instructions and exchange across lanes (15 R225, R226, R240 to R245). -/
namespace Sys2Proof.Machine

/-- Bit l of the unit's copy of a predicate. -/
def RunUnit.pbit (r : RunUnit) (n : BitVec 3) (l : Nat) : Bool := (vget r.u.p n.toNat 0).getLsbD l

/-- Pa of IMM32 (R226). -/
def predA (o : LaneOps) : BitVec 3 := field o.imm 3 3

/-- Pb of IMM32 (R226). -/
def predB (o : LaneOps) : BitVec 3 := field o.imm 6 3

/-- Registers of a form with a `.64` modifier. -/
def regs64 (d64 : Bool) : Nat := if d64 then 2 else 1

/-- `MOV` and `MOV.64` (R240). -/
def execMov (o : LaneOps) (d64 : Bool) (s : State) : Res :=
  laneInstr s o (regs64 d64) (fun _ => LaneOps.srcsA o (regs64 d64)) (fun _ => none) fun _ _ vs =>
    { out := outOf (regs64 d64) fun l => (srcAt vs 0).val (regs64 d64) l }

/-- `SEL` and `SEL.64` (R240): Pk is named in IMM32 [5:3]. -/
def execSel (o : LaneOps) (d64 : Bool) (s : State) : Res :=
  laneInstr s o (regs64 d64) (fun _ => LaneOps.srcsAB o (regs64 d64)) (fun _ => none) fun r _ vs =>
    { out := outOf (regs64 d64) fun l =>
        if r.pbit (predA o) l then (srcAt vs 0).val (regs64 d64) l else (srcAt vs 1).val (regs64 d64) l }

/-- `MOVI` (R240). -/
def execMovi (o : LaneOps) (s : State) : Res := lane32 s o [] fun _ _ => o.imm

/-- A function of `PLOP` (R241). -/
def plopOf (f : PFun) (a b : Bool) : Bool :=
  match f with
  | .and => a && b
  | .or => a || b
  | .xor => a != b
  | .andn => a && !b
  | .orn => a || !b
  | .not => !a

/-- `PLOP.f` (R241). -/
def execPlop (o : LaneOps) (f : PFun) (s : State) : Res :=
  lanePred s o [] fun r l _ => (plopOf f (r.pbit (predA o) l) (r.pbit (predB o) l), 0)

/-- `PMOV` from a predicate or from the bits of an S register (R241). -/
def execPmov (o : LaneOps) (fromS : Bool) (s : State) : Res :=
  lanePred s o (if fromS then LaneOps.srcsA o else []) fun r l vs =>
    (if fromS then ((srcAt vs 0).word l).getLsbD l else r.pbit (predA o) l, 0)

/-- `PMOV.NZ` (R241). -/
def execPmovNz (o : LaneOps) (s : State) : Res :=
  lanePred s o (LaneOps.srcsA o) fun _ l vs => ((srcAt vs 0).word l != 0, 0)

/-- An instruction that writes a value of the predicates to lanes. -/
def laneOfPred (s : State) (o : LaneOps) (f : RunUnit → Nat → Word) : Res :=
  laneInstr s o 1 (fun _ => []) (fun _ => none) fun r _ _ => { out := lanesOf (f r) }

/-- `PRD` (R241). -/
def execPrd (o : LaneOps) (s : State) : Res := laneOfPred s o fun r l => flag (r.pbit (predA o) l)

/-- `PRD.MASK` (R241). -/
def execPrdMask (o : LaneOps) (s : State) : Res := laneOfPred s o fun r _ => vget r.u.p (predA o).toNat 0

/-- The source lane of `SHFL`, which may lie outside 0 to 31 (R242). In `.UP` and `.DOWN` too b is read unsigned (DESIGN CHOICE, log 100). -/
def shflLane (m : ShMode) (l : Nat) (b : Word) : Int :=
  match m with
  | .idx => b.toNat
  | .up => l - b.toNat
  | .down => l + b.toNat
  | .xor => (BitVec.ofNat 32 l ^^^ b).toNat

/-- `SHFL.m` (R242). -/
def execShfl (o : LaneOps) (m : ShMode) (s : State) : Res :=
  laneInstr s o 1 (fun _ => LaneOps.srcsAB o) (fun _ => none) fun _ mask vs =>
    { out := lanesOf fun l =>
        let j := shflLane m l ((srcAt vs 1).word l)
        if 0 ≤ j && j < 32 && mask.getLsbD j.toNat then (srcAt vs 0).word j.toNat else (srcAt vs 0).word l }

/-- One lane as a mask. -/
def oneLane (l : Nat) : Word := 1 <<< l

/-- `BCAST` (R243): lane k is read whether or not it is enabled; with no lane enabled nothing is read, and of an array only the index of lane
k is checked (DESIGN CHOICE, log 100). -/
def execBcast (o : LaneOps) (s : State) : Res :=
  let k := bitsN o.imm.toNat 4 0
  laneInstr s o 1 (fun mask => [{ x := o.a, lu := o.la, only := some (if mask = 0 then 0 else oneLane k) }])
    (fun _ => none) fun _ _ vs => { out := lanesOf fun _ => (srcAt vs 0).word k }

/-- The lowest lane of a mask. -/
def lowest (mask : Word) : Nat := (lanesIn mask).headD 0

/-- A result for a lane destination, or for S0 to S47 (R225). -/
def uniformRes (o : LaneOps) (mask v : Word) : LaneRes :=
  match o.dst with
  | .s _ => if mask = 0 then {} else { sreg := some v }
  | _ => if mask = 0 then {} else { out := lanesOf fun _ => v }

/-- `RFL` (R244): only the lowest enabled lane is read. -/
def execRfl (o : LaneOps) (s : State) : Res :=
  laneInstr s o 1
    (fun mask => [{ x := o.a, lu := o.la, only := some (if mask = 0 then 0 else oneLane (lowest mask)) }])
    (fun _ => none) fun _ mask vs => uniformRes o mask ((srcAt vs 0).word (lowest mask))

/-- The enabled lanes with a nonzero source (R245). -/
def votes (mask : Word) (vs : List SrcVal) : Word := mask &&& maskOf fun l => (srcAt vs 0).word l != 0

/-- A `VOTE` that writes the enabled bits of Pd. -/
def votePred (s : State) (o : LaneOps) (f : Word → Word → Bool) : Res :=
  laneInstr s o 0 (fun _ => LaneOps.srcsA o) (fun _ => none) fun _ mask vs =>
    { pred := some (field o.imm 0 3, if f mask (votes mask vs) then 0xFFFFFFFF else 0) }

/-- `VOTE.ANY` (R245). -/
def execVoteAny (o : LaneOps) (s : State) : Res := votePred s o fun _ m => m != 0

/-- `VOTE.ALL` (R245). -/
def execVoteAll (o : LaneOps) (s : State) : Res := votePred s o fun mask m => m == mask

/-- `VOTE.BAL` (R245). -/
def execVoteBal (o : LaneOps) (s : State) : Res :=
  laneInstr s o 1 (fun _ => LaneOps.srcsA o) (fun _ => none) fun _ mask vs => uniformRes o mask (votes mask vs)

end Sys2Proof.Machine
end

