-- ==== Sys2Proof/Machine/Dispatch.lean ====
section
/-! DEFINITION. One arm per instruction: a direct call of its meaning. -/
namespace Sys2Proof.Machine

/-- What an instruction does. -/
def exec (i : Instr) (s : State) : Host.Outcome State Fault Refusal :=
  match i with
  | .sadd d a b => Sys2Proof.Machine.execSadd d a b s
  | .ssub d a b => Sys2Proof.Machine.execSsub d a b s
  | .smul d a b => Sys2Proof.Machine.execSmul d a b s
  | .smulhu d a b => Sys2Proof.Machine.execSmulhu d a b s
  | .smulhs d a b => Sys2Proof.Machine.execSmulhs d a b s
  | .sand d a b => Sys2Proof.Machine.execSand d a b s
  | .sor d a b => Sys2Proof.Machine.execSor d a b s
  | .sxor d a b => Sys2Proof.Machine.execSxor d a b s
  | .sshl d a b => Sys2Proof.Machine.execSshl d a b s
  | .sshr d a b => Sys2Proof.Machine.execSshr d a b s
  | .ssra d a b => Sys2Proof.Machine.execSsra d a b s
  | .smin d a b => Sys2Proof.Machine.execSmin d a b s
  | .smax d a b => Sys2Proof.Machine.execSmax d a b s
  | .sminu d a b => Sys2Proof.Machine.execSminu d a b s
  | .smaxu d a b => Sys2Proof.Machine.execSmaxu d a b s
  | .ssel d a b => Sys2Proof.Machine.execSsel d a b s
  | .sadd64 d a b => Sys2Proof.Machine.execSadd64 d a b s
  | .ssub64 d a b => Sys2Proof.Machine.execSsub64 d a b s
  | .smul64 d a b => Sys2Proof.Machine.execSmul64 d a b s
  | .sclz d a => Sys2Proof.Machine.execSclz d a s
  | .spopc d a => Sys2Proof.Machine.execSpopc d a s
  | .sset cc d a b => Sys2Proof.Machine.execSset cc d a b s
  | .sset64 cc d a b => Sys2Proof.Machine.execSset64 cc d a b s
  | .saddi d a imm => Sys2Proof.Machine.execSaddi d a imm s
  | .sandi d a imm => Sys2Proof.Machine.execSandi d a imm s
  | .sori d a imm => Sys2Proof.Machine.execSori d a imm s
  | .sxori d a imm => Sys2Proof.Machine.execSxori d a imm s
  | .sshli d a imm => Sys2Proof.Machine.execSshli d a imm s
  | .sshri d a imm => Sys2Proof.Machine.execSshri d a imm s
  | .ssrai d a imm => Sys2Proof.Machine.execSsrai d a imm s
  | .slit d imm => Sys2Proof.Machine.execSlit d imm s
  | .slitB64 d imm => Sys2Proof.Machine.execSlitB64 d imm s
  | .sld d a w t re pk off => Sys2Proof.Machine.execSld d a w t re pk off s
  | .sst d a w t re pk off => Sys2Proof.Machine.execSst d a w t re pk off s
  | .br imm => Sys2Proof.Machine.execBr imm s
  | .beqz a imm => Sys2Proof.Machine.execBeqz a imm s
  | .bnez a imm => Sys2Proof.Machine.execBnez a imm s
  | .bltz a imm => Sys2Proof.Machine.execBltz a imm s
  | .bgez a imm => Sys2Proof.Machine.execBgez a imm s
  | .bpany p imm => Sys2Proof.Machine.execBpany p imm s
  | .bpall p imm => Sys2Proof.Machine.execBpall p imm s
  | .bpnone p imm => Sys2Proof.Machine.execBpnone p imm s
  | .call l imm => Sys2Proof.Machine.execCall l imm s
  | .jr a => Sys2Proof.Machine.execJr a s
  | .loop c n => Sys2Proof.Machine.execLoop c n s
  | .linc w f sc => Sys2Proof.Machine.execLinc w f sc s
  | .enq a imm => Sys2Proof.Machine.execEnq a imm s
  | .tmap t a b => Sys2Proof.Machine.execTmap t a b s
  | .trel t => Sys2Proof.Machine.execTrel t s
  | .nop => Sys2Proof.Machine.execNop s
  | .endg => Sys2Proof.Machine.execEndg s
  | .pget d => Sys2Proof.Machine.execPget d s
  | .pyield a => Sys2Proof.Machine.execPyield a s
  | .pretire a => Sys2Proof.Machine.execPretire a s
  | .binit d a => Sys2Proof.Machine.execBinit d a s
  | .arrive a b => Sys2Proof.Machine.execArrive a b s
  | .arriveRel a b => Sys2Proof.Machine.execArriveRel a b s
  | .phase sc => Sys2Proof.Machine.execPhase sc s
  | .fenceSc => Sys2Proof.Machine.execFenceSc s
  | .job p a => Sys2Proof.Machine.execJob p a s
  | .reside a b => Sys2Proof.Machine.execReside a b s
  | .resideB d a b => Sys2Proof.Machine.execResideB d a b s
  | .enroll d a => Sys2Proof.Machine.execEnroll d a s
  | .enrollR d a b => Sys2Proof.Machine.execEnrollR d a b s
  | .settle d a b => Sys2Proof.Machine.execSettle d a b s
  | .reparent a b => Sys2Proof.Machine.execReparent a b s
  | .cread d a => Sys2Proof.Machine.execCread d a s
  | .trap imm => Sys2Proof.Machine.execTrap imm s
  | .hret => Sys2Proof.Machine.execHret s
  | .hretPoison => Sys2Proof.Machine.execHretPoison s
  | .hretZero => Sys2Proof.Machine.execHretZero s
  | .srr d n => Sys2Proof.Machine.execSrr d n s
  | .srw a n => Sys2Proof.Machine.execSrw a n s
  | .halt => Sys2Proof.Machine.execHalt s
  | .mstart a imm => Sys2Proof.Machine.execMstart a imm s
  | .pool imm => Sys2Proof.Machine.execPool imm s
  | .mstatEnd => Sys2Proof.Machine.execMstatEnd s
  | .clauseHeader h => Sys2Proof.Machine.execClauseHeader h s
  | .fadd o t x2 => Sys2Proof.Machine.execFadd o t x2 s
  | .fsub o t x2 => Sys2Proof.Machine.execFsub o t x2 s
  | .fmul o t x2 => Sys2Proof.Machine.execFmul o t x2 s
  | .ffma o t x2 => Sys2Proof.Machine.execFfma o t x2 s
  | .fmin o t x2 => Sys2Proof.Machine.execFmin o t x2 s
  | .fmax o t x2 => Sys2Proof.Machine.execFmax o t x2 s
  | .fabs o t x2 => Sys2Proof.Machine.execFabs o t x2 s
  | .fneg o t x2 => Sys2Proof.Machine.execFneg o t x2 s
  | .frcp o t x2 => Sys2Proof.Machine.execFrcp o t x2 s
  | .frsq o t x2 => Sys2Proof.Machine.execFrsq o t x2 s
  | .fsqrt o t x2 => Sys2Proof.Machine.execFsqrt o t x2 s
  | .fex2 o t x2 => Sys2Proof.Machine.execFex2 o t x2 s
  | .flg2 o t x2 => Sys2Proof.Machine.execFlg2 o t x2 s
  | .fcmp o t cc => Sys2Proof.Machine.execFcmp o t cc s
  | .fclass o t => Sys2Proof.Machine.execFclass o t s
  | .iadd o m => Sys2Proof.Machine.execIadd o m s
  | .isub o m => Sys2Proof.Machine.execIsub o m s
  | .imul o => Sys2Proof.Machine.execImul o s
  | .imulh o u => Sys2Proof.Machine.execImulh o u s
  | .imad o => Sys2Proof.Machine.execImad o s
  | .iand o => Sys2Proof.Machine.execIand o s
  | .ior o => Sys2Proof.Machine.execIor o s
  | .ixor o => Sys2Proof.Machine.execIxor o s
  | .inot o => Sys2Proof.Machine.execInot o s
  | .ishl o => Sys2Proof.Machine.execIshl o s
  | .ishr o => Sys2Proof.Machine.execIshr o s
  | .isra o => Sys2Proof.Machine.execIsra o s
  | .imin o u => Sys2Proof.Machine.execImin o u s
  | .imax o u => Sys2Proof.Machine.execImax o u s
  | .icmp o cc u => Sys2Proof.Machine.execIcmp o cc u s
  | .ipopc o => Sys2Proof.Machine.execIpopc o s
  | .iclz o => Sys2Proof.Machine.execIclz o s
  | .iadd64 o m => Sys2Proof.Machine.execIadd64 o m s
  | .isub64 o m => Sys2Proof.Machine.execIsub64 o m s
  | .imul64 o => Sys2Proof.Machine.execImul64 o s
  | .idot4 o sat => Sys2Proof.Machine.execIdot4 o sat s
  | .cvt o dt st => Sys2Proof.Machine.execCvt o dt st s
  | .f8pack o => Sys2Proof.Machine.execF8pack o s
  | .f8unpkLo o => Sys2Proof.Machine.execF8unpkLo o s
  | .f8unpkHi o => Sys2Proof.Machine.execF8unpkHi o s
  | .i4unpk o k => Sys2Proof.Machine.execI4unpk o k s
  | .modadd o => Sys2Proof.Machine.execModadd o s
  | .modsub o => Sys2Proof.Machine.execModsub o s
  | .modmul o => Sys2Proof.Machine.execModmul o s
  | .nttbfAdd o => Sys2Proof.Machine.execNttbfAdd o s
  | .nttbfSub o => Sys2Proof.Machine.execNttbfSub o s
  | .nttbiAdd o => Sys2Proof.Machine.execNttbiAdd o s
  | .nttbiSub o => Sys2Proof.Machine.execNttbiSub o s
  | .mov o d64 => Sys2Proof.Machine.execMov o d64 s
  | .sel o d64 => Sys2Proof.Machine.execSel o d64 s
  | .movi o => Sys2Proof.Machine.execMovi o s
  | .plop o f => Sys2Proof.Machine.execPlop o f s
  | .pmov o fromS => Sys2Proof.Machine.execPmov o fromS s
  | .pmovNz o => Sys2Proof.Machine.execPmovNz o s
  | .prd o => Sys2Proof.Machine.execPrd o s
  | .prdMask o => Sys2Proof.Machine.execPrdMask o s
  | .shfl o m => Sys2Proof.Machine.execShfl o m s
  | .bcast o => Sys2Proof.Machine.execBcast o s
  | .rfl o => Sys2Proof.Machine.execRfl o s
  | .voteAny o => Sys2Proof.Machine.execVoteAny o s
  | .voteAll o => Sys2Proof.Machine.execVoteAll o s
  | .voteBal o => Sys2Proof.Machine.execVoteBal o s
  | .lbr o => Sys2Proof.Machine.execLbr o s
  | .ljoin o => Sys2Proof.Machine.execLjoin o s
  | .lend o => Sys2Proof.Machine.execLend o s
  | .xset o => Sys2Proof.Machine.execXset o s
  | .xsetS o => Sys2Proof.Machine.execXsetS o s
  | .xrst o => Sys2Proof.Machine.execXrst o s
  | .lnop o => Sys2Proof.Machine.execLnop o s
  | .ldG o z => Sys2Proof.Machine.execLdG o z s
  | .stG o z => Sys2Proof.Machine.execStG o z s
  | .ldL o z => Sys2Proof.Machine.execLdL o z s
  | .stL o z => Sys2Proof.Machine.execStL o z s
  | .atomG o f => Sys2Proof.Machine.execAtomG o f s
  | .atomL o f => Sys2Proof.Machine.execAtomL o f s
  | .redG o f => Sys2Proof.Machine.execRedG o f s
  | .redf o fc => Sys2Proof.Machine.execRedf o fc s
  | .redx o t => Sys2Proof.Machine.execRedx o t s
  | .xmerge o => Sys2Proof.Machine.execXmerge o s
  | .xcvt o => Sys2Proof.Machine.execXcvt o s
  | .xcvtClr o => Sys2Proof.Machine.execXcvtClr o s
  | .resideLane o => Sys2Proof.Machine.execResideLane o s
  | .wait o => Sys2Proof.Machine.execWait o s
  | .mnop => Sys2Proof.Machine.execMnop s
  | .mli q a imm => Sys2Proof.Machine.execMli q a imm s
  | .mmov a b => Sys2Proof.Machine.execMmov a b s
  | .madd a b imm => Sys2Proof.Machine.execMadd a b imm s
  | .mld a imm => Sys2Proof.Machine.execMld a imm s
  | .mres a x => Sys2Proof.Machine.execMres a x s
  | .mrel x => Sys2Proof.Machine.execMrel x s
  | .mmod a => Sys2Proof.Machine.execMmod a s
  | .mma m a b k tr tc cb => Sys2Proof.Machine.execMma m a b k tr tc cb s
  | .mzero k tr tc cb => Sys2Proof.Machine.execMzero k tr tc cb s
  | .mst f cr a k x tr tc cb bar => Sys2Proof.Machine.execMst f cr a k x tr tc cb bar s
  | .mwait bar x imm => Sys2Proof.Machine.execMwait bar x imm s
  | .marv bar => Sys2Proof.Machine.execMarv bar s
  | .mend bar => Sys2Proof.Machine.execMend bar s
  | .mbr imm => Sys2Proof.Machine.execMbr imm s
  | .mloop x imm => Sys2Proof.Machine.execMloop x imm s
  | .mmaKStep => Sys2Proof.Machine.execMmaKStep s
  | .mstRow => Sys2Proof.Machine.execMstRow s
  | .unitStart => Sys2Proof.Machine.execUnitStart s
  | .replyArrival k lanes => Sys2Proof.Machine.execReplyArrival k lanes s
  | .porterPerform hall => Sys2Proof.Machine.execPorterPerform hall s
  | .floatGrant => Sys2Proof.Machine.execFloatGrant s
  | .spillReload => Sys2Proof.Machine.execSpillReload s
  | .compaction lid => Sys2Proof.Machine.execCompaction lid s
  | .entryAssignment => Sys2Proof.Machine.execEntryAssignment s
  | .flashSense slot ok => Sys2Proof.Machine.execFlashSense slot ok s
  | .landingCredit slot n => Sys2Proof.Machine.execLandingCredit slot n s
  | .copyOut rec => Sys2Proof.Machine.execCopyOut rec s
  | .relanding rec => Sys2Proof.Machine.execRelanding rec s
  | .launchEnd => Sys2Proof.Machine.execLaunchEnd s
  | .jobStart j => Sys2Proof.Machine.execJobStart j s
  | .copy j => Sys2Proof.Machine.execCopy j s
  | .gather j => Sys2Proof.Machine.execGather j s
  | .fill j => Sys2Proof.Machine.execFill j s
  | .flashRead j ok => Sys2Proof.Machine.execFlashRead j ok s
  | .flashWrite j => Sys2Proof.Machine.execFlashWrite j s
  | .cipherIn j => Sys2Proof.Machine.execCipherIn j s
  | .send j => Sys2Proof.Machine.execSend j s
  | .fetch j => Sys2Proof.Machine.execFetch j s
  | .jobComplete j => Sys2Proof.Machine.execJobComplete j s
  | .peerTransfer j ok data => Sys2Proof.Machine.execPeerTransfer j ok data s
  | .rollup index => Sys2Proof.Machine.execRollup index s
  | .settleComplete => Sys2Proof.Machine.execSettleComplete s
  | .resideComplete id => Sys2Proof.Machine.execResideComplete id s
  | .frameMigration dfn tier loc => Sys2Proof.Machine.execFrameMigration dfn tier loc s
  | .frameEviction dfn loc => Sys2Proof.Machine.execFrameEviction dfn loc s
  | .frameReturn dfn tagOk => Sys2Proof.Machine.execFrameReturn dfn tagOk s
  | .heartbeatTick => Sys2Proof.Machine.execHeartbeatTick s
  | .timerRelease tenant num => Sys2Proof.Machine.execTimerRelease tenant num s
  | .periodBoundary => Sys2Proof.Machine.execPeriodBoundary s
  | .sliceStart => Sys2Proof.Machine.execSliceStart s
  | .stopRequest hall => Sys2Proof.Machine.execStopRequest hall s
  | .coreHalt core => Sys2Proof.Machine.execCoreHalt core s
  | .stopTimeout core => Sys2Proof.Machine.execStopTimeout core s
  | .shadowExchange core => Sys2Proof.Machine.execShadowExchange core s
  | .imageSave core => Sys2Proof.Machine.execImageSave core s
  | .imageStage core tenant => Sys2Proof.Machine.execImageStage core tenant s
  | .hallRevocation hall => Sys2Proof.Machine.execHallRevocation hall s
  | .hallScrub hall => Sys2Proof.Machine.execHallScrub hall s
  | .admission lid => Sys2Proof.Machine.execAdmission lid s
  | .interruptDelivery fn => Sys2Proof.Machine.execInterruptDelivery fn s
  | .launch c va => Sys2Proof.Machine.execLaunch c va s
  | .tinval c va len => Sys2Proof.Machine.execTinval c va len s
  | .cancel c lid => Sys2Proof.Machine.execCancel c lid s
  | .arm c va => Sys2Proof.Machine.execArm c va s
  | .disarm c num => Sys2Proof.Machine.execDisarm c num s
  | .drain c => Sys2Proof.Machine.execDrain c s
  | .map c va len flags w4 => Sys2Proof.Machine.execMap c va len flags w4 s
  | .unmap c va len => Sys2Proof.Machine.execUnmap c va len s
  | .notify fn q v => Sys2Proof.Machine.execNotify fn q v s
  | .queueEnable fn q => Sys2Proof.Machine.execQueueEnable fn q s
  | .queueDisable fn q => Sys2Proof.Machine.execQueueDisable fn q s
  | .contextCreate t => Sys2Proof.Machine.execContextCreate t s
  | .contextDelete t => Sys2Proof.Machine.execContextDelete t s
  | .namespaceCreate n => Sys2Proof.Machine.execNamespaceCreate n s
  | .namespaceDelete n => Sys2Proof.Machine.execNamespaceDelete n s
  | .pwrlimWrite v => Sys2Proof.Machine.execPwrlimWrite v s
  | .registerWrite fn off v => Sys2Proof.Machine.execRegisterWrite fn off v s
  | .functionLevelReset fn => Sys2Proof.Machine.execFunctionLevelReset fn s
  | .configWrite fn reg v => Sys2Proof.Machine.execConfigWrite fn reg v s
  | .lockInterfaceRequest fn => Sys2Proof.Machine.execLockInterfaceRequest fn s
  | .startInterfaceRequest fn => Sys2Proof.Machine.execStartInterfaceRequest fn s
  | .stopInterfaceRequest fn => Sys2Proof.Machine.execStopInterfaceRequest fn s
  | .ideLoss fn => Sys2Proof.Machine.execIdeLoss fn s
  | .keyImport session slot use ex key => Sys2Proof.Machine.execKeyImport session slot use ex key s
  | .keyWrappedImport session slot blob => Sys2Proof.Machine.execKeyWrappedImport session slot blob s
  | .keyExport session slot => Sys2Proof.Machine.execKeyExport session slot s
  | .keyDelete session slot => Sys2Proof.Machine.execKeyDelete session slot s
  | .streamOpen session stream slot fixed => Sys2Proof.Machine.execStreamOpen session stream slot fixed s
  | .getMeasurements fn index => Sys2Proof.Machine.execGetMeasurements fn index s
  | .keyExchange fn id version key => Sys2Proof.Machine.execKeyExchange fn id version key s
  | .bootStage key sig image => Sys2Proof.Machine.execBootStage key sig image s
  | .powerGood => Sys2Proof.Machine.execPowerGood s
  | .powerCap => Sys2Proof.Machine.execPowerCap s
  | .d3hotEntry => Sys2Proof.Machine.execD3hotEntry s
  | .sriovEnable n => Sys2Proof.Machine.execSriovEnable n s
  | .vfPause fn => Sys2Proof.Machine.execVfPause fn s
  | .spareSubstitution part unit left => Sys2Proof.Machine.execSpareSubstitution part unit left s
  | .softErrorCorrected array unit => Sys2Proof.Machine.execSoftErrorCorrected array unit s
  | .uncorrectableEcc site => Sys2Proof.Machine.execUncorrectableEcc site s
  | .cxlDeviceLoss lo hi => Sys2Proof.Machine.execCxlDeviceLoss lo hi s
  | .powerLoss => Sys2Proof.Machine.execPowerLoss s
  | .d3hotExit => Sys2Proof.Machine.execD3hotExit s
  | .demandWithinWatts => Sys2Proof.Machine.execDemandWithinWatts s
  | .vfUnpause fn => Sys2Proof.Machine.execVfUnpause fn s
  | .migrationSnapshot t => Sys2Proof.Machine.execMigrationSnapshot t s
  | .ideStreamEstablish fn => Sys2Proof.Machine.execIdeStreamEstablish fn s
  | .firmwareInterfaceError fn => Sys2Proof.Machine.execFirmwareInterfaceError fn s
  | .spdmSessionEnd id => Sys2Proof.Machine.execSpdmSessionEnd id s
  | .belrikLinkLoss port => Sys2Proof.Machine.execBelrikLinkLoss port s
  | .journalMirrorComplete => Sys2Proof.Machine.execJournalMirrorComplete s

end Sys2Proof.Machine
end

