-- ==== Sys2Proof/Machine/Step.lean ====
section
/-! DEFINITION. One step of the machine: the next turn runs what it fetches. -/
namespace Sys2Proof.Machine

/-- A turn that has been taken up runs what it fetches. -/
def runTurn (s : State) (op : TurnOp) : Host.Outcome State Fault Refusal :=
  match s.fetch op with
  | (t, some i) => exec i t
  | (t, none) => .next t

/-- One step: the next turn, taken up. Without power only POWER_GOOD moves anything (28 R381); a turn of a group that is
gone does nothing. -/
def step (s : State) : Host.Outcome State Fault Refusal :=
  if !s.mayMove then .fault .powerOff
  else if s.takeTurn.hasTurn s.nextTurn then runTurn s.takeTurn s.nextTurn.op
  else .next s.takeTurn

/-- The state with an instruction stored where `step` fetches its next instruction (log 43). -/
def State.withFetchWord (s : State) (nbits w : Nat) : State := s.placeWord nbits w

end Sys2Proof.Machine
end

