-- ==== Sys2Proof/WellFormed.lean ====
section
/-! DEFINITION. Which instructions some word encodes (12 R174): a cell of the opcode map is assigned to it, every field is in the
range its format states, and every register field is of a class and number the instruction accepts. -/
namespace Sys2Proof

/-- The instruction passes the three checks of 12 R174. -/
def Instr.WellFormed (i : Instr) : Bool := i.assigned && i.rangesOk && i.operandsOk

end Sys2Proof
end

