-- ==== Sys2Proof/Safety.lean ====
section
/-! DEFINITION. What counts as a safe run, and the words in which the statements say what an instruction needs and what it
leaves alone. -/
namespace Sys2Proof.Machine

/-! ## Runs -/

/-- A run of n steps from the state. -/
def State.run (s : State) (n : Nat) : Res := Sys2Proof.core.run n s

/-- No step of any run from the state stops. -/
def State.Safe (s : State) : Prop := ∀ n, ∃ t, s.run n = .next t

/-! ## Scalar words -/

/-- A scalar word that does not transfer control begins and can fall through: the gate of 14 R198, R220 is open, and the
next word lies in the section (12 R176). -/
def State.ScalarReady (s : State) (drains : Bool) (regs : List SReg) : Prop :=
  s.scalarGate drains drains regs = true ∧ s.g.after.1 + 4 ≤ s.ln.desc.slen

/-- The state t with the PC and loop state that follow the current word of s (14 R211). -/
def State.onward (s t : State) : State := { t with g := { t.g with pc := s.g.after.1, loop := s.g.after.2 } }

/-- TIMEHI's latch after a word that reads some S registers (03 R51). -/
def State.latched (s : State) (reads : List SReg) : Word :=
  if reads.any fun n => n.toNat == 60 then s.timeHigh else s.g.timeHi

/-- The state t with the latch of TIMEHI as it is after a word of s that reads some S registers. -/
def State.hadRead (s t : State) (reads : List SReg) : State := { t with g := { t.g with timeHi := s.latched reads } }

/-- t is s after a scalar word that reads the registers `reads`, writes the registers `writes` and falls through:
nothing else of the device is changed. -/
structure ScalarStep (s t : State) (reads writes : List SReg) : Prop where
  /-- All but the S registers, the PC, the loop state and the latch of TIMEHI is as before. -/
  rest : t = { s with g := { s.g with s := t.g.s, pc := s.g.after.1, loop := s.g.after.2, timeHi := s.latched reads } }
  /-- So is every S register not written. -/
  kept : ∀ n : SReg, n.toNat < 48 → n ∉ writes → vget t.g.s n.toNat 0 = vget s.g.s n.toNat 0

/-- A pair of S registers. -/
def State.spair (s : State) (n : SReg) : DWord := vget s.g.s (n.toNat + 1) 0 ++ vget s.g.s n.toNat 0

/-- A byte at a device address is one of those that the n bytes at da show: a page of the host shows in every frame mapped to it
(23 R315). -/
def State.Shows (s : State) (da n a : Nat) : Prop := ∃ i < n, a ∈ s.homed (da + i)

/-! ## Transfers of control -/

/-- A byte offset at which a scalar word lies whole in the section (12 R176). -/
def State.InScalar (s : State) (a : Int) : Prop := 0 ≤ a ∧ a + 4 ≤ s.ln.desc.slen

/-- The state with the scalar stream at an offset and no loop running. -/
def State.atWord (s : State) (a : Int) : State := { s with g := { s.g with pc := a.toNat, loop := none } }

/-- A group of a running launch stands in the focus, with its own workgroup, launch and core. -/
structure State.Focused (s : State) : Prop where
  group  : s.g.st ≠ .absent
  wg     : s.wg.id ≠ 0
  launch : s.ln.lid ≠ 0
  ofWg   : s.g.wgId = s.wg.id
  ofLn   : s.wg.lid = s.ln.lid
  ofCore : s.core.id = s.wg.coreId

/-! ## Lane words -/

/-- A fixed-latency lane word: its constructor, how many registers it writes, its sources for the enabled lanes, and its
result from the running unit, the enabled lanes and the values of the sources. -/
structure LaneSpec where
  word : Instr
  nout : Nat
  srcs : Word → List Src
  res  : RunUnit → Word → List SrcVal → LaneRes

/-- The values that a lane word reads. -/
def State.laneReads (s : State) (r : RunUnit) (p : Path) (xs : List Src) : List SrcVal :=
  xs.map fun x => readSrc s.g r p x.x x.n

/-- Some lane read has no value (03 R67). -/
def State.laneMiss (s : State) (r : RunUnit) (p : Path) (mask : Word) (xs : List Src) : Bool :=
  xs.any fun x => (readSrc s.g r p x.x x.n).miss &&& x.lanes mask != 0

/-- A path stands at a lane word of operands o in its clause; no source or destination lane traps, waits or lacks the room
(03 R67, R69, R72, R62), and the path can go on to its next word (12 R176). -/
structure State.LaneClear (s : State) (o : LaneOps) (nout : Nat) (xs : List Src) (r : RunUnit) (p : Path)
    (c : ClauseSt) : Prop where
  gate   : s.laneGate = some (r, p, c)
  bounds : ∀ x ∈ xs, (readSrc s.g r p x.x x.n).oob &&& x.lanes (enabled r p o) = 0
  ready  : ∀ x ∈ xs, (readSrc s.g r p x.x x.n).pend &&& x.held (enabled r p o) = 0
  strict : s.g.strict = true → s.laneMiss r p (enabled r p o) xs = false
  dst    : nout ≠ 0 → s.g.dstOob o.dst &&& enabled r p o = 0
  free   : s.g.dstPend o.dst nout &&& enabled r p o = 0
  peak   : (s.g.lastUse xs (enabled r p o)).mappedWith o.dst nout (enabled r p o) ≤ s.ln.desc.peak
  onward : s.runsOut r p c = false

/-- The state in which a lane word has read its sources, ended the lives of last uses, and written its result. -/
def State.laneWrote (s : State) (o : LaneOps) (xs : List Src) (r : RunUnit) (p : Path) (res : LaneRes) : State :=
  let g := s.g.lastUse xs (enabled r p o)
  ({ s with g := if s.laneMiss r p (enabled r p o) xs then g.setUnmap else g } : State).putRes o.dst (enabled r p o) res

/-- The registers that leave the window with this word can be bound (03 R60 to R63). -/
def State.LaneRoom (s : State) (o : LaneOps) (r : RunUnit) (p : Path) (c : ClauseSt) (res : LaneRes) : Prop :=
  s.canBind (s.g.unboundOf (s.leaving c (res.entry o.dst (enabled r p o)))).length = true

/-- The result of a lane word in a state. -/
def LaneSpec.value (e : LaneSpec) (s : State) (o : LaneOps) (r : RunUnit) (p : Path) : LaneRes :=
  e.res r (enabled r p o) (s.laneReads r p (e.srcs (enabled r p o)))

/-- A lane word whose way is clear writes its result and leaves for the next word, or ends its path. -/
def LaneSpec.Completes (e : LaneSpec) (o : LaneOps) : Prop :=
  ∀ (s : State) (r : RunUnit) (p : Path) (c : ClauseSt),
    s.LaneClear o e.nout (e.srcs (enabled r p o)) r p c →
    (s.laneWrote o (e.srcs (enabled r p o)) r p (e.value s o r p)).LaneRoom o r p c (e.value s o r p) →
    exec e.word s = .next (((s.laneWrote o (e.srcs (enabled r p o)) r p (e.value s o r p)).laneDone
      ((e.value s o r p).entry o.dst (enabled r p o))).floatDone p)

/-! ## Invariants -/

/-- Every byte list of the device has its canonical form (log 2): global and host memory, the scratchpad of every workgroup,
the snapshot of every core, every flash page; and accumulators are listed in rising order. -/
structure State.Canonical (s : State) : Prop where
  mem   : s.mem.wf = true
  hmem  : s.hmem.wf = true
  sp    : ∀ w ∈ s.allWgs, w.sp.wf = true
  snap  : ∀ c ∈ s.allCores, c.snap.wf = true
  flash : ∀ p ∈ s.flash, p.2.wf = true
  acc   : ∀ w ∈ s.allWgs, w.seq.acc.Pairwise fun a b => a.1 < b.1

/-- The records of the containment table stand under the indexes 1 to n, each once, and fit the table (10 R143). -/
structure State.TreeIndexed (s : State) : Prop where
  once  : (s.tree.map TreeRec.index).Nodup
  range : ∀ r ∈ s.tree, 1 ≤ r.index ∧ r.index ≤ s.tree.length
  fits  : s.tree.length ≤ Config.treeRecords

end Sys2Proof.Machine
end

