-- ==== Sys2Proof/Certificates/Slice0/Obligations.lean ====
section
/-! DEFINITION. The statements about the machine: what every instruction and every step of the device does where it completes, what
it leaves unchanged, where it traps; the round trips of the encoding; the invariants that every step keeps. A statement
that is a conjunction names its parts, which stand before it as `Claims`. -/
namespace Sys2Proof.Machine

/-! ## Scalar arithmetic (14 R200 to R202) -/

/-- The three-register words of 14 R200 on 32 bits, with what each writes: a and b are its sources. -/
def aluTable : List ((SReg → SReg → SReg → Instr) × (Word → Word → Word)) :=
  [(.sadd, fun a b => BitVec.ofNat 32 (a.toNat + b.toNat)),
   (.ssub, fun a b => BitVec.ofInt 32 (a.toInt - b.toInt)),
   (.smul, fun a b => BitVec.ofNat 32 (a.toNat * b.toNat)),
   (.smulhu, fun a b => BitVec.ofNat 32 (a.toNat * b.toNat / 2 ^ 32)),
   (.smulhs, fun a b => BitVec.ofInt 32 (a.toInt * b.toInt / 2 ^ 32)),
   (.sand, fun a b => a &&& b),
   (.sor, fun a b => a ||| b),
   (.sxor, fun a b => a ^^^ b),
   (.sshl, fun a b => BitVec.ofNat 32 (a.toNat * 2 ^ (b.toNat % 64))),
   (.sshr, fun a b => BitVec.ofNat 32 (a.toNat / 2 ^ (b.toNat % 64))),
   (.ssra, fun a b => BitVec.ofInt 32 (a.toInt / 2 ^ (b.toNat % 64))),
   (.smin, fun a b => BitVec.ofInt 32 (min a.toInt b.toInt)),
   (.smax, fun a b => BitVec.ofInt 32 (max a.toInt b.toInt)),
   (.sminu, fun a b => BitVec.ofNat 32 (min a.toNat b.toNat)),
   (.smaxu, fun a b => BitVec.ofNat 32 (max a.toNat b.toNat))]

/-- The pair words of 14 R200. -/
def alu64Table : List ((SReg → SReg → SReg → Instr) × (DWord → DWord → DWord)) :=
  [(.sadd64, fun a b => BitVec.ofNat 64 (a.toNat + b.toNat)),
   (.ssub64, fun a b => BitVec.ofInt 64 (a.toInt - b.toInt)),
   (.smul64, fun a b => BitVec.ofNat 64 (a.toNat * b.toNat))]

/-- The conditions of 14 R201 on values of one width. -/
def SCond.Holds (c : SCond) {w : Nat} (a b : BitVec w) : Prop :=
  match c with
  | .eq => a = b
  | .ne => a ≠ b
  | .lt => a.toInt < b.toInt
  | .ge => b.toInt ≤ a.toInt
  | .ltu => a.toNat < b.toNat
  | .geu => b.toNat ≤ a.toNat

/-- The register-immediate words of 14 R202: SHIFT words take n, the others the signed immediate. -/
def immTable : List ((SReg → SReg → BitVec 12 → Instr) × (Word → BitVec 12 → Word)) :=
  [(.saddi, fun a i => BitVec.ofInt 32 (a.toInt + i.toInt)),
   (.sandi, fun a i => a &&& BitVec.ofInt 32 i.toInt),
   (.sori, fun a i => a ||| BitVec.ofInt 32 i.toInt),
   (.sxori, fun a i => a ^^^ BitVec.ofInt 32 i.toInt),
   (.sshli, fun a i => BitVec.ofNat 32 (a.toNat * 2 ^ i.toNat)),
   (.sshri, fun a i => BitVec.ofNat 32 (a.toNat / 2 ^ i.toNat)),
   (.ssrai, fun a i => BitVec.ofInt 32 (a.toInt / 2 ^ i.toNat))]

end Sys2Proof.Machine

section
open Sys2Proof Sys2Proof.Machine

/-- Every 32-bit word of the table of 14 R200 writes its result to SD, and nothing else is changed. -/
def Sys2Proof.Claims.ScalarAluResult : Prop :=
  ∀ e ∈ aluTable, ∀ (s : State) (d a b : SReg), (e.1 d a b).WellFormed = true → s.ScalarReady false [d, a, b] →
    ∃ t, exec (e.1 d a b) s = .next t ∧ ScalarStep s t [a, b] [d] ∧
      vget t.g.s d.toNat 0 = e.2 (s.readS a) (s.readS b)

/-- `SSEL` chooses by the old SD (14 R200). -/
def Sys2Proof.Claims.SselResult : Prop :=
  ∀ (s : State) (d a b : SReg), (Instr.ssel d a b).WellFormed = true → s.ScalarReady false [d, a, b] →
    ∃ t, exec (.ssel d a b) s = .next t ∧ ScalarStep s t [a, b] [d] ∧
      vget t.g.s d.toNat 0 = if vget s.g.s d.toNat 0 ≠ 0 then s.readS a else s.readS b

/-- The pair words of 14 R200, and the two counts. -/
def Sys2Proof.Claims.ScalarPairResult : Prop :=
  ∀ (s : State) (d a b : SReg),
    (∀ e ∈ alu64Table, (e.1 d a b).WellFormed = true → s.ScalarReady false [d, d + 1, a, a + 1, b, b + 1] →
      ∃ t, exec (e.1 d a b) s = .next t ∧ ScalarStep s t [a, b] [d, d + 1] ∧
        t.spair d = e.2 (s.readPair a) (s.readPair b)) ∧
    ((Instr.sclz d a).WellFormed = true → s.ScalarReady false [d, a] →
      ∃ t, exec (.sclz d a) s = .next t ∧ ScalarStep s t [a] [d] ∧ (vget t.g.s d.toNat 0).toNat ≤ 32 ∧
        (∀ k < 32, (s.readS a).getLsbD (31 - k) = true → (vget t.g.s d.toNat 0).toNat ≤ k) ∧
        (∀ k < (vget t.g.s d.toNat 0).toNat, (s.readS a).getLsbD (31 - k) = false)) ∧
    ((Instr.spopc d a).WellFormed = true → s.ScalarReady false [d, a] →
      ∃ t, exec (.spopc d a) s = .next t ∧ ScalarStep s t [a] [d] ∧
        (vget t.g.s d.toNat 0).toNat = ((List.range 32).filter fun k => (s.readS a).getLsbD k).length)

/-- `SSET.cc` and `SSET64.cc` write 1 where the condition holds, and 0 otherwise (14 R201). -/
def Sys2Proof.Claims.SsetResult : Prop :=
  ∀ (s : State) (c : SCond) (d a b : SReg),
    ((Instr.sset c d a b).WellFormed = true → s.ScalarReady false [d, a, b] →
      ∃ t, exec (.sset c d a b) s = .next t ∧ ScalarStep s t [a, b] [d] ∧
        (SCond.Holds c (s.readS a) (s.readS b) → vget t.g.s d.toNat 0 = 1) ∧
        (¬ SCond.Holds c (s.readS a) (s.readS b) → vget t.g.s d.toNat 0 = 0)) ∧
    ((Instr.sset64 c d a b).WellFormed = true → s.ScalarReady false [d, a, a + 1, b, b + 1] →
      ∃ t, exec (.sset64 c d a b) s = .next t ∧ ScalarStep s t [a, b] [d] ∧
        (SCond.Holds c (s.readPair a) (s.readPair b) → vget t.g.s d.toNat 0 = 1) ∧
        (¬ SCond.Holds c (s.readPair a) (s.readPair b) → vget t.g.s d.toNat 0 = 0))

/-- The register-immediate words of 14 R202. -/
def Sys2Proof.Claims.ScalarImmResult : Prop :=
  ∀ e ∈ immTable, ∀ (s : State) (d a : SReg) (i : BitVec 12), (e.1 d a i).WellFormed = true →
    s.ScalarReady false [d, a] →
    ∃ t, exec (e.1 d a i) s = .next t ∧ ScalarStep s t [a] [d] ∧ vget t.g.s d.toNat 0 = e.2 (s.readS a) i

/-- The literal loads of 12 R193 and 14 R204, with their faults: 0x12 for a misaligned pair, which comes first (DEDUCED, log 4), 0x10 for a
literal outside the section. -/
def Sys2Proof.Claims.LiteralLoad : Prop :=
  ∀ (s : State) (d : SReg) (i : BitVec 12),
    ((Instr.slit d i).WellFormed = true → s.ScalarReady false [d] →
      (∀ n : Nat, (n : Int) = s.g.pc + 4 * i.toInt → n + 4 ≤ s.ln.desc.slen →
        ∃ t, exec (.slit d i) s = .next t ∧ ScalarStep s t [] [d] ∧
          vget t.g.s d.toNat 0 = BitVec.ofNat 32 (s.ln.scode.readLE n 4)) ∧
      ((s.g.pc : Int) + 4 * i.toInt < 0 ∨ (s.ln.desc.slen : Int) < s.g.pc + 4 * i.toInt + 4 →
        exec (.slit d i) s = .next (s.scalarFault 0x10))) ∧
    ((Instr.slitB64 d i).WellFormed = true → s.ScalarReady false [d, d + 1] →
      (∀ n : Nat, (n : Int) = s.g.pc + 4 * i.toInt → n % 8 = 0 → n + 8 ≤ s.ln.desc.slen →
        ∃ t, exec (.slitB64 d i) s = .next t ∧ ScalarStep s t [] [d, d + 1] ∧
          t.spair d = BitVec.ofNat 64 (s.ln.scode.readLE n 8)) ∧
      (((s.g.pc : Int) + 4 * i.toInt) % 8 ≠ 0 → exec (.slitB64 d i) s = .next (s.scalarFault 0x12)) ∧
      (((s.g.pc : Int) + 4 * i.toInt) % 8 = 0 →
        (s.g.pc : Int) + 4 * i.toInt < 0 ∨ (s.ln.desc.slen : Int) < s.g.pc + 4 * i.toInt + 8 →
        exec (.slitB64 d i) s = .next (s.scalarFault 0x10)))

end

namespace Sys2Proof.Machine

/-! ## Branches (14 R207, R208) -/

/-- A branch word: its instruction, whether it drains, the S registers it tests, and when it is taken. -/
structure BranchWord where
  word   : BitVec 20 → Instr
  drains : Bool
  regs   : List SReg
  taken  : State → Prop

/-- The branches of 14 R207 on an S register, and of R208 on a P register. -/
def branchWords (a : SReg) (p : BitVec 3) : List BranchWord :=
  [⟨.br, false, [], fun _ => True⟩,
   ⟨.beqz a, false, [a], fun s => s.readS a = 0⟩,
   ⟨.bnez a, false, [a], fun s => s.readS a ≠ 0⟩,
   ⟨.bltz a, false, [a], fun s => (s.readS a).toInt < 0⟩,
   ⟨.bgez a, false, [a], fun s => 0 ≤ (s.readS a).toInt⟩,
   ⟨.bpany p, true, [], fun s => vget s.g.p p.toNat 0 ≠ 0⟩,
   ⟨.bpall p, true, [], fun s => vget s.g.p p.toNat 0 = 0xFFFFFFFF⟩,
   ⟨.bpnone p, true, [], fun s => vget s.g.p p.toNat 0 = 0⟩]

/-! ## The loop buffer (14 R211) -/

/-- The place of the stream after the current word, k words on, while nothing transfers control. -/
def loopPlace (lp : LoopSt) : Nat → Nat × Option LoopSt
  | 0 => (lp.body, some lp)
  | k + 1 => Group.after { State.reset.g with pc := (loopPlace lp k).1, loop := (loopPlace lp k).2 }

/-- Frame k after the first of a range is mapped to the frame that follows on, with the same permission to write (14 R216). -/
def State.RunsOn (s : State) (va k : Nat) : Prop :=
  ∃ dfn wr x y, s.walk s.tenant va = some (dfn, wr, x) ∧
    s.walk s.tenant ((va / 0x10000 + k) * 0x10000 % 2 ^ 56) = some (dfn + k, wr, y)

end Sys2Proof.Machine

section
open Sys2Proof Sys2Proof.Machine

/-- `SLD` (14 R205): the loaded bytes, an absent frame with and without a residency predicate, and a failed check. -/
def Sys2Proof.Claims.UniformLoad : Prop :=
  ∀ (s : State) (d a : SReg) (w : BitVec 2) (n : BitVec 3) (re : Bool) (pk : BitVec 3) (off : BitVec 5),
    (Instr.sld d a w n re pk off).WellFormed = true → s.uniWaits = false → s.ScalarReady false [] →
    (∀ da, s.reach (s.readT n) (s.readS a + BitVec.ofNat 32 (off.toNat * uniSize w)) (uniSize w) false = .ok da →
      ∃ t, exec (.sld d a w n re pk off) s = .next t ∧
        t = { s with fit := (s.touch da false).fit, g := { s.g with
          s := t.g.s, p := t.g.p, pc := s.g.after.1, loop := s.g.after.2, timeHi := s.latched [a] } } ∧
        (if w = 1 then t.spair d = BitVec.ofNat 64 (leNat (s.loadBytes da 8))
          else vget t.g.s d.toNat 0 = BitVec.ofNat 32 (leNat (s.loadBytes da (uniSize w)))) ∧
        (∀ m : SReg, m.toNat < 48 → m ≠ d → (w = 1 → m ≠ d + 1) → vget t.g.s m.toNat 0 = vget s.g.s m.toNat 0) ∧
        t.g.p = if re then vset s.g.p pk.toNat 0 else s.g.p) ∧
    (∀ dfn, s.reach (s.readT n) (s.readS a + BitVec.ofNat 32 (off.toNat * uniSize w)) (uniSize w) false = .absent dfn →
      (re = true → ∃ t, exec (.sld d a w n re pk off) s = .next t ∧
        t = { s with g := { s.g with
          s := t.g.s, p := vset s.g.p pk.toNat 0xFFFFFFFF, pc := s.g.after.1, loop := s.g.after.2, timeHi := s.latched [a] } } ∧
        vget t.g.s d.toNat 0 = 0 ∧ (w = 1 → t.spair d = 0) ∧
        (∀ m : SReg, m.toNat < 48 → m ≠ d → (w = 1 → m ≠ d + 1) → vget t.g.s m.toNat 0 = vget s.g.s m.toNat 0)) ∧
      (re = false → exec (.sld d a w n re pk off) s =
        .next (s.scalarFault 0x16 0 ((s.readT n).va (s.readS a + BitVec.ofNat 32 (off.toNat * uniSize w)))))) ∧
    (∀ c, s.reach (s.readT n) (s.readS a + BitVec.ofNat 32 (off.toNat * uniSize w)) (uniSize w) false = .fault c →
      exec (.sld d a w n re pk off) s =
        .next (s.scalarFault c 0 ((s.readT n).va (s.readS a + BitVec.ofNat 32 (off.toNat * uniSize w)))))

/-- `SST` (14 R205, 08 R122): the stored bytes enter the core's view; every other byte loads as before. -/
def Sys2Proof.Claims.UniformStore : Prop :=
  ∀ (s : State) (d a : SReg) (w : BitVec 2) (n : BitVec 3) (re : Bool) (pk : BitVec 3) (off : BitVec 5),
    (Instr.sst d a w n re pk off).WellFormed = true → s.uniWaits = false → s.ScalarReady false [] →
    (∀ da, s.reach (s.readT n) (s.readS a + BitVec.ofNat 32 (off.toNat * uniSize w)) (uniSize w) true = .ok da →
      ∃ t, exec (.sst d a w n re pk off) s = .next t ∧
        t = { s with
          fit := (s.touch da true).fit
          core := t.core
          g := { s.g with
            wset := t.g.wset, p := t.g.p, pc := s.g.after.1, loop := s.g.after.2, timeHi := s.latched [a, d] } } ∧
        t.g.p = (if re then vset s.g.p pk.toNat 0 else s.g.p) ∧
        ∀ x, t.loadByte x =
          if da ≤ x ∧ x < da + uniSize w then
            field (if w = 1 then s.readPair d else (s.readS d).setWidth 64) (8 * (x - da)) 8
          else s.loadByte x) ∧
    (∀ dfn, s.reach (s.readT n) (s.readS a + BitVec.ofNat 32 (off.toNat * uniSize w)) (uniSize w) true = .absent dfn →
      (re = true → exec (.sst d a w n re pk off) s = .next { s with g := { s.g with
        p := vset s.g.p pk.toNat 0xFFFFFFFF, pc := s.g.after.1, loop := s.g.after.2, timeHi := s.latched [a, d] } }) ∧
      (re = false → exec (.sst d a w n re pk off) s =
        .next (s.scalarFault 0x16 0 ((s.readT n).va (s.readS a + BitVec.ofNat 32 (off.toNat * uniSize w)))))) ∧
    (∀ c, s.reach (s.readT n) (s.readS a + BitVec.ofNat 32 (off.toNat * uniSize w)) (uniSize w) true = .fault c →
      exec (.sst d a w n re pk off) s =
        .next (s.scalarFault c 0 ((s.readT n).va (s.readS a + BitVec.ofNat 32 (off.toNat * uniSize w)))))

/-- A branch goes to PC + 4 × IMM20 where its condition holds, and falls through where it does not; a taken target outside
the section raises 0x10 at the branch (14 R207, R208). -/
def Sys2Proof.Claims.BranchTarget : Prop :=
  ∀ (s : State) (a : SReg) (p : BitVec 3) (i : BitVec 20), ∀ e ∈ branchWords a p,
    (e.taken s → s.scalarGate e.drains true e.regs = true →
      (s.InScalar (s.g.pc + 4 * i.toInt) → exec (e.word i) s = .next (s.hadRead (s.atWord (s.g.pc + 4 * i.toInt)) e.regs)) ∧
      (¬ s.InScalar (s.g.pc + 4 * i.toInt) → exec (e.word i) s = .next (s.scalarFault 0x10))) ∧
    (¬ e.taken s → s.ScalarReady e.drains e.regs → exec (e.word i) s = .next (s.hadRead (s.onward s) e.regs)) ∧
    (e.drains = true → s.scalarGate true true [] = false → exec (e.word i) s = .next s.scalarWait)

/-- `CALL` and `JR` (14 R209): the link, the target, and the faults. -/
def Sys2Proof.Claims.CallReturn : Prop :=
  ∀ (s : State) (a : SReg) (i : BitVec 20),
    ((Instr.call a i).WellFormed = true → s.scalarGate false true [a] = true →
      (s.InScalar (s.g.pc + 4 * i.toInt) → exec (.call a i) s =
        .next ((s.atWord (s.g.pc + 4 * i.toInt)).writeS a (BitVec.ofNat 32 (s.g.pc + 4)))) ∧
      (¬ s.InScalar (s.g.pc + 4 * i.toInt) → exec (.call a i) s = .next (s.scalarFault 0x10))) ∧
    (s.scalarGate false true [a] = true →
      ((s.readS a).toNat % 4 = 0 → s.InScalar (s.readS a).toNat →
        exec (.jr a) s = .next ((s.atWord (s.readS a).toNat).latch a)) ∧
      ((s.readS a).toNat % 4 ≠ 0 → s.InScalar (s.readS a).toNat → exec (.jr a) s = .next (s.scalarFault 0x12)) ∧
      ((s.readS a).toNat % 4 = 0 → ¬ s.InScalar (s.readS a).toNat → exec (.jr a) s = .next (s.scalarFault 0x10)))

/-- `POOL` goes on after its data (12 R192); a `JR` to a target both misaligned and outside raises 0x12 (DEDUCED, log 4). -/
def Sys2Proof.Claims.PoolAndJumpOrder : Prop :=
  ∀ (s : State) (a : SReg) (i : BitVec 20),
    (s.scalarGate false true [a] = true → (s.readS a).toNat % 4 ≠ 0 → ¬ s.InScalar (s.readS a).toNat →
      exec (.jr a) s = .next (s.scalarFault 0x12)) ∧
    (s.scalarGate false false [] = true → s.g.loop = none →
      (s.g.pc + 4 * i.toNat + 8 ≤ s.ln.desc.slen → exec (.pool i) s = .next (s.atWord (s.g.pc + 4 + 4 * i.toNat))) ∧
      (s.ln.desc.slen < s.g.pc + 4 * i.toNat + 8 → exec (.pool i) s = .next (s.scalarFault 0x10)))

/-- `LOOP` (14 R211, 12 R180): the count is read once; the body is fetched there, and a fault of that fetch is the `LOOP`'s; count 0 passes
the body by. Refused: a `LINC` word that does not decode, more than 8 of them, a body past the section, a `LINC` that names no field of a body
word, a word that no body may hold; where several hold, the order is the model's choice (log 94). `LINC` by itself is 0x06 (14 R212). -/
def Sys2Proof.Claims.LoopStart : Prop :=
  ∀ (s : State) (c : SReg) (n : BitVec 5) (w : BitVec 5) (f : BitVec 2) (st : BitVec 12),
    (s.scalarGate false false [c] = true →
      (∀ lp, s.ln.loopAt s.g.pc (n.toNat + 1) (s.readS c).toNat = .ok lp →
        let bar := s.fetchBar (s.ln.desc.scodeVa + s.g.pc + 4) (lp.body + 4 * lp.blen - (s.g.pc + 4))
        lp.blen = n.toNat + 1 ∧ lp.count = (s.readS c).toNat ∧ lp.pass = 0 ∧ lp.word = 0 ∧
        (∀ x, bar = some x → exec (.loop c n) s = .next (s.scalarFault x.1 0 x.2)) ∧
        (bar = none → 0 < (s.readS c).toNat → exec (.loop c n) s =
          .next { s with g := { s.g with pc := lp.body, loop := some lp, timeHi := s.latched [c] } }) ∧
        (bar = none → s.readS c = 0 → lp.body + 4 * lp.blen + 4 ≤ s.ln.desc.slen →
          exec (.loop c n) s =
            .next { s with g := { s.g with pc := lp.body + 4 * lp.blen, timeHi := s.latched [c] } })) ∧
      (∀ e, s.ln.lincs 9 (s.g.pc + 4) = .error e → exec (.loop c n) s = .next (s.scalarFault e.code e.detail e.va)) ∧
      (∀ steps, s.ln.lincs 9 (s.g.pc + 4) = .ok steps →
        let body := s.g.pc + 4 + 4 * steps.length
        (8 < steps.length → exec (.loop c n) s = .next (s.scalarFault 0x06)) ∧
        (steps.length ≤ 8 → s.ln.desc.slen < body + 4 * (n.toNat + 1) → exec (.loop c n) s = .next (s.scalarFault 0x10)) ∧
        (∀ ws, steps.length ≤ 8 → s.ln.bodyWords body (n.toNat + 1) = some ws →
          (∃ x ∈ steps, n.toNat + 1 ≤ x.word ∨ hasField (ws.getD x.word 0) x.fld = false) ∨ (∃ x ∈ ws, barredInLoop x = true) →
          exec (.loop c n) s = .next (s.scalarFault 0x06)))) ∧
    (s.scalarGate false false [] = true → exec (.linc w f st) s = .next (s.scalarFault 0x06))

/-- A loop runs its body COUNT times, word by word, and then goes on after it (14 R211). -/
def Obligations.LoopRunsCountPasses : Prop :=
  ∀ lp : LoopSt, lp.word = 0 → lp.pass = 0 → 0 < lp.blen → 0 < lp.count →
    (∀ k < lp.count * lp.blen, loopPlace lp k =
      (lp.body + 4 * (k % lp.blen), some { lp with word := k % lp.blen, pass := k / lp.blen })) ∧
    loopPlace lp (lp.count * lp.blen) = (lp.body + 4 * lp.blen, none)

/-- `ENQ` appends a unit that records the registers of the stream (14 R214, R199). -/
def Sys2Proof.Claims.EnqueueRecords : Prop :=
  ∀ (s : State) (a : SReg) (i : BitVec 20), s.scalarGate false true [a] = true → s.g.stop = false →
    s.g.queue.length + (if s.g.run.isSome then 1 else 0) < 8 →
    (i.toNat + (s.readS a).toNat < s.ln.desc.llen → s.g.after.1 + 4 ≤ s.ln.desc.slen →
      ∃ u : LaneUnit,
        exec (.enq a i) s = .next { s with g := { s.g with
          queue := s.g.queue ++ [u], pc := s.g.after.1, loop := s.g.after.2, timeHi := s.latched [a] } } ∧
        u.hdr = i.toNat + (s.readS a).toNat ∧ u.p = s.g.p ∧ u.t = s.g.t ∧
        (∀ n : SReg, n.toNat ≠ 61 → vget u.s n.toNat 0 = s.readS n) ∧ vget u.s 61 0 = s.timeHigh ∧
        u.rm = field s.g.astat 0 2 ∧ u.ftz = s.g.astat.getLsbD 3 ∧ u.nanc = s.g.astat.getLsbD 4) ∧
    (s.ln.desc.llen ≤ i.toNat + (s.readS a).toNat → exec (.enq a i) s = .next (s.scalarFault 0x10))

/-- `TMAP` writes a register that covers the run of frames at its base as far as it is asked, `TREL` writes all zeros, `NOP` does nothing (14 R216, R217,
R210). -/
def Sys2Proof.Claims.TranslationRegisters : Prop :=
  ∀ (s : State) (n : BitVec 3) (a b : SReg),
    ((Instr.tmap n a b).WellFormed = true → s.ScalarReady false [a, a + 1, b] →
      ∃ r : TReg, exec (.tmap n a b) s = .next { s with g := { s.g with
          t := vset s.g.t n.toNat r, pc := s.g.after.1, loop := s.g.after.2, timeHi := s.latched [a, b] } } ∧
        (s.walk s.tenant ((s.readPair a).toNat % 2 ^ 56) = none ∨ s.readS b = 0 → r = TReg.zero) ∧
        (∀ dfn wr x, s.walk s.tenant ((s.readPair a).toNat % 2 ^ 56) = some (dfn, wr, x) → s.readS b ≠ 0 →
          r.valid = true ∧ r.wr = wr ∧ r.base.toNat = (s.readPair a).toNat % 2 ^ 56 ∧ r.dfn = BitVec.ofNat 28 dfn ∧
          ∀ n, 1 ≤ n → (∀ k, 1 ≤ k → k < n → State.RunsOn s ((s.readPair a).toNat % 2 ^ 56) k) →
            (¬ State.RunsOn s ((s.readPair a).toNat % 2 ^ 56) n ∨
              min (s.readS b).toNat 0x200000 ≤ n * 0x10000 - (s.readPair a).toNat % 0x10000) →
            r.limit.toNat = min (n * 0x10000 - (s.readPair a).toNat % 0x10000) (min (s.readS b).toNat 0x200000))) ∧
    (s.ScalarReady false [] → exec (.trel n) s = .next { s with g := { s.g with
      t := vset s.g.t n.toNat TReg.zero, pc := s.g.after.1, loop := s.g.after.2 } }) ∧
    (s.ScalarReady false [] → exec .nop s = .next (s.onward s))

/-- `ENDG` ends the group, releases its V registers and retires a block it holds poisoned (14 R219). -/
def Sys2Proof.Claims.EndGroup : Prop :=
  ∀ s : State, s.Focused → s.scalarGate true true [] = true →
    ∃ t, exec .endg s = .next t ∧ t.g.st = .ended ∧ t.g.mapped = 0 ∧ t.g.queue = [] ∧ t.g.run = none ∧
      t.g.gid = s.g.gid ∧ t.g.wgId = s.g.wgId ∧ (s.g.holds = true → t.g.holds = false ∧
        s.g.blkidx.toNat ∈ t.ln.retired ∧ t.ln.poisoned = s.ln.poisoned + 1) ∧
      (s.g.holds = false → s.g.faults = [] → s.g.saved = none → ¬ (s.wg.seq.run ∧ s.wg.seq.flt ∧ s.wg.seq.owner = s.g.gid) →
        (∀ p, some p ∈ s.wg.parked → p.taker ≠ some s.g.gid) →
        (∀ j ∈ s.jobs, j.lid = s.ln.lid → j.matrix = false → j.kind ≠ landKind) →
        t.ln = s.ln ∧ t.jobs = s.jobs ∧ t.dev = s.dev ∧ t.wg = s.wg)
end

namespace Sys2Proof.Machine

/-- A draining word of 16 or 17 begins and can fall through. -/
def State.DrainReady (s : State) : Prop := s.ScalarReady true []

/-- A barrier after an arrival with bytes that it accepts: complete, with its counts back at 0, or the two counts raised
(08 R131). -/
def Barrier.Arrived (b b' : Barrier) (arrivals bytes : Nat) : Prop :=
  if b.arrived.toNat + arrivals = b.expected.toNat ∧ b.landed.toNat + bytes = b.xbytes.toNat then
    b' = { b with arrived := 0, landed := 0, phase := b.phase + 1 }
  else
    b'.arrived.toNat = b.arrived.toNat + arrivals ∧ b'.landed.toNat = b.landed.toNat + bytes ∧
      b' = { b with arrived := b'.arrived, landed := b'.landed }

/-- A barrier takes an arrival with bytes: its ticket is the launch's, it expects something, and neither count goes beyond
what is expected (08 R131). -/
def Barrier.Takes (b : Barrier) (ticket : BitVec 21) (arrivals bytes : Nat) : Prop :=
  b.ticket = ticket ∧ ¬ (b.expected = 0 ∧ b.xbytes = 0) ∧ b.arrived.toNat + arrivals ≤ b.expected.toNat ∧
    b.landed.toNat + bytes ≤ b.xbytes.toNat

end Sys2Proof.Machine

section
open Sys2Proof Sys2Proof.Machine

/-- The outcomes of `PGET` (16 R278, 01 R28): a ready block, an invalid entry, which is handed out and then traps (R32), a grid index, NONE,
END, and a re-offered parked block, which is restored with an acquire once its registers can be bound and else waits for float (R33); and its
trap where a block is held. -/
def Sys2Proof.Claims.PgetOutcomes : Prop :=
  ∀ (s : State) (d : SReg), (Instr.pget d).WellFormed = true → s.DrainReady →
    (s.g.holds = true → exec (.pget d) s = .next (s.scalarFault 0x21 3)) ∧
    (s.g.holds = false → s.wg.reoffered s.g.gid = none →
      (∀ n os, n < 8 → s.wg.offers = .slot n :: os →
        ∃ t, exec (.pget d) s = .next t ∧ t = { s with g := t.g, wg := t.wg, wgs := t.wgs } ∧
          t.g = { s.g with
            s := t.g.s, pc := s.g.after.1, loop := s.g.after.2
            blkidx := BitVec.ofNat 32 (s.wg.slot n).idx
            pageno := BitVec.ofNat 32 (s.wg.slot n).lpn
            slotno := BitVec.ofNat 32 n
            pstat := BitVec.ofNat 32 (s.wg.slot n).pstat.toNat } ∧
          vget t.g.s d.toNat 0 = 0 ∧ vget t.g.s (d.toNat + 1) 0 = BitVec.ofNat 32 (s.wg.slot n).idx) ∧
      (∀ i os, s.wg.offers = .bad i :: os →
        ∃ t : State, exec (.pget d) s = .next (t.scalarFault 0x21 0) ∧ t = { s with g := t.g, wg := t.wg, wgs := t.wgs } ∧
          t.g = { s.g with
            s := t.g.s, blkidx := BitVec.ofNat 32 i, pageno := 0xFFFFFFFF, slotno := 0xFFFFFFFF, pstat := 0x800 } ∧
          vget t.g.s d.toNat 0 = 0 ∧ vget t.g.s (d.toNat + 1) 0 = BitVec.ofNat 32 i ∧ t.wg.offers = os) ∧
      (∀ i is, s.wg.offers = [] → s.wg.idxq = i :: is →
        ∃ t, exec (.pget d) s = .next t ∧ t = { s with g := t.g, wg := t.wg, wgs := t.wgs } ∧
          t.g = { s.g with
            s := t.g.s, pc := s.g.after.1, loop := s.g.after.2
            blkidx := BitVec.ofNat 32 i, pageno := 0xFFFFFFFF, slotno := 0xFFFFFFFF, pstat := 0 } ∧
          vget t.g.s d.toNat 0 = 0 ∧ vget t.g.s (d.toNat + 1) 0 = BitVec.ofNat 32 i) ∧
      (s.wg.offers = [] → s.wg.idxq = [] →
        ∃ t, exec (.pget d) s = .next t ∧ ScalarStep s t [] [d, d + 1] ∧
          (s.wg.atEnd s.ln = true → vget t.g.s d.toNat 0 = 2 ∧ vget t.g.s (d.toNat + 1) 0 = 0) ∧
          (s.wg.atEnd s.ln = false → vget t.g.s d.toNat 0 = 1 ∧
            vget t.g.s (d.toNat + 1) 0 = (s.wg.lbar.phase + 1).setWidth 32))) ∧
    (∀ (r : Nat) (p : Parked), s.g.holds = false → s.wg.reoffered s.g.gid = some r → s.wg.parked[r]? = some (some p) →
      let u : State := { s with g := { s.g with v := Vector.replicate 128 VReg.unmapped } }
      (u.canBind p.mapped = true →
        ∃ t, exec (.pget d) s = .next t ∧ t = { s with g := t.g, wg := t.wg, wgs := t.wgs, core := t.core, cores := t.cores } ∧
          t.g = { s.g with
            s := p.s, p := p.p, t := p.t, o := p.o, v := t.g.v, pc := p.pc, loop := none, run := p.lane, blkidx := p.blkidx
            pageno := p.pageno, slotno := BitVec.ofNat 32 (p.slot.getD 0xFFFFFFFF), pstat := p.pstat, want := 0, granted := 0 } ∧
          (∀ n < 128, t.g.vreg n = { vget p.v n VReg.unmapped with phys := (t.g.vreg n).phys } ∧
            ((t.g.vreg n).live ≠ 0 → (t.g.vreg n).phys.isSome = true)) ∧
          t.wg.parked[r]? = some none ∧
          (∀ n, n < 8 → p.slot = some n → (t.wg.slot n).st = .held ∧ (t.wg.slot n).holder = some s.g.gid) ∧
          (s.core.id = s.wg.coreId → t.core.snap = s.mem)) ∧
      (u.canBind p.mapped = false → exec (.pget d) s = .next (u.takeParked r p)))

/-- `PYIELD` (16 R279, 01 R39, R40): it goes on where the awaited block has retired, parks the block where it has not, and
traps as the table of R39 says, in its order; in a handler its detail 2 looks at the unit set aside (DEDUCED, log 80). -/
def Sys2Proof.Claims.PyieldOutcomes : Prop :=
  ∀ (s : State) (a : SReg), s.DrainReady → s.g.flights = [] →
    (s.g.holds = false → exec (.pyield a) s = .next (s.scalarFault 0x21 2)) ∧
    (s.g.holds = true →
      (s.ln.desc.count ≤ (s.readS a).toNat ∨ s.readS a = s.g.blkidx →
        exec (.pyield a) s = .next (s.scalarFault 0x21 1)) ∧
      ((s.readS a).toNat < s.ln.desc.count → s.readS a ≠ s.g.blkidx →
        ((s.readS a).toNat ∈ s.ln.retired → exec (.pyield a) s = .next (s.onward (s.latch a))) ∧
        ((s.readS a).toNat ∉ s.ln.retired → (s.g.saved.bind (·.run)).any RunUnit.divergent = true →
          exec (.pyield a) s = .next (s.scalarFault 0x22 2)) ∧
        ((s.readS a).toNat ∉ s.ln.retired → (s.g.saved.bind (·.run)).any RunUnit.divergent = false →
          (s.ln.desc.parklive < s.g.mapped → exec (.pyield a) s = .next (s.scalarFault 0x22 1)) ∧
          (s.g.mapped ≤ s.ln.desc.parklive →
            (none ∉ s.wg.parked → exec (.pyield a) s = .next (s.scalarFault 0x22 0)) ∧
            (none ∈ s.wg.parked → ∃ t, exec (.pyield a) s = .next t ∧ t.g.holds = false ∧ t.g.mapped = 0 ∧
              t.g.pc = s.g.after.1 ∧ t.g.loop = s.g.after.2 ∧ t.g.s = s.g.s ∧ t.g.p = s.g.p ∧ t.g.t = s.g.t)))))

/-- `PRETIRE` (16 R280, 01 R35): once its release is over the block has retired, not poisoned, and the group holds none. -/
def Sys2Proof.Claims.PretireRetires : Prop :=
  ∀ (s : State) (a : SReg), s.Focused → s.DrainReady →
    (s.g.holds = false → exec (.pretire a) s = .next (s.scalarFault 0x21 2)) ∧
    (s.g.holds = true → s.released s.g s.ln.lid 3 = true →
      ∃ t, exec (.pretire a) s = .next t ∧ t.g.holds = false ∧ t.g.pc = s.g.after.1 ∧ t.g.s = s.g.s ∧ t.g.v = s.g.v ∧
        t.ln.retired = s.g.blkidx.toNat :: s.ln.retired ∧ t.ln.poisoned = s.ln.poisoned)

/-- `BINIT` (16 R267): the checks in their order, and the object it writes with its counts and phase 0. -/
def Sys2Proof.Claims.BarrierInit : Prop :=
  ∀ (s : State) (d a : SReg), (Instr.binit d a).WellFormed = true → s.Canonical → s.DrainReady →
    ((s.readS a).toNat / 2 ^ 15 ≠ 0 ∨ 5 ≤ (field (s.readS a) 12 3 : BitVec 3).toNat →
      exec (.binit d a) s = .next (s.scalarFault 0x01)) ∧
    ((s.readS a).toNat / 2 ^ 15 = 0 → (field (s.readS a) 12 3 : BitVec 3).toNat ≤ 4 →
      ((s.readS d).toNat % 16 ≠ 0 → exec (.binit d a) s = .next (s.scalarFault 0x12)) ∧
      ((s.readS d).toNat % 16 = 0 → (0x80000 ≤ (s.readS d).toNat ∨ s.ln.desc.owns (s.readS d).toNat 16 = false) →
        exec (.binit d a) s = .next (s.scalarFault 0x13)) ∧
      ((s.readS d).toNat % 16 = 0 → (s.readS d).toNat < 0x80000 → s.ln.desc.owns (s.readS d).toNat 16 = true →
        (s.wg.devBar s.ln.desc (s.readS d).toNat).isSome = true → exec (.binit d a) s = .next (s.scalarFault 0x30)) ∧
      ((s.readS d).toNat % 16 = 0 → (s.readS d).toNat < 0x80000 → s.ln.desc.owns (s.readS d).toNat 16 = true →
        (s.wg.devBar s.ln.desc (s.readS d).toNat).isSome = false → slotOf s.ln.desc (s.readS d).toNat = none →
        ∃ t, exec (.binit d a) s = .next t ∧
          t = { s with
            wg := { s.wg with sp := t.wg.sp, jobBars := t.wg.jobBars }
            g := { s.g with pc := s.g.after.1, loop := s.g.after.2, timeHi := s.latched [d, a] } } ∧
          t.wg.softBar (s.readS d).toNat =
            ⟨s.ln.ticket, field (s.readS a) 12 3, 0, field (s.readPair a) 32 32, 0, field (s.readS a) 0 12, 0⟩ ∧
          ∀ x, x < (s.readS d).toNat ∨ (s.readS d).toNat + 16 ≤ x → t.wg.sp.get x = s.wg.sp.get x))

/-- `ARRIVE` and `ARRIVE.REL` at a software barrier of the workgroup (16 R268, 08 R131): the counts, the phase, and every
other byte of the scratchpad unchanged. -/
def Sys2Proof.Claims.BarrierArrive : Prop :=
  ∀ (s : State) (a b : SReg) (w off : Nat), s.Canonical → s.Focused → s.DrainReady → s.wg.place = .resident →
    s.spTarget (s.readS a) 16 = .ok (w, off) → w = s.wg.id → s.wg.devBar s.ln.desc off = none →
    Barrier.Takes (s.wg.softBar off) s.ln.ticket 1 (s.readS b).toNat →
    (∃ t, exec (.arrive a b) s = .next t ∧
      t = { s with
        wg := { s.wg with sp := t.wg.sp, jobBars := t.wg.jobBars }
        g := { s.g with pc := s.g.after.1, loop := s.g.after.2, timeHi := s.latched [a, b] } } ∧
      (∀ x ∈ t.wg.jobBars, x ∈ s.wg.jobBars) ∧ (∀ x ∈ s.wg.jobBars, x.1 ≠ off → x ∈ t.wg.jobBars) ∧
      Barrier.Arrived (s.wg.softBar off) (t.wg.softBar off) 1 (s.readS b).toNat ∧
      ∀ x, x < off ∨ off + 16 ≤ x → t.wg.sp.get x = s.wg.sp.get x) ∧
    (s.released s.g s.ln.lid (s.wg.softBar off).scope.toNat = true →
      ∃ t, exec (.arriveRel a b) s = .next t ∧ t.g.wset = [] ∧ t.g.pc = s.g.after.1 ∧ t.g.s = s.g.s ∧
        t.mem = (s.batch (s.g.wset.map fun v => (v.addr, v.byte))).mem ∧
        Barrier.Arrived (s.wg.softBar off) (t.wg.softBar off) 1 (s.readS b).toNat ∧
        ∀ x, x < off ∨ off + 16 ≤ x → t.wg.sp.get x = s.wg.sp.get x)

/-- An arrival that the barrier refuses faults, the ticket before the counts (08 R131, 16 R268). -/
def Sys2Proof.Claims.BarrierRefuses : Prop :=
  ∀ (s : State) (a b : SReg) (w off : Nat), s.Focused → s.DrainReady → s.wg.place = .resident →
    s.spTarget (s.readS a) 16 = .ok (w, off) → w = s.wg.id →
    ((s.wg.devBar s.ln.desc off).isSome = true → exec (.arrive a b) s = .next (s.scalarFault 0x30)) ∧
    (s.wg.devBar s.ln.desc off = none →
      ((s.wg.softBar off).ticket ≠ s.ln.ticket → exec (.arrive a b) s = .next (s.scalarFault 0x31)) ∧
      ((s.wg.softBar off).ticket = s.ln.ticket → ¬ Barrier.Takes (s.wg.softBar off) s.ln.ticket 1 (s.readS b).toNat →
        exec (.arrive a b) s = .next (s.scalarFault 0x30)))

/-- `PHASE` publishes the group's stores and, at hall scope or wider, takes a new snapshot; `FENCE.SC` does both with
a heartbeat tick between (16 R271, 08 R125, R126, R134). That the snapshot becomes all of memory at scope hall and
above, and that a release of a narrower scope publishes to memory, is the model's choice (DESIGN CHOICE, log 11). -/
def Obligations.PhaseAndFence : Prop :=
  ∀ (s : State) (sc : BitVec 3), s.Focused →
    ((Instr.phase sc).WellFormed = true → s.DrainReady → s.released s.g s.ln.lid sc.toNat = true →
      ∃ t, exec (.phase sc) s = .next t ∧ t.g.wset = [] ∧ t.g.pc = s.g.after.1 ∧ t.g.s = s.g.s ∧ t.g.v = s.g.v ∧
        t.mem = (s.batch (s.g.wset.map fun v => (v.addr, v.byte))).mem ∧
        (2 ≤ sc.toNat → t.core.snap = t.mem) ∧ (sc.toNat < 2 → t.core = s.core)) ∧
    (s.g.fence = none → s.DrainReady → s.released s.g s.ln.lid 3 = true →
      ∃ t, exec .fenceSc s = .next t ∧ t.g.wset = [] ∧ t.g.pc = s.g.pc ∧ t.g.fence = some s.dev.tick ∧
        t.mem = (s.batch (s.g.wset.map fun v => (v.addr, v.byte))).mem) ∧
    (∀ k, s.g.fence = some k → s.live = true → k < s.dev.tick → s.g.after.1 + 4 ≤ s.ln.desc.slen →
      ∃ t, exec .fenceSc s = .next t ∧ t.g.fence = none ∧ t.g.pc = s.g.after.1 ∧ t.core.snap = s.mem ∧ t.mem = s.mem)

/-- `JOB` publishes the group's stores, then accepts the job that its card describes and reports all ones, or reports all zeros where the
engine queue is full (16 R272, 08 R125). -/
def Sys2Proof.Claims.JobAccepted : Prop :=
  ∀ (s : State) (p : BitVec 3) (a : SReg) (da : Nat) (j : Job) (after : List (BitVec 16)),
    (Instr.job p a).WellFormed = true → s.Focused → s.DrainReady →
    s.released s.g s.ln.lid 3 = true → (s.readPair a).toNat % 2 ^ 56 % 128 = 0 →
    let u := s.publish s.g.wgId s.g.gid
    u.reachVa s.tenant s.ln.ticket ((s.readPair a).toNat % 2 ^ 56) false = .ok da →
    u.jobOfCard (s.loadBytes da 128) = .ok (j, after) →
    (s.queued < 64 → ∃ t j', exec (.job p a) s = .next t ∧ t.jobs = s.jobs ++ [j'] ∧ j' = { j with iv := j'.iv } ∧
      t.g = { s.g with
        wset := [], p := vset s.g.p p.toNat 0xFFFFFFFF, pc := s.g.after.1, loop := s.g.after.2, timeHi := s.latched [a] } ∧
      t.mem = (s.batch (s.g.wset.map fun v => (v.addr, v.byte))).mem) ∧
    (64 ≤ s.queued → ∃ t, exec (.job p a) s = .next t ∧ t.jobs = s.jobs ∧
      t.g = { s.g with
        wset := [], p := vset s.g.p p.toNat 0, pc := s.g.after.1, loop := s.g.after.2, timeHi := s.latched [a] } ∧
      t.mem = (s.batch (s.g.wset.map fun v => (v.addr, v.byte))).mem)

/-- `RESIDE` and `RESIDE.B` queue a request for the frames of their range, with the barrier of the second form; the group
goes on at once (16 R266). -/
def Sys2Proof.Claims.ResideRequests : Prop :=
  ∀ (s : State) (d a b : SReg), s.DrainReady → s.readS b ≠ 0 →
    ((s.rangeFrames ((s.readPair a).toNat % 2 ^ 56) (s.readS b).toNat).1.any s.foreign) = false →
    ((Instr.reside a b).WellFormed = true → ∃ q : ResReq,
      exec (.reside a b) s = .next { s with
        resreqs := s.resreqs ++ [q]
        g := { s.g with
          rstat := rstatOut s.g.rstat true, pc := s.g.after.1, loop := s.g.after.2, timeHi := s.latched [a, b] } } ∧
      q.frames = (s.rangeFrames ((s.readPair a).toNat % 2 ^ 56) (s.readS b).toNat).1 ∧
      q.bad = (s.rangeFrames ((s.readPair a).toNat % 2 ^ 56) (s.readS b).toNat).2 ∧
      q.gid = s.g.gid ∧ q.wgId = s.wg.id ∧ q.bar = none) ∧
    ((Instr.resideB d a b).WellFormed = true → ∃ q : ResReq,
      exec (.resideB d a b) s = .next { s with
        resreqs := s.resreqs ++ [q]
        g := { s.g with
          rstat := rstatOut s.g.rstat true, pc := s.g.after.1, loop := s.g.after.2, timeHi := s.latched [a, b, d] } } ∧
      q.frames = (s.rangeFrames ((s.readPair a).toNat % 2 ^ 56) (s.readS b).toNat).1 ∧
      q.gid = s.g.gid ∧ q.wgId = s.wg.id ∧ q.bar = some (s.readS d))

/-- `CREAD` answers the record's count, and every word of the tree refuses a handle that names no record of the tenant (16
R281, R282, 10 R147, R153). -/
def Sys2Proof.Claims.TreeHandles : Prop :=
  ∀ (s : State) (d a b : SReg), s.DrainReady →
    (s.record s.tenant (s.readS a) = none →
      ((Instr.cread d a).WellFormed = true → exec (.cread d a) s = .next (s.scalarFault 0x35)) ∧
      ((Instr.settle d a b).WellFormed = true → exec (.settle d a b) s = .next (s.scalarFault 0x35)) ∧
      exec (.reparent a b) s = .next (s.scalarFault 0x35) ∧
      (s.readS a ≠ 0 → (Instr.enroll d a).WellFormed = true → exec (.enroll d a) s = .next (s.scalarFault 0x35))) ∧
    (∀ r, s.record s.tenant (s.readS a) = some r → (Instr.cread d a).WellFormed = true →
      ∃ t, exec (.cread d a) s = .next t ∧ ScalarStep s t [a] [d, d + 1] ∧ t.spair d = r.count)

/-- `ENROLL` and `ENROLL.R` make records under the parent named, a tile for every frame of the region (16 R281, 10 R145). -/
def Sys2Proof.Claims.EnrollMakesRecords : Prop :=
  ∀ (s : State) (d a b : SReg), s.TreeIndexed → s.DrainReady →
    (∀ p, s.parentOf (s.readS a) false = .ok p → s.overQuota s.tenant 1 = false → (Instr.enroll d a).WellFormed = true →
      ∃ t, exec (.enroll d a) s = .next t ∧ t.g.pc = s.g.after.1 ∧ t.mem = s.mem ∧ t.fit = s.fit ∧
        ∃ r ∈ t.tree, r.handle = vget t.g.s d.toNat 0 ∧ r.kind = .inner ∧ r.tenant = s.tenant ∧ r.parent = s.readS a ∧
          r.count = 0) ∧
    (∀ p ds, (s.readPair b).toNat % 2 ^ 56 % 0x10000 = 0 → (s.readS (b + 2)).toNat % 0x10000 = 0 →
      s.parentOf (s.readS a) true = .ok p →
      s.regionFrames ((s.readPair b).toNat % 2 ^ 56) (List.range ((s.readS (b + 2)).toNat / 0x10000)) [] = .ok ds →
      s.overQuota s.tenant ds.length = false → (Instr.enrollR d a b).WellFormed = true →
      ∃ t, exec (.enrollR d a b) s = .next t ∧ t.g.pc = s.g.after.1 ∧ t.mem = s.mem ∧
        (ds = [] → t.tree = s.tree ∧ vget t.g.s d.toNat 0 = 0) ∧
        (∀ x ∈ ds, ∀ e ∈ t.fit, e.dfn = x → e.tile ≠ 0 ∧
          ∃ r ∈ t.tree, r.handle = e.tile ∧ r.kind = .tile ∧ r.tenant = s.tenant ∧ r.parent = s.readS a))

/-- `SETTLE` is recorded with its barrier and answers the phase to wait for; `REPARENT` moves a record under its new parent
or withdraws it (16 R282, 10 R146, R151, R154). -/
def Sys2Proof.Claims.SettleAndReparent : Prop :=
  ∀ (s : State) (d a b : SReg), s.TreeIndexed → s.DrainReady →
    (∀ m o, s.record s.tenant (s.readS a) = some m → s.settleBar (s.readS b) = .ok o → s.wg.settles.length < 16 →
      (Instr.settle d a b).WellFormed = true →
      ∃ t, exec (.settle d a b) s = .next t ∧
        t = { s with
          wg := { s.wg with settles := s.wg.settles ++ [⟨m.handle, s.readS b, s.g.gid, s.g.blkidx⟩] }
          g := { s.g with s := t.g.s, pc := s.g.after.1, loop := s.g.after.2, timeHi := s.latched [a, b] } } ∧
        vget t.g.s d.toNat 0 =
          (o.phase + BitVec.ofNat 16 ((s.wg.settles.filter fun x => x.bar == s.readS b).length + 1)).setWidth 32 ∧
        ∀ n : SReg, n.toNat < 48 → n ≠ d → vget t.g.s n.toNat 0 = vget s.g.s n.toNat 0) ∧
    (∀ m p, s.record s.tenant (s.readS a) = some m → s.readS b ≠ 0 → s.record s.tenant (s.readS b) = some p →
      p.kind = .inner → m.handle ∉ s.pathUp 17 p.handle → p.depth + 1 + max m.height (s.deepest m) ≤ 15 →
      ∃ t, exec (.reparent a b) s = .next t ∧ t.g.pc = s.g.after.1 ∧ t.g.s = s.g.s ∧ t.mem = s.mem ∧ t.fit = s.fit ∧
        ∃ r ∈ t.tree, r.index = m.index ∧ r.parent = p.handle) ∧
    (∀ m, s.record s.tenant (s.readS a) = some m → s.readS b = 0 → (m.kind = .tile ∨ m.nchild = 0) →
      ∃ t, exec (.reparent a b) s = .next t ∧ t.g.pc = s.g.after.1 ∧ t.g.s = s.g.s ∧ t.mem = s.mem ∧
        (∀ r ∈ t.tree, r.index = m.index → r.kind = .free) ∧ ∀ e ∈ t.fit, m.handle ≠ 0 → e.tile ≠ m.handle)
end

namespace Sys2Proof.Machine

/-- The group after a precise fault of its current scalar word, or of the word at `tepc`, has been delivered (24 R333, 17
R301). -/
def Group.faulted (g : Group) (code : BitVec 8) (detail : Word) (va tepc : Nat) : Group :=
  { g with
    tcause := (if g.loop.isSome then 0x08000000 else 0) ||| code.setWidth 32
    tdetail := detail
    tepc := BitVec.ofNat 32 tepc
    tvalo := BitVec.ofNat 32 va
    tvahi := BitVec.ofNat 32 (va / 2 ^ 32 % 2 ^ 24)
    tlanes := 0
    tpass := match g.loop with
      | some lp => BitVec.ofNat 32 lp.pass
      | none => 0
    saved := some ⟨g.run, g.queue, g.pc, g.loop, none, false, none, none⟩
    run := none
    queue := []
    loop := none
    pc := g.hentry.toNat }

/-- The group in the focus holds the slot of a block whose touch trap fired (01 R36). -/
structure State.AtTrap (s : State) (k : TSlot) : Prop where
  wg     : k.wgId = s.wg.id
  slot   : k.slot < 8
  block  : (s.wg.slot k.slot).idx = k.idx
  holder : (s.wg.slot k.slot).holder = some s.g.gid

/-- The readable status registers with their numbers (17 R303). -/
def statusRegs : List (BitVec 12 × (State → Word)) :=
  [(0x000, fun s => s.g.gstat), (0x001, fun s => s.g.missed),
   (0x002, fun s => BitVec.ofNat 32 (s.g.spilled % 256 * 65536 + s.g.bound % 256 * 256 + s.g.mapped % 256)),
   (0x003, fun s => s.g.astat), (0x004, fun s => s.g.rstat),
   (0x010, fun s => BitVec.ofNat 32
     ((if s.wg.seq.run then 2 ^ 31 else 0) + (if s.wg.seq.flt then 2 ^ 30 else 0) + s.wg.seq.mpc % 2 ^ 20)),
   (0x011, fun s => s.wg.seq.mprog), (0x020, fun s => s.g.tcause), (0x021, fun s => s.g.tdetail),
   (0x022, fun s => s.g.tepc), (0x023, fun s => s.g.tvalo), (0x024, fun s => s.g.tvahi), (0x025, fun s => s.g.tlanes),
   (0x026, fun s => s.g.tpass), (0x030, fun s => s.g.hentry)]

/-- The matrix stream executes its current word and can fall through to the next (17 R284, R298). -/
def State.MatrixReady (s : State) : Prop := s.matrixLive = true ∧ s.wg.seq.mpc + 1 < s.ln.desc.mlen

/-- The state after a matrix word that leaves its registers and the rest as q has them, and falls through. -/
def State.seqOn (s : State) (q : Seq) : State :=
  { s with wg := { s.wg with seq := { q with mpc := s.wg.seq.mpc + 1, zeros := [] } } }

/-- M register n of the workgroup in the focus. -/
def State.mreg (s : State) (n : BitVec 4) : DWord := vget s.wg.seq.m n.toNat 0

end Sys2Proof.Machine

section
open Sys2Proof Sys2Proof.Machine

/-- `TRAP` enters the handler with its immediate, and resumes after itself; inside a handler it is a double fault (17 R300, 24
R333, R335). -/
def Sys2Proof.Claims.TrapEntry : Prop :=
  ∀ (s : State) (i : BitVec 20),
    (s.scalarGate true true [] = true → s.g.saved = none → s.g.loop = none →
      exec (.trap i) s = .next { s with g := s.g.faulted 0x0A (i.setWidth 32) 0 (s.g.pc + 4) }) ∧
    (s.scalarGate true true [] = true → s.g.saved.isSome = true → s.Focused → s.ln.st = .running → s.ln.aborted = false →
      ∃ t, exec (.trap i) s = .next t ∧ t.ln.aborted = true ∧ t.g.st = .ended) ∧
    (s.drained = false → exec (.trap i) s = .next s.scalarWait)

/-- A precise fault of a scalar word outside a handler: the trap registers, the work set aside, the handler's address; one
inside a handler, which cancels the launch and is counted (24 R333, R335, 17 R301). -/
def Sys2Proof.Claims.ScalarFaultEntry : Prop :=
  ∀ (s : State) (code : BitVec 8) (detail : Word) (va : Nat), code ≠ 0x14 → code ≠ 0x50 →
    (s.g.saved = none → s.scalarFault code detail va = { s with g := s.g.faulted code detail va s.g.pc }) ∧
    (s.g.saved.isSome = true → s.Focused → s.ln.st = .running → s.ln.aborted = false →
      (s.scalarFault code detail va).ln.aborted = true ∧ (s.scalarFault code detail va).g.st = .ended)

/-- `HRET` (17 R302): it leaves the handler; after a precise fault of a scalar word the stream goes on at TEPC, after a precise
lane fault where it stood, after an imprecise one at the header that TEPC names; a misaligned TEPC, a foreign one, a cause it does not
take. -/
def Sys2Proof.Claims.HandlerReturn : Prop :=
  ∀ (s : State), s.scalarGate true true [] = true →
    (s.g.saved = none → exec .hret s = .next (s.scalarFault 0x0B)) ∧
    (∀ v, s.g.saved = some v → s.g.tcode ≠ 0x20 → s.g.tcode ≠ 0x21 → v.job = none →
      let cause := s.g.tcause.toNat / 2 ^ 28
      let back := fun (u : Saved) (pc : Nat) (l : Option LoopSt) =>
        ({ s.g with run := u.readZeros.run, queue := v.queue, saved := none, pc := pc, loop := l } : Group)
      (v.seq = false →
        (cause = 0 →
          (s.g.tepc.toNat % 4 = 0 → s.g.tepc.toNat + 4 ≤ s.ln.desc.slen →
            ∃ l, exec .hret s = .next { s with g := back v s.g.tepc.toNat l }) ∧
          (s.g.tepc.toNat % 4 ≠ 0 → exec .hret s = .next (s.scalarFault 0x12)) ∧
          (s.g.tepc.toNat % 4 = 0 → s.ln.desc.slen < s.g.tepc.toNat + 4 → exec .hret s = .next (s.scalarFault 0x10))) ∧
        (cause = 2 → exec .hret s = .next { s with g := back v v.pc v.loop }) ∧
        (cause ∈ [1, 3, 7, 9] →
          (s.g.tepc = 0xFFFFFFFF → exec .hret s = .next { s with g := back v v.pc v.loop }) ∧
          (s.g.tepc ≠ 0xFFFFFFFF → s.g.tepc.toNat < s.ln.desc.llen → exec .hret s =
            .next { s with g := back (v.modPath fun p => { p with pc := s.g.tepc.toNat }) v.pc v.loop }) ∧
          (s.g.tepc ≠ 0xFFFFFFFF → s.ln.desc.llen ≤ s.g.tepc.toNat → exec .hret s = .next (s.scalarFault 0x10)))) ∧
      (cause = 5 → v.seq = true → s.Focused → ∃ t, exec .hret s = .next t ∧ t.wg.seq.flt = false ∧
        t.wg.seq.mpc = s.wg.seq.mpc ∧ t.g = back v v.pc v.loop)) ∧
    (s.g.saved.isSome = true → (s.g.tcode = 0x20 ∨ s.g.tcode = 0x21) → exec .hret s = .next (s.scalarFault 0x0B))

/-- `HRET.POISON` retires the block poisoned and continues at REENTRY, or faults where REENTRY lies outside the section (which the
spec does not say: log 16); `HRET.ZERO` sets ZR and goes on, after the word for
cause 0x21 (17 R302, 01 R37, R38, 19 R307). -/
def Sys2Proof.Claims.Dispositions : Prop :=
  ∀ (s : State) (v : Saved), s.Focused → s.scalarGate true true [] = true → s.g.saved = some v → v.job = none →
    (s.g.tcode ≠ 0x20 → s.g.tcode ≠ 0x21 →
      exec .hretPoison s = .next (s.scalarFault 0x0B) ∧ exec .hretZero s = .next (s.scalarFault 0x0B)) ∧
    (s.g.tcode = 0x21 → s.released s.g s.ln.lid 3 = true → s.ln.desc.reentry % 4 = 0 →
      s.ln.desc.slen < s.ln.desc.reentry + 4 → exec .hretPoison s = .next (s.scalarFault 0x10)) ∧
    (s.g.tcode = 0x21 → s.released s.g s.ln.lid 3 = true → s.ln.desc.reentry % 4 = 0 →
      s.ln.desc.reentry + 4 ≤ s.ln.desc.slen →
      ∃ t, exec .hretPoison s = .next t ∧ t.g.saved = none ∧ t.g.pc = s.ln.desc.reentry ∧ t.g.run = none ∧ t.g.queue = [] ∧
        t.g.mapped = 0 ∧
        (s.g.tdetail ≠ 2 → s.g.holds = true → t.g.holds = false ∧ s.g.blkidx.toNat ∈ t.ln.retired ∧
          t.ln.poisoned = s.ln.poisoned + 1)) ∧
    (s.g.tcode = 0x20 → s.g.tcause.toNat / 2 ^ 28 = 2 → ∀ k, v.tslot = some k → s.AtTrap k → s.g.holds = true →
      s.released s.g s.ln.lid 3 = true → s.ln.desc.reentry % 4 = 0 → s.ln.desc.reentry + 4 ≤ s.ln.desc.slen →
      ∃ t, exec .hretPoison s = .next t ∧ t.g.saved = none ∧ t.g.pc = s.ln.desc.reentry ∧ t.g.holds = false ∧
        s.g.blkidx.toNat ∈ t.ln.retired ∧ t.ln.poisoned = s.ln.poisoned + 1) ∧
    (s.g.tcode = 0x20 → s.g.tcause.toNat / 2 ^ 28 = 2 → ∀ k, v.tslot = some k → s.AtTrap k →
      ∃ t, exec .hretZero s = .next t ∧ t.g.saved = none ∧ t.g.pc = v.pc ∧ t.g.pstat.getLsbD 8 = true ∧
        (t.wg.slot k.slot).trap = false ∧ (t.wg.slot k.slot).pstat.getLsbD 8 = true ∧ t.mem = s.mem) ∧
    (s.g.tcode = 0x21 → s.g.tcause.toNat / 2 ^ 28 = 0 → v.slot = none → v.loop = none → s.g.tdetail ≠ 2 →
      s.g.tepc.toNat % 4 = 0 → s.g.tepc.toNat + 8 ≤ s.ln.desc.slen →
      ∃ t, exec .hretZero s = .next t ∧ t.g.saved = none ∧ t.g.pc = s.g.tepc.toNat + 4 ∧ t.g.run = v.run ∧ t.mem = s.mem ∧
        t.g.pstat = if s.ln.desc.pageGrid then s.g.pstat ||| 0x100 else s.g.pstat)

/-- `SRR` answers the register of its number (17 R303, R287, 03 R77). -/
def Sys2Proof.Claims.StatusRead : Prop :=
  ∀ e ∈ statusRegs, ∀ (s : State) (d : SReg), (Instr.srr d e.1).WellFormed = true → s.ScalarReady false [d] →
    (e.1.toNat ≤ 4 → s.g.laneIdle = true) →
    ∃ t, exec (.srr d e.1) s = .next t ∧ ScalarStep s t [] [d] ∧ vget t.g.s d.toNat 0 = e.2 s

/-- `SRW` (17 R303, R301, 03 R77, 05 R82): what each register takes of the value. -/
def Sys2Proof.Claims.StatusWrite : Prop :=
  ∀ (s : State) (a : SReg), s.ScalarReady true [] →
    let on := fun (g : Group) =>
      Host.Outcome.next { s with g := { g with pc := s.g.after.1, loop := s.g.after.2, timeHi := s.latched [a] } }
    exec (.srw a 0x000) s = on { s.g with gstat := ((s.g.gstat &&& 0x7) &&& ~~~(s.readS a)) ||| (s.readS a &&& 0x100) } ∧
    exec (.srw a 0x001) s = on { s.g with missed := s.readS a } ∧
    exec (.srw a 0x003) s = on { s.g with astat := ((s.g.astat &&& 0xFE0) &&& ~~~(s.readS a)) ||| (s.readS a &&& 0x1B) } ∧
    exec (.srw a 0x004) s = on { s.g with rstat := (s.g.rstat &&& 0xFFFFF0FF) ||| (s.readS a &&& 0xF00) } ∧
    (s.g.tcause.toNat / 2 ^ 29 = 0 → exec (.srw a 0x022) s = on { s.g with tepc := s.readS a }) ∧
    (s.g.tcause.toNat / 2 ^ 29 ≠ 0 → exec (.srw a 0x022) s = on s.g) ∧
    ((s.readS a).toNat % 4 = 0 → (s.readS a).toNat + 4 ≤ s.ln.desc.slen →
      exec (.srw a 0x030) s = on { s.g with hentry := s.readS a }) ∧
    ((s.readS a).toNat % 4 ≠ 0 → exec (.srw a 0x030) s = .next (s.scalarFault 0x12)) ∧
    ((s.readS a).toNat % 4 = 0 → s.ln.desc.slen < (s.readS a).toNat + 4 →
      exec (.srw a 0x030) s = .next (s.scalarFault 0x10)) ∧
    (s.wg.seq.run = false → exec (.srw a 0x010) s = on s.g)

/-- `HALT` cancels its launch: its groups end, its streams, jobs and settles are gone (17 R304). -/
def Sys2Proof.Claims.HaltCancels : Prop :=
  ∀ s : State, s.Focused → s.scalarGate true true [] = true → s.ln.st = .running → s.ln.aborted = false →
    ∃ t, exec .halt s = .next t ∧ t.ln.aborted = true ∧ t.g.st = .ended ∧ t.wg.seq.run = false ∧ t.wg.settles = [] ∧
      (∀ j ∈ t.jobs, j.lid ≠ s.ln.lid) ∧ ∀ g ∈ t.groups, g.wgId = s.wg.id → g.gid ≠ s.g.gid → g.st = .ended ∨ g.st = .absent

/-- `MSTART` starts a stream with fresh registers, its checks in their order; END of MSTAT ends it (17 R286, R287). -/
def Sys2Proof.Claims.StreamStartEnd : Prop :=
  ∀ (s : State) (a : SReg) (i : BitVec 20), s.ScalarReady false [a] →
    (s.ln.desc.mlen ≤ i.toNat + (s.readS a).toNat → exec (.mstart a i) s = .next (s.scalarFault 0x10)) ∧
    (i.toNat + (s.readS a).toNat < s.ln.desc.mlen → s.ln.desc.recn = 0 →
      exec (.mstart a i) s = .next (s.scalarFault 0x38)) ∧
    (i.toNat + (s.readS a).toNat < s.ln.desc.mlen → s.ln.desc.recn ≠ 0 → s.wg.seq.run = true →
      exec (.mstart a i) s = .next (s.scalarFault 0x37)) ∧
    (i.toNat + (s.readS a).toNat < s.ln.desc.mlen → s.ln.desc.recn ≠ 0 → s.wg.seq.run = false →
      ∃ t, exec (.mstart a i) s = .next t ∧
        t = { s with
          wg := { s.wg with seq := t.wg.seq }
          g := { s.g with pc := s.g.after.1, loop := s.g.after.2, timeHi := s.latched [a] } } ∧
        t.wg.seq.run = true ∧ t.wg.seq.flt = false ∧ t.wg.seq.mpc = i.toNat + (s.readS a).toNat ∧
        t.wg.seq.owner = s.g.gid ∧ t.wg.seq.mprog = 0 ∧ t.wg.seq.modq = 0 ∧ (∀ n, vget t.wg.seq.m n 0 = 0) ∧
        (∀ n, vget t.wg.seq.recs n 0 = 0) ∧ t.wg.seq.acc = s.wg.seq.acc ∧ t.wg.seq.tags = s.wg.seq.tags) ∧
    (s.Focused → s.wg.seq.run = true → ∃ t, exec .mstatEnd s = .next t ∧ t.wg.seq.run = false ∧ t.wg.seq.flt = false ∧
      t.wg.seq.acc = s.wg.seq.acc ∧ t.wg.seq.tags = s.wg.seq.tags ∧ ∀ f ∈ t.g.faults, f.src ≠ 2) ∧
    (s.wg.seq.run = false → exec .mstatEnd s = .next s)

/-- The register words of the sequencer (17 R288 to R290). -/
def Sys2Proof.Claims.SequencerRegisters : Prop :=
  ∀ (s : State) (a b : BitVec 4) (q : BitVec 2) (i : BitVec 16), s.MatrixReady →
    exec .mnop s = .next (s.seqOn s.wg.seq) ∧
    exec (.mmov a b) s = .next (s.seqOn { s.wg.seq with m := vset s.wg.seq.m a.toNat (s.mreg b) }) ∧
    exec (.madd a b i) s = .next (s.seqOn { s.wg.seq with
      m := vset s.wg.seq.m a.toNat (BitVec.ofInt 64 ((s.mreg b).toInt + i.toInt)) }) ∧
    (∃ v : DWord, exec (.mli q a i) s = .next (s.seqOn { s.wg.seq with m := vset s.wg.seq.m a.toNat v }) ∧
      ∀ k < 64, v.getLsbD k = if k / 16 = q.toNat then i.getLsbD (k % 16) else (s.mreg a).getLsbD k) ∧
    (s.ln.desc.pageGrid = false → s.ln.desc.owns (8 * i.toNat) 8 = true →
      exec (.mld a i) s = .next (s.seqOn { s.wg.seq with
        m := vset s.wg.seq.m a.toNat (BitVec.ofNat 64 (leNat (s.spLoad s.wg.id (8 * i.toNat) 8))) })) ∧
    (s.ln.desc.owns (8 * i.toNat) 8 = false → exec (.mld a i) s = .next (s.matrixFault 0x13 (8 * i.toNat) true)) ∧
    (modulusOk (s.mreg a).toNat = true → exec (.mmod a) s = .next (s.seqOn { s.wg.seq with modq := s.mreg a })) ∧
    (modulusOk (s.mreg a).toNat = false → exec (.mmod a) s = .next (s.matrixFault 0x09 0)) ∧
    (b.toNat < s.ln.desc.recn → exec (.mrel b) s = .next (s.seqOn { s.wg.seq with recs := vset s.wg.seq.recs b.toNat 0 })) ∧
    (s.ln.desc.recn ≤ b.toNat → exec (.mrel b) s = .next (s.matrixFault 0x38 0))

/-- `MRES` writes a record that passes its checks and overlaps no valid record, and refuses every other (17 R289, 11
R163). -/
def Sys2Proof.Claims.ReservationRecords : Prop :=
  ∀ (s : State) (a x : BitVec 4), (Instr.mres a x).WellFormed = true → s.MatrixReady →
    let v : BitVec 256 := s.mreg (a + 3) ++ s.mreg (a + 2) ++ s.mreg (a + 1) ++ s.mreg a
    let clash := ∃ k : Fin 16, k.val ≠ x.toNat ∧ (vget s.wg.seq.recs k.val 0).getLsbD 142 = true ∧
      recordsMeet v.toNat (vget s.wg.seq.recs k.val 0).toNat = true
    (x.toNat < s.ln.desc.recn → recordOk v.toNat s.ln.desc.obkib = true → ¬ clash →
      exec (.mres a x) s = .next (s.seqOn { s.wg.seq with recs := vset s.wg.seq.recs x.toNat v })) ∧
    (s.ln.desc.recn ≤ x.toNat ∨ recordOk v.toNat s.ln.desc.obkib = false ∨ clash →
      exec (.mres a x) s = .next (s.matrixFault 0x38 0))
end

namespace Sys2Proof.Machine

/-! ## Results of lane words (15 R224 to R245) -/

/-- Lane l of source i, 32 bits. -/
def laneAt (vs : List SrcVal) (i l : Nat) : Word := (srcAt vs i).word l

/-- Lane l of source i, a pair. -/
def lanePair (vs : List SrcVal) (i l : Nat) : DWord := (srcAt vs i).pair l

/-- A word of n sources that writes one register, lane by lane. -/
def wordSpec (i : Instr) (srcs : List Src) (f : RunUnit → Nat → List SrcVal → Word × Word) : LaneSpec :=
  ⟨i, 1, fun _ => srcs, fun r mask vs =>
    { out := lanesOf fun l => (f r l vs).1, sticky := stickyOf mask fun l => (f r l vs).2 }⟩

/-- A word that writes a pair, lane by lane. -/
def pairSpec (i : Instr) (srcs : List Src) (f : RunUnit → Nat → List SrcVal → DWord × Word) : LaneSpec :=
  ⟨i, 2, fun _ => srcs, fun r mask vs =>
    { out := pairOf fun l => (f r l vs).1, sticky := stickyOf mask fun l => (f r l vs).2 }⟩

/-- A word that writes the enabled bits of Pd. -/
def predSpec (i : Instr) (o : LaneOps) (srcs : List Src) (f : RunUnit → Nat → List SrcVal → Bool × Word) : LaneSpec :=
  ⟨i, 0, fun _ => srcs, fun r mask vs =>
    { pred := some (field o.imm 0 3, maskOf fun l => (f r l vs).1), sticky := stickyOf mask fun l => (f r l vs).2 }⟩

/-- An exact result wrapped, or clamped to the signed or to the unsigned range with ISAT where that changes it (15 R232). -/
def satSpec (w : Nat) (m : Sat) (x u : Int) : BitVec w × Word :=
  match m with
  | .wrap => (BitVec.ofInt w x, 0)
  | .sat =>
    (BitVec.ofInt w (max (-2 ^ (w - 1)) (min (2 ^ (w - 1) - 1) x)),
      if x < -2 ^ (w - 1) ∨ 2 ^ (w - 1) ≤ x then 0x800 else 0)
  | .usat => (BitVec.ofInt w (max 0 (min (2 ^ w - 1) u)), if u < 0 ∨ 2 ^ w ≤ u then 0x800 else 0)

/-- The order of `ICMP`, `IMIN` and `IMAX`, signed or unsigned (15 R232, R233). -/
def laneNum (u : Bool) (a : Word) : Int := if u then a.toNat else a.toInt

/-- A condition of `ICMP` (15 R233). -/
def icondSpec (c : ICond) (u : Bool) (a b : Word) : Bool :=
  match c with
  | .eq => decide (laneNum u a = laneNum u b)
  | .ne => decide (laneNum u a ≠ laneNum u b)
  | .lt => decide (laneNum u a < laneNum u b)
  | .le => decide (laneNum u a ≤ laneNum u b)
  | .gt => decide (laneNum u b < laneNum u a)
  | .ge => decide (laneNum u b ≤ laneNum u a)

/-- The 32-bit integer words of two sources without sticky bits (15 R232). -/
def intPairs (o : LaneOps) (u : Bool) : List (Instr × (Word → Word → Word)) :=
  [(.imul o, fun a b => BitVec.ofNat 32 (a.toNat * b.toNat)),
   (.imulh o u, fun a b => BitVec.ofInt 32 (laneNum u a * laneNum u b / 2 ^ 32)),
   (.iand o, fun a b => a &&& b),
   (.ior o, fun a b => a ||| b),
   (.ixor o, fun a b => a ^^^ b),
   (.ishl o, fun a b => BitVec.ofNat 32 (a.toNat * 2 ^ (b.toNat % 64))),
   (.ishr o, fun a b => BitVec.ofNat 32 (a.toNat / 2 ^ (b.toNat % 64))),
   (.isra o, fun a b => BitVec.ofInt 32 (a.toInt / 2 ^ (b.toNat % 64))),
   (.imin o u, fun a b => BitVec.ofInt 32 (min (laneNum u a) (laneNum u b))),
   (.imax o u, fun a b => BitVec.ofInt 32 (max (laneNum u a) (laneNum u b)))]

/-- Leading zero bits of a lane. -/
def lzSpec (a : Word) : Word := if a = 0 then 32 else BitVec.ofNat 32 (31 - Nat.log2 a.toNat)

/-- The lane integer words (15 R232 to R234, R237). -/
def intSpecs (o : LaneOps) (m : Sat) (u sat : Bool) (cc : ICond) (k : BitVec 2) : List LaneSpec :=
  ((intPairs o u).map fun e => wordSpec e.1 (LaneOps.srcsAB o) fun _ l vs => (e.2 (laneAt vs 0 l) (laneAt vs 1 l), 0)) ++
  [wordSpec (.iadd o m) (LaneOps.srcsAB o) fun _ l vs =>
     satSpec 32 m ((laneAt vs 0 l).toInt + (laneAt vs 1 l).toInt) ((laneAt vs 0 l).toNat + (laneAt vs 1 l).toNat),
   wordSpec (.isub o m) (LaneOps.srcsAB o) fun _ l vs =>
     satSpec 32 m ((laneAt vs 0 l).toInt - (laneAt vs 1 l).toInt) ((laneAt vs 0 l).toNat - (laneAt vs 1 l).toNat),
   wordSpec (.imad o) (LaneOps.srcsABC o) fun _ l vs =>
     (BitVec.ofNat 32 ((laneAt vs 0 l).toNat * (laneAt vs 1 l).toNat + (laneAt vs 2 l).toNat), 0),
   wordSpec (.inot o) (LaneOps.srcsA o) fun _ l vs => (BitVec.ofNat 32 (2 ^ 32 - 1 - (laneAt vs 0 l).toNat), 0),
   wordSpec (.iclz o) (LaneOps.srcsA o) fun _ l vs => (lzSpec (laneAt vs 0 l), 0),
   wordSpec (.ipopc o) (LaneOps.srcsA o) fun _ l vs =>
     (BitVec.ofNat 32 ((List.range 32).filter fun i => (laneAt vs 0 l).getLsbD i).length, 0),
   wordSpec (.idot4 o sat) (LaneOps.srcsABC o) fun _ l vs =>
     let x := (laneAt vs 2 l).toInt + ((List.range 4).map fun j =>
       (field (laneAt vs 0 l) (8 * j) 8 : BitVec 8).toInt * (field (laneAt vs 1 l) (8 * j) 8 : BitVec 8).toInt).sum
     satSpec 32 (if sat then .sat else .wrap) x x,
   pairSpec (.iadd64 o m) (LaneOps.srcsAB o 2) fun _ l vs =>
     satSpec 64 m ((lanePair vs 0 l).toInt + (lanePair vs 1 l).toInt) ((lanePair vs 0 l).toNat + (lanePair vs 1 l).toNat),
   pairSpec (.isub64 o m) (LaneOps.srcsAB o 2) fun _ l vs =>
     satSpec 64 m ((lanePair vs 0 l).toInt - (lanePair vs 1 l).toInt) ((lanePair vs 0 l).toNat - (lanePair vs 1 l).toNat),
   pairSpec (.imul64 o) (LaneOps.srcsAB o 2) fun _ l vs =>
     (BitVec.ofNat 64 ((lanePair vs 0 l).toNat * (lanePair vs 1 l).toNat), 0),
   pairSpec (.i4unpk o k) (LaneOps.srcsA o) fun _ l vs =>
     let b := (laneAt vs 0 l).toNat / 2 ^ (8 * k.toNat)
     let nib := fun (n : Nat) => BitVec.ofInt 32 (if n < 8 then (n : Int) else n - 16)
     (nib (b / 16 % 16) ++ nib (b % 16), 0),
   predSpec (.icmp o cc u) o (LaneOps.srcsAB o) fun _ l vs => (icondSpec cc u (laneAt vs 0 l) (laneAt vs 1 l), 0)]

/-! ## Floating point (15 R228 to R231, R235 to R237) -/

/-- The floating-point words of one, two and three sources with their operation on encodings of a format (15 R228, R229). -/
def floatOps (o : LaneOps) (t : FType) (x2 : Bool) :
    List (Instr × List Src × (FCtl → Nat → Nat → Nat → Nat × Word)) :=
  let f := fmtOf t
  [(.fadd o t x2, LaneOps.srcsAB o, fun c a b _ => f.add c a b),
   (.fsub o t x2, LaneOps.srcsAB o, fun c a b _ => f.sub c a b),
   (.fmul o t x2, LaneOps.srcsAB o, fun c a b _ => f.mul c a b),
   (.ffma o t x2, LaneOps.srcsABC o, fun c a b d => f.fma c a b d),
   (.fmin o t x2, LaneOps.srcsAB o, fun c a b _ => f.minMax c false a b),
   (.fmax o t x2, LaneOps.srcsAB o, fun c a b _ => f.minMax c true a b),
   (.fabs o t x2, LaneOps.srcsA o, fun _ a _ _ => (a % f.signW, 0)),
   (.fneg o t x2, LaneOps.srcsA o, fun _ a _ _ => ((a + f.signW) % (2 * f.signW), 0)),
   (.frcp o t x2, LaneOps.srcsA o, fun c a _ _ => f.fun1 c rawRcp a),
   (.frsq o t x2, LaneOps.srcsA o, fun c a _ _ => f.fun1 c rawRsq a),
   (.fsqrt o t x2, LaneOps.srcsA o, fun c a _ _ => f.fun1 c rawSqrt a),
   (.fex2 o t x2, LaneOps.srcsA o, fun c a _ _ => f.fun1 c rawEx2 a),
   (.flg2 o t x2, LaneOps.srcsA o, fun c a _ _ => f.fun1 c rawLg2 a)]

/-- What an operation does to one lane: on the whole lane of FP32, on the low half of a 16-bit type with the high half
zero, or with `.X2` on each half by itself (15 R224). -/
def halves (t : FType) (x2 : Bool) (f : Nat → Nat → Nat → Nat × Word) (a b c : Word) : Word × Word :=
  if t = .f32 then (BitVec.ofNat 32 (f a.toNat b.toNat c.toNat).1, (f a.toNat b.toNat c.toNat).2)
  else
    let lo := f (a.toNat % 65536) (b.toNat % 65536) (c.toNat % 65536)
    let hi := f (a.toNat / 65536) (b.toNat / 65536) (c.toNat / 65536)
    if x2 then (BitVec.ofNat 32 (hi.1 * 65536 + lo.1), hi.2 ||| lo.2) else (BitVec.ofNat 32 lo.1, lo.2)

/-- The encoding in a lane of a type without `.X2`. -/
def lowEnc (t : FType) (a : Word) : Nat := if t = .f32 then a.toNat else a.toNat % 65536

/-- The floating-point words and the conversions to and from E4M3. -/
def floatSpecs (o : LaneOps) (t : FType) (x2 : Bool) (cc : FCond) (dt st : CType) : List LaneSpec :=
  ((floatOps o t x2).map fun e => wordSpec e.1 e.2.1 fun r l vs =>
    halves t x2 (e.2.2 r.ctl) (laneAt vs 0 l) (laneAt vs 1 l) (laneAt vs 2 l)) ++
  [predSpec (.fcmp o t cc) o (LaneOps.srcsAB o) fun r l vs =>
     (fmtOf t).cmp r.u.ftz cc (lowEnc t (laneAt vs 0 l)) (lowEnc t (laneAt vs 1 l)),
   wordSpec (.fclass o t) (LaneOps.srcsA o) fun _ l vs => ((fmtOf t).classOf (lowEnc t (laneAt vs 0 l)), 0),
   ⟨.cvt o dt st, if dt = .i64 then 2 else 1, fun _ => LaneOps.srcsA o (if st = .i64 then 2 else 1), fun r mask vs =>
     let f := fun l => cvtElem dt st (o.imm.getLsbD 0) r.ctl
       (if st = .i64 then lanePair vs 0 l else (laneAt vs 0 l).setWidth 64)
     { out := if dt = .i64 then pairOf fun l => (f l).1 else lanesOf fun l => field (f l).1 0 32
       sticky := stickyOf mask fun l => (f l).2 }⟩,
   pairSpec (.f8unpkLo o) (LaneOps.srcsA o) fun r l vs =>
     let e := fun j => Fmt.f32.convert .e4m3 r.ctl ((laneAt vs 0 l).toNat / 2 ^ (8 * j) % 256)
     (BitVec.ofNat 64 ((e 0).1 + (e 1).1 * 2 ^ 32), (e 0).2 ||| (e 1).2),
   pairSpec (.f8unpkHi o) (LaneOps.srcsA o) fun r l vs =>
     let e := fun j => Fmt.f32.convert .e4m3 r.ctl ((laneAt vs 0 l).toNat / 2 ^ (8 * j) % 256)
     (BitVec.ofNat 64 ((e 2).1 + (e 3).1 * 2 ^ 32), (e 2).2 ||| (e 3).2),
   ⟨.f8pack o, 1, fun _ => [⟨o.a, o.la, 2, none⟩, ⟨o.b, o.lb, 2, none⟩, ⟨o.c, o.lc, 1, none⟩], fun _ mask vs =>
     let on := (List.range 32).filter fun l => mask.getLsbD l
     let q := narrowBlock (on.flatMap fun l =>
       [field (lanePair vs 0 l) 0 32, field (lanePair vs 0 l) 32 32, field (lanePair vs 1 l) 0 32,
        field (lanePair vs 1 l) 32 32].map fun (x : Word) =>
         scaled (Fmt.f32.unpack x.toNat) (Fmt.f32.unpack (laneAt vs 2 l).toNat)) (.fin false 0 0)
     { out := lanesOf fun l =>
         let k := 4 * (on.filter (· < l)).length
         BitVec.ofNat 32 (q.1.getD k 0 + 256 * (q.1.getD (k + 1) 0 + 256 * (q.1.getD (k + 2) 0 + 256 * q.1.getD (k + 3) 0)))
       sticky := q.2 }⟩]

/-! ## Modular words, moves, predicates and exchange (15 R238 to R245) -/

/-- The modular words, with a predicate that names q (15 R238, R239). -/
def modSpecs (o : LaneOps) : List (LaneSpec × (RunUnit → Nat)) :=
  let q1 := fun (r : RunUnit) => r.modulus (Opnd.sNum o.c)
  let q2 := fun (r : RunUnit) => r.modulus (o.imm.toNat % 64)
  let res := fun (q : Nat) (x : Int) => BitVec.ofNat 64 (x % q).toNat
  let x := fun (vs : List SrcVal) (i l : Nat) => ((lanePair vs i l).toNat : Int)
  [(pairSpec (.modadd o) (LaneOps.srcsAB o 2) fun r l vs => (res (q1 r) (x vs 0 l + x vs 1 l), 0), q1),
   (pairSpec (.modsub o) (LaneOps.srcsAB o 2) fun r l vs => (res (q1 r) (x vs 0 l - x vs 1 l), 0), q1),
   (pairSpec (.modmul o) (LaneOps.srcsAB o 2) fun r l vs => (res (q1 r) (x vs 0 l * x vs 1 l), 0), q1),
   (pairSpec (.nttbfAdd o) (LaneOps.srcsABC o 2) fun r l vs => (res (q2 r) (x vs 0 l + x vs 2 l * x vs 1 l), 0), q2),
   (pairSpec (.nttbfSub o) (LaneOps.srcsABC o 2) fun r l vs => (res (q2 r) (x vs 0 l - x vs 2 l * x vs 1 l), 0), q2),
   (pairSpec (.nttbiAdd o) (LaneOps.srcsABC o 2) fun r l vs => (res (q2 r) (x vs 0 l + x vs 1 l), 0), q2),
   (pairSpec (.nttbiSub o) (LaneOps.srcsABC o 2) fun r l vs => (res (q2 r) ((x vs 0 l - x vs 1 l) * x vs 2 l), 0), q2)]

/-- Bit l of the unit's copy of the predicate that IMM32 names at a bit. -/
def immPred (o : LaneOps) (r : RunUnit) (at_ l : Nat) : Bool := (vget r.u.p (o.imm.toNat / 2 ^ at_ % 8) 0).getLsbD l

/-- The source lane of `SHFL` (15 R242). -/
def shflSpec (m : ShMode) (l : Nat) (b : Word) : Int :=
  match m with
  | .idx => b.toNat
  | .up => (l : Int) - b.toNat
  | .down => l + b.toNat
  | .xor => (BitVec.ofNat 32 l ^^^ b).toNat

/-- A function of `PLOP` (15 R241). -/
def plopSpec (f : PFun) (a b : Bool) : Bool :=
  match f with
  | .and => a && b
  | .or => a || b
  | .xor => xor a b
  | .andn => a && !b
  | .orn => a || !b
  | .not => !a

/-- The enabled lanes whose source is not zero (15 R245). -/
def voted (mask : Word) (vs : List SrcVal) : Word := mask &&& maskOf fun l => laneAt vs 0 l != 0

/-- One value for a lane destination, or for an S register; nothing without an enabled lane (15 R225). -/
def oneValue (o : LaneOps) (mask v : Word) : LaneRes :=
  if mask = 0 then {}
  else match o.dst with
    | .s _ => { sreg := some v }
    | _ => { out := lanesOf fun _ => v }

/-- Moves, predicate words, exchange across lanes, and `LNOP` (15 R240 to R245). -/
def moveSpecs (o : LaneOps) (d64 fromS : Bool) (f : PFun) (m : ShMode) : List LaneSpec :=
  let n := if d64 then 2 else 1
  let both := fun (g : Nat → DWord) => if d64 then pairOf g else lanesOf fun l => field (g l) 0 32
  let src := fun (vs : List SrcVal) (i l : Nat) => if d64 then lanePair vs i l else (laneAt vs i l).setWidth 64
  [⟨.mov o d64, n, fun _ => LaneOps.srcsA o n, fun _ _ vs => { out := both fun l => src vs 0 l }⟩,
   ⟨.sel o d64, n, fun _ => LaneOps.srcsAB o n, fun r _ vs =>
     { out := both fun l => if immPred o r 3 l then src vs 0 l else src vs 1 l }⟩,
   wordSpec (.movi o) [] fun _ _ _ => (o.imm, 0),
   predSpec (.plop o f) o [] fun r l _ => (plopSpec f (immPred o r 3 l) (immPred o r 6 l), 0),
   predSpec (.pmov o fromS) o (if fromS then LaneOps.srcsA o else []) fun r l vs =>
     (if fromS then (laneAt vs 0 l).getLsbD l else immPred o r 3 l, 0),
   predSpec (.pmovNz o) o (LaneOps.srcsA o) fun _ l vs => (laneAt vs 0 l != 0, 0),
   wordSpec (.prd o) [] fun r l _ => (if immPred o r 3 l then 1 else 0, 0),
   wordSpec (.prdMask o) [] fun r _ _ => (vget r.u.p (o.imm.toNat / 8 % 8) 0, 0),
   ⟨.shfl o m, 1, fun _ => LaneOps.srcsAB o, fun _ mask vs =>
     { out := lanesOf fun l =>
         let j := shflSpec m l (laneAt vs 1 l)
         if 0 ≤ j ∧ j < 32 ∧ mask.getLsbD j.toNat = true then laneAt vs 0 j.toNat else laneAt vs 0 l }⟩,
   ⟨.bcast o, 1, fun mask => [⟨o.a, o.la, 1, some (if mask = 0 then 0 else 1 <<< (o.imm.toNat % 32))⟩], fun _ _ vs =>
     { out := lanesOf fun _ => laneAt vs 0 (o.imm.toNat % 32) }⟩,
   ⟨.rfl o, 1, fun mask => [⟨o.a, o.la, 1, some (if mask = 0 then 0 else 1 <<< (lowest mask))⟩], fun _ mask vs =>
     oneValue o mask (laneAt vs 0 (lowest mask))⟩,
   ⟨.voteAny o, 0, fun _ => LaneOps.srcsA o, fun _ mask vs =>
     { pred := some (field o.imm 0 3, if voted mask vs = 0 then 0 else 0xFFFFFFFF) }⟩,
   ⟨.voteAll o, 0, fun _ => LaneOps.srcsA o, fun _ mask vs =>
     { pred := some (field o.imm 0 3, if voted mask vs = mask then 0xFFFFFFFF else 0) }⟩,
   ⟨.voteBal o, 1, fun _ => LaneOps.srcsA o, fun _ mask vs => oneValue o mask (voted mask vs)⟩,
   ⟨.lnop o, 0, fun _ => [], fun _ _ _ => {}⟩]

/-- All fixed-latency lane words of given modifiers but the modular ones. -/
def laneSpecs (o : LaneOps) (m : Sat) (u sat : Bool) (ic : ICond) (k : BitVec 2) (t : FType) (x2 : Bool) (fc : FCond)
    (dt st : CType) (d64 fromS : Bool) (f : PFun) (sm : ShMode) : List LaneSpec :=
  intSpecs o m u sat ic k ++ floatSpecs o t x2 fc dt st ++ moveSpecs o d64 fromS f sm

end Sys2Proof.Machine

section
open Sys2Proof Sys2Proof.Machine

/-- The lane integer words complete with the results of 15 R232 to R234 and R237. -/
def Obligations.LaneIntegerResults : Prop :=
  ∀ (o : LaneOps) (m : Sat) (u sat : Bool) (cc : ICond) (k : BitVec 2), ∀ e ∈ intSpecs o m u sat cc k, e.Completes o

/-- The lane floating-point words and conversions complete with the results of 15 R224, R228 to R231 and R235 to R237, which are those of the
operations on encodings; what these round to is said by `FloatEdges`. -/
def Obligations.LaneFloatResults : Prop :=
  ∀ (o : LaneOps) (t : FType) (x2 : Bool) (cc : FCond) (dt st : CType),
    ∀ e ∈ floatSpecs o t x2 cc dt st, e.Completes o

/-- Moves, predicate words and exchange complete with the results of 15 R240 to R245; the modular words with those of R238
and R239 where q is valid, and with fault 0x09 where it is not (05 R81). That `SHFL.UP` and `.DOWN` read b unsigned (DESIGN CHOICE, log 100)
and that TLANES of the 0x09 is the mask of the path (DEDUCED, log 5) are the model's. -/
def Obligations.LaneMoveResults : Prop :=
  ∀ (o : LaneOps) (d64 fromS : Bool) (f : PFun) (m : ShMode),
    (∀ e ∈ moveSpecs o d64 fromS f m, e.Completes o) ∧
    (∀ e ∈ modSpecs o, ∀ (s : State) (r : RunUnit) (p : Path) (c : ClauseSt),
      let q := e.2 r
      (q % 2 = 1 → 2 ^ 30 < q → q < 2 ^ 62 → s.LaneClear o e.1.nout (e.1.srcs (enabled r p o)) r p c →
        (s.laneWrote o (e.1.srcs (enabled r p o)) r p (e.1.value s o r p)).LaneRoom o r p c (e.1.value s o r p) →
        exec e.1.word s = .next (((s.laneWrote o (e.1.srcs (enabled r p o)) r p (e.1.value s o r p)).laneDone
          ((e.1.value s o r p).entry o.dst (enabled r p o))).floatDone p)) ∧
      (¬ (q % 2 = 1 ∧ 2 ^ 30 < q ∧ q < 2 ^ 62) → s.laneGate = some (r, p, c) →
        exec e.1.word s = .next (s.laneFault 0x09 p.mask)))

/-- What a lane operand reads: a V register its live lanes and zero in the others, an array its element at O(4 + n), an S
register its value with the lane number for S63; and which lanes are enabled (03 R51, R53, R57, R72). -/
def Sys2Proof.Claims.LaneOperandReads : Prop :=
  ∀ (g : Group) (r : RunUnit) (p : Path) (o : LaneOps) (l : Nat), l < 32 →
    (∀ k : BitVec 7, (readSrc g r p (.v k) 1).word l =
      if (g.vreg k.toNat).live.getLsbD l then (g.vreg k.toNat).val.lane l else 0) ∧
    (∀ k : BitVec 7, k.toNat + 1 < 128 → (readSrc g r p (.v k) 2).pair l =
      (readSrc g r p (.v (k + 1)) 1).word l ++ (readSrc g r p (.v k) 1).word l) ∧
    (∀ k : BitVec 7, (readSrc g r p (.v k) 1).miss.getLsbD l = !(g.vreg k.toNat).live.getLsbD l) ∧
    (∀ k : BitVec 3, (readSrc g r p (.o k) 1).word l = (g.oreg k.toNat).lane l) ∧
    (∀ k : BitVec 3, (readSrc g r p (.o k) 2).pair l = (g.oreg (k.toNat + 1)).lane l ++ (g.oreg k.toNat).lane l) ∧
    (∀ (k : BitVec 3) (e : WinEntry), p.win[k.toNat]? = some e → (readSrc g r p (.w k) 2).pair l =
      if e.valid.getLsbD l then (if e.wide then e.hi.lane l else 0) ++ e.lo.lane l else 0) ∧
    (∀ k : SReg, k.toNat < 62 → (readSrc g r p (.s k) 2).pair l = vget r.u.s (k.toNat + 1) 0 ++ vget r.u.s k.toNat 0) ∧
    (∀ (k : BitVec 3) (e : WinEntry), p.win[k.toNat]? = some e →
      (readSrc g r p (.w k) 1).word l = if e.valid.getLsbD l then e.lo.lane l else 0) ∧
    (∀ k : BitVec 3, p.win[k.toNat]? = none → (readSrc g r p (.w k) 1).word l = 0 ∧
      (readSrc g r p (.w k) 1).miss.getLsbD l = true) ∧
    (∀ k : BitVec 2, ∀ i, i = ((g.oreg (4 + k.toNat)).lane l).toNat → i < (g.xarr k.toNat).elts.length →
      (readSrc g r p (.x k) 1).word l = ((g.xarr k.toNat).elts.getD i Lanes.zero).lane l) ∧
    (∀ k : BitVec 2, (readSrc g r p (.x k) 1).oob.getLsbD l =
      decide ((g.xarr k.toNat).len ≤ ((g.oreg (4 + k.toNat)).lane l).toNat)) ∧
    (∀ k : SReg, (readSrc g r p (.s k) 1).word l = if k.toNat = 63 then BitVec.ofNat 32 l else vget r.u.s k.toNat 0) ∧
    (enabled r p o).getLsbD l = (p.mask.getLsbD l && (!o.pe || (vget r.u.p o.pg.toNat 0).getLsbD l != o.pn))

/-- Where a result goes (15 R222, R223, 03 R56): the enabled lanes of a V destination take it and become live, the other
lanes and every other register keep what they hold; so for O registers and predicates, and for an array, where lane l of the element that
O(4 + n) names in lane l takes it (03 R72). -/
def Sys2Proof.Claims.LaneResultPlacement : Prop :=
  ∀ (g : Group) (mask : Word) (out : List Lanes), mask ≠ 0 →
    (∀ k : BitVec 7, k.toNat + out.length ≤ 128 →
      (∀ i < out.length, ∀ l < 32,
        ((g.writeDst (.v k) mask out).vreg (k.toNat + i)).val.lane l =
          (if mask.getLsbD l then (out.getD i Lanes.zero).lane l else (g.vreg (k.toNat + i)).val.lane l) ∧
        ((g.writeDst (.v k) mask out).vreg (k.toNat + i)).live.getLsbD l =
          (mask.getLsbD l || (g.vreg (k.toNat + i)).live.getLsbD l)) ∧
      (∀ n, n < k.toNat ∨ k.toNat + out.length ≤ n → (g.writeDst (.v k) mask out).vreg n = g.vreg n) ∧
      g.writeDst (.v k) mask out = { g with v := (g.writeDst (.v k) mask out).v }) ∧
    (∀ k : BitVec 3, k.toNat + out.length ≤ 8 →
      (∀ i < out.length, ∀ l < 32, ((g.writeDst (.o k) mask out).oreg (k.toNat + i)).lane l =
        if mask.getLsbD l then (out.getD i Lanes.zero).lane l else (g.oreg (k.toNat + i)).lane l) ∧
      (∀ n, n < k.toNat ∨ k.toNat + out.length ≤ n → (g.writeDst (.o k) mask out).oreg n = g.oreg n) ∧
      g.writeDst (.o k) mask out = { g with o := (g.writeDst (.o k) mask out).o }) ∧
    (∀ (k : BitVec 2) (v : Lanes), out = [v] →
      (∀ i, i < (g.xarr k.toNat).elts.length → ∀ l < 32, (((g.writeDst (.x k) mask out).xarr k.toNat).elts.getD i Lanes.zero).lane l =
        if mask.getLsbD l ∧ i = ((g.oreg (4 + k.toNat)).lane l).toNat then v.lane l
        else ((g.xarr k.toNat).elts.getD i Lanes.zero).lane l) ∧
      (∀ n < 4, (g.writeDst (.x k) mask out).xarr n =
        { g.xarr n with elts := ((g.writeDst (.x k) mask out).xarr n).elts }) ∧
      (∀ n < 4, n ≠ k.toNat → (g.writeDst (.x k) mask out).xarr n = g.xarr n) ∧
      g.writeDst (.x k) mask out = { g with x := (g.writeDst (.x k) mask out).x }) ∧
    (∀ (s : State) (k : BitVec 3) (v : Word), ∀ l < 32,
      (vget (s.writePLanes k mask v).g.p k.toNat 0).getLsbD l =
        if mask.getLsbD l then v.getLsbD l else (vget s.g.p k.toNat 0).getLsbD l)

/-- `RFL` and `VOTE.BAL` with an S destination (15 R225, R244, R245): the register takes the value, unless no lane is enabled, and no other S
register changes; the window entry holds it in every enabled lane, and the lane words of the unit read S0 to S63 as before. -/
def Sys2Proof.Claims.LaneScalarResult : Prop :=
  ∀ (s : State) (o : LaneOps) (r : RunUnit) (p : Path) (c : ClauseSt) (n : SReg), o.dst = .s n → n.toNat < 48 →
    let mask := enabled r p o
    let writes := fun (i : Instr) (xs : List Src) (v : Word) =>
      s.LaneClear o 1 xs r p c → (s.laneWrote o xs r p (oneValue o mask v)).LaneRoom o r p c (oneValue o mask v) →
      ∃ t, exec i s = .next t ∧
        (∀ k < 48, vget t.g.s k 0 = if k = n.toNat ∧ mask ≠ 0 then v else vget s.g.s k 0) ∧
        (c.continues = true → (t.g.run.map fun x => x.u) = some r.u ∧
          ∃ q e es, t.path = some q ∧ q.win = e :: es ∧ e.valid = mask ∧ ∀ l < 32, mask.getLsbD l = true → e.lo.lane l = v)
    writes (.rfl o) [⟨o.a, o.la, 1, some (if mask = 0 then 0 else 1 <<< (lowest mask))⟩] ((readSrc s.g r p o.a 1).word (lowest mask)) ∧
    ∀ v : Word, (∀ l < 32, v.getLsbD l = (mask.getLsbD l && (readSrc s.g r p o.a 1).word l != 0)) →
      writes (.voteBal o) (LaneOps.srcsA o) v

/-- A fixed-latency lane word changes its destination, the liveness of its last-use sources, the sticky bits and its path only: the device,
the memories, the workgroup, the scalar stream and the other groups are as before; so is, in every lane that is not enabled, each register
and predicate, and in the enabled ones each that is no destination and no last use (15 R222, R223, R225, R226, 03 R56). That V registers of
older entries are bound to physical registers as these leave the window is 03 R60. -/
def Obligations.LaneFrame : Prop :=
  ∀ (o : LaneOps) (m : Sat) (u sat : Bool) (ic : ICond) (k : BitVec 2) (t : FType) (x2 : Bool) (fc : FCond)
    (dt st : CType) (d64 fromS : Bool) (f : PFun) (sm : ShMode),
    ∀ e ∈ laneSpecs o m u sat ic k t x2 fc dt st d64 fromS f sm, ∀ (s : State) (r : RunUnit) (p : Path) (c : ClauseSt),
      s.LaneClear o e.nout (e.srcs (enabled r p o)) r p c →
      (s.laneWrote o (e.srcs (enabled r p o)) r p (e.value s o r p)).LaneRoom o r p c (e.value s o r p) →
      ∃ t', exec e.word s = .next t' ∧
        t' = { s with g := { s.g with
          s := t'.g.s, o := t'.g.o, x := t'.g.x, p := t'.g.p, v := t'.g.v, gstat := t'.g.gstat, astat := t'.g.astat
          run := t'.g.run, queue := t'.g.queue, granted := t'.g.granted, want := t'.g.want, saved := t'.g.saved } } ∧
        (t'.g.saved.map fun v => { v with run := none }) = (s.g.saved.map fun v => { v with run := none }) ∧
        ((∀ n, o.dst ≠ .s n) → t'.g.s = s.g.s) ∧ ((∀ n, o.dst ≠ .o n) → t'.g.o = s.g.o) ∧
        ((∀ n, o.dst ≠ .x n) → t'.g.x = s.g.x) ∧ t'.g.gstat = s.g.gstat ||| (t'.g.gstat &&& 1) ∧
        t'.g.astat = s.g.astat ||| (t'.g.astat &&& 0xFE0) ∧
        (let res := e.value s o r p
         let off := fun (l : Nat) => (enabled r p o).getLsbD l = false
         let isDst := fun (n : Nat) => ∃ k : BitVec 7, o.dst = .v k ∧ k.toNat ≤ n ∧ n < k.toNat + res.out.length
         let lastUse := fun (n : Nat) => ∃ x ∈ e.srcs (enabled r p o), x.lu = true ∧
           ∃ k : BitVec 7, x.x = .v k ∧ k.toNat ≤ n ∧ n < k.toNat + x.n
         (∀ n < 128,
           (¬ isDst n → ¬ lastUse n → t'.g.vreg n = { s.g.vreg n with phys := (t'.g.vreg n).phys }) ∧
           ∀ l < 32, (off l → (t'.g.vreg n).live.getLsbD l = (s.g.vreg n).live.getLsbD l ∧
               ((s.g.vreg n).live.getLsbD l = true → (t'.g.vreg n).val.lane l = (s.g.vreg n).val.lane l ∧
                 (t'.g.vreg n).pend.getLsbD l = (s.g.vreg n).pend.getLsbD l)) ∧
             (¬ isDst n → lastUse n → ¬ off l → (t'.g.vreg n).live.getLsbD l = false)) ∧
         (∀ n < 8, ∀ l < 32, off l ∨ (∀ k : BitVec 3, o.dst = .o k → n < k.toNat ∨ k.toNat + res.out.length ≤ n) →
           (t'.g.oreg n).lane l = (s.g.oreg n).lane l) ∧
         (∀ n < 4, t'.g.xarr n = { s.g.xarr n with elts := (t'.g.xarr n).elts } ∧
           ∀ i, ∀ l < 32, off l ∨ (∀ k : BitVec 2, o.dst = .x k → n ≠ k.toNat ∨ i ≠ s.g.xindex n l) →
             ((t'.g.xarr n).elts.getD i Lanes.zero).lane l = ((s.g.xarr n).elts.getD i Lanes.zero).lane l) ∧
         (∀ n < 8, ∀ l < 32, off l ∨ (∀ q v, res.pred = some (q, v) → n ≠ q.toNat) →
           (vget t'.g.p n 0).getLsbD l = (vget s.g.p n 0).getLsbD l) ∧
         (∀ k : SReg, ∀ n, o.dst = .s k → n ≠ k.toNat → vget t'.g.s n 0 = vget s.g.s n 0) ∧
         (t'.g.queue.map fun u => { u with p := s.g.p }) = (s.g.queue.map fun u => { u with p := s.g.p }) ∧
         (res.pred = none → t'.g.queue = s.g.queue))

/-- The traps of a fixed-latency lane word: an index out of bounds (0x03), the stall on a pending lane, a lane without a value under STRICT
(0x04), one mapping too many (0x07), a word past the section (0x10). 15 R227 orders 0x03, 0x04 and 0x07; that the stall stands between 0x03
and 0x04 and 0x10 after all of them (DESIGN CHOICE, log 106) and is without effect (DEDUCED, log 16), and that TLANES of 0x07 and 0x10 is the mask of the path
(DEDUCED, log 5), are the model's readings. -/
def Obligations.LaneTraps : Prop :=
  ∀ (o : LaneOps) (m : Sat) (u sat : Bool) (ic : ICond) (k : BitVec 2) (t : FType) (x2 : Bool) (fc : FCond)
    (dt st : CType) (d64 fromS : Bool) (f : PFun) (sm : ShMode),
    ∀ e ∈ laneSpecs o m u sat ic k t x2 fc dt st d64 fromS f sm, ∀ (s : State) (r : RunUnit) (p : Path) (c : ClauseSt),
      s.laneGate = some (r, p, c) →
      let mask := enabled r p o
      let xs := e.srcs mask
      let inBounds := (∀ x ∈ xs, (readSrc s.g r p x.x x.n).oob &&& x.lanes mask = 0) ∧
        (e.nout ≠ 0 → s.g.dstOob o.dst &&& mask = 0)
      let arrived := (∀ x ∈ xs, (readSrc s.g r p x.x x.n).pend &&& x.held mask = 0) ∧ s.g.dstPend o.dst e.nout &&& mask = 0
      (¬ inBounds → ∃ lanes, exec e.word s = .next (s.laneFault 0x03 lanes)) ∧
      (inBounds → ¬ arrived → exec e.word s = .next s.missWait) ∧
      (inBounds → arrived → s.g.strict = true → s.laneMiss r p mask xs = true →
        ∃ lanes, lanes ≠ 0 ∧ exec e.word s = .next (s.laneFault 0x04 lanes)) ∧
      (inBounds → arrived → (s.g.strict = true → s.laneMiss r p mask xs = false) →
        (s.ln.desc.peak < (s.g.lastUse xs mask).mappedWith o.dst e.nout mask →
          exec e.word s = .next (s.laneFault 0x07 p.mask)) ∧
        ((s.g.lastUse xs mask).mappedWith o.dst e.nout mask ≤ s.ln.desc.peak → s.runsOut r p c = true →
          exec e.word s = .next (s.laneFault 0x10 p.mask)))
end

namespace Sys2Proof.Machine

/-- The state with the running unit changed; a unit without a path in slot or stack is over (14 R215). -/
def State.withRun (s : State) (r : RunUnit) : State := { s with g := s.g.setRun r }

/-- The path goes on at a lane word, outside a clause, with some lanes and a void entry in its window (15 R246). -/
def Path.goes (p : Path) (pc : Nat) (mask : Word) (jrec : Option Nat) : Path :=
  ⟨pc, mask, jrec, (WinEntry.void :: p.win).take 8, none, false, false, []⟩

/-- A path with an empty window at a lane word, outside a clause: one that was popped or merged (01 R12, 03 R59). -/
def Path.bare (pc : Nat) (mask : Word) (jrec : Option Nat) : Path := ⟨pc, mask, jrec, [], none, false, false, []⟩

/-- The lanes of the path that a control word does not select. -/
def Path.others (p : Path) (mask : Word) : Word := p.mask &&& ~~~mask

/-- The entries that leave the window can be bound, and have been. -/
def State.Drops (s t : State) (es : List WinEntry) : Prop :=
  s.canBind (s.g.unboundOf es).length = true ∧ t = s.leave es.reverse

end Sys2Proof.Machine

section
open Sys2Proof Sys2Proof.Machine

/-- A clause header (12 R186, 03 R59, R70, R75, R76): the fault of a safe point, the wait for flags, the start of the
clause, the void window of a SAFE clause. -/
def Sys2Proof.Claims.ClauseHeaders : Prop :=
  ∀ (h : ClauseHdr) (s : State) (r : RunUnit) (p : Path), s.headerGate = some (r, p) → arrives r p h = none →
    (h.safe = true → (h.live.toNat < s.g.mapped ∨ s.ln.desc.floor < h.live.toNat) →
      exec (.clauseHeader h) s = .next (s.laneFault 0x08 p.mask)) ∧
    (¬ (h.safe = true ∧ (h.live.toNat < s.g.mapped ∨ s.ln.desc.floor < h.live.toNat)) →
      (s.ln.desc.llen ≤ p.pc + 1 → exec (.clauseHeader h) s = .next (s.laneFault 0x10 p.mask)) ∧
      (p.pc + 1 < s.ln.desc.llen → s.abandonDue = false → s.faultDue = false →
        let starts := fun (w : List WinEntry) => r.setPath s.slot (some { p with
          pc := p.pc + 1
          win := w
          clause := some ⟨p.pc, h.len.toNat + 1, h.len.toNat + 1, if h.s0e then some h.sf0 else none,
            if h.s1e then some h.sf1 else none, h.safe, h.cont⟩
          missed := false
          float := false
          zeros := [] })
        (h.safe = false → (∀ n < 12, h.wmask.getLsbD n = true → vget s.g.f n 0 = 0) →
          exec (.clauseHeader h) s = .next { s with g := { s.g with run := some (starts p.win) } }) ∧
        (h.safe = false → (∃ n < 12, h.wmask.getLsbD n = true ∧ vget s.g.f n 0 ≠ 0) →
          exec (.clauseHeader h) s = .next s) ∧
        (h.safe = true → s.g.stop = false → (∀ n < 12, h.wmask.getLsbD n = true → vget s.g.f n 0 = 0) →
          ∃ t, exec (.clauseHeader h) s = .next t ∧ t.g.run = some (starts []) ∧
            t = { s with g := { s.g with
              run := t.g.run, v := t.g.v, granted := t.g.granted, want := t.g.want } })))

/-- A path that reaches its join address at a header with JOIN set arrives there: it waits in the record, or, as the last
path, goes on with every lane that arrived (15 R249, 01 R12). -/
def Sys2Proof.Claims.JoinArrival : Prop :=
  ∀ (h : ClauseHdr) (s t : State) (r : RunUnit) (p : Path) (i : Nat) (j : JoinRec), s.headerGate = some (r, p) →
    i < 16 → p.jrec = some i → r.join i = some j → h.join = true → j.jaddr = p.pc → p.mask ≠ 0 → s.boundary = none →
    s.Drops t p.win →
    (j.count = 1 → exec (.clauseHeader h) s = .next ((t.withRun
      ({ r with joins := vset r.joins i none }.setPath s.slot
        (some (Path.bare j.jaddr (j.arrived ||| p.mask) j.outer)))).floatDone p)) ∧
    (2 ≤ j.count →
      let r' := { r with joins := vset r.joins i (some { j with arrived := j.arrived ||| p.mask, count := j.count - 1 }) }
      (r.stack = [] → exec (.clauseHeader h) s = .next ((t.withRun (r'.setPath s.slot none)).floatDone p)) ∧
      (∀ d ds, r.stack = d :: ds → exec (.clauseHeader h) s = .next ((t.withRun
        ({ r'.setPath s.slot (some (Path.bare d.pc d.mask d.jrec)) with stack := ds })).floatDone p)))

/-- `LBR` (15 R248, 01 R11): every lane branches, none does, or the path splits: the path with more lanes stays in its slot,
the other takes the empty slot or goes onto the stack, and where CONT is 0 the path not taken then ends, with its whole window where
the path taken comes from the stack into its slot; and the faults of a target outside the section and of a full join file or stack. -/
def Sys2Proof.Claims.LaneBranch : Prop :=
  ∀ (s : State) (o : LaneOps) (r : RunUnit) (p : Path) (c : ClauseSt), s.laneGate = some (r, p, c) → p.mask ≠ 0 →
    let target := o.imm.toNat % 65536
    let join := o.imm.toNat / 65536
    let mask := enabled r p o
    let rest := p.others mask
    let runs := fun (t : State) (r' : RunUnit) => exec (.lbr o) s = .next ((t.withRun r').floatDone p)
    (mask ≠ 0 → s.ln.desc.llen ≤ target → exec (.lbr o) s = .next (s.laneFault 0x10 p.mask)) ∧
    (mask ≠ 0 → rest = 0 → target < s.ln.desc.llen → ∀ t, s.Drops t (p.win.drop 7) →
      runs t (r.setPath s.slot (some (p.goes target p.mask p.jrec)))) ∧
    (mask = 0 → c.cont = true →
      (s.ln.desc.llen ≤ p.pc + 1 → exec (.lbr o) s = .next (s.laneFault 0x10 p.mask)) ∧
      (p.pc + 1 < s.ln.desc.llen → ∀ t, s.Drops t (p.win.drop 7) →
        runs t (r.setPath s.slot (some (p.goes (p.pc + 1) p.mask p.jrec))))) ∧
    (mask = 0 → c.cont = false →
      (s.endsOut r = true → exec (.lbr o) s = .next (s.laneFault 0x10 p.mask)) ∧
      (s.endsOut r = false → ∀ t, s.Drops t p.win → runs t (r.endPath s.slot))) ∧
    (mask ≠ 0 → rest ≠ 0 → target < s.ln.desc.llen → c.cont = true → s.ln.desc.llen ≤ p.pc + 1 →
      exec (.lbr o) s = .next (s.laneFault 0x10 p.mask)) ∧
    (mask ≠ 0 → rest ≠ 0 → target < s.ln.desc.llen → (c.cont = true → p.pc + 1 < s.ln.desc.llen) →
      (r.openJoin p join = none → r.freeJoin = none → exec (.lbr o) s = .next (s.laneFault 0x05 p.mask 1)) ∧
      (∀ i rec, (r.openJoin p join = none ∧ r.freeJoin = some i ∧ rec = ⟨join, 0, 2, p.jrec⟩) ∨
          (∃ j, r.openJoin p join = some i ∧ r.join i = some j ∧ rec = { j with count := j.count + 1 }) →
        ((r.path (!s.slot)).isSome = true → s.ln.desc.dsdepth ≤ r.stack.length →
          exec (.lbr o) s = .next (s.laneFault 0x05 p.mask 0)) ∧
        (∀ t,
          let wins := (popc32 rest).toNat < (popc32 mask).toNat
          s.Drops t (if c.cont = false ∧ (r.path (!s.slot)).isSome = true ∧ ¬ wins then p.win else p.win.drop 7) →
          let taken := p.goes target mask (some i)
          let other := p.goes (p.pc + 1) rest (some i)
          let joined := fun (j : JoinRec) => ({ r with joins := vset r.joins i (some j) } : RunUnit)
          (c.cont = true → ∀ stay go, (stay, go) = (if wins then (taken, other) else (other, taken)) →
            let r' := (joined rec).setPath s.slot (some stay)
            (r.path (!s.slot) = none → runs t (r'.setPath (!s.slot) (some go))) ∧
            ((r.path (!s.slot)).isSome = true → r.stack.length < s.ln.desc.dsdepth →
              runs t { r' with stack := ⟨go.pc, go.mask, go.jrec⟩ :: r.stack })) ∧
          (c.cont = false → 2 ≤ rec.count →
            let ended := joined { rec with count := rec.count - 1 }
            (r.path (!s.slot) = none → r.stack = [] →
              runs t (if wins then ended.setPath s.slot (some taken)
                else (ended.setPath (!s.slot) (some taken)).setPath s.slot none)) ∧
            ((r.path (!s.slot)).isSome = true → r.stack.length < s.ln.desc.dsdepth →
              runs t (ended.setPath s.slot (some (if wins then taken else Path.bare target mask (some i)))))))))

/-- `LJOIN` and `LEND` (15 R250, R251): the selected lanes wait in the path's join record, or end; the others go on, or end where CONT
is 0; 0x10 where a path goes on or merges outside the section (12 R176). -/
def Sys2Proof.Claims.LaneJoinEnd : Prop :=
  ∀ (s : State) (o : LaneOps) (r : RunUnit) (p : Path) (c : ClauseSt), s.laneGate = some (r, p, c) → p.mask ≠ 0 →
    let mask := enabled r p o
    let rest := p.others mask
    let runs := fun (i : Instr) (t : State) (r' : RunUnit) => exec i s = .next ((t.withRun r').floatDone p)
    let out := fun (i : Instr) => exec i s = .next (s.laneFault 0x10 p.mask)
    let merged := fun (i : Nat) (j : JoinRec) => ({ r with joins := vset r.joins i (some { j with arrived := j.arrived ||| mask }) } : RunUnit)
    (rest ≠ 0 → c.cont = true → s.ln.desc.llen ≤ p.pc + 1 → out (.ljoin o) ∧ out (.lend o)) ∧
    (rest ≠ 0 → c.cont = true → p.pc + 1 < s.ln.desc.llen → ∀ t, s.Drops t (p.win.drop 7) →
      runs (.lend o) t (r.setPath s.slot (some (p.goes (p.pc + 1) rest p.jrec))) ∧
      (p.jrec = none → runs (.ljoin o) t (r.setPath s.slot (some (p.goes (p.pc + 1) rest none)))) ∧
      (∀ i j, i < 16 → p.jrec = some i → r.join i = some j →
        runs (.ljoin o) t ((merged i j).setPath s.slot (some (p.goes (p.pc + 1) rest (some i)))))) ∧
    ((rest = 0 ∨ c.cont = false) →
      (s.endsOut r = true → out (.lend o) ∧ (p.jrec = none → out (.ljoin o))) ∧
      (s.endsOut r = false → ∀ t, s.Drops t p.win → runs (.lend o) t (r.endPath s.slot) ∧
        (p.jrec = none → runs (.ljoin o) t (r.endPath s.slot)))) ∧
    (rest ≠ 0 → c.cont = false → ∀ i j, i < 16 → p.jrec = some i → r.join i = some j →
      (s.endsOut (merged i j) = true → out (.ljoin o)) ∧
      (s.endsOut (merged i j) = false → ∀ t, s.Drops t p.win → runs (.ljoin o) t ((merged i j).endPath s.slot))) ∧
    (rest = 0 → ∀ i j, i < 16 → p.jrec = some i → r.join i = some j → j.count = 1 → j.arrived ||| mask ≠ 0 →
      (s.ln.desc.llen ≤ j.jaddr → out (.ljoin o)) ∧
      (j.jaddr < s.ln.desc.llen → ∀ t, s.Drops t p.win → runs (.ljoin o) t
        ({ r with joins := vset r.joins i none }.setPath s.slot
          (some (Path.bare j.jaddr (j.arrived ||| mask) j.outer))))) ∧
    (rest = 0 → ∀ i j, i < 16 → p.jrec = some i → r.join i = some j → 2 ≤ j.count →
      let r' := { r with joins := vset r.joins i (some { j with arrived := j.arrived ||| mask, count := j.count - 1 }) }
      (r.stack = [] → ∀ t, s.Drops t p.win → runs (.ljoin o) t (r'.setPath s.slot none)) ∧
      (∀ d ds, r.stack = d :: ds → d.pc < s.ln.desc.llen → ∀ t, s.Drops t p.win →
        runs (.ljoin o) t { r'.setPath s.slot (some (Path.bare d.pc d.mask d.jrec)) with stack := ds }))

/-- `XSET` from an immediate or an S register, and `XRST`: LEN is set where it is at most XLEN, 0x03 where it is not (15
R252). -/
def Sys2Proof.Claims.ArrayLength : Prop :=
  ∀ (s : State) (o : LaneOps) (n : BitVec 2) (r : RunUnit) (p : Path) (c : ClauseSt), s.laneGate = some (r, p, c) →
    o.dst = .x n → s.runsOut r p c = false →
    let sets := fun (i : Instr) (len : Nat) =>
      ((s.g.xarr n.toNat).xlen < len → exec i s = .next (s.laneFault 0x03 p.mask)) ∧
      (len ≤ (s.g.xarr n.toNat).xlen →
        ∀ t, s.Drops t (if c.continues then p.win.drop 7 else p.win) →
          ∃ t', exec i s = .next t' ∧ t'.g.xarr n.toNat = { s.g.xarr n.toNat with len := len } ∧
            (∀ m < 4, m ≠ n.toNat → t'.g.xarr m = s.g.xarr m) ∧
            t' = { s with g := { s.g with
              x := t'.g.x, v := t'.g.v, run := t'.g.run, granted := t'.g.granted, want := t'.g.want } } ∧
            (c.left ≠ 1 → t'.path.map Path.pc = some (p.pc + 1)))
    sets (.xset o) (o.imm.toNat % 128) ∧
    (∀ a : SReg, o.a = .s a → sets (.xsetS o) (if a.toNat = 63 then 0 else (vget r.u.s a.toNat 0).toNat)) ∧
    sets (.xrst o) (s.g.xarr n.toNat).xlen

/-- What IEEE arithmetic gives at its edges (05 R84, R85, 15 R228 to R230): NaN results, invalid operations, signed zeros,
exact operands, and the order of comparisons. -/
def Sys2Proof.Claims.FloatSpecialCases : Prop :=
  ∀ (t : FType) (c : FCtl) (a b : Nat), a < 2 * (fmtOf t).signW → b < 2 * (fmtOf t).signW →
    let f := fmtOf t
    let va := f.unpack a c.ftz
    let vb := f.unpack b c.ftz
    let inf := fun (neg : Bool) => (if neg then f.signW else 0) + f.infEnc
    (va.isNan = true →
      (f.add c a b).1 = (if c.nanc then f.canon else a ||| 2 ^ (f.fbits - 1)) ∧ (f.mul c a b).1 = (f.add c a b).1 ∧
      ((f.add c a b).2 = if va.isSnan || vb.isSnan then 0x200 else 0) ∧
      (f.cmp c.ftz .ne a b).1 = true ∧ (f.cmp c.ftz .nan a b).1 = true ∧ (f.cmp c.ftz .eq a b).1 = false ∧
      f.cmp c.ftz .lt a b = (false, 0x200) ∧ f.cmp c.ftz .le a b = (false, 0x200)) ∧
    (va.isNan = false → vb.isNan = false →
      f.add c a b = f.add c b a ∧ f.mul c a b = f.mul c b a ∧
      ((f.cmp c.ftz .lt a b).1 || (f.cmp c.ftz .eq a b).1 || (f.cmp c.ftz .gt a b).1) = true ∧
      (f.cmp c.ftz .lt a b).1 = (f.cmp c.ftz .gt b a).1 ∧
      (f.cmp c.ftz .le a b).1 = ((f.cmp c.ftz .lt a b).1 || (f.cmp c.ftz .eq a b).1) ∧
      f.sub c a b = f.add c a ((b + f.signW) % (2 * f.signW))) ∧
    (∀ n, f.add c (inf n) (inf (!n)) = (f.canon, 0x200)) ∧
    (∀ n, f.mul c (inf n) 0 = (f.canon, 0x200) ∧ f.fun1 c rawSqrt (inf true) = (f.canon, 0x200)) ∧
    (∀ n, f.fun1 c rawRcp (if n then f.signW else 0) = (inf n, 0x100)) ∧
    (∀ neg m e, va = .fin neg m e →
      f.add c a ((a + f.signW) % (2 * f.signW)) = (if c.rm = 2 then f.signW else 0, 0) ∧
      f.put f { c with ftz := false } (f.unpack a) = (a, 0))

/-- A value is finite. -/
def Sys2Proof.Machine.FVal.IsFinite (v : FVal) : Prop := ∃ s m e, v = .fin s m e

/-- A finite value of a lane format as a whole number of 2^-400. -/
def Sys2Proof.Machine.FVal.units : FVal → Int
  | .fin s m e => (if s then -(m : Int) else m) * 2 ^ (e + 400).toNat
  | _ => 0

/-- The value of an encoding as a whole number of 2^-800, in which products of two values are whole too. -/
def Sys2Proof.Machine.Fmt.worth (f : Fmt) (n : Nat) : Int := (f.unpack n).units * 2 ^ 400

/-- y is, of some numbers, the one next to x in the direction of RM: the nearest, of two as near the one that is even; towards zero; down;
up (05 R82). -/
def NextTo (rm : BitVec 2) (isVal : Int → Prop) (even : Bool) (x y : Int) : Prop :=
  (rm = 0 → ∀ v, isVal v → (y - x).natAbs ≤ (v - x).natAbs ∧
    (v ≠ y → (y - x).natAbs = (v - x).natAbs → even = true)) ∧
  (rm = 1 → y.natAbs ≤ x.natAbs ∧ 0 ≤ x * y ∧ ∀ v, isVal v → v.natAbs ≤ x.natAbs → v.natAbs ≤ y.natAbs) ∧
  (rm = 2 → y ≤ x ∧ ∀ v, isVal v → v ≤ x → v ≤ y) ∧
  (rm = 3 → x ≤ y ∧ ∀ v, isVal v → x ≤ v → y ≤ v)

/-- An encoding with its sticky bits is an exact value, in 2^-800, rounded once: where it is finite and E4M3 did not clamp it (FSAT), it is the
format's value next to the exact one; under FTZ it is that or a zero, and a zero only below the least normal number. -/
def Sys2Proof.Machine.Fmt.Rounded (f : Fmt) (c : FCtl) (x : Int) (r : Nat × Word) : Prop :=
  r.1 < 2 * f.signW ∧
  ((f.unpack r.1).IsFinite → r.2 &&& 0x400 = 0 →
    (c.ftz = false ∨ f.worth r.1 ≠ 0 →
      NextTo c.rm (fun v => ∃ n < 2 * f.signW, (f.unpack n).IsFinite ∧ f.worth n = v) (r.1 % 2 == 0) x (f.worth r.1)) ∧
    (c.ftz = true → f.worth r.1 = 0 → x.natAbs < 2 ^ (801 - f.bias).toNat))

/-- One rounding (05 R84, R86): `FADD`, `FSUB`, `FMUL` and `FFMA` round their exact results once by RM, and so does `CVT` to a float format
and, where nothing is clamped, from one to a whole number. -/
def Sys2Proof.Claims.FiniteRounding : Prop :=
  (∀ (t : FType) (c : FCtl) (a b d : Nat),
    let f := fmtOf t
    let u := fun (n : Nat) => (f.unpack n c.ftz).units
    (f.unpack a c.ftz).IsFinite → (f.unpack b c.ftz).IsFinite →
      f.Rounded c ((u a + u b) * 2 ^ 400) (f.add c a b) ∧ f.Rounded c ((u a - u b) * 2 ^ 400) (f.sub c a b) ∧
      f.Rounded c (u a * u b) (f.mul c a b) ∧
      ((f.unpack d c.ftz).IsFinite → f.Rounded c (u a * u b + u d * 2 ^ 400) (f.fma c a b d))) ∧
  ∀ (dt st : CType) (sat : Bool) (c : FCtl) (x : DWord),
    let r := cvtElem dt st sat c x
    (∀ d s, CType.fmt dt = some d → CType.fmt st = some s → (s.unpack (floatSrc s x) c.ftz).IsFinite →
      d.Rounded c ((s.unpack (floatSrc s x) c.ftz).units * 2 ^ 400) (r.1.toNat, r.2)) ∧
    (∀ d, CType.fmt dt = some d → CType.fmt st = none → d.Rounded c (intSrc st x * 2 ^ 800) (r.1.toNat, r.2)) ∧
    (∀ s, CType.fmt dt = none → CType.fmt st = some s → (s.unpack (floatSrc s x) c.ftz).IsFinite → r.2 &&& 0x200 = 0 →
      NextTo c.rm (fun v => ∃ n : Int, v = n * 2 ^ 800) (intSrc dt r.1 % 2 == 0)
        ((s.unpack (floatSrc s x) c.ftz).units * 2 ^ 400) (intSrc dt r.1 * 2 ^ 800))

/-- IEEE arithmetic: its edges, and one rounding of every finite result (05 R84 to R86, 15 R228 to R230). -/
def Obligations.FloatEdges : Prop := Claims.FloatSpecialCases ∧ Claims.FiniteRounding
end

namespace Sys2Proof.Machine

/-! ## Lane memory words (16 R253 to R270) -/

/-- The state in which a lane memory word has read its sources and ended the lives of last uses. -/
def State.laneRead (s : State) (o : LaneOps) (xs : List Src) (r : RunUnit) (p : Path) : State :=
  let g := s.g.lastUse xs (enabled r p o)
  { s with g := if s.laneMiss r p (enabled r p o) xs then g.setUnmap else g }

/-- The entries that leave the window with this word. -/
def State.drops (s : State) (c : ClauseSt) : List WinEntry :=
  let win := (s.path.map (·.win)).getD []
  if c.continues then win.drop 7 else win

/-- A store or reduction has the room that the entries leaving its window need. -/
def State.StoreRoom (s : State) (c : ClauseSt) : Prop := s.canBind (s.g.unboundOf (s.drops c)).length = true

/-- The state in which n registers of the destination wait for the lanes `out`, and lanes `die` have died. -/
def State.awaiting (s : State) (o : LaneOps) (n : Nat) (out die : Word) : State :=
  match o.dst with
  | .v k => { s with g := s.g.changeV k.toNat n (out ||| die) fun _ r => (r.kill die).await out }
  | _ => s

/-- A load or atomic has the room that its destination and the entries leaving its window need (03 R61). -/
def State.LoadRoom (s : State) (o : LaneOps) (n : Nat) (out die : Word) (c : ClauseSt) : Prop :=
  let t := s.awaiting o n out die
  t.canBind (t.g.unboundOf ({ WinEntry.void with dst := dstClaims o.dst n out } :: t.drops c)).length = true

/-- A long-latency operation f of the group has been issued for n destination registers: its lanes are live and pending,
and its flag counts it (03 R68, R70). -/
structure State.Flies (s t : State) (o : LaneOps) (p : Path) (n : Nat) (f : Flight) : Prop where
  listed : t.g.flights = s.g.flights ++ [f]
  nreg   : f.nreg = n
  dst    : f.dst = Opnd.vNum o.dst
  flag   : f.flag = flagOf p.clause o.fs
  counts : ∀ q : BitVec 4, f.flag = some q → q.toNat < 12 → vget t.g.f q.toNat 0 = vget s.g.f q.toNat 0 + 1
  others : ∀ q < 12, f.flag.map BitVec.toNat ≠ some q → vget t.g.f q 0 = vget s.g.f q 0
  waits  : ∀ k : BitVec 7, o.dst = .v k → k.toNat + n ≤ 128 → ∀ i < n, ∀ l < 32, f.out.getLsbD l = true →
    (t.g.vreg (k.toNat + i)).pend.getLsbD l = true ∧ (t.g.vreg (k.toNat + i)).live.getLsbD l = true

/-- Word i of what a load of a size gives (16 R254). -/
def loadedWord (z : MSize) (bs : List Byte) (i : Nat) : Word :=
  match z with
  | .s8 => BitVec.ofInt 32 (BitVec.ofNat 8 (leNat bs)).toInt
  | .s16 => BitVec.ofInt 32 (BitVec.ofNat 16 (leNat bs)).toInt
  | _ => BitVec.ofNat 32 (leNat ((bs.drop (4 * i)).take 4))

/-- Lane l of a global access is performed at a device address. -/
def PerformsAt (s : State) (r : RunUnit) (o : LaneOps) (vs : List SrcVal) (mask : Word) (n : Nat) (wr : Bool) (l da : Nat) :
    Prop :=
  mask.getLsbD l = true ∧ s.reach (r.treg o) (laneOff o vs l) n wr = .ok da

/-- Lane l of a global access meets an absent frame and a residency predicate takes it (07 R110). -/
def Absents (s : State) (r : RunUnit) (o : LaneOps) (vs : List SrcVal) (mask : Word) (n : Nat) (wr : Bool) (l : Nat) : Prop :=
  mask.getLsbD l = true ∧ o.re = true ∧ ∃ dfn, s.reach (r.treg o) (laneOff o vs l) n wr = .absent dfn

/-- Every enabled lane of a global access is performed, or absent under a residency predicate. -/
def Reaches (s : State) (r : RunUnit) (o : LaneOps) (vs : List SrcVal) (mask : Word) (n : Nat) (wr : Bool) : Prop :=
  ∀ l < 32, mask.getLsbD l = true →
    (∃ da, PerformsAt s r o vs mask n wr l da) ∨ Absents s r o vs mask n wr l

/-- The residency predicate after an access: bits of absent lanes set, the others as before (07 R110). -/
def ResidencyBits (s t : State) (r : RunUnit) (o : LaneOps) (vs : List SrcVal) (mask : Word) (n : Nat) (wr : Bool) : Prop :=
  ∀ l < 32, (Absents s r o vs mask n wr l → (vget t.g.p o.pk.toNat 0).getLsbD l = true) ∧
    (¬ Absents s r o vs mask n wr l → (vget t.g.p o.pk.toNat 0).getLsbD l = (vget s.g.p o.pk.toNat 0).getLsbD l)

/-- A byte of the scratchpad of a workgroup as it is kept. -/
def State.spByte (s : State) (w x : Nat) : Option Byte := (s.findWg w).map fun y => y.sp.get x

/-- What an atomic writes, on numbers of w bits; none where it does not write (16 R258). -/
def atomSpec (w : Nat) (f : AOp) (old b c : Nat) : Option Nat :=
  let sg := fun (n : Nat) => if n < 2 ^ (w - 1) then (n : Int) else n - 2 ^ w
  match f with
  | .add | .add64 => some ((old + b) % 2 ^ w)
  | .and => some (old &&& b)
  | .or => some (old ||| b)
  | .xor => some (old ^^^ b)
  | .min => some (if sg b < sg old then b else old)
  | .max => some (if sg old < sg b then b else old)
  | .minu => some (min old b)
  | .maxu => some (max old b)
  | .swap | .swap64 => some b
  | .cas | .cas64 => if old = c then some b else none
  | .load | .load64 => none

/-- The state after the enabled lanes below k of an `ATOM.L` have been performed in ascending order (16 R258, 07 R114). -/
def atomLanes (s : State) (o : LaneOps) (f : AOp) (vs : List SrcVal) (mask : Word) : Nat → State
  | 0 => s
  | k + 1 =>
    let t := atomLanes s o f vs mask k
    if mask.getLsbD k then
      match s.spTarget (laneOff o vs k) (atomBytes f) with
      | .ok (w, a) =>
        match atomSpec (8 * atomBytes f) f (leNat (t.spLoad w a (atomBytes f))) ((srcAt vs 1).val (atomRegs f) k).toNat
            ((srcAt vs 2).val (atomRegs f) k).toNat with
        | some v => t.spStore s.wg.id w a (leBytes (atomBytes f) v)
        | none => t
      | .error _ => t
    else t

/-- The requests that an instruction adds to the porters: every lane for which `lanes` holds stands in one of them, in the
queue of the hall that owns its address, with its address, its operand and its compare value, for a merge the address of its source (07
R113, R102, 16 R258); of a merge also in the queue of the hall that
owns its source, whose porter reads it first (16 R262). -/
structure Requested (s t : State) (op : PorterOp) (flight : Option Nat) (lanes : Nat → Prop) (hall source : Nat → Nat)
    (va : Nat → Nat) (b c : Nat → DWord) : Prop where
  added : ∃ qs, t.porters = s.porters ++ qs ∧
    (∀ q ∈ qs, q.op = op ∧ q.flight = flight ∧ q.lid = s.ln.lid ∧ q.wgId = s.wg.id ∧ q.gid = s.g.gid ∧ q.bad = [] ∧
      ∀ x ∈ q.lanes, lanes x.lane ∧ x.va.toNat = va x.lane ∧ x.b = b x.lane ∧ x.c = c x.lane ∧
        ((op ≠ .xmerge ∧ x.part = .plain ∧ hall x.lane = q.hall) ∨
          (op = .xmerge ∧ ((x.part = .await ∧ hall x.lane = q.hall) ∨ (x.part = .read ∧ source x.lane = q.hall))))) ∧
    ∀ l < 32, lanes l → (∃ q ∈ qs, ∃ x ∈ q.lanes, x.lane = l ∧ x.part ≠ .read) ∧
      (op = .xmerge → ∃ q ∈ qs, ∃ x ∈ q.lanes, x.lane = l ∧ x.part = .read)

/-- The porter queues have room for what an instruction can ask of a hall: each of 32 lanes at most twice. -/
def State.PortersFree (s : State) : Prop := ∀ h < 32, s.porterLoad h + 64 ≤ 256

/-- The non-returning reductions: instruction, what the porter does, registers of the operand, size of the location (16
R259 to R262). -/
def redWords (o : LaneOps) (f : AOp) (fc : BitVec 3) (ty : XType) : List (Instr × PorterOp × Nat × Nat) :=
  [(.redG o f, .red (AOp.code f), if AOp.wide f then 2 else 1, if AOp.wide f then 8 else 4),
   (.redf o fc, .redf fc, 1, 4),
   (.redx o ty, .redx (match ty with | .f32 => 0 | .f16 => 1 | .bf16 => 2 | .e4m3 => 3), 1, 64),
   (.xmerge o, .xmerge, 1, 64)]

/-- The returning accesses: instruction, what the porter does, sources, registers, size, whether they need write
permission (16 R258, R263). -/
def returnWords (o : LaneOps) (f : AOp) : List (Instr × PorterOp × List Src × Nat × Nat × Bool) :=
  [(.atomG o f, .atom (AOp.code f), atomSrcs o f, if AOp.wide f then 2 else 1, if AOp.wide f then 8 else 4, !AOp.loads f),
   (.xcvt o, .xcvt false, [addrSrc o], 1, 64, false),
   (.xcvtClr o, .xcvt true, [addrSrc o], 1, 64, true)]

end Sys2Proof.Machine

section
open Sys2Proof Sys2Proof.Machine

/-- `LD.G` and `LD.L` (16 R254 to R257): the loaded words stand in the flight, the destination waits for them, the
residency predicate takes absent lanes, and no byte is written. -/
def Sys2Proof.Claims.LaneLoads : Prop :=
  ∀ (s : State) (o : LaneOps) (z : MSize) (r : RunUnit) (p : Path) (c : ClauseSt),
    let mask := enabled r p o
    let vs := s.laneReads r p [addrSrc o]
    let n := MSize.bytes z
    s.LaneClear o (MSize.regs z) [addrSrc o] r p c → mask ≠ 0 → s.g.flagFull (flagOf p.clause o.fs) = false →
    (s.laneRead o [addrSrc o] r p).LoadRoom o (MSize.regs z) mask 0 c →
    (Reaches s r o vs mask n false →
      ∃ t f, exec (.ldG o z) s = .next t ∧ s.Flies t o p (MSize.regs z) f ∧ f.out = mask ∧ f.ready = mask ∧ f.acq = none ∧
        (∀ l < 32, ∀ da, PerformsAt s r o vs mask n false l da → ∀ i < MSize.regs z,
          (f.vals.getD i Lanes.zero).lane l = loadedWord z (s.loadBytes da n) i) ∧
        ResidencyBits s t r o vs mask n false ∧ t = { s with fit := t.fit, g := t.g } ∧ t.g.wset = s.g.wset ∧
        t.g.s = s.g.s ∧ t.g.o = s.g.o ∧ t.g.x = s.g.x) ∧
    ((∀ l < 32, mask.getLsbD l = true → ∃ a, s.spTarget (laneOff o vs l) n = .ok a ∧ laneTrap s o vs n p.zeros l = none) →
      ∃ t f, exec (.ldL o z) s = .next t ∧ s.Flies t o p (MSize.regs z) f ∧ f.out = mask ∧ f.ready = mask ∧ f.acq = none ∧
        (∀ l < 32, mask.getLsbD l = true → ∀ w a, s.spTarget (laneOff o vs l) n = .ok (w, a) → ∀ i < MSize.regs z,
          (f.vals.getD i Lanes.zero).lane l =
            if (slotOf s.ln.desc a).any (fun k => p.zeros.contains (w, k)) then 0 else loadedWord z (s.spLoad w a n) i) ∧
        t = { s with g := t.g } ∧ t.g.wset = s.g.wset ∧ t.g.s = s.g.s ∧ t.g.p = s.g.p ∧ t.g.o = s.g.o ∧ t.g.x = s.g.x)

/-- `ST.G` and `ST.L` (16 R254 to R257, 08 R122): the bytes of the performed lanes, a higher lane over a lower one; every
other byte as before. -/
def Sys2Proof.Claims.LaneStores : Prop :=
  ∀ (s : State) (o : LaneOps) (z : MSize) (r : RunUnit) (p : Path) (c : ClauseSt),
    let mask := enabled r p o
    let xs := [addrSrc o, { x := o.b, lu := o.lb, n := MSize.regs z }]
    let vs := s.laneReads r p xs
    let n := MSize.bytes z
    s.LaneClear o 0 xs r p c → (s.laneRead o xs r p).StoreRoom c →
    (Reaches s r o vs mask n true →
      ∃ t, exec (.stG o z) s = .next t ∧ t = { s with fit := t.fit, core := t.core, g := t.g } ∧
        (∀ x, (∀ l < 32, ∀ da, PerformsAt s r o vs mask n true l da → x < da ∨ da + n ≤ x) →
          t.loadByte x = s.loadByte x) ∧
        (∀ x, ∀ l < 32, ∀ da, PerformsAt s r o vs mask n true l da → da ≤ x → x < da + n →
          (∀ k < 32, l < k → ∀ db, PerformsAt s r o vs mask n true k db → x < db ∨ db + n ≤ x) →
          t.loadByte x = ((storeData z (srcAt vs 1) l).getD (x - da) 0) ∧ ∃ v ∈ t.g.wset, v.addr = x) ∧
        ResidencyBits s t r o vs mask n true ∧ t.g.s = s.g.s ∧ t.g.flights = s.g.flights ∧ t.g.f = s.g.f) ∧
    (s.Canonical → s.wg.id ≠ 0 → (∀ l < 32, mask.getLsbD l = true → ∃ a, s.spTarget (laneOff o vs l) n = .ok a) →
      let covers := fun (l w x : Nat) =>
        mask.getLsbD l = true ∧ ∃ a, s.spTarget (laneOff o vs l) n = .ok (w, a) ∧ a ≤ x ∧ x < a + n
      ∃ t, exec (.stL o z) s = .next t ∧ t = { s with wg := t.wg, wgs := t.wgs, g := t.g } ∧
        (∀ w x, (∀ l < 32, ¬ covers l w x) → t.spByte w x = s.spByte w x) ∧
        (∀ w x y, s.findWg w = some y → y.storable s.ln.desc s.wg.id x = false → t.spByte w x = s.spByte w x) ∧
        (∀ w x y, s.findWg w = some y → y.storable s.ln.desc s.wg.id x = true → ∀ l < 32, ∀ a,
          mask.getLsbD l = true → s.spTarget (laneOff o vs l) n = .ok (w, a) → a ≤ x → x < a + n →
          (∀ k < 32, l < k → ¬ covers k w x) →
          t.spByte w x = some ((storeData z (srcAt vs 1) l).getD (x - a) 0)) ∧
        t.g.s = s.g.s ∧ t.g.p = s.g.p ∧ t.g.flights = s.g.flights)

/-- `ATOM.L` performs its lanes in ascending order and answers what each found; `ATOM.G`, `XCVT` and `XCVT.CLR` go to the
porters of their addresses, a release first (16 R258, R263, 07 R113, R114, 08 R128). -/
def Sys2Proof.Claims.LaneAtomics : Prop :=
  ∀ (s : State) (o : LaneOps) (f : AOp) (r : RunUnit) (p : Path) (c : ClauseSt),
    let mask := enabled r p o
    mask ≠ 0 → s.g.flagFull (flagOf p.clause o.fs) = false →
    (let vs := s.laneReads r p (atomSrcs o f)
     let n := atomBytes f
     s.LaneClear o (atomRegs f) (atomSrcs o f) r p c → p.zeros = [] →
      (s.laneRead o (atomSrcs o f) r p).LoadRoom o (atomRegs f) mask 0 c →
      (∀ l < 32, mask.getLsbD l = true → ∃ a, s.spTarget (laneOff o vs l) n = .ok a ∧ laneTrap s o vs n [] l = none) →
      ∃ t q, exec (.atomL o f) s = .next t ∧ s.Flies t o p (atomRegs f) q ∧ q.out = mask ∧ q.ready = mask ∧
        t = { s with wg := (atomLanes s o f vs mask 32).wg, wgs := (atomLanes s o f vs mask 32).wgs, g := t.g } ∧
        ∀ l < 32, mask.getLsbD l = true → ∀ w a, s.spTarget (laneOff o vs l) n = .ok (w, a) → ∀ i < atomRegs f,
          (q.vals.getD i Lanes.zero).lane l =
            BitVec.ofNat 32 (leNat ((atomLanes s o f vs mask l).spLoad w a n) / 2 ^ (32 * i))) ∧
    (∀ e ∈ returnWords o f, s.LaneClear o e.2.2.2.1 e.2.2.1 r p c → s.PortersFree →
      let vs := s.laneReads r p e.2.2.1
      let size := e.2.2.2.2.1
      let wr := e.2.2.2.2.2
      let rel := LaneOps.ord o = 2 ∨ LaneOps.ord o = 3
      Reaches s r o vs mask size wr → (∃ l < 32, ∃ da, PerformsAt s r o vs mask size wr l da) →
      (rel → s.released s.g s.ln.lid (LaneOps.scope o) = true ∧ s.Focused) →
      ∀ out die : Word, (∀ l < 32, (out.getLsbD l = true ↔ ∃ da, PerformsAt s r o vs mask size wr l da) ∧
          (die.getLsbD l = true ↔ Absents s r o vs mask size wr l)) →
      (s.laneRead o e.2.2.1 r p).LoadRoom o e.2.2.2.1 out die c →
      ∃ t q, exec e.1 s = .next t ∧ s.Flies t o p e.2.2.2.1 q ∧ q.out = out ∧ q.ready = 0 ∧
        q.acq = (if LaneOps.ord o = 1 ∨ LaneOps.ord o = 3 then some (LaneOps.scope o) else none) ∧
        Requested s t e.2.1 (some q.id) (fun l => out.getLsbD l = true)
          (fun l => ownerHall ((laneDa s r o vs size wr l).getD 0)) (fun _ => 0) (fun l => (r.treg o).va (laneOff o vs l))
          (fun l => (srcAt vs 1).val e.2.2.2.1 l) (fun l => (srcAt vs 2).val e.2.2.2.1 l) ∧
        ResidencyBits s t r o vs mask size wr ∧ (rel → t.g.wset = []) ∧
        (¬ rel → t = { s with porters := t.porters, g := t.g } ∧ t.g.wset = s.g.wset))

/-- `RED.G`, `REDF`, `REDX` and `XMERGE` leave a request at the porters and complete; a misaligned lane faults (16 R259 to
R262, 07 R115). -/
def Sys2Proof.Claims.LaneReductions : Prop :=
  ∀ (s : State) (o : LaneOps) (f : AOp) (fc : BitVec 3) (ty : XType) (r : RunUnit) (p : Path) (c : ClauseSt),
    ∀ e ∈ redWords o f fc ty,
    let mask := enabled r p o
    let xs := [addrSrc o, { x := o.b, lu := o.lb, n := e.2.2.1 }]
    let vs := s.laneReads r p xs
    let va := fun l => (r.treg o).va (laneOff o vs l)
    let src := fun l => (r.treg o).va ((srcAt vs 1).word l)
    let aligned := fun l => va l % e.2.2.2 = 0 ∧ (e.2.1 = .xmerge → src l % e.2.2.2 = 0)
    s.LaneClear o 0 xs r p c →
    ((∀ l < 32, mask.getLsbD l = true → aligned l) → s.PortersFree → (s.laneRead o xs r p).StoreRoom c →
      (LaneOps.ord o = 2 → s.released s.g s.ln.lid (LaneOps.scope o) = true ∧ s.Focused) →
      ∃ t, exec e.1 s = .next t ∧
        Requested s t e.2.1 none (fun l => mask.getLsbD l = true) (fun l => reduceHall s (r.treg o) (laneOff o vs l))
          (fun l => reduceHall s (r.treg o) ((srcAt vs 1).word l)) va (fun l => (srcAt vs 1).val e.2.2.1 l)
          (fun l => BitVec.ofNat 64 (src l)) ∧
        t.g.flights = s.g.flights ∧ t.g.s = s.g.s ∧ (LaneOps.ord o = 2 → t.g.wset = []) ∧
        (LaneOps.ord o ≠ 2 → t = { s with porters := t.porters, g := t.g } ∧ t.g.wset = s.g.wset)) ∧
    (∀ l < 32, mask.getLsbD l = true → (∀ k < l, mask.getLsbD k = true → aligned k) →
      (va l % e.2.2.2 ≠ 0 → ∃ lanes, exec e.1 s = .next (s.laneFault 0x12 lanes 0 (va l))) ∧
      (va l % e.2.2.2 = 0 → ¬ aligned l → ∃ lanes, exec e.1 s = .next (s.laneFault 0x12 lanes 0 (src l))))

/-- Lane `RESIDE` queues one request for the frames of its lanes; `WAIT` goes on once its phase is complete, with an acquire at the barrier's
SCOPE and of the jobs' and matrix stores' releases that the phase carries, and stays where it is while it is not; in a SAFE clause a stop, a
fault that waits or a block to be abandoned sends it back to its header; with no lane enabled it goes on at once and acquires nothing; 0x12 of
a misaligned address, 0x13 of one out of range, 0x31 of a ticket that is not the launch's (16 R265, R269, R270, 24 R332, 01 R37, 08 R123, R132). That the
snapshot becomes the whole memory is the model's choice (DESIGN CHOICE, log 11). -/
def Obligations.LaneResideWait : Prop :=
  ∀ (s : State) (o : LaneOps) (r : RunUnit) (p : Path) (c : ClauseSt),
    let mask := enabled r p o
    (let vs := s.laneReads r p [addrSrc o]
     s.LaneClear o 1 [addrSrc o] r p c → mask ≠ 0 → s.g.flagFull (flagOf p.clause o.fs) = false →
      (s.laneRead o [addrSrc o] r p).LoadRoom o 1 mask 0 c →
      (∀ l < 32, mask.getLsbD l = true → ∀ d, laneFrame s r o vs l = some d → s.foreign d = false) →
      ∃ t f q, exec (.resideLane o) s = .next t ∧ s.Flies t o p 1 f ∧ f.out = mask ∧ f.ready = 0 ∧
        t = { s with resreqs := s.resreqs ++ [q], g := t.g } ∧ q.flight = some f.id ∧ q.gid = s.g.gid ∧ q.wgId = s.wg.id ∧
        t.g.rstat = s.g.rstat + 0x10000 ∧
        (∀ d, d ∈ q.frames ↔ ∃ l < 32, mask.getLsbD l = true ∧ laneFrame s r o vs l = some d) ∧
        (q.bad = true ↔ ∃ l < 32, mask.getLsbD l = true ∧ laneFrame s r o vs l = none)) ∧
    (∀ base phase : Word, (o.a = .none ∧ base = 0) ∨ (∃ a : SReg, o.a = .s a ∧ base = r.u.sreg a.toNat 0 false) →
      (∃ b : SReg, o.b = .s b ∧ phase = r.u.sreg b.toNat 0 false) → s.LaneClear o 0 [] r p c → s.StoreRoom c →
      let addr := base + LaneOps.off o
      let p16 : BitVec 16 := phase.setWidth 16
      (mask = 0 → ∃ t, exec (.wait o) s = .next t ∧ t = { s with g := t.g } ∧ t.g.s = s.g.s ∧
        (c.continues = true → t.path.map Path.pc = some (p.pc + 1))) ∧
      (mask ≠ 0 →
        (addr.toNat % 16 ≠ 0 → exec (.wait o) s = .next (s.laneFault 0x12 mask)) ∧
        (addr.toNat % 16 = 0 → (0x800000 ≤ addr.toNat ∨ addr.toNat < 0x400000 ∧
          (0x80000 ≤ addr.toNat ∨ s.ln.desc.owns addr.toNat 16 = false)) → exec (.wait o) s = .next (s.laneFault 0x13 mask)) ∧
        ∀ w off y, s.spTarget addr 16 = .ok (w, off) → s.findWg w = some y →
          ((y.bar s.ln.desc off).ticket ≠ s.ln.ticket → exec (.wait o) s = .next (s.laneFault 0x31 mask)) ∧
          ((y.bar s.ln.desc off).ticket = s.ln.ticket →
            (((y.bar s.ln.desc off).phase - p16).toNat < 0x8000 →
              ∃ t, exec (.wait o) s = .next t ∧ t.mem = s.mem ∧ t.wg = s.wg ∧ t.g.s = s.g.s ∧
                (c.continues = true → t.path.map Path.pc = some (p.pc + 1)) ∧
                (2 ≤ (y.bar s.ln.desc off).scope.toNat → s.core.id = s.wg.coreId → t.core.snap = s.mem) ∧
                ((∃ x ∈ y.jobBars, x.1 = off ∧ x.2.1 = p16 ∧ x.2.2.has s.wg.id (some s.g.gid) = true) →
                  s.core.id = s.wg.coreId → t.core.snap = s.mem)) ∧
            (0x8000 ≤ ((y.bar s.ln.desc off).phase - p16).toNat →
              (c.safe = false ∨ (s.g.stop = false ∧ s.abandonDue = false ∧ s.faultDue = false) → exec (.wait o) s = .next s) ∧
              (c.safe = true → (s.g.stop = true ∨ s.abandonDue = true ∨ s.faultDue = true) →
                ∃ t, exec (.wait o) s = .next t ∧ t.path = some (p.toHeader c) ∧
                  t = { s with g := { s.g with run := t.g.run, want := t.g.want, granted := t.g.granted } })))))
end

namespace Sys2Proof.Machine

/-- An accumulator index of the tile in row block rb: row i and column j in mask. -/
def MmaOp.InBlock (o : MmaOp) (rb n : Nat) : Prop :=
  ∃ i j, 16 * rb ≤ i ∧ i < 16 * rb + 16 ∧ i < o.t.rown ∧ j < o.t.coln ∧ n = o.t.cbase + i * o.t.tc + j

/-- A launch has blocks left to assign: the end of a job finds no deadlock in it (01 R44). -/
def State.Dispenses (s : State) (lid : Nat) : Prop := ∀ l, s.findLaunch lid = some l → l.next < l.desc.count

/-- t is s after K-step ks of row block rb (11 R166, R167, 17 R291, R292, R299): the accumulators of the block in mask have
their sums, every other accumulator and every byte is as before (the end of the word can end a launch `lid` in DEADLOCK, which writes
cells), and MPROG names the next step. -/
structure KStepDone (s t : State) (o : MmaOp) (start : Mem) (lid rb ks : Nat) : Prop where
  sums : ∀ i j, 16 * rb ≤ i → i < 16 * rb + 16 → i < o.t.rown → j < o.t.coln →
    accGet t.wg.seq.acc (o.t.cbase + i * o.t.tc + j) =
      MMode.update o.mode s.wg.seq.modq.toNat (accGet s.wg.seq.acc (o.t.cbase + i * o.t.tc + j))
        (MMode.elems o.mode (s.fetchBytes start (o.fetchA ks i))) (s.columnB start o ks j) (s.scale start o o.ra i ks)
        (s.scale start o o.rb ks (j / 128))
  kept : ∀ n, ¬ o.InBlock rb n → accGet t.wg.seq.acc n = accGet s.wg.seq.acc n
  tags : ∀ u < s.wg.seq.tags.length, t.wg.seq.tags[u]? =
    if u ∈ o.t.units then some (MMode.tag o.mode) else s.wg.seq.tags[u]?
  mem  : (ks + 1 < o.steps ∨ 16 * (rb + 1) < o.t.rown ∨ s.Dispenses lid) → t.mem = s.mem
  sp   : t.wg.sp = s.wg.sp
  next : ks + 1 < o.steps →
    t.wg.seq.mprog = progAt (16 * rb) (ks + 1) ||| (s.wg.seq.mprog &&& 0x80000000) ∧ t.wg.seq.mpc = s.wg.seq.mpc
  block : o.steps ≤ ks + 1 → 16 * (rb + 1) < o.t.rown →
    t.wg.seq.mprog = progAt (16 * (rb + 1)) 0 ||| (s.wg.seq.mprog &&& 0x80000000) ∧ t.wg.seq.mpc = s.wg.seq.mpc
  last : o.steps ≤ ks + 1 → o.t.rown ≤ 16 * (rb + 1) →
    t.wg.seq.mprog = 0 ∧ t.wg.seq.mpc = s.wg.seq.mpc + 1 ∧ t.wg.seq.job = none

/-- A store is complete in t, where u is s with its last row written and sticky bits up to it (17 R295): the bytes are published, the
owner's status has the bits, the barrier has the bytes and the arrival, and the sequencer goes on. -/
structure State.StoreDone (s u t : State) (o : MstOp) (lid : Nat) (sticky : Word) : Prop where
  word   : t.wg.seq.job = none ∧ t.wg.seq.mprog = 0 ∧ t.wg.seq.mpc = s.wg.seq.mpc + 1 ∧ t.wg.seq.stored = true ∧
    t.wg.seq.pend = [] ∧ t.wg.seq.sticky = 0 ∧ t.wg.seq.acc = s.wg.seq.acc
  mem    : s.Dispenses lid → t.mem = (u.batch u.wg.seq.pend).mem
  status : s.g.wgId = s.wg.id → s.g.gid = s.wg.seq.owner → t.g.astat = s.g.astat ||| (sticky &&& 0xFE0)
  plain  : o.bar = none → t.wg.sp = u.wg.sp
  credit : ∀ n, o.bar = some n →
    Barrier.Arrived (u.wg.softBar (s.ln.desc.mbbase + 16 * n)) (t.wg.softBar (s.ln.desc.mbbase + 16 * n)) 1
      (o.t.rown * o.t.coln * SFmt.esize o.fmt) ∧
    ∀ y, y < s.ln.desc.mbbase + 16 * n ∨ s.ln.desc.mbbase + 16 * n + 16 ≤ y → t.wg.sp.get y = u.wg.sp.get y

/-- A store has no barrier to meet, or its barrier takes the bytes and one arrival (17 R295, 08 R131). -/
def State.StoreCredits (s u : State) (o : MstOp) : Prop :=
  o.bar = none ∨ s.Canonical ∧ s.wg.place = .resident ∧ ∃ n, o.bar = some n ∧
    s.wg.devBar s.ln.desc (s.ln.desc.mbbase + 16 * n) = none ∧
    Barrier.Takes (u.wg.softBar (s.ln.desc.mbbase + 16 * n)) s.ln.ticket 1 (o.t.rown * o.t.coln * SFmt.esize o.fmt)

/-- The word at MPC as the step rows find it. -/
def State.AtWord (s : State) (i : Instr) : Prop := s.fetchMatrix = .ok i

end Sys2Proof.Machine

section
open Sys2Proof Sys2Proof.Machine

/-- `MMA` (11 R166 to R172, 17 R292, R299): refused, done at once where its mask is empty, accepted as a job, begun with its
reads, and then one K-step at a time, by itself or as `MMA_K_STEP`. -/
def Sys2Proof.Claims.MatrixProduct : Prop :=
  ∀ (s : State) (m : MMode) (a b k : BitVec 4) (tr : BitVec 3) (tc : BitVec 4) (cb : BitVec 7), s.MatrixReady →
    let w := Instr.mma m a b k tr tc cb
    (∀ c, s.mmaOf m a b k tr tc cb = .error c → exec w s = .next (s.matrixFault c 0)) ∧
    (∀ o, s.mmaOf m a b k tr tc cb = .ok o →
      ((o.t.rown = 0 ∨ o.t.coln = 0 ∨ o.t.klen = 0) → s.wg.seq.job = none →
        exec w s = .next (s.seqOn { s.wg.seq with mprog := 0 })) ∧
      (o.t.rown ≠ 0 → o.t.coln ≠ 0 → o.t.klen ≠ 0 →
        (s.wg.seq.job = none → ∃ t j, exec w s = .next t ∧ t.jobs = s.jobs ++ [j] ∧ j.matrix = true ∧ j.wgId = s.wg.id ∧
          j.gid = s.wg.seq.owner ∧ j.writes = [] ∧ j.st = .waiting ∧
          t = { s with jobs := t.jobs, wg := { s.wg with seq := { s.wg.seq with job := some j.id } } }) ∧
        (∀ j, s.wordJob = some j → j.st ≠ .running → j.preds = [] → s.absentIn (j.reads ++ j.writes) = [] →
          exec w s = .next (s.modJob j.id fun x => { x with st := .running, startMem := s.mem })) ∧
        (∀ j, s.wordJob = some j → j.st = .running → s.Canonical →
          let rb := progRow s.wg.seq.mprog / 16
          let ks := progStep s.wg.seq.mprog
          s.stepMeets j.startMem o rb ks = none →
          (s.kTurn = false → exec w s = .next s) ∧
          (s.kTurn = true → ∃ t, exec w s = .next t ∧ KStepDone s t o j.startMem j.lid rb ks) ∧
          (s.kTurn = true → s.AtWord w → ∃ t, exec .mmaKStep s = .next t ∧ KStepDone s t o j.startMem j.lid rb ks))))

/-- Sums of the integer modes are exact: INT8 wraps at 64 bits, MOD64 is reduced by the modulus (05 R90, R91). -/
def Sys2Proof.Claims.MatrixIntegerSums : Prop :=
  ∀ (q : Nat) (c : DWord) (xs ys : List Elem) (sa sb : FVal),
    (∃ v : Int, v = ((xs.zip ys).map fun p => p.1.num * p.2.num).sum ∧
      ((MMode.update .i8 q c xs ys sa sb).toInt - (c.toInt + v)) % 2 ^ 64 = 0) ∧
    (0 < q → q < 2 ^ 62 → ((MMode.update .mod64 q c xs ys sa sb).toNat : Int) =
      (c.toNat + ((xs.zip ys).map fun p => p.1.num * p.2.num).sum) % q)

/-- `MZERO` zeroes the accumulators of its mask and no other, and tags a tile that it covers whole (17 R294). -/
def Sys2Proof.Claims.MatrixZero : Prop :=
  ∀ (s : State) (k : BitVec 4) (tr : BitVec 3) (tc : BitVec 4) (cb : BitVec 7), s.MatrixReady → s.Canonical →
    (s.tile k tr tc cb = none → exec (.mzero k tr tc cb) s = .next (s.matrixFault 0x38 0)) ∧
    (∀ o, s.tile k tr tc cb = some o → ∃ q, exec (.mzero k tr tc cb) s = .next (s.seqOn q) ∧
      q = { s.wg.seq with acc := q.acc, tags := q.tags } ∧
      (∀ i j, i < o.rown → j < o.coln → accGet q.acc (o.cbase + i * o.tc + j) = 0) ∧
      (∀ n, (∀ i j, i < o.rown → j < o.coln → n ≠ o.cbase + i * o.tc + j) →
        accGet q.acc n = accGet s.wg.seq.acc n) ∧
      ∀ u < s.wg.seq.tags.length, q.tags[u]? =
        if o.rown = o.tr ∧ o.coln = o.tc ∧ u ∈ o.units then some .zero else s.wg.seq.tags[u]?)

/-- `MST` (17 R295, R299): refused, accepted, begun, and then row by row, by itself or as `MST_ROW`; the last row publishes
the bytes, raises the owner's sticky bits and arrives on the barrier, and so does a store with no row left to write. -/
def Obligations.MatrixStore : Prop :=
  ∀ (s : State) (f : SFmt) (cr : Bool) (a k x : BitVec 4) (tr : BitVec 3) (tc : BitVec 4) (cb : BitVec 7) (bar : BitVec 4),
    s.MatrixReady →
    let w := Instr.mst f cr a k x tr tc cb bar
    (∀ c, s.mstOf f cr a k x tr tc cb bar = .error c → exec w s = .next (s.matrixFault c 0)) ∧
    (∀ o, s.mstOf f cr a k x tr tc cb bar = .ok o →
      (s.wg.seq.job = none → ∃ t j, exec w s = .next t ∧ t.jobs = s.jobs ++ [j] ∧ j.matrix = true ∧ j.reads = [] ∧
        j.writes = s.mstWrites o ∧ j.st = .waiting ∧
        t = { s with jobs := t.jobs, wg := { s.wg with seq := { s.wg.seq with job := some j.id } } }) ∧
      (∀ j, s.wordJob = some j → j.st ≠ .running → j.preds = [] → s.absentIn (j.reads ++ j.writes) = [] →
        exec w s = .next (s.modJob j.id fun x => { x with st := .running, startMem := s.mem })) ∧
      (∀ j i, s.wordJob = some j → j.st = .running → i = progRow s.wg.seq.mprog → s.wg.seq.mprog.getLsbD 30 = false →
        o.t.coln ≠ 0 → i < o.t.rown → s.rowMeets (o.row i) = none →
        ∀ e ∈ [w, .mstRow], (e = .mstRow → s.AtWord w) →
          (i + 1 < o.t.rown → ∃ t, exec e s = .next t ∧
            t.wg.seq.mprog = progAt (i + 1) 0 ||| (s.wg.seq.mprog &&& 0x80000000) ∧
            t.wg.seq.sticky = s.wg.seq.sticky ||| (s.rowBytes o i).2 ∧ t.mem = s.mem ∧ t.wg.seq.acc = s.wg.seq.acc ∧
            (o.d.sp = true → t.wg.seq.pend = s.wg.seq.pend ∧ t.wg.sp = (s.writeRow (o.row i) (s.rowBytes o i).1).wg.sp) ∧
            (o.d.sp = false → t.wg.sp = s.wg.sp ∧ ∃ cells, t.wg.seq.pend = s.wg.seq.pend ++ cells ∧
              ((framePieces (o.row i).addr (o.row i).n).length = 1 →
                ∀ da, s.reachVa s.tenant s.ln.ticket (o.row i).addr true = .ok da →
                  cells = cellsAt da (((s.rowBytes o i).1).take (o.row i).n)))) ∧
          (o.t.rown = i + 1 →
            let u := s.writeRow (o.row i) (s.rowBytes o i).1
            s.StoreCredits u o → ∃ t, exec e s = .next t ∧
              s.StoreDone u t o j.lid (s.wg.seq.sticky ||| (s.rowBytes o i).2))) ∧
      (∀ j, s.wordJob = some j → j.st = .running →
        (s.wg.seq.mprog.getLsbD 30 = true ∨ o.t.coln = 0 ∨ o.t.rown ≤ progRow s.wg.seq.mprog) → s.StoreCredits s o →
        ∀ e ∈ [w, .mstRow], (e = .mstRow → s.AtWord w) →
          ∃ t, exec e s = .next t ∧ s.StoreDone s t o j.lid s.wg.seq.sticky))

/-- `MWAIT`, `MARV` and `MEND` (17 R296, R297, 11 R161): the ticket first, then the phase or the arrival. -/
def Sys2Proof.Claims.MatrixBarriers : Prop :=
  ∀ (s : State) (bar x : BitVec 4) (i : BitVec 16), s.MatrixReady →
    let off := s.ln.desc.mbbase + 16 * bar.toNat
    let b := s.wg.softBar off
    let phase := (s.mreg x).setWidth 16 + i
    (b.ticket ≠ s.ln.ticket → exec (.mwait bar x i) s = .next (s.matrixFault 0x31 off true)) ∧
    (b.ticket = s.ln.ticket →
      ((b.phase - phase).toNat < 0x8000 → ∃ t, exec (.mwait bar x i) s = .next t ∧
        t = { s with core := t.core, cores := t.cores, wg := { s.wg with seq := t.wg.seq } } ∧
        t.wg.seq = { s.wg.seq with mpc := s.wg.seq.mpc + 1, zeros := [] }) ∧
      (0x8000 ≤ (b.phase - phase).toNat → exec (.mwait bar x i) s = .next s)) ∧
    (s.Canonical → s.wg.place = .resident → s.wg.devBar s.ln.desc off = none → Barrier.Takes b s.ln.ticket 1 0 →
      (∃ t, exec (.marv bar) s = .next t ∧ Barrier.Arrived b (t.wg.softBar off) 1 0 ∧
        t = { s with wg := { s.wg with sp := t.wg.sp, jobBars := t.wg.jobBars, seq := t.wg.seq } } ∧
        t.wg.seq = { s.wg.seq with mpc := s.wg.seq.mpc + 1, zeros := [] } ∧
        ∀ y, y < off ∨ off + 16 ≤ y → t.wg.sp.get y = s.wg.sp.get y) ∧
      (∃ t, exec (.mend bar) s = .next t ∧ Barrier.Arrived b (t.wg.softBar off) 1 0 ∧
        t = { s with wg := { s.wg with sp := t.wg.sp, jobBars := t.wg.jobBars, seq := t.wg.seq } } ∧
        t.wg.seq = { s.wg.seq with run := false } ∧
        ∀ y, y < off ∨ off + 16 ≤ y → t.wg.sp.get y = s.wg.sp.get y))

/-- `MBR` and `MLOOP` (17 R298): the target is MPC + IMM; `MLOOP` counts its register down and falls through at 1 or 0. -/
def Sys2Proof.Claims.MatrixSteering : Prop :=
  ∀ (s : State) (x : BitVec 4) (i : BitVec 16), s.matrixLive = true →
    let target : Int := s.wg.seq.mpc + i.toInt
    let inside := fun (a : Int) => 0 ≤ a ∧ a < s.ln.desc.mlen
    let at_ := fun (q : Seq) (a : Int) =>
      Host.Outcome.next { s with wg := { s.wg with seq := { q with mpc := a.toNat, zeros := [] } } }
    (inside target → exec (.mbr i) s = at_ s.wg.seq target) ∧
    (¬ inside target → exec (.mbr i) s = .next (s.matrixFault 0x10 0)) ∧
    ((s.mreg x).toNat ≤ 1 → inside (s.wg.seq.mpc + 1) → exec (.mloop x i) s =
      at_ { s.wg.seq with m := vset s.wg.seq.m x.toNat 0 } (s.wg.seq.mpc + 1)) ∧
    (¬ inside (s.wg.seq.mpc + 1) → ((s.mreg x).toNat ≤ 1 → exec (.mloop x i) s = .next (s.matrixFault 0x10 0)) ∧
      exec .mnop s = .next (s.matrixFault 0x10 0)) ∧
    (1 < (s.mreg x).toNat → inside target → exec (.mloop x i) s =
      at_ { s.wg.seq with m := vset s.wg.seq.m x.toNat (BitVec.ofNat 64 ((s.mreg x).toNat - 1)) } target) ∧
    (1 < (s.mreg x).toNat → ¬ inside target → exec (.mloop x i) s = .next (s.matrixFault 0x10 0))
end

namespace Sys2Proof.Machine

/-- The bytes that a porter stores for a lane, and the number they hold (05 R95 to R98, 16 R258 to R263); a merge has the value that
the source's porter handed over. -/
def PorterOp.stores (m : Mem) (op : PorterOp) (x : PorterLane) (da : Nat) : Option (Nat × Nat) :=
  match op with
  | .atom c | .red c => (AOp.ofCode c).bind fun f =>
      (atomNat f (m.readLE da (atomBytes f)) x.b.toNat x.c.toNat).map fun v => (atomBytes f, v)
  | .redf fc => some (4, (redfOp fc (m.readLE da 4) (x.b.toNat % 2 ^ 32)).1)
  | .redx ty => some (64, ((Xacc.ofNat (m.readLE da 64)).contribute (xFmt ty) (xBits ty x.b)).toNat)
  | .xmerge =>
    match x.part with
    | .got v => some (64, ((Xacc.ofNat (m.readLE da 64)).merge (Xacc.ofNat v.toNat)).toNat)
    | _ => none
  | .xcvt clr => if clr then some (64, 0) else none

/-- The number that a porter sends back for a lane. -/
def PorterOp.answers (m : Mem) (op : PorterOp) (da : Nat) : Option Nat :=
  match op with
  | .atom c | .red c => (AOp.ofCode c).map fun f => m.readLE da (atomBytes f)
  | .xcvt _ => some (Xacc.ofNat (m.readLE da 64)).toF32
  | _ => none

/-- The registers that the runs of a launch would take on a core. -/
def runArea (bs lens : List Nat) : List Nat :=
  (bs.zip lens).flatMap fun p => (List.range p.2).map (p.1 + ·)

end Sys2Proof.Machine

section
open Sys2Proof Sys2Proof.Machine

/-- A unit starts with one path of all lanes in LS0 and an empty join file (14 R215); a reply's lanes reach the registers
that still wait for them, and the last lane lowers the flag (03 R68, R70); float is granted to the oldest waiting group, or
the youngest younger holder is spilled and later reloaded (03 R63, R64). That the lanes which a reply finds no longer mapped at the porter die
at its arrival is the model's reading (DEDUCED, log 22). -/
def Obligations.CoreSteps : Prop :=
  ∀ s : State,
    (∀ u us, s.live = true → s.g.laneStop = false → s.g.run = none → s.g.queue = u :: us →
      exec .unitStart s = .next { s with g := { s.g with
        queue := us
        run := some ⟨u, some (Path.bare u.hdr 0xFFFFFFFF none), none, [], Vector.replicate 16 none⟩ } }) ∧
    (∀ (k : Nat) (lanes : Word) (f : Flight), s.g.flights[k]? = some f → f.out &&& f.ready &&& lanes ≠ 0 →
      ∃ t, exec (.replyArrival k lanes) s = .next t ∧ t = { s with g := t.g, core := t.core, cores := t.cores } ∧
        t.g.s = s.g.s ∧ t.g.pc = s.g.pc ∧ t.g.p = s.g.p ∧
        (∀ b, f.dst = some b → ∀ i, i < f.nreg → b + i < 128 →
          let old := s.g.vreg (b + i)
          let new := t.g.vreg (b + i)
          let here := f.out &&& f.ready &&& lanes
          new.live = old.live &&& ~~~(here &&& f.lost) ∧ (new.live = 0 → new = VReg.unmapped) ∧
          (new.live ≠ 0 → new.phys = old.phys ∧ new.pend = old.pend &&& ~~~here &&& new.live ∧
            ∀ l, l < 32 → new.val.lane l =
              if (here &&& old.pend).getLsbD l then ((f.vals[i]?).getD Lanes.zero).lane l else old.val.lane l)) ∧
        (∀ n, (∀ b, f.dst = some b → n < b ∨ b + f.nreg ≤ n) → t.g.vreg n = s.g.vreg n) ∧
        (∀ m, f.flag = some m → m.toNat < 12 →
          (f.out &&& ~~~(f.ready &&& lanes) = 0 → vget t.g.f m.toNat 0 = vget s.g.f m.toNat 0 - 1) ∧
          (f.out &&& ~~~(f.ready &&& lanes) ≠ 0 → t.g.f = s.g.f))) ∧
    (∀ d, s.Focused → (s.g, d) ∈ s.groupsOn s.core.id → 0 < s.g.want → s.g.want ≤ s.floatFree s.core.id →
      (∀ p ∈ s.groupsOn s.core.id, 0 < p.1.want → p.1 = s.g ∨ older s.g p.1 = true) →
      exec .floatGrant s = .next { s with g := { s.g with granted := s.g.granted + s.g.want, want := 0 } }) ∧
    (∀ g y dg d, (g, dg) ∈ s.groupsOn s.core.id → 0 < g.want → s.floatFree s.core.id < g.want →
      (∀ p ∈ s.groupsOn s.core.id, 0 < p.1.want → p.1 = g ∨ older g p.1 = true) →
      (s.groupsOn s.core.id).find? (fun p => p.1.wgId == y.wgId && p.1.gid == y.gid) = some (y, d) →
      older g y = true → 0 < y.floatHeld d.floor →
      (∀ p ∈ s.groupsOn s.core.id, older g p.1 = true → 0 < p.1.floatHeld p.2.floor → p.1 = y ∨ older p.1 y = true) →
      y.canSpill d.floor = true →
      exec .floatGrant s = .next (s.modGroup y.wgId y.gid fun y => y.spill d.floor)) ∧
    (s.g.spillOut = true → s.g.spilled ≤ s.g.granted →
      ∃ t, exec .spillReload s = .next t ∧
        t = { s with g := { s.g with v := t.g.v, spillOut := false, granted := s.g.granted - s.g.spilled } } ∧
        ∀ n, n < 128 → (t.g.vreg n).spilled = false ∧ (t.g.vreg n).val = (s.g.vreg n).val ∧
          (t.g.vreg n).live = (s.g.vreg n).live ∧ (t.g.vreg n).pend = (s.g.vreg n).pend ∧
          ((s.g.vreg n).spilled = true → (t.g.vreg n).phys.isSome = true) ∧
          ((s.g.vreg n).spilled = false → t.g.vreg n = s.g.vreg n))

/-- `COMPACTION` moves every bound register of the group in the focus out of the registers that the waiting launch's runs
take; values, liveness and array runs stay (03 R74). -/
def Obligations.CompactionMovesRegisters : Prop :=
  ∀ (s : State) (l : Launch) (bs : List Nat), s.Focused → (s.allGroups.map fun g => (g.wgId, g.gid)).Nodup →
    s.findLaunch l.lid = some l → l.st = .waiting → (s.physUsed s.core.id).length + l.desc.reserve ≤ Config.pool →
    placeRuns (s.physUsed s.core.id) l.desc.runLens = none →
    placeRuns (s.runRegs s.core.id) l.desc.runLens = some bs → s.g.st ≠ .ended → s.wg.place = .resident →
    ∃ t, exec (.compaction l.lid) s = .next t ∧ t = { s with g := t.g, groups := t.groups } ∧
      t.g = { s.g with v := t.g.v, gstat := t.g.gstat } ∧
      ∀ n, n < 128 →
        (t.g.vreg n = { s.g.vreg n with phys := (t.g.vreg n).phys }) ∧
        ((t.g.vreg n).phys.isSome = (s.g.vreg n).phys.isSome) ∧
        (∀ r, (t.g.vreg n).phys = some r → r ∉ runArea bs l.desc.runLens) ∧
        (∀ r, (s.g.vreg n).phys = some r → r ∉ runArea bs l.desc.runLens → (t.g.vreg n).phys = some r)

/-- A porter performs the last lane of the first request of its queue: the bytes that the operation stores, no other byte, the reply in
the flight that waits; a merge's source is read at its own porter and handed to the lane that waits at the destination's; and a
reduction that cannot be performed is an imprecise fault of its group (07 R113, R115, 16 R258 to R263). -/
def Obligations.PorterPerforms : Prop :=
  ∀ (s : State) (q : PorterReq) (x : PorterLane) (l : Launch), s.Canonical →
    s.porters.find? (fun r => r.hall == q.hall) = some q → q.lanes = [x] → s.findLaunch q.lid = some l →
    let gone := s.porters.filter fun r => !(r.key == q.key && r.hall == q.hall)
    (∀ da, q.bad = [] → (q.op ≠ .xmerge ∧ x.part = .plain ∨ q.op = .xmerge ∧ ∃ v, x.part = .got v) →
      s.porterReach l q x = .ok da →
      ∃ t, exec (.porterPerform q.hall) s = .next t ∧ t.porters = gone ∧
        (∀ n v, q.op.stores s.mem x da = some (n, v) → t.mem.bytes da n = leBytes n v ∧
          ∀ a, ¬ s.Shows da n a → t.mem.get a = s.mem.get a) ∧
        (q.op.stores s.mem x da = none → t.mem = s.mem) ∧
        (∀ id v, q.wgId = s.g.wgId → q.gid = s.g.gid → q.flight = some id → q.op.answers s.mem da = some v →
          ∀ f ∈ s.g.flights, f.id = id → ∃ f' ∈ t.g.flights, f'.id = id ∧ f'.out = f.out ∧
            f'.ready = f.ready ||| (1 <<< x.lane) ∧
            ∀ i, i < f.vals.length → x.lane < 32 →
              ((f'.vals[i]?).getD Lanes.zero).lane x.lane = BitVec.ofNat 32 (v / 2 ^ (32 * i)))) ∧
    (∀ sda, q.op = .xmerge → x.part = .read → q.bad = [] → s.porterReach l q x = .ok sda →
      ∃ t, exec (.porterPerform q.hall) s = .next t ∧ t = { s with fit := t.fit, porters := t.porters } ∧
        ∀ r ∈ s.porters, r.key = q.key → r.hall ≠ q.hall → ∃ r' ∈ t.porters, r' = { r with lanes := r.lanes.map fun y =>
          if y.lane = x.lane ∧ y.part = .await then
            { y with part := .got (BitVec.ofNat 512 (s.mem.readLE sda 64)) } else y }) ∧
    (x.part = .await → exec (.porterPerform q.hall) s = .next s) ∧
    (∀ c, q.bad = [] → x.part = .plain → s.porterReach l q x = .fault c → c ≠ 0x14 → s.Focused → s.g.st ≠ .ended →
      q.wgId = s.wg.id → q.gid = s.g.gid → q.flight = none →
      ∃ t, exec (.porterPerform q.hall) s = .next t ∧ t = { s with g := t.g, fit := t.fit, porters := gone } ∧
        t.g = { s.g with
          faults := s.g.faults ++ [⟨poisonCause c, 4, 0, x.va, 1 <<< x.lane, none, none, false, 0, q.blkidx⟩] })

/-- The next entry or index goes to the core that the plan or the order names: an index is queued, a valid entry's page is
sensed in a free slot whose barrier is armed, by a landing that joins the jobs of the gang, an invalid one is offered without a slot;
all are dispenser events (01 R19 to R24, 08 R138). -/
def Sys2Proof.Claims.EntryAssignment : Prop :=
  ∀ (s : State) (k : Nat), s.Focused → s.ln.st = .running → s.ln.aborted = false → s.ln.deadlock = false →
    s.groupsLeft s.ln.lid = true → s.ln.next < s.ln.desc.count → s.taker s.ln (s.gang s.ln.lid) = some k → (s.gang s.ln.lid)[k]? = some s.wg →
    ∃ t, exec .entryAssignment s = .next t ∧
      t = { s with wg := t.wg, wgs := t.wgs, ln := t.ln, fit := t.fit, jobs := t.jobs } ∧
      t.ln = { s.ln with next := s.ln.next + 1, rr := (k + 1) % (s.gang s.ln.lid).length } ∧
      ((s.ln.desc.pageGrid = false ∨ s.listEntry s.ln s.ln.next = none) → t.jobs = s.jobs) ∧
      (s.ln.desc.pageGrid = false → t.wg = { s.wg with
        idxq := s.wg.idxq ++ [s.ln.next], lbar := { s.wg.lbar with phase := s.wg.lbar.phase + 1 }, endSeen := false }) ∧
      (s.ln.desc.pageGrid = true → s.listEntry s.ln s.ln.next = none → t.wg = { s.wg with
        offers := s.wg.offers ++ [.bad s.ln.next]
        lbar := { s.wg.lbar with phase := s.wg.lbar.phase + 1 }
        endSeen := false }) ∧
      (∀ p, s.ln.desc.pageGrid = true → s.listEntry s.ln s.ln.next = some p → ∃ n, s.wg.freeSlot = some n ∧ n < 8 ∧
        t.wg = { s.wg.modSlot n (fun y => { Slot.free with
          st := .sensing
          idx := s.ln.next
          lpn := p
          bar := ⟨s.ln.ticket, 1, 0, 16384, 0, 1, y.bar.phase⟩ }) with endSeen := false } ∧
        ∃ j, t.jobs = s.jobs ++ [j] ∧ j.lid = s.ln.lid ∧ j.wgId = s.wg.id ∧ j.st = .waiting ∧ j.ofCard = false ∧
          j.reads = [(flashSpace s.ln.desc.nsid, p, 1)] ∧ j.writes = slotRange s.wg.id n ∧
          ∀ e ∈ s.jobs, e.lid = s.ln.lid → e.before j.reads j.writes = true → e.id ∈ j.preds)

/-- A sense of a page, once the jobs before its landing are over: decoded at the level reached, or one level on, with the soft
decode last (01 R27); a page never written reads as zeros without one (28 R378); the page then stands in the flash engine's buffer
(01 R48). -/
def Sys2Proof.Claims.FlashSense : Prop :=
  ∀ (s : State) (n : Nat) (ok : Bool) (j : Job), n < 8 → (s.wg.slot n).st = .sensing → (s.wg.slot n).sensed = false →
    s.slotJob n (s.wg.slot n) = some j →
    (j.preds ≠ [] → exec (.flashSense n ok) s = .next s) ∧
    (j.preds = [] → ∃ t, exec (.flashSense n ok) s = .next t ∧
      t = { s with wg := s.wg.modSlot n fun _ => t.wg.slot n, jobs := t.jobs } ∧
      ((t.wg.slot n).sensed = false → t.jobs = s.jobs) ∧
      ((t.wg.slot n).sensed = true → t.jobs = (s.modJob j.id fun j =>
        { j with st := .running, startFlash := [((s.wg.slot n).lpn, s.flashPage s.ln.desc.nsid (s.wg.slot n).lpn)] }).jobs) ∧
      (s.pageWritten s.ln.desc.nsid (s.wg.slot n).lpn = false →
        t.wg.slot n = { s.wg.slot n with sensed := true, pstat := 0 }) ∧
      (s.pageWritten s.ln.desc.nsid (s.wg.slot n).lpn = true → s.pageKeyed s.ln.desc.nsid (s.wg.slot n).lpn = true →
        (ok = true → (s.wg.slot n).level ≤ 8 →
          t.wg.slot n = { s.wg.slot n with sensed := true, pstat := BitVec.ofNat 16 (s.wg.slot n).level }) ∧
        (ok = true → (s.wg.slot n).level = 9 → t.wg.slot n = { s.wg.slot n with sensed := true, pstat := 0x208 }) ∧
        (ok = false → (s.wg.slot n).level ≤ 8 → t.wg.slot n = { s.wg.slot n with level := (s.wg.slot n).level + 1 }) ∧
        (ok = false → (s.wg.slot n).level = 9 →
          t.wg.slot n = { s.wg.slot n with sensed := true, pstat := 0x408, trap := true })))

/-- Bytes land in a slot from the page as it was decoded, or from the copy-out area as it was at the start; no other byte of the
scratchpad changes; with the last one the job is over, the slot is ready or its block parked again, and the phases of slot and core
advance (01 R22 to R24, R42, R48, 08 R136, R138). -/
def Sys2Proof.Claims.LandingCredit : Prop :=
  ∀ (s : State) (n b k base : Nat) (j : Job), s.Canonical → n < 8 →
    k = min b (16384 - (s.wg.slot n).bar.landed.toNat) → 0 < k → s.slotJob n (s.wg.slot n) = some j →
    s.mayLand (s.wg.slot n) j = true → base = ((s.wg.slot n).park.map fun r => s.wg.coAddr s.ln.desc r).getD 0 →
    ((s.wg.slot n).reland = true → s.coBad s.ln base = false) →
    let y := s.wg.slot n
    let last := y.bar.landed.toNat + k = 16384
    let page : Mem := ((j.startFlash.find? fun p => p.1 == y.lpn).map (·.2)).getD []
    let start := if j.st = .waiting then s.mem else j.startMem
    ∃ t, exec (.landingCredit n b) s = .next t ∧
      (∀ i, i < k → t.wg.sp.get (0x60000 + 0x4000 * n + y.bar.landed.toNat + i) =
        if y.reland = true then ((s.areaAddr s.ln (base + y.bar.landed.toNat + i)).toOption.map start.get).getD 0
        else if y.pstat.getLsbD 10 = true then 0 else Mem.get page (y.bar.landed.toNat + i)) ∧
      (∀ a, a < 0x60000 + 0x4000 * n + y.bar.landed.toNat ∨
        0x60000 + 0x4000 * n + y.bar.landed.toNat + k ≤ a → t.wg.sp.get a = s.wg.sp.get a) ∧
      (¬ last → t = { s with wg := t.wg, fit := t.fit, jobs := t.jobs } ∧ (∀ m, m < 8 → m ≠ n → t.wg.slot m = s.wg.slot m) ∧
        (y.reland = false → t.fit = s.fit) ∧
        t.jobs = (s.modJob j.id fun _ => if j.st = .waiting then { j with st := .running, startMem := s.mem } else j).jobs ∧
        t.wg.slot n = { y with
          st := .landing
          bar := { y.bar with landed := y.bar.landed + BitVec.ofNat 32 k } } ∧
        t.wg.offers = s.wg.offers ∧ t.wg.lbar = s.wg.lbar) ∧
      (last → (t.wg.slot n).bar = { y.bar with landed := 0, arrived := 0, phase := y.bar.phase + 1 }) ∧
      (last → j.lid = s.ln.lid → s.Focused → (∀ w ∈ s.wgs, w.id ≠ s.wg.id) → s.ln.deadlock = false →
        s.ln.next < s.ln.desc.count →
        t = { s with wg := t.wg, wgs := t.wgs, fit := t.fit, jobs := t.jobs } ∧ (y.reland = false → t.fit = s.fit) ∧
        (y.reland = false → (t.wg.slot n).st = .ready ∧ t.wg.offers = s.wg.offers ++ [.slot n]) ∧
        (y.reland = true → (t.wg.slot n).st = .parked ∧ t.wg.offers = s.wg.offers) ∧
        (∀ m, m < 8 → m ≠ n → (s.wg.slot m).st ≠ .held → t.wg.slot m = s.wg.slot m) ∧
        t.wg.lbar = { s.wg.lbar with phase := s.wg.lbar.phase + 1 } ∧ ∀ x ∈ t.jobs, x.id ≠ j.id ∧ j.id ∉ x.preds)

/-- A copy-out job, after the jobs before it, leaves the slot's bytes in the record's place of the copy-out area and frees the slot; a
block whose awaited block has retired takes the next free slot again, by a job of its own (01 R41, R42, R49). -/
def Sys2Proof.Claims.CopyOutAndBack : Prop :=
  ∀ (s : State) (r n da : Nat) (p : Parked), s.Canonical → s.Focused → s.wg.parked[r]? = some (some p) → n < 8 →
    (∀ j, s.ownJob s.wg.id copyOutKind r = some j → j.lid = s.ln.lid → j.reads = slotRange s.wg.id n → j.preds = [] →
      s.jobHeld s.ln.lid = false → (s.wg.slot n).st = .copiedOut → (s.wg.slot n).stalled = false →
      s.areaAddr s.ln (s.wg.coAddr s.ln.desc r) = .ok da → s.ln.st = .running → s.ln.deadlock = false →
      s.ln.next < s.ln.desc.count →
      ∃ t, exec (.copyOut r) s = .next t ∧ t.mem.bytes da 0x4000 = s.wg.sp.bytes (0x60000 + 0x4000 * n) 0x4000 ∧
        (∀ a, ¬ s.Shows da 0x4000 a → t.mem.get a = s.mem.get a) ∧
        t.wg.parked[r]? = some (some { p with slot := none, trap := (s.wg.slot n).trap }) ∧
        (t.wg.slot n).st = .free ∧ t.wg.sp = s.wg.sp ∧ t.g = s.g ∧ ∀ x ∈ t.jobs, x.id ≠ j.id ∧ j.id ∉ x.preds) ∧
    (p.awaitsSlot = true → s.wg.freeSlot = some n → s.wg.active = true → s.ln.st = .running →
      s.groupsLeft s.ln.lid = true →
      (∀ q ∈ s.wg.parkedBlocks, q.awaitsSlot = true → p.offer.getD 0 ≤ q.offer.getD 0) →
      ∃ t k, exec (.relanding r) s = .next t ∧
        t = { s with wg := { s.wg with slots := t.wg.slots, parked := t.wg.parked }, jobs := s.jobs ++ [k] } ∧
        k.kind = relandKind ∧ k.param = BitVec.ofNat 32 r ∧ k.lid = s.wg.lid ∧ k.wgId = s.wg.id ∧ k.st = .waiting ∧
        k.writes = slotRange s.wg.id n ∧ (∀ e ∈ s.jobs, e.lid = s.wg.lid → e.before k.reads k.writes = true → e.id ∈ k.preds) ∧
        t.wg.parked[r]? = some (some { p with slot := some n, copied := false, pstat := p.pstat ||| 0x80 }) ∧
        t.wg.slot n = { Slot.free with
          st := .landing
          idx := p.blkidx.toNat
          lpn := p.pageno.toNat
          pstat := (p.pstat ||| 0x80).setWidth 16
          trap := p.trap
          park := some r
          reland := true
          bar := ⟨s.ln.ticket, 1, 0, 16384, 0, 1, (s.wg.slot n).bar.phase⟩ })

/-- A launch of which everything is over ends: its workgroups and jobs go, the frames that its gang owned are zeros and
released, and its command completes (01 R45, R46, 26 R354, 23 R317). -/
def Obligations.LaunchEnds : Prop :=
  ∀ s : State, s.ln.lid ≠ 0 → s.ln.st = .running → s.launchOver s.ln.lid = true →
    ∃ t, exec .launchEnd s = .next t ∧ t.ln.lid = s.ln.lid ∧ t.ln.st = .ended ∧
      (∀ w ∈ t.allWgs, w.lid = s.ln.lid → w.id = 0) ∧ (∀ j ∈ t.jobs, j.lid ≠ s.ln.lid) ∧
      (∀ e ∈ t.fit, ¬ (e.owned = true ∧ e.ticket = s.ln.ticket)) ∧
      (∀ e ∈ s.fit, e.owned = true → e.ticket = s.ln.ticket → ∀ i, i < 0x10000 → t.mem.get (e.dfn * 0x10000 + i) = 0) ∧
      (s.ln.mute = false → ∃ e ∈ t.dev.journal, e.kind = .complete ∧ e.lid = BitVec.ofNat 32 s.ln.lid ∧
        e.cstatus = (if s.ln.aborted then 3 else 0) ∧ e.record.isSome = true)
end

namespace Sys2Proof.Machine

/-- A running job of a kind may make its next step of n bytes: nothing stands before a byte that it reads or writes (01
R36, 24 R331). -/
structure State.JobMayStep (s : State) (j : Job) (l : Launch) (kind : BitVec 8) (n : Nat) (reads : List (Nat × Nat × Nat)) :
    Prop where
  job    : s.findJob j.id = some j
  launch : s.findLaunch j.lid = some l
  kind   : j.kind = kind
  engine : j.ofCard = true
  runs   : j.st = .running
  held   : s.jobHeld j.lid = false
  more   : 0 < n
  reads  : ∀ r ∈ reads, ∀ p ∈ j.readPieces r.1 r.2.1 r.2.2, s.readMeets j l p = .go
  writes : ∀ p ∈ j.writePieces j.pos n, s.writeMeets l p = .go

/-- Bytes stored at an offset of the workgroup in the focus for a job; no other byte of its scratchpad changes. -/
def State.JobStored (s t : State) (j : Job) (l : Launch) (off : Nat) (bs : List Byte) : Prop :=
  (∀ i, i < bs.length → t.wg.sp.get (off + i) =
    if s.wg.storable l.desc j.wgId (off + i) then (bs[i]?).getD 0 else s.wg.sp.get (off + i)) ∧
  ∀ a, a < off ∨ off + bs.length ≤ a → t.wg.sp.get a = s.wg.sp.get a

/-- The next bytes of a job's write region made: kept for the completion where it is global (08 R136), stored at once
where it lies in one run of the scratchpad in the focus. `k` is the job with what else the step changes of it. -/
def State.JobWrote (s t : State) (j k : Job) (l : Launch) (bs : List Byte) (last : Bool) : Prop :=
  ((j.region 4).kind ≠ 2 → t = { s with jobs := t.jobs } ∧
    t.findJob j.id = some { k with
      pos := j.pos + bs.length
      out := j.out ++ bs
      st := if last && decide (j.total ≤ j.pos + bs.length) then .stepped else .running }) ∧
  ((j.region 4).kind = 2 → ∀ va off, j.writePieces j.pos bs.length = [(va, s.wg.id, off, bs.length)] →
    t = { s with wg := { s.wg with sp := t.wg.sp }, jobs := t.jobs } ∧ s.JobStored t j l off bs ∧
    t.findJob j.id = some { k with
      pos := j.pos + bs.length
      st := if last && decide (j.total ≤ j.pos + bs.length) then .stepped else .running })

/-- The bytes of n elements of a GATHER from an index list, and how many lie beyond the table. -/
def Job.gatherBytes (j : Job) (n : Nat) : List Byte :=
  (j.elems n).flatMap fun i =>
    match j.gathered i with
    | some x => j.read 1 x j.elem
    | none => List.replicate j.elem 0

end Sys2Proof.Machine

namespace Sys2Proof.Machine

/-- In t, which follows s, a tenant is switched out: its working set is recorded, the accessed bits of its frames are clear, and its
functions are descheduled (07 R117, 24 R343 step 5, R344, 23 R329). -/
def State.SwitchedOut (s t : State) (b : Nat) : Prop :=
  (t.ctx b).presence = .away ∧ (t.ctx b).workset = s.accessed b ∧
    (∀ d e, s.fitOf d = some e → e.tenant = b → t.fitOf d = some { e with acc := false }) ∧
    ∀ fn x, s.func fn = some x → x.of b = true → x.run = .running → t.func fn = some { x with run := .descheduled }

end Sys2Proof.Machine

section
open Sys2Proof Sys2Proof.Machine

/-- A job whose predecessors are over and whose frames are resident starts, with its regions as they are then (08 R135,
R136); `COPY`, `FILL` and `GATHER` make the next bytes of their write regions (16 R275). -/
def Obligations.JobStepsCopy : Prop :=
  ∀ (s : State) (j : Job) (l : Launch) (n : Nat), s.Canonical →
    (s.findJob j.id = some j → s.findLaunch j.lid = some l → j.st = .waiting → j.ofCard = true → j.preds = [] →
      s.jobHeld j.lid = false → s.absentIn (j.reads ++ j.writes) = [] →
      ∃ t k, exec (.jobStart j.id) s = .next t ∧ t = { s with jobs := t.jobs } ∧ t.findJob j.id = some k ∧
        k = { j with st := .running, startMem := s.mem, startFlash := s.flashOf j.reads, startSp := k.startSp } ∧
        ∀ w x, w ∈ j.reads.map (·.1) → s.findWg w = some x →
          k.startSp.find? (fun y => y.1 == w) = some (w, x.image l.desc)) ∧
    (s.JobMayStep j l 0x01 n [(0, j.pos, n)] → n = min 4096 (j.total - j.pos) →
      ∃ t, exec (.copy j.id) s = .next t ∧ (s.readFrames j [(0, j.pos, n)]).JobWrote t j j l (j.read 0 j.pos n) true) ∧
    (s.JobMayStep j l 0x03 n [] → n = min 4096 (j.total - j.pos) →
      ∃ t, exec (.fill j.id) s = .next t ∧
        s.JobWrote t j j l ((List.range n).map fun i => field j.param (8 * ((j.pos + i) % 4)) 8) true) ∧
    (let reads := (0, 4 * (j.pos / j.elem), 4 * (n / j.elem)) ::
        (j.elems n).filterMap fun i => (j.gathered i).map fun x => (1, x, j.elem)
     s.JobMayStep j l 0x02 n reads → n = min 4096 (j.total - j.pos) →
      ∃ t k, exec (.gather j.id) s = .next t ∧ (s.readFrames j reads).JobWrote t j k l (j.gatherBytes n) true ∧
        k = { j with code := k.code, detail := k.detail } ∧
        (((j.elems n).all fun i => (j.gathered i).isSome) = true → k.code = j.code) ∧
        (((j.elems n).all fun i => (j.gathered i).isSome) = false → k.code = 3) ∧
        k.detail = min 0xFFFF (j.detail + ((j.elems n).filter fun i => (j.gathered i).isNone).length))

/-- `FLASH_READ` and `FLASH_WRITE` move whole pages (16 R275, 01 R27); `SEND` and `FETCH` move bytes to and from a peer (28
R376). -/
def Sys2Proof.Claims.JobStepsFlash : Prop :=
  ∀ (s : State) (j : Job) (l : Launch) (n : Nat), s.Canonical →
    (∀ (ok : Bool) (ns lpn : Nat), s.JobMayStep j l 0x04 n [] → n = min 0x4000 (j.total - j.pos) →
      ns = (j.region 0).nsid.toNat → lpn = (j.region 0).addr.toNat % 2 ^ 32 + j.pos / 0x4000 →
      ∃ t k, exec (.flashRead j.id ok) s = .next t ∧ k = { j with code := k.code, detail := k.detail } ∧
        (j.startFlash.find? (fun x => x.1 == lpn) = none → k = j ∧ s.JobWrote t j k l (List.replicate n 0) true) ∧
        (∀ m, j.startFlash.find? (fun x => x.1 == lpn) = some (lpn, m) →
          (ok = true → s.pageKeyed ns lpn = true → k = j ∧ s.JobWrote t j k l (m.bytes 0 n) true) ∧
          (ok = false ∨ s.pageKeyed ns lpn = false → s.JobWrote t j k l (List.replicate n 0) true ∧
            (j.code = 0 → k.code = 2 ∧ k.detail = j.pos / 0x4000) ∧ (j.code ≠ 0 → k = j)))) ∧
    (∀ lpn, s.JobMayStep j l 0x05 n [(0, j.pos, n)] → n = min 0x4000 (j.total - j.pos) → (j.region 4).kind = 3 →
      lpn = (j.region 4).addr.toNat % 2 ^ 32 + j.pos / 0x4000 →
      ∃ t, exec (.flashWrite j.id) s = .next t ∧
        t = { s.readFrames j [(0, j.pos, n)] with jobs := t.jobs, flash := t.flash, nss := t.nss } ∧
        t.pageWritten (j.region 4).nsid.toNat lpn = true ∧
        t.pageKeyed (j.region 4).nsid.toNat lpn = (s.nsKey (j.region 4).nsid.toNat).isSome ∧
        (∀ i, i < (j.read 0 j.pos n).length →
          (t.flashPage (j.region 4).nsid.toNat lpn).get i = ((j.read 0 j.pos n)[i]?).getD 0) ∧
        (∀ ns p, (ns, p) ≠ ((j.region 4).nsid.toNat, lpn) →
          t.flashPage ns p = s.flashPage ns p ∧ t.pageWritten ns p = s.pageWritten ns p ∧
            t.pageKeyed ns p = s.pageKeyed ns p) ∧
        ∃ k, t.findJob j.id = some k ∧ k.pos = j.pos + (j.read 0 j.pos n).length) ∧
    (s.JobMayStep j l 0x07 n [(0, j.pos, n)] → n = min 4096 (j.total - j.pos) →
      ∃ t, exec (.send j.id) s = .next t ∧ (s.readFrames j [(0, j.pos, n)]).JobWrote t j j l (j.read 0 j.pos n) false) ∧
    (s.JobMayStep j l 0x08 n [] → n = min 4096 (j.total - j.pos) → j.total ≤ j.out.length →
      ∃ t, exec (.fetch j.id) s = .next t ∧
        t.findJob j.id = some { j with pos := j.pos + n, st := if j.total ≤ j.pos + n then .stepped else .running } ∧
        ((j.region 4).kind ≠ 2 → t = { s with jobs := t.jobs }) ∧
        ((j.region 4).kind = 2 → ∀ va off, j.writePieces j.pos n = [(va, s.wg.id, off, n)] →
          t = { s with wg := { s.wg with sp := t.wg.sp }, jobs := t.jobs } ∧
            s.JobStored t j l off ((j.out.drop j.pos).take n)))

/-- `CIPHER_IN` (26 R365): the buffer deciphered in one step, or, where the tag fails, CODE 1, the tenant's count, and no
byte written; a VF that has left RUN ends the job (R369). -/
def Sys2Proof.Claims.CipherIn : Prop :=
  ∀ (s : State) (j : Job) (l : Launch) (key : BitVec 256), j.pos = 0 →
    s.JobMayStep j l 0x06 j.total [(0, 0, j.total), (1, 0, 16)] →
    let read := s.readFrames j [(0, 0, j.total), (1, 0, 16)]
    (s.vfRun l.func = false → exec (.cipherIn j.id) s = .next (read.dropJob j)) ∧
    (s.vfRun l.func = true → l.cmd.tenant < 16 →
      ((s.ctx l.cmd.tenant).vault.find? fun k => k.slot == bitsN j.param.toNat 15 8).map (·.key) = some key →
      (∀ p, gcmDecrypt key (beBytes 12 j.iv.toNat) (j.read 0 0 j.total) (j.read 1 0 16) = some p →
        ∃ t, exec (.cipherIn j.id) s = .next t ∧ read.JobWrote t j j l p true) ∧
      (gcmDecrypt key (beBytes 12 j.iv.toNat) (j.read 0 0 j.total) (j.read 1 0 16) = none →
        ∃ t, exec (.cipherIn j.id) s = .next t ∧ t = { read with jobs := t.jobs, ctxs := t.ctxs } ∧
          t.findJob j.id = some { j with pos := j.total, code := 1, st := .stepped } ∧
          (t.ctx l.cmd.tenant).err.tagf = satInc (s.ctx l.cmd.tenant).err.tagf))

/-- A job that has made every byte completes, its tenant switched out or not: its global bytes are published, its status word stands
where the card says, its barrier takes one arrival with the bytes, or the arrival log where the workgroup is out, and the job is no
more (16 R277, 08 R133, R136, 24 R344). -/
def Sys2Proof.Claims.JobCompletes : Prop :=
  ∀ (s : State) (j : Job) (l : Launch), s.Canonical → s.findJob j.id = some j → s.findLaunch j.lid = some l →
    j.st = .stepped → j.ofCard = true → l.deadlock = false → l.next < l.desc.count →
    ∃ t, exec (.jobComplete j.id) s = .next t ∧ (∀ k ∈ t.jobs, k.id ≠ j.id ∧ j.id ∉ k.preds) ∧
      (∀ va da, j.cred = false → j.writePieces 0 j.out.length = [(va, memSpace, da, j.out.length)] → j.out.length ≤ 0x10000 →
        t.mem.bytes da j.out.length = j.out ∧
        ∀ a, ¬ s.Shows da j.out.length a → t.mem.get a = s.mem.get a) ∧
      (j.cred = false → j.out = [] → t.mem = s.mem) ∧
      (j.cred = false → j.stat ≠ 0xFFFFFFFF → s.wg.id ≠ 0 → j.wgId = s.wg.id →
        (∀ i, i < 4 → s.wg.storable l.desc s.wg.id (j.stat.toNat % 0x80000 + i) = true) →
        t.wg.sp.readLE (j.stat.toNat % 0x80000) 4 = j.detail % 2 ^ 16 * 2 ^ 16 + j.code.toNat ∧
          ∀ a, a < j.stat.toNat % 0x80000 ∨ j.stat.toNat % 0x80000 + 4 ≤ a → t.wg.sp.get a = s.wg.sp.get a) ∧
      (j.cred = true → j.stat = 0xFFFFFFFF → s.wg.id ≠ 0 → j.wgId = s.wg.id → isRemote j.credbar = false →
        s.wg.place = .resident → s.wg.devBar l.desc (j.credbar.toNat % 0x80000) = none →
        Barrier.Takes (s.wg.softBar (j.credbar.toNat % 0x80000)) l.ticket 1 j.total →
        Barrier.Arrived (s.wg.softBar (j.credbar.toNat % 0x80000)) (t.wg.softBar (j.credbar.toNat % 0x80000)) 1 j.total) ∧
      (j.cred = true → j.stat = 0xFFFFFFFF → s.wg.id ≠ 0 → j.wgId = s.wg.id → isRemote j.credbar = false →
        s.wg.place ≠ .resident → s.wg.devBar l.desc (j.credbar.toNat % 0x80000) = none →
        Barrier.Takes (s.wg.softBar (j.credbar.toNat % 0x80000)) l.ticket
          ((s.wg.logged (j.credbar.toNat % 0x80000)).arrivals + 1) ((s.wg.logged (j.credbar.toNat % 0x80000)).bytes + j.total) →
        t.wg.sp = s.wg.sp ∧
          (t.wg.logged (j.credbar.toNat % 0x80000)).arrivals = (s.wg.logged (j.credbar.toNat % 0x80000)).arrivals + 1 ∧
          (t.wg.logged (j.credbar.toNat % 0x80000)).bytes = (s.wg.logged (j.credbar.toNat % 0x80000)).bytes + j.total)

/-- A peer's answer ends a `SEND`, brings the bytes of a `FETCH`, or leaves CODE 4 and writes nothing; bytes that a peer
sends here are written where the local tenant's checks let them (28 R376). -/
def Sys2Proof.Claims.PeerTransfers : Prop :=
  ∀ (s : State) (ok : Bool) (data : List Byte),
    (∀ j : Job, s.findJob j.id = some j → j.st = .running → j.ofCard = true →
      (j.kind = 0x07 → j.pos = j.total → ok = true → s.dev.links ≠ 0 →
        ∃ t, exec (.peerTransfer j.id ok data) s = .next t ∧ t = { s with jobs := t.jobs } ∧
          t.findJob j.id = some { j with st := .stepped, out := [] }) ∧
      (j.kind = 0x08 → j.out = [] → ok = true → s.dev.links ≠ 0 →
        ∃ t, exec (.peerTransfer j.id ok data) s = .next t ∧ t = { s with jobs := t.jobs } ∧
          t.findJob j.id = some { j with out := (data ++ List.replicate j.total 0).take j.total }) ∧
      ((j.kind = 0x07 ∨ (j.kind = 0x08 ∧ j.out = [])) → (ok = false ∨ s.dev.links = 0) →
        ∃ t, exec (.peerTransfer j.id ok data) s = .next t ∧ t = { s with jobs := t.jobs } ∧
          t.findJob j.id = some { j with st := .stepped, code := 4, out := [] })) ∧
    (∀ (x : Transfer) loc da, s.Canonical → s.findJob x.id = none → s.dev.transfers.find? (fun y => y.id == x.id) = some x →
      s.peerTenant x.device x.tenant = some loc → x.send = true → x.len = x.data.length → 0 < x.len →
      frameRanges (fun va => s.reachVa loc 0 va true) (frameFuel x.len) x.va.toNat x.len = .ok [(memSpace, da, x.len)] →
      s.absentIn [(memSpace, da, x.len)] = [] →
      ∃ t, exec (.peerTransfer x.id true data) s = .next t ∧ t.mem.bytes da x.len = x.data ∧
        (∀ a, ¬ s.Shows da x.len a → t.mem.get a = s.mem.get a) ∧ ∀ y ∈ t.dev.transfers, y.id ≠ x.id)

/-- A record's pending delta is added to its parent's count in one step, once none deeper is pending, and no other record changes (10
R149). -/
def Sys2Proof.Claims.RollupAddsDelta : Prop :=
  ∀ (s : State) (r p : TreeRec), s.TreeIndexed → r ∈ s.tree → r.kind ≠ .free → p ∈ s.tree → p.kind ≠ .free →
    r.parent = p.handle → r.parent ≠ 0 → p.index ≠ r.index →
    (s.deeperPending r = true → exec (.rollup r.index) s = .next s) ∧
    (s.deeperPending r = false → ∃ t, exec (.rollup r.index) s = .next t ∧ t = { s with tree := t.tree } ∧
      { r with sent := r.count } ∈ t.tree ∧
      { p with count := satCount p.count (r.count - r.sent).toNat } ∈ t.tree ∧
      ∀ x ∈ s.tree, x.index ≠ r.index → x.index ≠ p.index → x ∈ t.tree)

/-- The oldest settle of the workgroup is over once no record of the tenant has a pending delta, and makes one
arrival at its barrier (10 R149, R151). -/
def Sys2Proof.Claims.SettleDrains : Prop :=
  ∀ (s : State) (x : Settle) (xs : List Settle), s.Canonical → s.TreeIndexed → s.wg.settles = x :: xs →
    s.wg.place = .resident → s.wg.devBar s.ln.desc (x.bar.toNat % 0x80000) = none →
    Barrier.Takes (s.wg.softBar (x.bar.toNat % 0x80000)) s.ln.ticket 1 0 →
    (∀ r ∈ s.tree, r.depth ≤ 15) →
    (∀ r ∈ s.tree, ∀ p ∈ s.tree, r.kind ≠ .free → p.kind ≠ .free → r.parent ≠ 0 → r.parent = p.handle → p.depth < r.depth) →
    ∃ t, exec .settleComplete s = .next t ∧
      t = { s with wg := { s.wg with sp := t.wg.sp, settles := xs }, tree := t.tree } ∧
      Barrier.Arrived (s.wg.softBar (x.bar.toNat % 0x80000)) (t.wg.softBar (x.bar.toNat % 0x80000)) 1 0 ∧
      (∀ a, a < x.bar.toNat % 0x80000 ∨ x.bar.toNat % 0x80000 + 16 ≤ a → t.wg.sp.get a = s.wg.sp.get a) ∧
      ∀ r ∈ t.tree, r.tenant = s.tenant → r.kind ≠ .free → r.count = r.sent

/-- A residency request of the group in the focus completes with the status of 07 R111, counted in RSTAT (16 R265), and a
frame that was missing stands in tier A. -/
def Sys2Proof.Claims.ResidencyCompletes : Prop :=
  ∀ (s : State) (q : ResReq), s.Focused → s.resreqs.find? (fun x => x.id == q.id) = some q → q.wgId = s.wg.id →
    q.gid = s.g.gid → s.g.gid < 16 → q.bar = none → q.flight = none →
    (q.bad = true → ∃ t, exec (.resideComplete q.id) s = .next t ∧ t = { s with resreqs := t.resreqs, g := t.g } ∧
      (∀ x ∈ t.resreqs, x.id ≠ q.id) ∧ t.g = { s.g with rstat := rstatDone s.g.rstat ResStatus.translation.code }) ∧
    (q.bad = false → (∃ e ∈ q.frames.filterMap s.fitOf, e.st = .poisoned) →
      ∃ t, exec (.resideComplete q.id) s = .next t ∧ t = { s with resreqs := t.resreqs, g := t.g } ∧
        (∀ x ∈ t.resreqs, x.id ≠ q.id) ∧ t.g = { s.g with rstat := rstatDone s.g.rstat ResStatus.poisoned.code }) ∧
    (q.bad = false → (∀ e ∈ q.frames.filterMap s.fitOf, e.st ≠ .poisoned ∧ e.isUp = true) →
      ∃ t, exec (.resideComplete q.id) s = .next t ∧ t = { s with resreqs := t.resreqs, g := t.g } ∧
        (∀ x ∈ t.resreqs, x.id ≠ q.id) ∧ t.g = { s.g with rstat := rstatDone s.g.rstat ResStatus.done.code }) ∧
    (∀ (e : FitEntry) (n : Nat), q.bad = false → q.frames.filterMap s.fitOf = [e] → e.st = .absent → e.evicted = false →
      s.freeIn .a = some n → (s.usedIn .a).length < Config.tierAFrames →
      ∃ t, exec (.resideComplete q.id) s = .next t ∧ t = { s with resreqs := t.resreqs, g := t.g, fit := t.fit } ∧
        t.fitOf e.dfn = some { e with
          st := .resident
          tier := .a
          loc := BitVec.ofNat 48 n
          lower := e.tier == .b || e.tier == .backing
          lowTier := e.tier
          lowLoc := e.loc
          dirty := false
          evicted := false } ∧
        t.g = { s.g with rstat := rstatDone s.g.rstat ResStatus.done.code })

/-- Frames move: up to a free place of tier A, where the place they leave keeps a copy and the count recorded at the move down, down or away only from contexts that do not run and
out of no area of a running launch, to the host with VERSION raised, and back, where a protected frame whose tag fails is
poisoned and counted (07 R109, R112, R117, 01 R17). That a frame which returns takes a place in tier A, poisoned or not, is the model's
reading (DEDUCED, log 52). -/
def Sys2Proof.Claims.FramesMove : Prop :=
  ∀ (s : State) (e : FitEntry) (loc : BitVec 48), s.fitOf e.dfn = some e → e.tier ≠ .c → e.st ≠ .poisoned →
    let up := fun (n : BitVec 48) => { e with
      st := .resident, tier := .a, loc := n, dirty := false, evicted := false
      lower := e.tier == .b || (e.tier == .backing && !e.evicted), lowTier := e.tier, lowLoc := e.loc }
    let away := fun (host : Bool) => { e with
      st := .absent, tier := .backing, loc := loc, version := e.version + 1, lower := false, dirty := false
      evicted := host, lowCount := s.tileCount e }
    (e.evicted = false → loc.toNat ∉ s.usedIn .a → loc.toNat < Config.tierAFrames → e.tier ≠ .a →
      ∃ t, exec (.frameMigration e.dfn .a loc) s = .next t ∧ t = { s with fit := t.fit } ∧ t.fitOf e.dfn = some (up loc) ∧
        ∀ d, d ≠ e.dfn → t.fitOf d = (s.vacate .a loc.toNat).fitOf d) ∧
    (e.evicted = false → e.st = .resident → s.tenantRuns e.tenant = false → loc.toNat ∉ s.usedIn .backing →
      (s.pinned e.tenant e.dfn = false →
        ∃ t, exec (.frameMigration e.dfn .backing loc) s = .next t ∧ t = { s with fit := t.fit } ∧
          t.fitOf e.dfn = some (away false) ∧ ∀ d, d ≠ e.dfn → t.fitOf d = (s.vacate .backing loc.toNat).fitOf d) ∧
      (s.pinned e.tenant e.dfn = true → exec (.frameMigration e.dfn .backing loc) s = .next s)) ∧
    (e.evicted = false → s.tenantRuns e.tenant = true ∨ s.pinned e.tenant e.dfn = true →
      exec (.frameEviction e.dfn loc) s = .next s) ∧
    (e.evicted = false → s.tenantRuns e.tenant = false → s.pinned e.tenant e.dfn = false →
      ∃ t, exec (.frameEviction e.dfn loc) s = .next t ∧ t = { s with fit := t.fit } ∧
        t.fitOf e.dfn = some (away true) ∧ ∀ d, d ≠ e.dfn → t.fitOf d = s.fitOf d) ∧
    (∀ (tagOk : Bool) (n : Nat), e.evicted = true → e.st = .absent → (tagOk = true ∨ e.prot = false) →
      s.freeIn .a = some n →
      ∃ t, exec (.frameReturn e.dfn tagOk) s = .next t ∧ t = { s with fit := t.fit } ∧
        t.fitOf e.dfn = some (up (BitVec.ofNat 48 n)) ∧ ∀ d, d ≠ e.dfn → t.fitOf d = (s.vacate .a n).fitOf d) ∧
    (∀ n : Nat, e.evicted = true → e.st = .absent → e.prot = true → e.tenant < 16 → (∀ q ∈ s.resreqs, e.dfn ∉ q.frames) →
      s.freeIn .a = some n →
      ∃ t, exec (.frameReturn e.dfn false) s = .next t ∧
        (∃ e', t.fitOf e.dfn = some e' ∧ e'.st = .poisoned ∧ e'.integ = true ∧ e'.evicted = false ∧ e'.tier = .a ∧
          e'.loc = BitVec.ofNat 48 n ∧ e'.lower = false) ∧
        (t.ctx e.tenant).err.poison = satInc (s.ctx e.tenant).err.poison ∧
        (t.ctx e.tenant).err.integ = satInc (s.ctx e.tenant).err.integ ∧ t.mem = s.mem)

/-- A heartbeat tick is 128 cycles of aclk, once nothing is due (08 R134); at a period boundary the table marked ready is taken, or the old
one kept and counted (23 R319, R320); a slice start switches out the tenants that have nothing left on a core and no hall (24 R343, R344;
when it does so is the model's reading, DEDUCED, log 44); a slice gives each hall to its primary, its borrower, or nobody, and a borrower's DEBT rises by its
halls (23 R321); a hall taken back stays with nobody until it is scrubbed (24 R345). -/
def Sys2Proof.Claims.TimeAndSlices : Prop :=
  ∀ s : State,
    (s.due = none → ∃ t, exec .heartbeatTick s = .next t ∧
      t = { s with dev := { s.dev with tick := s.dev.tick + 1, time := t.dev.time, frac := t.dev.frac } } ∧
      t.dev.time = s.dev.time + BitVec.ofNat 64 ((s.dev.frac + 128000) / s.dev.mhz) ∧
      t.dev.frac = (s.dev.frac + 128000) % s.dev.mhz) ∧
    (s.due ≠ none → exec .heartbeatTick s = .next s) ∧
    (s.dev.periodDue = true →
      let regions := s.ctxs.map fun c => { c with asked := c.region }
      let d := { s.dev with period := s.dev.time.toNat / 100000, slice := 0 }
      (s.dev.marked = true → exec .periodBoundary s = .next { s with
        ctxs := regions, dev := { d with grants := s.dev.spareTable, spareTable := s.dev.grants, marked := false } }) ∧
      (s.dev.marked = false → exec .periodBoundary s = .next { s with ctxs := regions, dev := { d with stale := s.dev.stale + 1 } })) ∧
    (s.dev.time.toNat / 100000 ≤ s.dev.period → exec .periodBoundary s = .next s) ∧
    ((4 ≤ s.dev.slice ∨ s.dev.time.toNat < 100000 * s.dev.period + 25000 * s.dev.slice) → exec .sliceStart s = .next s) ∧
    (s.dev.slice < 4 → 100000 * s.dev.period + 25000 * s.dev.slice ≤ s.dev.time.toNat → ∃ t, exec .sliceStart s = .next t ∧
      t = { s with
        ctxs := t.ctxs, fit := t.fit, funcs := t.funcs
        dev := { s.dev with slice := s.dev.slice + 1, hallRun := t.dev.hallRun, hallBorrow := t.dev.hallBorrow } } ∧
      (∀ b, b < 16 → (s.ctx b).presence = .here → (∀ w ∈ s.wgsOf b, w.place ≠ .resident) → (∀ k ∈ s.allCores, k.stopFor ≠ some b) →
        (∀ h < 32, vget t.dev.hallRun h none ≠ some b) → s.SwitchedOut t b) ∧
      (∀ b, b < 16 → ((s.ctx b).presence ≠ .here ∨ (∃ w ∈ s.wgsOf b, w.place = .resident) ∨ (∃ k ∈ s.allCores, k.stopFor = some b) ∨
        ∃ h < 32, vget t.dev.hallRun h none = some b) → t.ctx b = { s.ctx b with debt := (t.ctx b).debt } ∧
          ∀ d e, s.fitOf d = some e → e.tenant = b → t.fitOf d = some e) ∧
      (∀ h, h < 32 →
        let e := s.grantAt h s.dev.slice
        let wants := fun (b : Nat) => s.residentOn h b || s.placeableOn h b
        ((e.v = false ∨ vget s.dev.revoked h false = true) → vget t.dev.hallRun h none = none) ∧
        (e.v = true → vget s.dev.revoked h false = false →
          (wants e.prim = true → vget t.dev.hallRun h none = some e.prim ∧ vget t.dev.hallBorrow h false = false) ∧
          (wants e.prim = false → e.bv = true → wants e.borr = true →
            vget t.dev.hallRun h none = some e.borr ∧ vget t.dev.hallBorrow h false = true) ∧
          (wants e.prim = false → (e.bv = false ∨ wants e.borr = false) → vget t.dev.hallRun h none = none))) ∧
      ∀ b, b < 16 → (t.ctx b).debt =
        (s.ctx b).debt + ((List.range 32).filter fun h => s.decide_ h s.dev.slice == (some b, true)).length)

/-- A packet whose time has come is released into its queue with the command of its template, and a periodic one takes the
time after; at a queue that is not enabled the release is skipped and journalled (23 R328). -/
def Sys2Proof.Claims.TimerReleases : Prop :=
  ∀ (s : State) (p : Timer) (x : Queue), s.dev.timers.find? (fun y => y.tenant == p.tenant && y.num == p.num) = some p →
    p.time.toNat ≤ s.dev.time.toNat → ((s.func p.func).any fun f => f.run == .paused) = false → s.dev.pstate ≠ .d3hot →
    s.queueOf p.tenant p.queue = some x →
    (∀ bs, x.en = true → s.span p.tenant p.tmpl 96 false true = .ok bs →
      ((pagesOf p.tmpl 96).any fun a => (s.walk p.tenant a).any fun w => (s.fitOf w.1).any fun e => e.owned) = false →
      ∃ t k, exec (.timerRelease p.tenant p.num) s = .next t ∧
        t.queueOf p.tenant p.queue = some { x with cmds := x.cmds ++ [k] } ∧ k.words = dwords (bs.take 64) ∧
        k.ref.tenant = p.tenant ∧ k.ref.queue = p.queue ∧ k.ref.timer = some (p.num, p.tmpl) ∧
        (p.period = 0 → ∀ y ∈ t.dev.timers, ¬ (y.tenant = p.tenant ∧ y.num = p.num)) ∧
        (p.period ≠ 0 → ∃ y ∈ t.dev.timers, y.tenant = p.tenant ∧ y.num = p.num ∧
          y.time = BitVec.ofNat 64 (p.time.toNat +
            ((s.dev.time.toNat - p.time.toNat) / p.period.toNat + 1) * p.period.toNat))) ∧
    (x.en = false → ∃ t, exec (.timerRelease p.tenant p.num) s = .next t ∧ t.queues = s.queues ∧
      (∃ e ∈ t.dev.journal, e.kind = .release ∧ e.cstatus = 6 ∧ e.tenant = p.tenant ∧ e.queue = p.queue) ∧
      (p.period = 0 → ∀ y ∈ t.dev.timers, ¬ (y.tenant = p.tenant ∧ y.num = p.num)))

end

namespace Sys2Proof.Machine

/-- No sequencer's word waits for jobs before it. -/
def State.NoWordWaits (s : State) : Prop := ∀ w ∈ s.allWgs, ∀ j, w.seq.job.bind s.findJob = some j → j.st ≠ .waiting

end Sys2Proof.Machine

section
open Sys2Proof Sys2Proof.Machine

/-- A gang whose halls are not all granted is asked to stop; its core halts once every group has stopped, or is forced to,
with the launch cancelled and counted (24 R339, R340, 23 R322, R323). For which launch a hall is taken back is the model's choice (DESIGN
CHOICE, log 102). -/
def Obligations.StopsAndHalts : Prop :=
  ∀ s : State, s.Focused →
    (∀ hall, s.ln.st = .running → (∃ c ∈ s.ln.cores, hallOf c = hall) → s.granted s.ln = false → s.wg.place = .resident →
      s.wg.stop = false → s.g.st = .running →
      ∃ t, exec (.stopRequest hall) s = .next t ∧ t.wg.stop = true ∧ t.g.stop = true ∧ t.core.stopFor.isSome = true ∧
        t.core.halted = s.core.halted ∧ t.g.pc = s.g.pc ∧ t.g.s = s.g.s ∧ t.g.v = s.g.v ∧ (s.NoWordWaits → t.ln = s.ln)) ∧
    (s.core.stopFor.isSome = true → s.core.halted = false → (∀ w ∈ s.stopping s.core.id, s.wgQuiet w = true) →
      exec (.coreHalt s.core.id) s = .next { s with core := { s.core with halted := true } }) ∧
    (s.core.stopFor.isSome = true → s.core.halted = false → s.wg.place = .resident → s.wg.stop = true →
      s.g.st = .running → s.ln.st = .running → s.ln.aborted = false → s.tenant < 16 →
      (∀ w ∈ s.stopping s.core.id, s.wgQuiet w = false → w.lid = s.ln.lid) →
      ∃ t, exec (.stopTimeout s.core.id) s = .next t ∧ t.core.halted = true ∧ t.g.st = .ended ∧ t.ln.aborted = true ∧
        (t.ctx s.tenant).err.stopto = satInc (s.ctx s.tenant).err.stopto) ∧
    (∀ hall p b, s.marginOf hall = some p → vget s.dev.hallRun hall none = some b → (s.ctx b).part ≠ p →
      (s.launchFor p fun l => s.launchNeeds l hall).isSome = true → s.ln.st = .running → (∃ c ∈ s.ln.cores, hallOf c = hall) → s.wg.place = .resident →
      s.wg.stop = false → s.g.st = .running →
      ∃ t, exec (.hallRevocation hall) s = .next t ∧ vget t.dev.hallRun hall none = none ∧
        vget t.dev.revoked hall false = true ∧ t.wg.stop = true ∧
        t.g.stop = true ∧ t.core.stopFor.isSome = true ∧
        ∃ l ∈ s.launches, l.st = .waiting ∧ (s.ctx l.cmd.tenant).part = p ∧ vget t.dev.takenFor hall 0 = l.lid)

/-- Images leave and enter a halted core: the stopped workgroup goes to the shadow with its registers unbound and
unchanged, is saved and staged, and comes back with its registers bound and its groups running (24 R341 to R344); a
margin hall that every image has left is scrubbed and given to the launch that it was taken back for (24 R345, 23 R323; DESIGN CHOICE, log
102); a tenant whose work has ended, stopped or before that, is switched out all the same (24 R343 step 5, R344). Staging for the
tenant that the hall runs or comes to, and for no other, is the model's choice (DESIGN CHOICE, log 64), and so is that
an image enters a core with no stop request (DEDUCED, log 44). -/
def Obligations.ImagesExchange : Prop :=
  ∀ s : State, s.Focused →
    (s.stopping s.core.id = [s.wg] → s.granted s.ln = false → s.core.halted = true → s.core.shadow = none →
      vget s.dev.hallRun (hallOf s.core.id) none = none →
      ∃ t, exec (.shadowExchange s.core.id) s = .next t ∧ t.wg = { s.wg with place := .shadow } ∧
        t.g = { s.g with v := t.g.v } ∧ (∀ n, n < 128 → t.g.vreg n = { s.g.vreg n with phys := none }) ∧
        t.core = { s.core with halted := false, stopFor := none, shadow := some s.tenant, excess := s.beyond [s.wg] } ∧ t.mem = s.mem) ∧
    (s.wg.coreId = s.core.id → s.wg.place = .shadow →
      ∃ t, exec (.imageSave s.core.id) s = .next t ∧ t.wg = { s.wg with place := .saved } ∧ t.core = { s.core with shadow := none, excess := 0 } ∧
        t.g = s.g) ∧
    (s.wg.place = .saved → s.core.shadow = none →
      (vget s.dev.hallRun (hallOf s.core.id) none = some s.tenant ∨ s.nextTenant (hallOf s.core.id) = some s.tenant) →
      ∃ t, exec (.imageStage s.core.id s.tenant) s = .next t ∧ t.wg = { s.wg with place := .shadow } ∧
        t.core = { s.core with shadow := some s.tenant, excess := t.core.excess } ∧ t.g = s.g) ∧
    (vget s.dev.hallRun (hallOf s.core.id) none ≠ some s.tenant → s.nextTenant (hallOf s.core.id) ≠ some s.tenant →
      exec (.imageStage s.core.id s.tenant) s = .next s) ∧
    (s.stopping s.core.id = [] → s.core.stopFor = none → s.imagesOf s.core.id s.tenant = [s.wg] → s.granted s.ln = true →
      s.core.shadow = some s.tenant → vget s.dev.hallRun (hallOf s.core.id) none = some s.tenant → s.g.st = .stopped →
      ∃ t, exec (.shadowExchange s.core.id) s = .next t ∧ t.wg.place = .resident ∧ t.wg.stop = false ∧ t.wg.arrLog = [] ∧
        t.g = { s.g with v := t.g.v, st := .running, stop := false, laneStop := false } ∧
        (∀ n, n < 128 → t.g.vreg n = { s.g.vreg n with phys := (t.g.vreg n).phys } ∧
          ((s.g.vreg n).live ≠ 0 → (s.g.vreg n).spilled = false → (t.g.vreg n).phys.isSome = true)) ∧
        t.core.shadow = none ∧ t.core.halted = false ∧ t.core.view = s.core.view ∧ t.core.snap = s.core.snap) ∧
    (∀ hall, vget s.dev.revoked hall false = false → exec (.hallScrub hall) s = .next s) ∧
    (∀ hall p, hall < 32 → s.marginOf hall = some p → vget s.dev.revoked hall false = true → hallOf s.core.id = hall →
      (∀ w ∈ s.allWgs, w.id ≠ 0 → hallOf w.coreId = hall → w.place = .saved) →
      (∀ k ∈ s.allCores, hallOf k.id = hall → k.shadow = none ∧ k.stopFor = none) →
      ∃ t, exec (.hallScrub hall) s = .next t ∧
        vget t.dev.hallRun hall none = s.takerOf p hall ∧
        (∀ l, s.launches.find? (fun x => x.lid == vget s.dev.takenFor hall 0 && x.st == .waiting) = some l →
          vget t.dev.hallRun hall none = some l.cmd.tenant) ∧
        vget t.dev.revoked hall false = false ∧ t.core = { s.core with halted := false, excess := 0 } ∧ t.mem = s.mem) ∧
    (∀ o, o < 16 → s.stopping s.core.id = [] → s.core.halted = true →
      vget s.dev.hallRun (hallOf s.core.id) none = none → s.tenantIn o = false → (∀ k ∈ s.cores, k.stopFor ≠ some o) →
      (s.core.stopFor = some o ∨ (s.ctx o).presence = .here ∧ ∀ h < 32, vget s.dev.hallRun h none ≠ some o) →
      ∃ t, exec (.shadowExchange s.core.id) s = .next t ∧ t.core = { s.core with halted := false, stopFor := none } ∧ s.SwitchedOut t o)

/-- A waiting launch, offered in its turn, whose threshold is met begins on its cores with every group at its entry and all registers as at a
start, or is rejected where its areas fail; none of a paused tenant does (23 R324, R325, 01 R14, R17, 03 R50, 28 R375); a tenant that was
switched out is back with it (24 R343 step 5, R344; DEDUCED, log 44); interrupts are
sent, kept while the function does not run, or dropped after a reset (23 R329). That one of a bound function of a protected context without
an IDE stream is dropped is the model's reading, as 26 R351 does not say what becomes of it (DEDUCED, log 88). -/
def Obligations.AdmissionAndInterrupts : Prop :=
  ∀ s : State,
    (s.ln.lid ≠ 0 → s.offered s.ln.cmd.tenant ≠ some s.ln.lid → exec (.admission s.ln.lid) s = .next s) ∧
    (s.ln.lid ≠ 0 → s.pausedTenant s.ln.cmd.tenant = true → exec (.admission s.ln.lid) s = .next s) ∧
    (∀ cs, s.ln.lid ≠ 0 → s.ln.st = .waiting → s.dev.ready = true → s.pausedTenant s.ln.cmd.tenant = false →
      s.offered s.ln.cmd.tenant = some s.ln.lid →
      s.thresholdMet s.ln = true → s.coReady s.ln = true → s.placement s.ln = some cs →
      (s.areasOk s.ln = true →
        ∃ t, exec (.admission s.ln.lid) s = .next t ∧ t.ln = { s.ln with st := .running, cores := cs } ∧ t.mem = s.mem ∧
          ((s.ctx s.ln.cmd.tenant).presence = .here → t.funcs = s.funcs ∧ t.resreqs = s.resreqs) ∧
          (s.ln.cmd.tenant < 16 → (t.ctx s.ln.cmd.tenant).presence = .here ∧
            ((s.ctx s.ln.cmd.tenant).presence ≠ .here → ∀ fn x, s.func fn = some x → x.of s.ln.cmd.tenant = true →
              x.run = .descheduled → t.func fn = some { x with run := .running })) ∧
          ∀ k c, cs[k]? = some c → ∃ w ∈ t.wgs, w.lid = s.ln.lid ∧ w.k = k ∧ w.coreId = c ∧ w.place = .resident ∧
            w.slots = Vector.replicate 8 Slot.free ∧ w.parked.length = s.ln.desc.parkrec ∧
            ∀ i, i < s.ln.desc.ngroups → ∃ g ∈ t.groups, g.wgId = w.id ∧ g.gid = i ∧ g.st = .running ∧
              g.pc = s.ln.desc.entry ∧ g.s = Vector.replicate 48 0 ∧ g.v = Vector.replicate 128 VReg.unmapped ∧
              g.hentry = BitVec.ofNat 32 s.ln.desc.hentry ∧ g.holds = false) ∧
      (s.areasOk s.ln = false → ∃ t, exec (.admission s.ln.lid) s = .next t ∧ t.ln.st = .ended)) ∧
    (∀ fn f i is, s.func fn = some f → f.irqs = i :: is →
      (i.gen ≠ f.gen → exec (.interruptDelivery fn) s = .next (s.modFunc fn fun x => { x with irqs := is })) ∧
      (i.gen = f.gen → f.run = .running → f.bound = true → s.passes fn f.tenant = false →
        exec (.interruptDelivery fn) s = .next (s.modFunc fn fun x => { x with irqs := is })) ∧
      (i.gen = f.gen → f.run = .running → (f.bound = false ∨ s.passes fn f.tenant = true) →
        ∃ t, exec (.interruptDelivery fn) s = .next t ∧
        t = { s with funcs := t.funcs, dev := { s.dev with msgs := s.dev.msgs ++ [(fn, i.vec)] } } ∧
        t.func fn = some { f with irqs := is }) ∧
      (i.gen = f.gen → f.run ≠ .running → exec (.interruptDelivery fn) s = .next s))
end

namespace Sys2Proof.Machine

/-- The command c is the one that its queue carries out next (23 R312). -/
structure State.CmdReady (s : State) (c : CmdRef) (x : Queue) (k : Cmd) (ks : List Cmd) : Prop where
  queue : s.queueOf c.tenant c.queue = some x
  next  : x.cmds = k :: ks
  ref   : k.ref = c
  free  : x.busy = none

/-- The command has left its queue, and the last journal entry is its completion with a status (23 R316, R317). -/
def State.CmdDone (t : State) (c : CmdRef) (ks : List Cmd) (status : BitVec 8) : Prop :=
  (∃ y, t.queueOf c.tenant c.queue = some y ∧ y.cmds = ks) ∧
  ∃ e ∈ t.dev.journal, e.jseq = t.dev.jseq ∧ e.kind = .complete ∧ e.cstatus = status ∧ e.tenant = c.tenant ∧
    e.queue = c.queue ∧ e.rindex = c.rindex ∧ e.record.isSome = true

end Sys2Proof.Machine

section
open Sys2Proof Sys2Proof.Machine

/-- `LAUNCH` is rejected, or accepted: a waiting launch with the descriptor read, which its queue waits behind; of a VF in ERROR it ends
ABORTED (26 R361). `CANCEL` cancels a launch of the tenant alone, one that its queue has not come to among them; `DRAIN` waits for the queue's launches (23 R313, R318). -/
def Sys2Proof.Claims.LaunchCancelDrain : Prop :=
  ∀ (s : State) (c : CmdRef) (x : Queue) (k : Cmd) (ks : List Cmd), s.CmdReady c x k ks →
    (∀ va, s.inError x.func = true → c.tenant < 16 → ∃ t, exec (.launch c va) s = .next t ∧ t.launches = s.launches ∧
      (∃ y, t.queueOf c.tenant c.queue = some y ∧ y.cmds = ks.filter fun y => y.jseq != k.jseq) ∧
      (t.ctx c.tenant).err.dabort = satInc (s.ctx c.tenant).err.dabort ∧
      ∃ e ∈ t.dev.journal, e.jseq = t.dev.jseq ∧ e.kind = .complete ∧ e.cstatus = 3 ∧ e.record.isSome = true) ∧
    (∀ va, s.inError x.func = false → s.checkLaunch c.tenant va.toNat = .reject → ∃ t, exec (.launch c va) s = .next t ∧ t.CmdDone c ks 2 ∧
      t.launches = s.launches ∧ t.mem = s.mem) ∧
    (∀ va d sc lc mc, s.inError x.func = false → s.checkLaunch c.tenant va.toNat = .take d sc lc mc →
      ∃ t l, exec (.launch c va) s = .next t ∧ t.launches = s.launches ++ [l] ∧ l.st = .waiting ∧ l.desc = d ∧ l.cmd = c ∧
        l.lid = k.jseq % 2 ^ 32 ∧ l.func = x.func ∧ l.ticket = BitVec.ofNat 21 s.freeTicket ∧
        t.queueOf c.tenant c.queue = some { x with cmds := ks, busy := some (k.jseq % 2 ^ 32) } ∧ t.mem = s.mem) ∧
    (∀ lid : Word, s.ln.lid = lid.toNat → s.ln.lid ≠ 0 → s.ln.cmd.tenant = c.tenant → s.ln.st = .running →
      s.ln.aborted = false → ∃ t, exec (.cancel c lid) s = .next t ∧ t.CmdDone c ks 0 ∧ t.ln.aborted = true ∧
        ∀ j ∈ t.jobs, j.lid ≠ lid.toNat) ∧
    (∀ (lid : Word) (k' : Cmd), s.findLaunch lid.toNat = none → s.launchCmd c.tenant lid.toNat = some k' →
      ∃ t, exec (.cancel c lid) s = .next t ∧ (∃ e ∈ t.dev.journal, e.kind = .complete ∧ e.cstatus = 3 ∧ e.lid = lid ∧
          e.rindex = k'.ref.rindex ∧ s.dev.jseq < e.jseq) ∧
        ∃ e ∈ t.dev.journal, e.jseq = t.dev.jseq ∧ e.kind = .complete ∧ e.cstatus = 0 ∧ e.rindex = c.rindex) ∧
    (∀ lid : Word, (∀ l, s.findLaunch lid.toNat = some l → l.cmd.tenant ≠ c.tenant) →
      (s.findLaunch lid.toNat = none → s.launchCmd c.tenant lid.toNat = none) →
      ∃ t, exec (.cancel c lid) s = .next t ∧ t.CmdDone c ks 0 ∧ t = { s with queues := t.queues, dev := t.dev }) ∧
    (s.openLaunches c.tenant c.queue = [] → ∃ t, exec (.drain c) s = .next t ∧ t.CmdDone c ks 0 ∧
      t = { s with queues := t.queues, dev := t.dev }) ∧
    (s.openLaunches c.tenant c.queue ≠ [] → exec (.drain c) s = .next s)

/-- `ARM` adds a packet, `DISARM` removes one, each with its completion (23 R313, R327); `TINVAL` clears VALID of every
translation register whose run touches the range (07 R108, 14 R218). -/
def Sys2Proof.Claims.TimersAndTinval : Prop :=
  ∀ (s : State) (c : CmdRef) (x : Queue) (k : Cmd) (ks : List Cmd), s.CmdReady c x k ks →
    (∀ (va : DWord) bs, va.toNat % 32 = 0 → s.span c.tenant va.toNat 32 false true = .ok bs →
      (s.packet c.tenant va.toNat bs = none → ∃ t, exec (.arm c va) s = .next t ∧ t.CmdDone c ks 1 ∧
        t.dev.timers = s.dev.timers) ∧
      (∀ p, s.packet c.tenant va.toNat bs = some p → s.dev.timers.length < 8192 →
        (∀ y ∈ s.dev.timers, ¬ (y.tenant = c.tenant ∧ y.num = p.num)) →
        ∃ t, exec (.arm c va) s = .next t ∧ t.CmdDone c ks 0 ∧ t.dev.timers = s.dev.timers ++ [p]) ∧
      (∀ p, s.packet c.tenant va.toNat bs = some p → (∃ y ∈ s.dev.timers, y.tenant = c.tenant ∧ y.num = p.num) →
        ∃ t, exec (.arm c va) s = .next t ∧ t.CmdDone c ks 4 ∧ t.dev.timers = s.dev.timers)) ∧
    (∀ num : BitVec 13, ∃ t, exec (.disarm c num) s = .next t ∧ t.CmdDone c ks 0 ∧
      ∀ y, y ∈ t.dev.timers ↔ y ∈ s.dev.timers ∧ ¬ (y.tenant = c.tenant ∧ y.num = num.toNat)) ∧
    (∀ va len : DWord, s.Focused → s.tenant = c.tenant →
      ∃ t, exec (.tinval c va len) s = .next t ∧ t.CmdDone c ks 0 ∧ t.mem = s.mem ∧
        ∀ i, i < 8 → vget t.g.t i TReg.zero = { vget s.g.t i TReg.zero with valid := (vget t.g.t i TReg.zero).valid } ∧
          ((vget t.g.t i TReg.zero).valid = true ↔ (vget s.g.t i TReg.zero).valid = true ∧
            ¬ ∃ a b, a < (vget s.g.t i TReg.zero).limit.toNat ∧ b < len.toNat ∧
              ((vget s.g.t i TReg.zero).base.toNat + a) % 2 ^ 56 = (va.toNat + b) % 2 ^ 56))

/-- `MAP` gives a virtual frame a new frame of zeros, or the one that it had with new permissions, in its page-table entry,
and is refused without effect where it is MALFORMED or the quota is met; `UNMAP` clears the entry and frees a frame that
nothing maps any more (23 R315, 07 R104). -/
def Obligations.MapAndUnmap : Prop :=
  ∀ (s : State) (c : CmdRef) (x : Queue) (k : Cmd) (ks : List Cmd) (va len flags w4 : DWord), s.CmdReady c x k ks →
    s.Canonical →
    (s.mapBad c.tenant va.toNat len.toNat flags w4 = true → ∃ t, exec (.map c va len flags w4) s = .next t ∧
      t.CmdDone c ks 1 ∧ t = { s with queues := t.queues, dev := t.dev }) ∧
    (s.mapBad c.tenant va.toNat len.toNat flags w4 = false → flags.getLsbD 4 = false → flags.getLsbD 5 = false →
      (s.ctx c.tenant).frameq < s.framesOf c.tenant +
        ((offsetsOf len.toNat).filter fun o => (s.walk c.tenant (va.toNat + o)).isNone).length →
      ∃ t, exec (.map c va len flags w4) s = .next t ∧ t.CmdDone c ks 5 ∧ t = { s with queues := t.queues, dev := t.dev }) ∧
    (∀ d wr xx a, s.mapBad c.tenant va.toNat len.toNat flags w4 = false → len = 0x10000 → flags.getLsbD 4 = true →
      s.reachesArea c.tenant va.toNat len.toNat = false → s.framesOf c.tenant ≤ (s.ctx c.tenant).frameq →
      s.walk c.tenant va.toNat = some (d, wr, xx) → s.leafAddr c.tenant va.toNat = some a → d < 2 ^ 28 →
      ∃ t, exec (.map c va len flags w4) s = .next t ∧ t.CmdDone c ks 0 ∧
        t.mem.readLE a 8 = pteBits d (flags.getLsbD 0) (flags.getLsbD 1) ∧
        ∀ b, b < a ∨ a + 8 ≤ b → t.mem.get b = s.mem.get b) ∧
    (∀ s' d l1 l0, s.mapBad c.tenant va.toNat len.toNat flags w4 = false → len = 0x10000 → flags.toNat < 4 →
      s.framesOf c.tenant < (s.ctx c.tenant).frameq → s.walk c.tenant va.toNat = none →
      s.newFrame c.tenant (s.ctx c.tenant).prot false = some (s', d) →
      pteValid (s.mem.readLE (pteAddr (s.ctx c.tenant).root 2 va.toNat) 8) = true →
      l1 = bitsN (s.mem.readLE (pteAddr (s.ctx c.tenant).root 2 va.toNat) 8) 27 0 →
      pteValid (s.mem.readLE (pteAddr l1 1 va.toNat) 8) = true →
      l0 = bitsN (s.mem.readLE (pteAddr l1 1 va.toNat) 8) 27 0 →
      (s.fitOf (s.ctx c.tenant).root).isSome = true → (s.fitOf ((s.ctx c.tenant).root + 1)).isSome = true →
      (s.fitOf l1).isSome = true → (s.fitOf l0).isSome = true →
      ∃ t, exec (.map c va len flags w4) s = .next t ∧ t.CmdDone c ks 0 ∧ s.fitOf d = none ∧
        (∃ e, t.fitOf d = some e ∧ e.st = .resident ∧ e.tenant = c.tenant ∧ e.table = false ∧ e.owned = false) ∧
        t.mem.readLE (pteAddr l0 0 va.toNat) 8 = pteBits d (flags.getLsbD 0) (flags.getLsbD 1) ∧
        ∀ i, i < 0x10000 → t.mem.get (d * 0x10000 + i) = 0) ∧
    (rangeOk va.toNat len.toNat = false → ∃ t, exec (.unmap c va len) s = .next t ∧ t.CmdDone c ks 1 ∧
      t = { s with queues := t.queues, dev := t.dev }) ∧
    (∀ d wr xx a, rangeOk va.toNat 0x10000 = true → len = 0x10000 → s.unmapWaits c.tenant va.toNat 0x10000 = false →
      s.walk c.tenant va.toNat = some (d, wr, xx) → s.leafAddr c.tenant va.toNat = some a →
      ∃ t, exec (.unmap c va len) s = .next t ∧ t.CmdDone c ks 0 ∧ t.mem.readLE a 8 = 0 ∧
        ((((s.writePte a 0).mappings c.tenant).any fun m => m.2 == d) = false → t.fitOf d = none)) ∧
    (s.unmapWaits c.tenant va.toNat len.toNat = true → rangeOk va.toNat len.toNat = true →
      exec (.unmap c va len) s = .next s)

/-- `NOTIFY` raises the mark of an enabled queue, is held while its function is paused, and is dropped in D3hot, or with a
journal entry in ERROR or at a disabled queue; EN 1 clears RIDX and the mark, EN 0 waits for the accepted commands (23 R309
to R312, R330, R350, 26 R361, 28 R375, R382). -/
def Sys2Proof.Claims.QueueRegisters : Prop :=
  ∀ (s : State) (fn q : Nat) (v : DWord) (f : Func) (x : Queue), s.func fn = some f → s.queueAt fn q = some x →
    (f.tdisp ≠ .error → s.dev.pstate = .d3hot → exec (.notify fn q v) s = .next s) ∧
    (s.dev.pstate ≠ .d3hot → f.tdisp ≠ .error → f.run ≠ .paused → s.passes fn f.tenant = true → x.en = true →
      ∃ t, exec (.notify fn q v) s = .next t ∧ t = { s with queues := t.queues } ∧
        t.queueOf x.tenant x.q = some { x with mark := if x.mark.toNat < v.toNat then v else x.mark, stall := false }) ∧
    ((f.tdisp = .error ∨ (s.dev.pstate ≠ .d3hot ∧ f.run ≠ .paused ∧ (x.en = false ∨ s.passes fn f.tenant = false))) →
      ∃ t, exec (.notify fn q v) s = .next t ∧ t = { s with dev := t.dev } ∧
        ∃ e ∈ t.dev.journal, e.jseq = t.dev.jseq ∧ e.kind = .notifyDrop ∧ e.func = fn ∧ e.queue = q) ∧
    (s.dev.pstate ≠ .d3hot → f.tdisp ≠ .error → f.run = .paused →
      ∃ t, exec (.notify fn q v) s = .next t ∧ t = { s with funcs := t.funcs } ∧
        t.func fn = some { f with held := f.held ++ [(q, v)] }) ∧
    (x.en = false → s.dev.ready = true → (s.ctx x.tenant).valid = true → s.passes fn x.tenant = true →
      ∃ t, exec (.queueEnable fn q) s = .next t ∧ t = { s with queues := t.queues, hmem := t.hmem, mem := t.mem } ∧
        t.queueOf x.tenant x.q = some { x with en := true, enPend := false, ridx := 0, mark := 0, stall := false }) ∧
    (s.passes fn x.tenant = false → exec (.queueEnable fn q) s = .next s) ∧
    (x.en = true → (x.cmds ≠ [] ∨ s.openLaunches x.tenant x.q ≠ []) →
      ∃ t, exec (.queueDisable fn q) s = .next t ∧ t = { s with queues := t.queues } ∧
        t.queueOf x.tenant x.q = some { x with enPend := true }) ∧
    (x.en = true → x.cmds = [] → s.openLaunches x.tenant x.q = [] →
      ∃ t, exec (.queueDisable fn q) s = .next t ∧ t = { s with queues := t.queues } ∧
        t.queueOf x.tenant x.q = some { x with en := false, enPend := false })

/-- `CONTEXT_CREATE` makes a context with an empty root table, or says in RESULT why not; `CONTEXT_DELETE` leaves no data
frame, record, key or queue of the tenant (23 R314, 26 R367). -/
def Sys2Proof.Claims.Contexts : Prop :=
  ∀ (s : State) (t : Nat), t < 16 → s.dev.ready = true →
    ((s.ctx t).valid = true → ∃ u, exec (.contextCreate t) s = .next u ∧ u = { s with ctxs := u.ctxs } ∧
      u.ctx t = { s.ctx t with result := 2 }) ∧
    ((s.ctx t).valid = false →
      s.tierSize .a + s.tierSize .b < s.promised (·.frameq) + bitsN (s.ctx t).ccfg.toNat 31 0 →
      ∃ u, exec (.contextCreate t) s = .next u ∧ u = { s with ctxs := u.ctxs } ∧ u.ctx t = { s.ctx t with result := 4 }) ∧
    (∀ s' r, (s.ctx t).valid = false →
      s.promised (·.frameq) + bitsN (s.ctx t).ccfg.toNat 31 0 ≤ s.tierSize .a + s.tierSize .b →
      s.promised (·.recq) + bitsN (s.ctx t).ccfg.toNat 55 32 ≤ Config.treeRecords →
      s.partHolds (bitsN (s.ctx t).ccfg.toNat 59 56) = true → s.newRoot t = some (s', r) →
      ∃ u, exec (.contextCreate t) s = .next u ∧ (u.ctx t).valid = true ∧ (u.ctx t).root = r ∧ (u.ctx t).result = 1 ∧
        (u.ctx t).prot = (s.ctx t).ccfg.msb ∧ (u.ctx t).part = bitsN (s.ctx t).ccfg.toNat 59 56 ∧
        (u.ctx t).recq = bitsN (s.ctx t).ccfg.toNat 55 32 ∧ (u.ctx t).frameq = bitsN (s.ctx t).ccfg.toNat 31 0 ∧
        (u.ctx t).vault = [] ∧ (u.ctx t).streams = [] ∧ (u.ctx t).policy = (s.ctx t).policy ∧ (∀ va, u.walk t va = none) ∧
        ∀ i, i < 0x20000 → u.mem.get (r * 0x10000 + i) = 0) ∧
    ((s.ctx t).valid = false → ∃ u, exec (.contextDelete t) s = .next u ∧ u = { s with ctxs := u.ctxs } ∧
      u.ctx t = { s.ctx t with result := 2 }) ∧
    ((s.ctx t).valid = true → ∃ u, exec (.contextDelete t) s = .next u ∧ (u.ctx t).valid = false ∧ (u.ctx t).result = 1 ∧
      (u.ctx t).vault = [] ∧ (u.ctx t).streams = [] ∧ (∀ va, u.walk t va = none) ∧
      (∀ e ∈ u.fit, e.tenant = t → e.table = true) ∧ (∀ r ∈ u.tree, r.tenant = t → r.kind = .free) ∧
      (∀ x ∈ u.queues, x.tenant = t → x.en = false ∧ x.cmds = []) ∧ (∀ n ∈ u.nss.toList, n.valid = true → n.owner ≠ t) ∧
      ((s.ctx t).prot = true → ∃ e ∈ u.dev.journal, e.jseq = u.dev.jseq ∧ e.kind = .reset ∧ e.tenant = t))

/-- Namespaces are created in the user capacity, with a key in a FLASH slot, and deleted with their pages and key, or RESULT says why
not (28 R378, 26 R366). -/
def Sys2Proof.Claims.Namespaces : Prop :=
  ∀ (s : State) (n : Nat), n < 16 → s.dev.ready = true →
    (((s.ns n).valid = true ∨ (s.ctx (bitsN (s.ns n).ncfg.toNat 63 60)).valid = false) →
      ∃ u, exec (.namespaceCreate n) s = .next u ∧ u = { s with nss := u.nss } ∧ u.ns n = { s.ns n with result := 2 }) ∧
    ((s.ns n).valid = false → (s.ctx (bitsN (s.ns n).ncfg.toNat 63 60)).valid = true →
      (Config.userPages < ((s.nss.toList.filter (·.valid)).map (·.pages)).sum + bitsN (s.ns n).ncfg.toNat 33 0 →
        ∃ u, exec (.namespaceCreate n) s = .next u ∧ u = { s with nss := u.nss } ∧ u.ns n = { s.ns n with result := 4 }) ∧
      ((s.ctx (bitsN (s.ns n).ncfg.toNat 63 60)).prot = true → (s.ctx (bitsN (s.ns n).ncfg.toNat 63 60)).topSlot = none →
        ∃ u, exec (.namespaceCreate n) s = .next u ∧ u = { s with nss := u.nss } ∧ u.ns n = { s.ns n with result := 4 }) ∧
      (((s.nss.toList.filter (·.valid)).map (·.pages)).sum + bitsN (s.ns n).ncfg.toNat 33 0 ≤ Config.userPages →
        ((s.ctx (bitsN (s.ns n).ncfg.toNat 63 60)).prot = true →
          (s.ctx (bitsN (s.ns n).ncfg.toNat 63 60)).topSlot.isSome = true) →
        ∃ u, exec (.namespaceCreate n) s = .next u ∧ (u.ns n).valid = true ∧ (u.ns n).result = 1 ∧
          (u.ns n).owner = bitsN (s.ns n).ncfg.toNat 63 60 ∧ (u.ns n).pages = bitsN (s.ns n).ncfg.toNat 33 0 ∧
          (u.ns n).written = [] ∧ (u.nsKey n).isSome = true ∧
          ((s.ctx (bitsN (s.ns n).ncfg.toNat 63 60)).prot = true ↔ (u.ns n).slot.isSome = true) ∧
          (∀ m, m ≠ n → u.ns m = s.ns m) ∧ u.mem = s.mem)) ∧
    ((s.ns n).valid = false → ∃ u, exec (.namespaceDelete n) s = .next u ∧ u = { s with nss := u.nss } ∧
      u.ns n = { s.ns n with result := 2 }) ∧
    ((s.ns n).valid = true → s.nsUsed n = true → ∃ u, exec (.namespaceDelete n) s = .next u ∧ u = { s with nss := u.nss } ∧
      u.ns n = { s.ns n with result := 5 }) ∧
    ((s.ns n).valid = true → s.nsUsed n = false → ∃ u, exec (.namespaceDelete n) s = .next u ∧ (u.ns n).valid = false ∧
      (u.ns n).result = 1 ∧ (∀ p ∈ u.flash, p.1.1 ≠ n) ∧ (∀ m, m ≠ n → u.ns m = s.ns m) ∧ u.mem = s.mem ∧
      ((s.ns n).slot = none → ∀ v ∈ u.dev.vault, v.1 ≠ n) ∧
      ∀ k, (s.ns n).slot = some k → ∀ v ∈ (u.ctx (s.ns n).owner).vault, ¬ (v.slot = k ∧ v.use = .flash))

/-- Register writes: PWRLIM is clamped, a queue's base and size, an error count, CCFG and NCFG take what is written, a
locked interface drops the write and enters ERROR with CAUSE 1, and a function-level reset raises GEN, disables the queues
and journals RESET (28 R370, R371, 23 R309, R314, R330, 24 R338, 26 R361, R362, 25 R349). -/
def Sys2Proof.Claims.HostRegisters : Prop :=
  ∀ s : State,
    (∀ v : Word, s.func 0 ≠ none → ∃ t, exec (.pwrlimWrite v) s = .next t ∧ t = { s with dev := { s.dev with watts := t.dev.watts } } ∧
      t.dev.watts.toNat = max 1000 (min 3400 (v.toNat % 4096))) ∧
    (∀ fn q v f x, s.func fn = some f → s.queueAt fn q = some x → q < 64 → f.locked = false →
      (∃ t, exec (.registerWrite fn (0x10000 + 64 * q) v) s = .next t ∧ t = { s with queues := t.queues } ∧
        t.queueOf x.tenant x.q = some { x with qbase := v }) ∧
      (∃ t, exec (.registerWrite fn (0x10000 + 64 * q + 0x10) v) s = .next t ∧ t = { s with queues := t.queues } ∧
        t.queueOf x.tenant x.q = some { x with cqbase := v }) ∧
      (x.en = false → ∃ t, exec (.registerWrite fn (0x10000 + 64 * q + 8) v) s = .next t ∧ t = { s with queues := t.queues } ∧
        t.queueOf x.tenant x.q = some { x with
          log2 := if 4 ≤ v.toNat % 32 ∧ v.toNat % 32 ≤ 16 then v.toNat % 32 else 4 })) ∧
    (∀ f t v, s.func 0 = some f → t < 16 →
      (∃ u, exec (.registerWrite 0 (0x140000 + 64 * t) v) s = .next u ∧ u = { s with ctxs := u.ctxs } ∧
        u.ctx t = { s.ctx t with ccfg := v &&& 0x8FFFFFFFFFFFFFFF }) ∧
      (∃ u, exec (.registerWrite 0 (0x140400 + 64 * t) v) s = .next u ∧ u = { s with nss := u.nss } ∧
        u.ns t = { s.ns t with ncfg := v &&& 0xF0000003FFFFFFFF }) ∧
      (∃ u, exec (.registerWrite 0 (0x20000 + 32 * t + 28) v) s = .next u ∧ u = { s with ctxs := u.ctxs } ∧
        u.ctx t = { s.ctx t with err := { (s.ctx t).err with uncorr := field v 0 32 } })) ∧
    (∀ fn reg v f, s.func fn = some f →
      (fn = 0 ∨ f.locked = false → (∀ c ∈ f.cfg, c.1 = reg → c.2 ≠ v) → v ≠ 0 →
        ∃ t, exec (.configWrite fn reg v) s = .next t ∧ t = { s with funcs := t.funcs } ∧
          ∃ g, t.func fn = some g ∧ (reg, v) ∈ g.cfg ∧ ∀ c ∈ g.cfg, c.1 = reg → c.2 = v) ∧
      (fn ≠ 0 → f.locked = true → f.cfg = [] → v ≠ 0 →
        ∃ t g, exec (.configWrite fn reg v) s = .next t ∧ t.func fn = some g ∧ g.tdisp = .error ∧ g.cause = 1 ∧ g.cfg = [])) ∧
    (∀ fn f, s.func fn = some f → ∃ t g, exec (.functionLevelReset fn) s = .next t ∧ t.func fn = some g ∧ g.gen = f.gen + 1 ∧
      g.held = [] ∧ (f.tdisp ≠ .error → g.tdisp = .unlocked) ∧ (f.tdisp = .error → g.tdisp = .error) ∧
      (∀ x ∈ t.queues, x.func = fn → x.en = false ∧ x.cmds = []) ∧
      ∃ e ∈ t.dev.journal, e.kind = .reset ∧ e.func = fn ∧ s.dev.jseq < e.jseq)
end

namespace Sys2Proof.Machine

/-- A vault request in a session of a tenant's function is admitted for a slot (26 R359). -/
structure State.VaultOpen (s : State) (session slot : Nat) (x : Session) (f : Func) : Prop where
  session : s.dev.sessions.find? (fun y => y.id == session) = some x
  func    : s.func x.fn = some f
  bound   : f.bound = true
  tenant  : f.tenant < 16
  range   : slot < 256
  owned   : ∀ k, (s.ctx f.tenant).vault.find? (fun v => v.slot == slot) = some k → k.owner = x.ownerTag

end Sys2Proof.Machine

section
open Sys2Proof Sys2Proof.Machine

/-- The TDISP states of a VF: LOCK needs the IDE stream, START follows LOCK and is else answered with an error, STOP tears a protected tenant down and unlocks,
and the loss of the stream or a failed check of the firmware leads to ERROR with its CAUSE (26 R361, R367). -/
def Sys2Proof.Claims.DeviceInterfaces : Prop :=
  ∀ (s : State) (fn : Nat) (f : Func), fn ≠ 0 → s.func fn = some f →
    (f.tdisp = .unlocked → f.ide = true → ∃ t, exec (.lockInterfaceRequest fn) s = .next t ∧ t = { s with funcs := t.funcs } ∧
      t.func fn = some { f with tdisp := .locked }) ∧
    (f.tdisp ≠ .unlocked ∨ f.ide = false → exec (.lockInterfaceRequest fn) s = .next s) ∧
    (f.tdisp = .locked → ∃ t, exec (.startInterfaceRequest fn) s = .next t ∧ t = { s with funcs := t.funcs } ∧
      t.func fn = some { f with tdisp := .run }) ∧
    (f.tdisp ≠ .locked → exec (.startInterfaceRequest fn) s = .next (s.respond (.startError fn))) ∧
    ((f.bound = false ∨ (s.ctx f.tenant).valid = false ∨ (s.ctx f.tenant).prot = false) →
      ∃ t, exec (.stopInterfaceRequest fn) s = .next t ∧ t = { s with funcs := t.funcs } ∧
        t.func fn = some { f with tdisp := .unlocked }) ∧
    (f.bound = true → f.tenant < 16 → (s.ctx f.tenant).valid = true → (s.ctx f.tenant).prot = true →
      ∃ t g, exec (.stopInterfaceRequest fn) s = .next t ∧ t.func fn = some g ∧ g.tdisp = .unlocked ∧
        (t.ctx f.tenant).vault = [] ∧ (t.ctx f.tenant).streams = [] ∧ (∀ va, t.walk f.tenant va = none) ∧
        (∀ e ∈ t.fit, e.tenant = f.tenant → e.table = true) ∧
        ((∀ x ∈ s.queues, ∀ k ∈ x.cmds, k.ref.tenant = x.tenant ∧ k.ref.queue = x.q) →
          t.launchCmds (fun x => x.tenant == f.tenant) = []) ∧
        ∃ e ∈ t.dev.journal, e.jseq = t.dev.jseq ∧ e.kind = .reset ∧ e.func = fn) ∧
    (∃ t, exec (.ideStreamEstablish fn) s = .next t ∧ t = { s with funcs := t.funcs } ∧ t.func fn = some { f with ide := true }) ∧
    (f.ide = true → s.launchesOn fn = [] → s.launchCmdsOn fn = [] → ∃ t, exec (.ideLoss fn) s = .next t ∧ t = { s with funcs := t.funcs } ∧
      t.func fn = some { f with ide := false, tdisp := .error, cause := 2 }) ∧
    (s.launchesOn fn = [] → s.launchCmdsOn fn = [] → ∃ t, exec (.firmwareInterfaceError fn) s = .next t ∧
      t = { s with funcs := t.funcs } ∧ t.func fn = some { f with tdisp := .error, cause := 3 })

/-- The key vault: a key, protected by the session, is put in its slot with the OWNERTAG of the session, deleted, exported in wrapped form only with EXPORT, and
imported only where the blob unwraps; a stream opens with NEXT 0; a request of another owner, of a function bound to no tenant, or
outside a session, changes nothing but what is answered (26 R359, R360, R363). -/
def Sys2Proof.Claims.KeyVault : Prop :=
  ∀ (s : State) (session slot : Nat) (x : Session) (f : Func),
    let next := s.countReq session
    let done := fun (t : State) => t = { next.respond .vaultDone with ctxs := t.ctxs }
    let refused : Res := .next (next.respond .vaultRefused)
    (s.VaultOpen session slot x f →
      (∀ use ex key, ∃ t, exec (.keyImport session slot use ex key) s = .next t ∧ done t ∧
        (t.ctx f.tenant).vault.find? (fun k => k.slot == slot) = some ⟨slot, x.opened key, use, ex, x.ownerTag⟩ ∧
        ∀ n, n ≠ slot → (t.ctx f.tenant).vault.find? (fun k => k.slot == n) = (s.ctx f.tenant).vault.find? fun k => k.slot == n) ∧
      (∃ t, exec (.keyDelete session slot) s = .next t ∧ done t ∧
        ∀ k, k ∈ (t.ctx f.tenant).vault ↔ k ∈ (s.ctx f.tenant).vault ∧ k.slot ≠ slot) ∧
      (∀ k, (s.ctx f.tenant).vault.find? (fun v => v.slot == slot) = some k →
        (k.exportable = true → exec (.keyExport session slot) s = .next (({ next with dev := { next.dev with
          exported := s.dev.exported ++ [keyWrap (s.seal f.tenant) k.bytes] } } : State).respond .vaultDone)) ∧
        (k.exportable = false → exec (.keyExport session slot) s = refused)) ∧
      ((s.ctx f.tenant).vault.find? (fun v => v.slot == slot) = none → exec (.keyExport session slot) s = refused) ∧
      (∀ blob k, (keyUnwrap (s.seal f.tenant) blob).bind (VaultKey.ofBytes slot) = some k →
        ∃ t, exec (.keyWrappedImport session slot blob) s = .next t ∧ done t ∧
          (t.ctx f.tenant).vault.find? (fun v => v.slot == slot) = some k) ∧
      (∀ blob, (keyUnwrap (s.seal f.tenant) blob).bind (VaultKey.ofBytes slot) = none →
        exec (.keyWrappedImport session slot blob) s = refused) ∧
      (∀ stream fixed, stream < 256 → ∃ t, exec (.streamOpen session stream slot fixed) s = .next t ∧ done t ∧
        (t.ctx f.tenant).streams.find? (fun x => x.n == stream) = some ⟨stream, slot, fixed, 0⟩)) ∧
    (let all := fun (r : Res) => (∀ use ex key, exec (.keyImport session slot use ex key) s = r) ∧
        (∀ blob, exec (.keyWrappedImport session slot blob) s = r) ∧ exec (.keyExport session slot) s = r ∧
        exec (.keyDelete session slot) s = r ∧ ∀ stream fixed, exec (.streamOpen session stream slot fixed) s = r
     (s.dev.sessions.find? (fun y => y.id == session) = none → all (.next s)) ∧
     (s.dev.sessions.find? (fun y => y.id == session) = some x → s.func x.fn = some f →
        (f.bound = false ∨ ∃ k, (s.ctx f.tenant).vault.find? (fun v => v.slot == slot) = some k ∧ k.owner ≠ x.ownerTag) →
        all refused))

/-- Sessions are at most 32, in SPDM 1.3 or 1.2, opened by an ECDHE exchange under a signature of the alias key, each with a key of its own;
measurements are read at the indexes that the requester may read, signed; a stage of the boot chain extends its register and starts the
next, or, where its image fails the check, stops the chain; the PF enumerates at the end of either (26 R355 to R358, 28 R381). -/
def Sys2Proof.Claims.SessionsAndBoot : Prop :=
  ∀ s : State,
    (∀ fn id key f, s.func fn = some f → (∀ x ∈ s.dev.sessions, x.id ≠ id) →
      (∀ v : Byte, v = 0x12 ∨ v = 0x13 →
        (s.dev.sessions.length < 32 →
          let mine := Config.ephemeralKey s.free
          let pub := Config.publicKey mine
          let transcript := s.dev.exchangeTranscript fn id v key pub
          let sig := Config.signature s.dev.aliasKey (sha384 transcript)
          let secret := Config.sessionKey (Config.ecdhe mine (key.take 96)) (sha384 (transcript ++ beBytes 96 sig.toNat))
          exec (.keyExchange fn id v key) s = .next (({ s with
            free := s.free + 1
            dev := { s.dev with sessions := s.dev.sessions ++ [⟨fn, id, v, key.drop 96, secret, 0⟩] } } : State).respond
              (.session id pub sig))) ∧
        (32 ≤ s.dev.sessions.length → exec (.keyExchange fn id v key) s = .next (s.respond .sessionLimitExceeded))) ∧
      (∀ v : Byte, v ≠ 0x12 → v ≠ 0x13 → exec (.keyExchange fn id v key) s = .next (s.respond .versionMismatch))) ∧
    (∀ id, ∃ t, exec (.spdmSessionEnd id) s = .next t ∧ t = { s with dev := { s.dev with sessions := t.dev.sessions } } ∧
      ∀ x, x ∈ t.dev.sessions ↔ x ∈ s.dev.sessions ∧ x.id ≠ id) ∧
    (∀ fn f i, s.func fn = some f →
      let gives := fun (m : BitVec 512) => exec (.getMeasurements fn i) s = .next (({ s with dev := { s.dev with
        measured := s.dev.measured ++ [m] } } : State).respond
          (.blocks (dmtfBlock i m) (Config.signature s.dev.aliasKey (sha384 (s.dev.measureTranscript fn i (dmtfBlock i m))))))
      (1 ≤ i → i ≤ 4 → gives (vget s.dev.mr (i - 1) 0)) ∧
      (16 ≤ i → i < 32 → (fn = 0 ∨ (f.bound = true ∧ i = 16 + f.tenant)) → gives (s.ctx (i - 16)).tmr) ∧
      ((i = 0 ∨ (4 < i ∧ i < 16) ∨ 32 ≤ i ∨ (fn ≠ 0 ∧ 16 ≤ i ∧ (f.bound = false ∨ i ≠ 16 + f.tenant))) → exec (.getMeasurements fn i) s = .next (s.respond
        (.blocks [] (Config.signature s.dev.aliasKey (sha384 (s.dev.measureTranscript fn i []))))))) ∧
    (∀ key sig image, s.dev.bootHalt = false → s.dev.ready = false → s.dev.stage < 4 →
      (0 < s.dev.stage → s.dev.imageOk key sig image = false →
        exec (.bootStage key sig image) s = .next { s.enumerate with dev := { s.dev with bootHalt := true } }) ∧
      (0 < s.dev.stage → s.dev.stage < 3 → s.dev.imageOk key sig image = true →
        ∃ t, exec (.bootStage key sig image) s = .next t ∧
          t = { s with dev := { s.dev with stage := s.dev.stage + 1, mr := t.dev.mr, keys := Config.keysCarried image } } ∧
          (∀ i, i < 8 → vget t.dev.mr i 0 = if i = s.dev.stage then extendMr (vget s.dev.mr i 0) (measure image)
            else vget s.dev.mr i 0)) ∧
      (s.dev.stage = 0 → ∃ t, exec (.bootStage key sig image) s = .next t ∧ t.dev.stage = 1 ∧ t.dev.ready = false ∧
        vget t.dev.mr 0 0 = extendMr (vget s.dev.mr 0 0) Config.romMeasure) ∧
      (s.dev.stage = 3 → s.dev.imageOk key sig image = true →
        ∃ t, exec (.bootStage key sig image) s = .next t ∧ t.dev.stage = 4 ∧ t.dev.ready = true ∧
          t.dev.pstate = .idle ∧ t.dev.aclk = 1500 ∧ t.fit = [] ∧ (s.funcs ≠ [] → t.func 0 ≠ none) ∧
          ∃ e ∈ t.dev.journal, e.jseq = t.dev.jseq ∧ e.kind = .reset))

/-- Management cores read no frame with PROT set, and write none that holds a page table: a load of one returns zero, a store to one is
refused, and both are logged; elsewhere an access that the PMP lets through has its effect, a load marking its frames accessed (07 R103), and any other traps. No instruction changes
such a frame, nor, below M mode, the PMP (26 R353, 28 R374, 07 R108; the PMP is log 86's). The identity key certifies the alias key (26
R357; what a certificate holds is log 87's). -/
def Sys2Proof.Claims.ManagementCores : Prop :=
  ∀ s : State,
    (∀ (k addr n : Nat) (v : DWord), k < 4 →
      let may := (s.mgmtCore k).allows (s.mgmtCore k).dataMode addr n
      (may .read = false → s.mgmtLoad k addr n = .error 5) ∧ (may .write = false → s.mgmtStore k addr n v = .error 7) ∧
      (may .read = true →
        (∀ d, s.barred addr n false = some d → s.mgmtLoad k addr n = .ok (s.monitor k d, 0)) ∧
        (s.barred addr n false = none → addr + n ≤ 2 ^ 44 → ∃ t,
          s.mgmtLoad k addr n = .ok (t, leNat (s.mem.bytes addr n)) ∧ t = { s with fit := t.fit } ∧
          ∀ d e, s.fitOf d = some e →
            t.fitOf d = some (if ∃ i < n, (addr + i) / 0x10000 = d then { e with acc := true } else e))) ∧
      (may .write = true →
        (∀ d, s.barred addr n true = some d → s.mgmtStore k addr n v = .ok (s.monitor k d)) ∧
        (s.barred addr n true = none → addr + n ≤ 2 ^ 44 → ∃ t, s.mgmtStore k addr n v = .ok t ∧
          t.mem = (s.batch (cellsAt addr (leBytes n v.toNat))).mem ∧ t.dev = { s.dev with mgmt := t.dev.mgmt }))) ∧
    (∀ (k : Nat) (insn : Word), k < 4 →
      let t := s.hostAct (.mgmt k insn)
      ((s.mgmtCore k).mode ≠ .machine → (t.mgmtCore k).pmp = (s.mgmtCore k).pmp) ∧
      (∀ j, j ≠ k → t.mgmtCore j = { s.mgmtCore j with resv := (t.mgmtCore j).resv }) ∧
      (s.Canonical → ∀ (a : Nat) (e : FitEntry), s.fitOf (a / 0x10000) = some e → e.prot = true ∨ e.table = true →
        (∀ x ∈ s.fit, x.dfn = e.dfn → x.tier ≠ .c) → t.mem.get a = s.mem.get a)) ∧
    ∀ fn f, s.func fn = some f →
    ∃ c d : Certificate, s.hostAct (.spdmCertificates fn) = s.respond (.chain [c, d]) ∧
      c.subject = Config.publicKey (Config.identityKey Config.uniqueSecret []) ∧
      d.subject = Config.publicKey s.dev.aliasKey ∧
      d.sig = Config.signature (Config.identityKey Config.uniqueSecret []) (sha384 (beBytes 96 d.subject.toNat))

/-- Power and clocks: a loss leaves the reset state and the journal's mirror, power-good begins bring-up, a demand beyond
WATTS lowers aclk by 100 MHz down to 800 MHz until demand is within it, D3hot mirrors the journal (28 R373, R381, R382). -/
def Sys2Proof.Claims.PowerStates : Prop :=
  ∀ s : State,
    (∃ t, exec .powerLoss s = .next t ∧ t = { State.reset with
      hmem := t.hmem, turns := s.turns, free := s.free
      dev := { State.reset.dev with powered := false, mirror := s.dev.mirror } }) ∧
    (s.dev.powered = false → ∃ t, exec .powerGood s = .next t ∧ t = { State.reset with
      hmem := t.hmem, turns := s.turns, free := s.free, dev := { State.reset.dev with mirror := s.dev.mirror } }) ∧
    (s.dev.powered = true → exec .powerGood s = .next s) ∧
    (s.dev.ready = true → s.dev.pstate ≠ .d3hot → exec .powerCap s = .next { s with dev := { s.dev with
      aclk := max 800 (s.dev.aclk - 100), pstate := .capped } }) ∧
    (s.dev.ready = true → ∃ t, exec .demandWithinWatts s = .next t ∧
      t = { s with dev := { s.dev with aclk := 1500, pstate := t.dev.pstate } } ∧ t.dev.pstate ≠ .capped) ∧
    (s.func 0 ≠ none → ∃ t, exec .d3hotEntry s = .next t ∧ t.dev.pstate = .d3hot ∧ t.g = s.g ∧ t.wg = s.wg ∧ t.ln = s.ln ∧
      t.dev.jseq = s.dev.jseq) ∧
    (s.dev.pstate = .d3hot → ∃ t, exec .d3hotExit s = .next t ∧ t = { s with dev := { s.dev with pstate := t.dev.pstate } } ∧
      t.dev.pstate ≠ .d3hot) ∧
    (∀ e, s.dev.journal.find? (fun x => x.jseq == s.dev.jhead + 1) = some e →
      ∃ t, exec .journalMirrorComplete s = .next t ∧ t.dev.jhead = s.dev.jhead + 1 ∧ t.dev.jseq = s.dev.jseq ∧
        (∃ m ∈ t.dev.mirror, m = { e with record := none }) ∧ (e.record = none → t.mem = s.mem ∧ t.hmem = s.hmem) ∧
        ∀ r c x, e.record = some (r, c) → c.timer = none → s.queueOf c.tenant c.queue = some x → s.Canonical →
          s.passes x.func x.tenant = true →
          t.hmem.bytes (x.cqbase.toNat + 32 * (c.rindex.toNat % x.size)) 32 = leBytes 32 r.toNat)

/-- VFs appear with SR-IOV; a paused VF's work is stopped and its NOTIFYs are held until it goes on; a snapshot records the
count of every record of the tenant and its frames as they stand, and a protected context moves only between devices that have
attested, over a Belrik link (28 R370, R375, 10 R156). -/
def Sys2Proof.Claims.VirtualFunctions : Prop :=
  ∀ s : State,
    (∀ n, s.dev.ready = true → s.dev.sriov = false → ∃ t, exec (.sriovEnable n) s = .next t ∧
      t = { s with funcs := t.funcs, dev := { s.dev with sriov := true } } ∧
      ∀ i f, s.funcs[i]? = some f → t.funcs[i]? = some (if i ≠ 0 ∧ i ≤ n then { f with enabled := true } else f)) ∧
    (∀ fn f, fn ≠ 0 → s.func fn = some f → f.run ≠ .paused → ∃ t, exec (.vfPause fn) s = .next t ∧
      t.func fn = some { f with run := .paused } ∧ (s.NoWordWaits → t.mem = s.mem) ∧
      (s.Focused → f.bound = true → s.tenant = f.tenant → s.ln.st = .running → s.wg.place = .resident → s.wg.stop = false →
        t.wg.stop = true)) ∧
    (∀ fn f, s.func fn = some f → f.run = .paused → f.held = [] →
      ∃ t, exec (.vfUnpause fn) s = .next t ∧ t = { s with funcs := t.funcs } ∧
        t.func fn = some { f with run := if (s.ctx f.tenant).presence = .away then .descheduled else .running }) ∧
    (∀ fn f q v x, s.func fn = some f → f.run = .paused → f.held = [(q, v)] → s.queueAt fn q = some x → x.en = true →
      f.tdisp ≠ .error → s.passes fn f.tenant = true →
      ∃ t, exec (.vfUnpause fn) s = .next t ∧ (∃ g, t.func fn = some g ∧ g.held = [] ∧ g.run ≠ .paused) ∧
        t.queueOf x.tenant x.q = some { x with mark := if x.mark.toNat < v.toNat then v else x.mark, stall := false }) ∧
    (∀ fn f q v, s.func fn = some f → f.run = .paused → f.held = [(q, v)] → f.tdisp = .error →
      ∃ t, exec (.vfUnpause fn) s = .next t ∧ t.queues = s.queues ∧ (∃ g, t.func fn = some g ∧ g.held = [] ∧ g.run ≠ .paused) ∧
        ∃ e ∈ t.dev.journal, e.jseq = t.dev.jseq ∧ e.kind = .notifyDrop ∧ e.func = fn ∧ e.queue = q) ∧
    (∀ u ok, (s.ctx u).prot = true → (ok = false ∨ s.dev.links = 0) → s.hostAct (.migrate u ok) = s) ∧
    (∀ u fn m, m.ccfg.msb = true → (m.attested = false ∨ s.dev.links = 0) → s.hostAct (.receive u fn m) = s) ∧
    (∀ u, u < 16 → (s.ctx u).valid = true → ∃ t, exec (.migrationSnapshot u) s = .next t ∧
      t = { s with tree := t.tree, ctxs := t.ctxs } ∧
      (∀ h n, (h, n) ∈ (t.ctx u).snap ↔ ∃ r ∈ t.tree, r.tenant = u ∧ r.kind ≠ .free ∧ r.handle = h ∧ r.count = n) ∧
      (s.Canonical → ∀ e ∈ s.fit, e.tenant = u → e.table = false → ∃ m, (e.dfn, m) ∈ (t.ctx u).snapPages ∧
        ∀ a, a / 0x10000 = e.dfn → m.get a = s.mem.get a))

/-- Spares are taken where a part's wear has crossed its threshold, and logged; corrected errors are counted by array and by the wear of their unit, uncorrectable ones are charged to the tenant and
poison the frame or cancel the launch; a lost memory device poisons its frames, and the last lost link ends the transfers
with PEER_FAULT (24 R346 to R348, 28 R376, R377, R379, R380). -/
def Sys2Proof.Claims.ErrorsAndSpares : Prop :=
  ∀ s : State,
    (∀ part unit left, s.worn part unit = false → exec (.spareSubstitution part unit left) s = .next s) ∧
    (∀ unit left, s.worn .core unit = true → (s.findCore unit.toNat).any (·.halted) = true → vget s.dev.spares (hallOf unit.toNat) false = true →
      ∃ t, exec (.spareSubstitution .core unit left) s = .next t ∧ t = { s with dev := t.dev } ∧
        vget t.dev.spares (hallOf unit.toNat) false = false ∧
        (∃ e ∈ t.dev.caplog, e.part = 1 ∧ e.unit = unit ∧ e.left = 0 ∧ e.jseq = t.dev.jseq) ∧
        ∃ e ∈ t.dev.journal, e.jseq = t.dev.jseq ∧ e.kind = .capacity) ∧
    (∀ unit left, s.channelFree unit = false → exec (.spareSubstitution .hbmChannel unit left) s = .next s) ∧
    (∀ part unit left, part ≠ .core → part ≠ .flashBlock → s.worn part unit = true →
      (part = .hbmChannel → s.channelFree unit = true) → ∃ t, exec (.spareSubstitution part unit left) s = .next t ∧
      t = { s with dev := t.dev } ∧ t.wornBy part unit = 0 ∧ ∃ e ∈ t.dev.caplog, e.part = partCode part ∧ e.unit = unit ∧ e.left = left) ∧
    (∀ unit left, s.worn .flashBlock unit = true → ∃ t, exec (.spareSubstitution .flashBlock unit left) s = .next t ∧
      (∃ e ∈ t.dev.caplog, e.part = 4 ∧ e.unit = unit ∧ e.left = left) ∧ (left = 0 → unit.toNat ∈ t.dev.noBlocks)) ∧
    (∀ i unit, i < 7 → ∃ t, exec (.softErrorCorrected i unit) s = .next t ∧
      t = { s with dev := { s.dev with corrected := t.dev.corrected, wear := t.dev.wear } } ∧
      (∀ j, j < 7 → vget t.dev.corrected j 0 = if j = i then satInc (vget s.dev.corrected j 0) else vget s.dev.corrected j 0) ∧
      (∀ p ∈ wearParts i, ∃ n, ((partCode p, unit), n + 1) ∈ t.dev.wear ∧
        n = ((s.dev.wear.find? fun w => w.1 == (partCode p, unit)).map (·.2)).getD 0) ∧
      ∀ w, (∀ p ∈ wearParts i, w.1 ≠ (partCode p, unit)) → (w ∈ t.dev.wear ↔ w ∈ s.dev.wear)) ∧
    (∀ u, u < 16 →
      (∃ t, exec (.uncorrectableEcc (.cleanLine u)) s = .next t ∧ t = { s with ctxs := t.ctxs, dev := t.dev } ∧
        (t.ctx u).err.uncorr = satInc (s.ctx u).err.uncorr) ∧
      (∃ t, exec (.uncorrectableEcc (.operandBuffer u)) s = .next t ∧ t = { s with ctxs := t.ctxs, dev := t.dev } ∧
        (t.ctx u).err.uncorr = satInc (s.ctx u).err.uncorr)) ∧
    (∀ e, s.fitOf e.dfn = some e → e.table = false → e.st = .resident → (e.tier = .a ∨ e.tier = .b) → e.tenant < 16 →
      ∃ t, exec (.uncorrectableEcc (.frame e.dfn)) s = .next t ∧ t.fitOf e.dfn = some { e with st := .poisoned, ecc := true } ∧
        (t.ctx e.tenant).err.poison = satInc (s.ctx e.tenant).err.poison ∧
        (t.ctx e.tenant).err.uncorr = satInc (s.ctx e.tenant).err.uncorr ∧ t.mem = s.mem) ∧
    (s.Focused → s.ln.st = .running → s.ln.aborted = false → s.tenant < 16 →
      ∃ t, exec (.uncorrectableEcc (.workgroup s.wg.id)) s = .next t ∧ t.ln.aborted = true ∧
        (t.ctx s.tenant).err.uncorr = satInc (s.ctx s.tenant).err.uncorr) ∧
    (∀ lo hi e, s.fitOf e.dfn = some e → e.tier = .b → e.st = .resident → lo.toNat ≤ e.loc.toNat → e.loc.toNat ≤ hi.toNat →
      Config.tierBFrames ≤ e.loc.toNat →
      ∃ t e', exec (.cxlDeviceLoss lo hi) s = .next t ∧ t.fitOf e.dfn = some e' ∧ e'.st = .poisoned ∧ e'.tenant = e.tenant ∧
        t.mem = s.mem) ∧
    (∀ port, s.dev.links &&& ~~~((1 : BitVec 16) <<< port) ≠ 0 →
      exec (.belrikLinkLoss port) s = .next { s with dev := { s.dev with links := s.dev.links &&& ~~~((1 : BitVec 16) <<< port) } }) ∧
    (∀ port, s.dev.links &&& ~~~((1 : BitVec 16) <<< port) = 0 → ∃ t, exec (.belrikLinkLoss port) s = .next t ∧
      t.dev.links = 0 ∧ t.dev.transfers = [] ∧
      ∀ j ∈ s.jobs, j.matrix = false → j.st = .running → (j.kind = 0x07 ∨ (j.kind = 0x08 ∧ j.out = [])) →
        { j with st := .stepped, code := 4, out := [] } ∈ t.jobs)

/-- The state after reset (28 R371, R381, 26 R361, 28 R370, 23 R314, 28 R378, 10 R143): bring-up not begun, device time 0,
no function enumerated, no context, namespace, queue, job, launch or group, every VF in CONFIG_UNLOCKED; a page
never written and memory read 0 (log 2 for memory, log 3 for what the spec leaves open). -/
def Sys2Proof.Claims.ResetState : Prop :=
  State.reset.dev.ready = false ∧ State.reset.dev.stage = 0 ∧ State.reset.dev.pstate = .active ∧ State.reset.dev.time = 0 ∧
  State.reset.dev.watts = 3400 ∧ State.reset.dev.jhead = 0 ∧ State.reset.dev.journal = [] ∧ State.reset.dev.devstat % 0x10000 = 0x2000 ∧
  (∀ i, i < 16 → (State.reset.ctx i).valid = false ∧ (State.reset.ns i).valid = false) ∧
  (∀ i, i < 8 → vget State.reset.dev.mr i 0 = 0) ∧
  (∀ i, State.reset.func i = none) ∧ (∀ f ∈ State.reset.funcs, f.tdisp = .unlocked ∧ f.gen = 0) ∧
  State.reset.fit = [] ∧ State.reset.tree = [] ∧ State.reset.jobs = [] ∧ State.reset.queues = [] ∧
  State.reset.g.st = .absent ∧ State.reset.launches = [] ∧ State.reset.wgs = [] ∧ State.reset.groups = [] ∧
  (∀ a, State.reset.mem.get a = 0) ∧ (∀ n p, (State.reset.flashPage n p).get 0 = 0)

/-- The invariants hold after reset. -/
def Sys2Proof.Claims.ResetInvariants : Prop := State.reset.Canonical ∧ State.reset.TreeIndexed

/-- A step takes the next turn and runs the instruction that the bytes at the program counter of its stream decode to (12
R174, R176, R186), where the page table lets it be fetched (07 R104); a turn of the device runs its step, a queue's turn the command at its head (23 R312), and with no turn
given the group in the focus goes on (log 1). -/
def Obligations.StepRunsDecodedInstruction : Prop :=
  ∀ (s : State) (i : Instr) (ts : List Turn), s.dev.powered = true →
    (s.g.pc % 4 = 0 → s.g.pc + 4 ≤ s.ln.desc.slen → s.g.loop = none → s.fetchBar (s.ln.desc.scodeVa + s.g.pc) 4 = none →
      decodeScalar (BitVec.ofNat 32 (s.ln.scode.readLE s.g.pc 4)) = .ok i →
      (s.turns = ⟨0, 0, .scalar⟩ :: ts → step s = exec i { s with turns := ts }) ∧
      (s.turns = [] → s.g.st = .running → s.g.run = none → s.g.queue = [] → step s = exec i s)) ∧
    (∀ lp w, s.g.pc % 4 = 0 → s.g.pc + 4 ≤ s.ln.desc.slen → s.g.loop = some lp →
      lp.regsAt (BitVec.ofNat 32 (s.ln.scode.readLE s.g.pc 4)) = some w → decodeScalar (lp.immAt w) = .ok i →
      s.turns = ⟨0, 0, .scalar⟩ :: ts → step s = exec i { s with turns := ts }) ∧
    (∀ (b : Bool) (r : RunUnit) (p : Path), s.turns = ⟨0, 0, .lane b⟩ :: ts → s.g.run = some r → r.path b = some p →
      p.pc < s.ln.desc.llen → s.fetchBar (s.ln.desc.lcodeVa + 12 * p.pc) 12 = none →
      (∀ c, p.clause = some c → decodeLaneAt c.place (BitVec.ofNat 96 (s.ln.lcode.readLE (12 * p.pc) 12)) = .ok i →
        step s = exec i { s with turns := ts, slot := b }) ∧
      (∀ h, p.clause = none → decodeHeader (BitVec.ofNat 96 (s.ln.lcode.readLE (12 * p.pc) 12)) = .ok h →
        step s = exec (.clauseHeader h) { s with turns := ts, slot := b })) ∧
    (s.turns = ⟨0, 0, .matrix⟩ :: ts → s.matrixLive = true → s.wg.seq.mpc < s.ln.desc.mlen →
      s.fetchBar (s.ln.desc.mcodeVa + 8 * s.wg.seq.mpc) 8 = none →
      decodeMatrix (BitVec.ofNat 64 (s.ln.mcode.readLE (8 * s.wg.seq.mpc) 8)) = .ok i →
      step s = exec i { s with turns := ts }) ∧
    (s.turns = ⟨0, 0, .event i⟩ :: ts → step s = exec i { s with turns := ts }) ∧
    (∀ t q x k ks, s.turns = ⟨0, 0, .command t q⟩ :: ts → s.queueOf t q = some x → x.busy = none → x.cmds = k :: ks →
      cmdInstr k = some i → step s = exec i { s with turns := ts })

/-- Words written out from the encodings of 12, 14, 15 and 17 decode to the instructions that they stand for. -/
def Obligations.DecodeWords : Prop :=
  decodeTableWord 32 0x0D4F8008 = some (.saddi 20 62 8) ∧ decodeTableWord 32 0x08310502 = some (.sset .lt 3 4 5) ∧
  decodeTableWord 32 0x61F00010 = some (.call 31 0x10) ∧ decodeTableWord 32 0x5C1FFFFE = some (.bpnone 1 0xFFFFE) ∧
  decodeTableWord 32 0xE0000042 = some (.trap 0x42) ∧ decodeTableWord 32 0xE8400003 = some (.srr 4 3) ∧
  decodeTableWord 32 0xEC014000 = some (.srw 5 0) ∧
  decodeTableWord 64 0x0208C00000001234 = some (.mli 2 3 0x1234) ∧ decodeTableWord 64 0x1C00000000000000 = some (.mbr 0) ∧
  decodeTableWord 96 0xC12FFF983060000000000000 =
    some (.clauseHeader ⟨2, 0xFFF, true, 3, false, 0, true, 32, true, true⟩) ∧
  decodeTableWord 96 0x200000101006FF8000000000 =
    some (.iadd ⟨false, false, 0, .v 1, .v 2, false, .v 3, false, .none, false, 0, false, 0, 0⟩ .wrap) ∧
  decodeTableWord 96 0x0407A8044192024000000000 =
    some (.ffma ⟨true, true, 5, .o 0, .w 0, false, .s 9, false, .v 4, true, 0, false, 0, 0⟩ .f16 false) ∧
  decodeTableWord 96 0x9008008413FEFF9060FFFFF0 =
    some (.ldG ⟨false, false, 0, .v 8, .o 2, false, .none, false, .none, false, 1, false, 0, 0x60FFFFF0⟩ .b32)

/-- Decoding the word of a well-formed instruction of any of the three streams gives the instruction back: no bit of an
operand is dropped (12 R174, R177, R185, R186, R190). -/
def Sys2Proof.Claims.EncodedDecodes : Prop :=
  ∀ (i : Instr) (w : CodeWord), i.WellFormed = true → encode i = some w → decode w = .ok i

/-- A word that decodes is the word of its instruction, which is well formed: no two words mean one instruction, and no
reserved bit is ignored (12 R174). -/
def Sys2Proof.Claims.DecodedEncodes : Prop :=
  ∀ (w : CodeWord) (i : Instr), decode w = .ok i → encode i = some w ∧ i.WellFormed = true

/-- Every step keeps the canonical form of every byte list of the device, in every state that has it. -/
def Obligations.CanonicalKept : Prop := ∀ s t : State, s.Canonical → step s = .next t → t.Canonical

/-- Every step keeps the containment table in order: each record once, under an index of the table (10 R143). -/
def Obligations.TreeIndexedKept : Prop := ∀ s t : State, s.TreeIndexed → step s = .next t → t.TreeIndexed

/-- Every instruction and step of the device answers a next state in every state: nothing is refused. That the machine stops, by the fault
`powerOff`, where it has no power is the model's: 28 R381 names no such stop (DEDUCED, log 69). -/
def Obligations.EveryInstructionAnswers : Prop :=
  (∀ (i : Instr) (s : State), ∃ t, exec i s = .next t) ∧
  ∀ s : State, (s.mayMove = true → ∃ t, step s = .next t) ∧ (s.mayMove = false → step s = .fault .powerOff)

/-- The words of 14 R200 to R202: where each instruction stands, which registers it takes, which fields are reserved. -/
def Sys2Proof.Claims.ArithmeticEncodings : Prop :=
  ∀ (d a b : SReg) (fn2 : BitVec 2) (i : BitVec 12),
    let writes := fun (x : Instr) => if d.toNat < 48 then Except.ok x else Except.error DecodeError.badOperandClass
    let even := fun (n : SReg) => n.toNat % 2 = 0
    (∀ e ∈ aluTable.zipIdx, decodeScalar (0x01#6 ++ d ++ a ++ b ++ BitVec.ofNat 8 e.2) = writes (e.1.1 d a b)) ∧
    decodeScalar (0x01#6 ++ d ++ a ++ b ++ 0x0F#8) = writes (.ssel d a b) ∧
    (∀ e ∈ alu64Table.zipIdx, decodeScalar (0x01#6 ++ d ++ a ++ b ++ BitVec.ofNat 8 (0x10 + e.2)) =
      if even d ∧ even a ∧ even b then writes (e.1.1 d a b) else .error .badOperandClass) ∧
    decodeScalar (0x01#6 ++ d ++ a ++ b ++ 0x13#8) = (if b = 0 then writes (.sclz d a) else .error .reservedField) ∧
    decodeScalar (0x01#6 ++ d ++ a ++ b ++ 0x14#8) = (if b = 0 then writes (.spopc d a) else .error .reservedField) ∧
    (∀ e ∈ [(SCond.eq, 0), (.ne, 1), (.lt, 2), (.ge, 3), (.ltu, 4), (.geu, 5)],
      decodeScalar (0x02#6 ++ d ++ a ++ b ++ BitVec.ofNat 8 e.2) = writes (.sset e.1 d a b) ∧
      decodeScalar (0x02#6 ++ d ++ a ++ b ++ BitVec.ofNat 8 (0x10 + e.2)) =
        if even a ∧ even b then writes (.sset64 e.1 d a b) else .error .badOperandClass) ∧
    (∀ e ∈ [(Instr.saddi, 3), (.sandi, 4), (.sori, 5), (.sxori, 6)],
      decodeScalar (BitVec.ofNat 6 e.2 ++ d ++ a ++ fn2 ++ i) =
        if fn2 = 0 then writes (e.1 d a i) else .error .reservedField) ∧
    (∀ e ∈ [(Instr.sshli, 0), (.sshri, 1), (.ssrai, 2)],
      decodeScalar (0x07#6 ++ d ++ a ++ BitVec.ofNat 2 e.2 ++ i) =
        if i.toNat < 64 then writes (e.1 d a i) else .error .reservedField) ∧
    decodeScalar (0x07#6 ++ d ++ a ++ 3#2 ++ i) = .error .illegalOpcode

/-- The words of 14 R207 to R209. -/
def Sys2Proof.Claims.BranchEncodings : Prop :=
  ∀ (d a b : SReg) (fn : BitVec 8) (i : BitVec 20),
    decodeScalar (0x10#6 ++ a ++ i) = (if a = 0 then .ok (.br i) else .error .reservedField) ∧
    decodeScalar (0x11#6 ++ a ++ i) = .ok (.beqz a i) ∧ decodeScalar (0x12#6 ++ a ++ i) = .ok (.bnez a i) ∧
    decodeScalar (0x13#6 ++ a ++ i) = .ok (.bltz a i) ∧ decodeScalar (0x14#6 ++ a ++ i) = .ok (.bgez a i) ∧
    (∀ e ∈ [(Instr.bpany, 0x15), (.bpall, 0x16), (.bpnone, 0x17)], decodeScalar (BitVec.ofNat 6 e.2 ++ a ++ i) =
      if a.toNat < 8 then .ok (e.1 (a.setWidth 3) i) else .error .reservedField) ∧
    decodeScalar (0x18#6 ++ a ++ i) = (if a.toNat < 48 then .ok (.call a i) else .error .badOperandClass) ∧
    decodeScalar (0x19#6 ++ d ++ a ++ b ++ fn) =
      if d = 0 ∧ b = 0 ∧ fn = 0 then .ok (.jr a) else .error .reservedField

/-- The words of 14 R210 and R217. -/
def Sys2Proof.Claims.NopTrelEncodings : Prop :=
  (∀ x : BitVec 26, decodeScalar (0x23#6 ++ x) = if x = 0 then .ok .nop else .error .reservedField) ∧
  (∀ (d a b : SReg) (fn : BitVec 8), decodeScalar (0x22#6 ++ d ++ a ++ b ++ fn) =
    if d.toNat < 8 ∧ a = 0 ∧ b = 0 ∧ fn = 0 then .ok (.trel (d.setWidth 3)) else .error .reservedField)

/-- The word of 17 R300, and that no `TRAP` stands in a loop body (12 R180). -/
def Sys2Proof.Claims.TrapEncoding : Prop :=
  (∀ (a : SReg) (i : BitVec 20), decodeScalar (0x38#6 ++ a ++ i) =
    if a = 0 then .ok (.trap i) else .error .reservedField) ∧
  (∀ (l : Launch) (pc n count : Nat) (lp : LoopSt), l.loopAt pc n count = .ok lp → ∀ k, k < n →
    opOf (BitVec.ofNat 32 (l.scode.readLE (lp.body + 4 * k) 4)) ≠ 0x38)
end

section
open Sys2Proof

/-- Every scalar arithmetic word writes the result of 14 R200 to R202 and leaves all else but the PC unchanged. -/
def Obligations.ScalarArithmetic : Prop := Claims.ArithmeticEncodings ∧ Claims.ScalarAluResult ∧ Claims.SselResult ∧ Claims.ScalarImmResult ∧ Claims.ScalarPairResult ∧ Claims.SsetResult

/-- Literals, pools, uniform loads and uniform stores (12 R192, R193, 14 R204, R205). That `SLIT` and `JR` report 0x12 before 0x10 is
the model's reading (DEDUCED, log 4), as R193 and R209 give no order. -/
def Obligations.LiteralsAndUniformMemory : Prop := Claims.LiteralLoad ∧ Claims.PoolAndJumpOrder ∧ Claims.UniformLoad ∧ Claims.UniformStore

/-- Branches, `CALL` and `JR` (14 R207 to R209). -/
def Obligations.BranchesAndCalls : Prop := Claims.BranchEncodings ∧ Claims.BranchTarget ∧ Claims.CallReturn

/-- `LOOP` with its `LINC` words, what it refuses, and `ENQ` (14 R211, R212, R214, 12 R180). The order of its refusals is the model's
(DESIGN CHOICE, log 94), and so is that a page which may not be fetched faults there (DEDUCED, log 84). -/
def Obligations.LoopsAndUnits : Prop := Claims.LoopStart ∧ Claims.EnqueueRecords

/-- `TMAP`, `TREL`, `NOP` and `ENDG` (14 R216 to R219). -/
def Obligations.TranslationAndGroupEnd : Prop := Claims.NopTrelEncodings ∧ Claims.TranslationRegisters ∧ Claims.EndGroup

/-- `PGET`, `PYIELD` and `PRETIRE` (16 R278 to R280). That detail 2 of `PYIELD` is decided in a handler on the unit set aside is the model's
reading (DEDUCED, log 80). -/
def Obligations.BlocksTakenAndGiven : Prop := Claims.PgetOutcomes ∧ Claims.PyieldOutcomes ∧ Claims.PretireRetires

/-- `BINIT`, `ARRIVE` and `ARRIVE.REL` (16 R267, R268). The order 0x01, 0x12, 0x13, 0x30 of `BINIT` is the model's
reading (DEDUCED, log 4), and that `ARRIVE.REL` publishes to memory at every scope is its choice (DESIGN CHOICE, log
11). -/
def Obligations.BarrierWords : Prop := Claims.BarrierInit ∧ Claims.BarrierArrive ∧ Claims.BarrierRefuses

/-- `JOB`, `RESIDE` and `RESIDE.B` (16 R266, R272). -/
def Obligations.EngineRequests : Prop := Claims.JobAccepted ∧ Claims.ResideRequests

/-- `ENROLL`, `ENROLL.R`, `SETTLE`, `REPARENT` and `CREAD` (16 R281, R282). That `SETTLE` and `REPARENT` look at their first handle before
anything else is the model's order (DESIGN CHOICE, log 94). -/
def Obligations.TreeWords : Prop := Claims.TreeHandles ∧ Claims.EnrollMakesRecords ∧ Claims.SettleAndReparent

/-- `TRAP` and every precise fault of a scalar word enter the handler (24 R333, R335, 17 R300, R301). The entry is
that of 17 R301, 24 R333 and R335, and the condition on a loop body is 12 R180's; the causes 0x14 and 0x50, which are
no precise faults of the word alone, are left out. -/
def Obligations.FaultEntry : Prop := Claims.TrapEncoding ∧ Claims.TrapEntry ∧ Claims.ScalarFaultEntry

/-- The three forms of `HRET` (17 R302, 01 R37, R38). That a TEPC both misaligned and outside the section gives 0x12 is the model's order
(DEDUCED, log 4); further readings are those of logs 16, 28 and 48. -/
def Obligations.HandlerExits : Prop := Claims.HandlerReturn ∧ Claims.Dispositions

/-- `SRR` and `SRW` (17 R303). That `SRW` of a handler address both misaligned and outside the section gives 0x12 is the model's order
(DEDUCED, log 4). -/
def Obligations.StatusRegisters : Prop := Claims.StatusRead ∧ Claims.StatusWrite

/-- `HALT`, `MSTART`, `POOL` and the end of a stream (17 R286, R287, R304). -/
def Obligations.StreamsAndHalt : Prop := Claims.HaltCancels ∧ Claims.StreamStartEnd

/-- The sequencer words on M registers and reservation records (17 R288 to R290). -/
def Obligations.SequencerWords : Prop := Claims.SequencerRegisters ∧ Claims.ReservationRecords

/-- How a lane word reads its operands and where its result goes (03 R53 to R61). -/
def Obligations.LaneOperands : Prop := Claims.LaneOperandReads ∧ Claims.LaneResultPlacement ∧ Claims.LaneScalarResult

/-- Clause headers and arrivals at a reconvergence address (12 R186, 15 R249). That TLANES of their faults is the mask of the path (DEDUCED,
log 5) and that a clause which leaves the section gives 0x10 at its header, without effect (DEDUCED, log 16), are the model's readings. -/
def Obligations.ClausesAndJoins : Prop := Claims.ClauseHeaders ∧ Claims.JoinArrival

/-- `LBR`, `LJOIN`, `LEND` and the array-length words (15 R246 to R252). That 0x10 where a path goes on or merges
outside the section (12 R176) leaves the word without effect is the model's reading (DEDUCED, log 16), and so is the
end of the path not taken (DEDUCED, log 21), and that TLANES of the faults 0x03, 0x05 and 0x10 is the mask of the path (DEDUCED, log 5). -/
def Obligations.LaneControl : Prop := Claims.LaneBranch ∧ Claims.LaneJoinEnd ∧ Claims.ArrayLength

/-- Lane loads and stores (16 R254 to R256). -/
def Obligations.LaneMemory : Prop := Claims.LaneLoads ∧ Claims.LaneStores

/-- Lane atomics and reductions (16 R257 to R263). -/
def Obligations.LaneAtomicsReductions : Prop := Claims.LaneAtomics ∧ Claims.LaneReductions

/-- `MMA` and its K-steps, and `MZERO` (11 R166, R167, 17 R291 to R294). -/
def Obligations.MatrixArithmetic : Prop := Claims.MatrixProduct ∧ Claims.MatrixIntegerSums ∧ Claims.MatrixZero

/-- `MWAIT`, `MARV`, `MEND`, `MBR`, `MLOOP` and `MNOP` (17 R296 to R298). -/
def Obligations.MatrixControl : Prop := Claims.MatrixBarriers ∧ Claims.MatrixSteering

/-- Entries are assigned and pages sensed (01 R19 to R24, R27). -/
def Obligations.DispenserAssigns : Prop := Claims.EntryAssignment ∧ Claims.FlashSense

/-- Bytes land in slots; blocks are copied out and come back (01 R22 to R24, R41, R42). -/
def Obligations.LandingsAndCopies : Prop := Claims.LandingCredit ∧ Claims.CopyOutAndBack

/-- Flash, peer and cipher jobs (16 R275, 26 R365, 28 R376). That a page whose key is gone gives CODE 2 and zeros is
the model's reading (DEDUCED, log 36), and that a step of `SEND` or `FETCH` takes the whole 4,096 bytes that 16 R275 allows is its choice
(DESIGN CHOICE, log 8). -/
def Obligations.FlashAndCipherJobs : Prop := Claims.JobStepsFlash ∧ Claims.CipherIn

/-- Jobs complete, and transfers between devices (16 R277, 28 R376). That a peer is reached while at least one link is
up, and so that links = 0 decides, is the model's choice (DESIGN CHOICE, log 57). -/
def Obligations.JobsEnd : Prop := Claims.JobCompletes ∧ Claims.PeerTransfers

/-- Deltas roll up, and settles drain (10 R149, R151). That all rollups which are left take place in the step of the settle (DESIGN CHOICE,
log 8), and that the first settle of the workgroup completes first whatever barrier it names (DESIGN CHOICE, log 96), are the model's. -/
def Obligations.TreeRollsUp : Prop := Claims.RollupAddsDelta ∧ Claims.SettleDrains

/-- Residency requests complete, and frames move between tiers (07 R109, R111, R112, R117). -/
def Obligations.FramesReside : Prop := Claims.ResidencyCompletes ∧ Claims.FramesMove

/-- Heartbeat, periods, slices and timers (08 R134, 23 R320, R321, R328). That a tick keeps the fraction of a
nanosecond is the model's reading (DEDUCED, log 65), and that it does nothing while something is due is its choice
(DESIGN CHOICE, log 73). -/
def Obligations.TimeSlicesTimers : Prop := Claims.TimeAndSlices ∧ Claims.TimerReleases

/-- The commands but for `MAP` and `UNMAP` (23 R313, R318, R327). That packet numbers are counted for each tenant, so
that FULL is of its own NUM, is the model's reading (DEDUCED, log 62), and the lowest free ticket is its choice
(DESIGN CHOICE, log 61). -/
def Obligations.QueueCommands : Prop := Claims.LaunchCancelDrain ∧ Claims.TimersAndTinval

/-- Queue blocks, NOTIFY, and the other writes of registers (23 R309 to R312, R330, 28 R370, R371). What is dropped or
ignored without an IDE stream is the model's reading (DEDUCED, log 88), and so are what a function-level reset does in
ERROR and with held NOTIFY writes (DEDUCED, log 67), a NOTIFY at a disabled queue (DEDUCED, log 33), and that a write of 64 bits at an error
count sets it to the low 32 of them (DEDUCED, log 40). -/
def Obligations.RegistersAndQueues : Prop := Claims.QueueRegisters ∧ Claims.HostRegisters

/-- Contexts and namespaces are created and deleted (23 R314, 26 R367, 28 R378). The model's own readings: RESULT 4
where no FLASH slot is free (DESIGN CHOICE, log 39), what becomes of queued commands at CONTEXT_DELETE (DEDUCED, log
66), PAGES 0 accepted (DEDUCED, log 59), the policy kept (DESIGN CHOICE, log 41), and what the quotas are held against
(DEDUCED, log 38). -/
def Obligations.ContextsAndNamespaces : Prop := Claims.Contexts ∧ Claims.Namespaces

/-- Device interfaces, the key vault, sessions, measurements, the boot chain and the management cores (26 R353 to
R367, 28 R374). The model's own readings: a stream opened on an empty slot (DEDUCED, log 68), the loss of the IDE
stream and STOP in every state (DEDUCED, log 67), the bytes that are wrapped (PRESUMED, log 24; DESIGN CHOICE, log
41), what sessions, signatures and measurement blocks are made of (PRESUMED, log 87), the PMP (PRESUMED, log 86), and a page table that maps
nothing after a teardown (DEDUCED, log 37). -/
def Obligations.Trust : Prop :=
  Claims.DeviceInterfaces ∧ Claims.KeyVault ∧ Claims.SessionsAndBoot ∧ Claims.ManagementCores

/-- Power states, virtual functions, errors and spares (24 R346 to R348, 28 R370 to R382). The model's own readings:
what a loss of power keeps (DEDUCED, log 69), LEFT 0 of a spare core or die (DEDUCED, log 70), the last Belrik link
(DESIGN CHOICE, log 57), poisoned copies at the loss of a memory device (DEDUCED, log 71; the device's places are
DESIGN CHOICE, log 81), how wear is counted (log 93). -/
def Obligations.PowerAndService : Prop := Claims.PowerStates ∧ Claims.VirtualFunctions ∧ Claims.ErrorsAndSpares

/-- The state after reset, where the invariants hold. -/
def Obligations.AfterReset : Prop := Claims.ResetState ∧ Claims.ResetInvariants

/-- Decoding the word of a well-formed instruction gives it back, and a word that decodes is the word of its instruction, which is well formed (12 R174). -/
def Obligations.EncodingsAgree : Prop := Claims.EncodedDecodes ∧ Claims.DecodedEncodes

end

section
open Sys2Proof Sys2Proof.Machine

/-- `TMAP`, `TREL`, `NOP` and `ENDG` complete wherever they can begin, and `MST` with its rows wherever its last row meets nothing (14 R210,
R216, R217, R219, 17 R295). -/
def Obligations.WordsComplete : Prop :=
  (∀ (s : State) (n : BitVec 3) (a b : SReg), (Instr.tmap n a b).WellFormed = true → s.ScalarReady false [a, a + 1, b] →
    exec (.tmap n a b) s = .next { s with g := { s.g with
      t := vset s.g.t n.toNat (s.tmapRun s.tenant ((s.readPair a).toNat % 2 ^ 56) (min (s.readS b).toNat 0x200000))
      pc := s.g.after.1, loop := s.g.after.2, timeHi := s.latched [a, b] } }) ∧
  (∀ (s : State) (n : BitVec 3), s.ScalarReady false [] → exec (.trel n) s = .next { s with g := { s.g with
    t := vset s.g.t n.toNat ⟨false, false, 0, 0, 0⟩, pc := s.g.after.1, loop := s.g.after.2 } }) ∧
  (∀ s : State, s.ScalarReady false [] →
    exec .nop s = .next { s with g := { s.g with pc := s.g.after.1, loop := s.g.after.2 } }) ∧
  (∀ s : State, s.Focused → s.scalarGate true true [] = true → ∃ t, exec .endg s = .next t ∧ t.g.st = .ended) ∧
  (∀ s : State, s.Focused → s.scalarGate true true [] = true → s.g.holds = false → s.g.faults = [] → s.g.saved = none →
    ¬ (s.wg.seq.run ∧ s.wg.seq.flt ∧ s.wg.seq.owner = s.g.gid) →
    exec .endg s = .next (s.endGroup s.g.wgId s.g.gid)) ∧
  ∀ (s : State) (f : SFmt) (cr : Bool) (a k x : BitVec 4) (tr : BitVec 3) (tc : BitVec 4) (cb : BitVec 7) (bar : BitVec 4),
    s.MatrixReady → ∀ o, s.mstOf f cr a k x tr tc cb bar = .ok o → ∀ j, s.wordJob = some j → j.st = .running →
      ∀ e ∈ [Instr.mst f cr a k x tr tc cb bar, .mstRow], (e = .mstRow → s.AtWord (.mst f cr a k x tr tc cb bar)) →
        let i := progRow s.wg.seq.mprog
        let u := s.writeRow (o.row i) (s.rowBytes o i).1
        s.wg.seq.mprog.getLsbD 30 = false → o.t.coln ≠ 0 → o.t.rown = i + 1 → s.rowMeets (o.row i) = none → s.StoreCredits u o →
          ∃ t, exec e s = .next t ∧ s.StoreDone u t o j.lid (s.wg.seq.sticky ||| (s.rowBytes o i).2)

end
end

