-- ==== Sys2Proof/Laws/Memory.lean ====
section
/-! SUPPORT. Byte lists and vectors: what a read gives after a write, and that every operation keeps the canonical form. -/
namespace Sys2Proof.Machine

/-! ## Vectors -/

@[simp] theorem vget_vset {α : Type} {n : Nat} (v : Vector α n) (i : Nat) (x d : α) (h : i < n) :
    vget (vset v i x) i d = x := by simp [vget, vset, h]

theorem vget_vset_ne {α : Type} {n : Nat} (v : Vector α n) {i j : Nat} (x d : α) (h : i ≠ j) :
    vget (vset v i x) j d = vget v j d := by
  unfold vget vset
  by_cases hi : i < n
  · by_cases hj : j < n
    · simp [hi, hj, h]
    · simp [hj]
  · simp [hi]

theorem vset_oob {α : Type} {n : Nat} (v : Vector α n) {i : Nat} (x : α) (h : n ≤ i) : vset v i x = v := by
  simp [vset, Nat.not_lt.mpr h]

theorem vget_oob {α : Type} {n : Nat} (v : Vector α n) {i : Nat} (d : α) (h : n ≤ i) : vget v i d = d := by
  simp [vget, Nat.not_lt.mpr h]

/-! ## The canonical form of a byte list -/

/-- Every address of the list is at least lo. -/
def Mem.above (lo : Nat) (m : Mem) : Prop := ∀ c ∈ m, lo ≤ c.1

theorem Mem.wf_cons {c : Host.Cell} {m : Mem} :
    Mem.wf (c :: m) = true ↔ c.2 ≠ 0 ∧ Mem.above (c.1 + 1) m ∧ Mem.wf m = true := by
  induction m generalizing c with
  | nil => simp [Mem.wf, Mem.above]
  | cons d m ih =>
    have h := ih (c := d)
    simp only [Mem.wf, Bool.and_eq_true, bne_iff_ne, decide_eq_true_eq, Mem.above, List.mem_cons, forall_eq_or_imp] at *
    constructor
    · rintro ⟨⟨h1, h2⟩, h3⟩
      exact ⟨h1, ⟨h2, fun x hx => by have := (h.mp h3).2.1 x hx; omega⟩, h3⟩
    · rintro ⟨h1, ⟨h2, -⟩, h3⟩
      exact ⟨⟨h1, h2⟩, h3⟩

theorem Mem.wf_tail {c : Host.Cell} {m : Mem} (h : Mem.wf (c :: m) = true) : Mem.wf m = true := (Mem.wf_cons.mp h).2.2

theorem Mem.get_below {m : Mem} {a : Nat} (h : m.above (a + 1)) : m.get a = 0 := by
  cases m with
  | nil => rfl
  | cons c m =>
    have h1 := h c (by simp)
    rw [Mem.get, if_pos (by omega)]

theorem Mem.above_set {m : Mem} {lo a : Nat} {b : Byte} (h : m.above lo) (ha : lo ≤ a) : (m.set a b).above lo := by
  induction m with
  | nil =>
    unfold Mem.set
    split
    · exact h
    · intro c hc
      simp only [List.mem_singleton] at hc
      exact hc ▸ ha
  | cons d m ih =>
    have hm : Mem.above lo m := fun c hc => h c (List.mem_cons_of_mem _ hc)
    have hd := h d (by simp)
    unfold Mem.set
    split
    · split
      · exact h
      · intro c hc
        rcases List.mem_cons.mp hc with rfl | hc
        · exact ha
        · exact h c hc
    · split
      · split
        · exact hm
        · intro c hc
          rcases List.mem_cons.mp hc with rfl | hc
          · exact ha
          · exact hm c hc
      · intro c hc
        rcases List.mem_cons.mp hc with rfl | hc
        · exact hd
        · exact ih hm c hc

/-- A write of one byte keeps the canonical form. -/
theorem Mem.wf_set {m : Mem} (a : Nat) (b : Byte) (h : m.wf = true) : (m.set a b).wf = true := by
  induction m with
  | nil =>
    unfold Mem.set
    split
    · rfl
    · next hb => exact Mem.wf_cons.mpr ⟨hb, by simp [Mem.above], rfl⟩
  | cons d m ih =>
    obtain ⟨h1, h2, h3⟩ := Mem.wf_cons.mp h
    unfold Mem.set
    split
    · next hlt =>
      split
      · exact h
      · next hb =>
        refine Mem.wf_cons.mpr ⟨hb, ?_, h⟩
        intro c hc
        rcases List.mem_cons.mp hc with rfl | hc
        · exact hlt
        · have := h2 c hc; omega
    · split
      · next heq =>
        split
        · exact h3
        · next hb => exact Mem.wf_cons.mpr ⟨hb, heq ▸ h2, h3⟩
      · exact Mem.wf_cons.mpr ⟨h1, Mem.above_set h2 (by omega), ih h3⟩

/-- So does a write of several. -/
theorem Mem.wf_write {m : Mem} (a : Nat) (bs : List Byte) (h : m.wf = true) : (m.write a bs).wf = true := by
  induction bs generalizing m a with
  | nil => exact h
  | cons b bs ih => exact ih (a + 1) (Mem.wf_set a b h)

/-- So does a write of a number. -/
theorem Mem.wf_writeLE {m : Mem} (a n v : Nat) (h : m.wf = true) : (m.writeLE a n v).wf = true := Mem.wf_write _ _ h

theorem Mem.wf_filter {m : Mem} (p : Host.Cell → Bool) (h : m.wf = true) : Mem.wf (m.filter p) = true := by
  induction m with
  | nil => rfl
  | cons c m ih =>
    obtain ⟨h1, h2, h3⟩ := Mem.wf_cons.mp h
    rw [List.filter_cons]
    split
    · exact Mem.wf_cons.mpr ⟨h1, fun x hx => h2 x (List.mem_filter.mp hx).1, ih h3⟩
    · exact ih h3

/-- So does clearing a range. -/
theorem Mem.wf_clear {m : Mem} (a n : Nat) (h : m.wf = true) : (m.clear a n).wf = true := Mem.wf_filter _ h

/-- So does writing a list of cells one after the other. -/
theorem Mem.wf_foldl_set {m : Mem} (cells : List (Nat × Byte)) (h : m.wf = true) :
    (cells.foldl (fun m c => Mem.set m c.1 c.2) m).wf = true := by
  induction cells generalizing m with
  | nil => exact h
  | cons c cs ih => exact ih (Mem.wf_set _ _ h)

/-! ## A read after a write -/

/-- A read after a write of one byte. -/
theorem Mem.get_set {m : Mem} (a : Nat) (b : Byte) (x : Nat) (h : m.wf = true) :
    (m.set a b).get x = if x = a then b else m.get x := by
  induction m with
  | nil =>
    unfold Mem.set
    by_cases hx : x = a
    · subst hx
      split
      · next hb => simp [hb, Mem.get]
      · simp [Mem.get]
    · split
      · simp [Mem.get]
      · simp [Ne.symm hx, Mem.get]
  | cons d m ih =>
    obtain ⟨h1, h2, h3⟩ := Mem.wf_cons.mp h
    unfold Mem.set
    split
    · next hlt =>
      by_cases hx : x = a
      · subst hx
        split
        · next hb => simp [hb, Mem.get, hlt]
        · simp [Mem.get]
      · split
        · simp
        · rw [Mem.get]
          split
          · next h4 => rw [Mem.get, if_pos (by omega : x < d.1)]
          · rw [if_neg (Ne.symm hx)]
    · split
      · next heq =>
        have hlow : Mem.get m a = 0 := Mem.get_below (heq ▸ h2)
        by_cases hx : x = a
        · subst hx
          split
          · next hb => simp [hb, hlow]
          · simp [Mem.get]
        · have hskip : Mem.get (d :: m) x = if x < a then 0 else Mem.get m x := by
            rw [Mem.get, heq, if_neg (Ne.symm hx)]
          rw [if_neg hx, hskip]
          split
          · split
            · exact Mem.get_below fun c hc => by have := h2 c hc; omega
            · rfl
          · rw [Mem.get, if_neg (Ne.symm hx)]
      · next hge hne =>
        rw [Mem.get, ih h3]
        by_cases hx : x = a
        · subst hx
          simp [hge, hne]
        · simp only [hx, if_false]
          rfl

/-- A byte outside the written ones reads as before. -/
theorem Mem.get_write_other {m : Mem} (a : Nat) (bs : List Byte) (x : Nat) (h : m.wf = true)
    (hx : x < a ∨ a + bs.length ≤ x) : (m.write a bs).get x = m.get x := by
  induction bs generalizing m a with
  | nil => rfl
  | cons b bs ih =>
    simp only [List.length_cons] at hx
    rw [Mem.write, ih (a + 1) (Mem.wf_set a b h) (by omega), Mem.get_set _ _ _ h, if_neg (by omega)]

/-- A written byte reads as it was written. -/
theorem Mem.get_write {m : Mem} (a : Nat) (bs : List Byte) (i : Nat) (h : m.wf = true) (hi : i < bs.length) :
    (m.write a bs).get (a + i) = bs[i] := by
  induction bs generalizing m a i with
  | nil => simp at hi
  | cons b bs ih =>
    cases i with
    | zero => rw [Mem.write, Mem.get_write_other _ _ _ (Mem.wf_set a b h) (by omega), Nat.add_zero, Mem.get_set _ _ _ h]; simp
    | succ i =>
      have := ih (m := m.set a b) (a + 1) i (Mem.wf_set a b h) (by simpa using hi)
      rw [Mem.write, show a + (i + 1) = a + 1 + i by omega, this]
      simp

/-- The bytes of a written range. -/
theorem Mem.bytes_write {m : Mem} (a : Nat) (bs : List Byte) (h : m.wf = true) :
    (m.write a bs).bytes a bs.length = bs := by
  apply List.ext_getElem
  · simp [Mem.bytes]
  · intro i h1 h2
    simp [Mem.bytes, Mem.get_write a bs i h h2]

/-- A byte after a range has been cleared. -/
theorem Mem.get_clear {m : Mem} (a n x : Nat) (h : m.wf = true) :
    (m.clear a n).get x = if a ≤ x ∧ x < a + n then 0 else m.get x := by
  induction m with
  | nil => simp [Mem.clear, Mem.get]
  | cons c m ih =>
    obtain ⟨h1, h2, h3⟩ := Mem.wf_cons.mp h
    have ih := ih h3
    unfold Mem.clear at ih ⊢
    rw [List.filter_cons]
    split
    · next hk =>
      simp only [Bool.or_eq_true, decide_eq_true_eq] at hk
      simp only [Mem.get, ih]
      by_cases hx : x < c.1
      · simp [hx]
      · by_cases he : c.1 = x
        · subst he
          have : ¬ (a ≤ c.1 ∧ c.1 < a + n) := by omega
          simp [this]
        · simp [hx, he]
    · next hk =>
      simp only [Bool.or_eq_true, decide_eq_true_eq, not_or, Nat.not_lt, Nat.not_le] at hk
      rw [ih]
      by_cases hr : a ≤ x ∧ x < a + n
      · simp [hr]
      · simp only [hr, if_false, Mem.get]
        by_cases hx : x < c.1
        · simp only [hx, if_true]
          exact Mem.get_below fun d hd => by have := h2 d hd; omega
        · have : c.1 ≠ x := by omega
          simp [hx, this]

/-- The length of a number's bytes. -/
@[simp] theorem leBytes_length (n v : Nat) : (leBytes n v).length = n := by
  induction n generalizing v with
  | zero => rfl
  | succ n ih => simp [leBytes, ih]

/-- A number read back from its bytes. -/
theorem leNat_leBytes (n v : Nat) : leNat (leBytes n v) = v % 256 ^ n := by
  induction n generalizing v with
  | zero => simp [leBytes, leNat, Nat.mod_one]
  | succ n ih =>
    rw [leBytes, leNat, ih, BitVec.toNat_ofNat, show 256 ^ (n + 1) = 256 * 256 ^ n by rw [Nat.pow_succ, Nat.mul_comm], Nat.mod_mul,
      show (2 : Nat) ^ 8 = 256 from rfl]

/-- A number read where it was written. -/
theorem Mem.readLE_writeLE {m : Mem} (a n v : Nat) (h : m.wf = true) : (m.writeLE a n v).readLE a n = v % 256 ^ n := by
  have := Mem.bytes_write (m := m) a (leBytes n v) h
  rw [leBytes_length] at this
  rw [Mem.readLE, Mem.writeLE, this, leNat_leBytes]

end Sys2Proof.Machine
end

