-- ==== Sys2Proof/Laws/State.lean ====
section
/-! SUPPORT. One lemma per field per update of the records that the named operations change. -/
namespace Sys2Proof.Machine

/-! ## State.writeS -/

@[simp] theorem State.writeS_wg (s : State) (n : SReg) (v : Word) : (s.writeS n v).wg = s.wg := rfl
@[simp] theorem State.writeS_ln (s : State) (n : SReg) (v : Word) : (s.writeS n v).ln = s.ln := rfl
@[simp] theorem State.writeS_core (s : State) (n : SReg) (v : Word) : (s.writeS n v).core = s.core := rfl
@[simp] theorem State.writeS_slot (s : State) (n : SReg) (v : Word) : (s.writeS n v).slot = s.slot := rfl
@[simp] theorem State.writeS_groups (s : State) (n : SReg) (v : Word) : (s.writeS n v).groups = s.groups := rfl
@[simp] theorem State.writeS_wgs (s : State) (n : SReg) (v : Word) : (s.writeS n v).wgs = s.wgs := rfl
@[simp] theorem State.writeS_launches (s : State) (n : SReg) (v : Word) : (s.writeS n v).launches = s.launches := rfl
@[simp] theorem State.writeS_cores (s : State) (n : SReg) (v : Word) : (s.writeS n v).cores = s.cores := rfl
@[simp] theorem State.writeS_mem (s : State) (n : SReg) (v : Word) : (s.writeS n v).mem = s.mem := rfl
@[simp] theorem State.writeS_hmem (s : State) (n : SReg) (v : Word) : (s.writeS n v).hmem = s.hmem := rfl
@[simp] theorem State.writeS_flash (s : State) (n : SReg) (v : Word) : (s.writeS n v).flash = s.flash := rfl
@[simp] theorem State.writeS_fit (s : State) (n : SReg) (v : Word) : (s.writeS n v).fit = s.fit := rfl
@[simp] theorem State.writeS_tree (s : State) (n : SReg) (v : Word) : (s.writeS n v).tree = s.tree := rfl
@[simp] theorem State.writeS_jobs (s : State) (n : SReg) (v : Word) : (s.writeS n v).jobs = s.jobs := rfl
@[simp] theorem State.writeS_porters (s : State) (n : SReg) (v : Word) : (s.writeS n v).porters = s.porters := rfl
@[simp] theorem State.writeS_resreqs (s : State) (n : SReg) (v : Word) : (s.writeS n v).resreqs = s.resreqs := rfl
@[simp] theorem State.writeS_ctxs (s : State) (n : SReg) (v : Word) : (s.writeS n v).ctxs = s.ctxs := rfl
@[simp] theorem State.writeS_funcs (s : State) (n : SReg) (v : Word) : (s.writeS n v).funcs = s.funcs := rfl
@[simp] theorem State.writeS_queues (s : State) (n : SReg) (v : Word) : (s.writeS n v).queues = s.queues := rfl
@[simp] theorem State.writeS_nss (s : State) (n : SReg) (v : Word) : (s.writeS n v).nss = s.nss := rfl
@[simp] theorem State.writeS_dev (s : State) (n : SReg) (v : Word) : (s.writeS n v).dev = s.dev := rfl
@[simp] theorem State.writeS_turns (s : State) (n : SReg) (v : Word) : (s.writeS n v).turns = s.turns := rfl
@[simp] theorem State.writeS_free (s : State) (n : SReg) (v : Word) : (s.writeS n v).free = s.free := rfl
@[simp] theorem State.writeS_g_st (s : State) (n : SReg) (v : Word) : (s.writeS n v).g.st = s.g.st := rfl
@[simp] theorem State.writeS_g_wgId (s : State) (n : SReg) (v : Word) : (s.writeS n v).g.wgId = s.g.wgId := rfl
@[simp] theorem State.writeS_g_gid (s : State) (n : SReg) (v : Word) : (s.writeS n v).g.gid = s.g.gid := rfl
@[simp] theorem State.writeS_g_age (s : State) (n : SReg) (v : Word) : (s.writeS n v).g.age = s.g.age := rfl
@[simp] theorem State.writeS_g_pc (s : State) (n : SReg) (v : Word) : (s.writeS n v).g.pc = s.g.pc := rfl
@[simp] theorem State.writeS_g_s (s : State) (n : SReg) (v : Word) : (s.writeS n v).g.s = vset s.g.s n.toNat v := rfl
@[simp] theorem State.writeS_g_o (s : State) (n : SReg) (v : Word) : (s.writeS n v).g.o = s.g.o := rfl
@[simp] theorem State.writeS_g_x (s : State) (n : SReg) (v : Word) : (s.writeS n v).g.x = s.g.x := rfl
@[simp] theorem State.writeS_g_p (s : State) (n : SReg) (v : Word) : (s.writeS n v).g.p = s.g.p := rfl
@[simp] theorem State.writeS_g_t (s : State) (n : SReg) (v : Word) : (s.writeS n v).g.t = s.g.t := rfl
@[simp] theorem State.writeS_g_f (s : State) (n : SReg) (v : Word) : (s.writeS n v).g.f = s.g.f := rfl
@[simp] theorem State.writeS_g_v (s : State) (n : SReg) (v : Word) : (s.writeS n v).g.v = s.g.v := rfl
@[simp] theorem State.writeS_g_timeHi (s : State) (n : SReg) (v : Word) : (s.writeS n v).g.timeHi = s.g.timeHi := rfl
@[simp] theorem State.writeS_g_blkidx (s : State) (n : SReg) (v : Word) : (s.writeS n v).g.blkidx = s.g.blkidx := rfl
@[simp] theorem State.writeS_g_pageno (s : State) (n : SReg) (v : Word) : (s.writeS n v).g.pageno = s.g.pageno := rfl
@[simp] theorem State.writeS_g_slotno (s : State) (n : SReg) (v : Word) : (s.writeS n v).g.slotno = s.g.slotno := rfl
@[simp] theorem State.writeS_g_pstat (s : State) (n : SReg) (v : Word) : (s.writeS n v).g.pstat = s.g.pstat := rfl
@[simp] theorem State.writeS_g_gstat (s : State) (n : SReg) (v : Word) : (s.writeS n v).g.gstat = s.g.gstat := rfl
@[simp] theorem State.writeS_g_missed (s : State) (n : SReg) (v : Word) : (s.writeS n v).g.missed = s.g.missed := rfl
@[simp] theorem State.writeS_g_astat (s : State) (n : SReg) (v : Word) : (s.writeS n v).g.astat = s.g.astat := rfl
@[simp] theorem State.writeS_g_rstat (s : State) (n : SReg) (v : Word) : (s.writeS n v).g.rstat = s.g.rstat := rfl
@[simp] theorem State.writeS_g_tcause (s : State) (n : SReg) (v : Word) : (s.writeS n v).g.tcause = s.g.tcause := rfl
@[simp] theorem State.writeS_g_tdetail (s : State) (n : SReg) (v : Word) : (s.writeS n v).g.tdetail = s.g.tdetail := rfl
@[simp] theorem State.writeS_g_tepc (s : State) (n : SReg) (v : Word) : (s.writeS n v).g.tepc = s.g.tepc := rfl
@[simp] theorem State.writeS_g_tvalo (s : State) (n : SReg) (v : Word) : (s.writeS n v).g.tvalo = s.g.tvalo := rfl
@[simp] theorem State.writeS_g_tvahi (s : State) (n : SReg) (v : Word) : (s.writeS n v).g.tvahi = s.g.tvahi := rfl
@[simp] theorem State.writeS_g_tlanes (s : State) (n : SReg) (v : Word) : (s.writeS n v).g.tlanes = s.g.tlanes := rfl
@[simp] theorem State.writeS_g_tpass (s : State) (n : SReg) (v : Word) : (s.writeS n v).g.tpass = s.g.tpass := rfl
@[simp] theorem State.writeS_g_hentry (s : State) (n : SReg) (v : Word) : (s.writeS n v).g.hentry = s.g.hentry := rfl
@[simp] theorem State.writeS_g_loop (s : State) (n : SReg) (v : Word) : (s.writeS n v).g.loop = s.g.loop := rfl
@[simp] theorem State.writeS_g_queue (s : State) (n : SReg) (v : Word) : (s.writeS n v).g.queue = s.g.queue := rfl
@[simp] theorem State.writeS_g_run (s : State) (n : SReg) (v : Word) : (s.writeS n v).g.run = s.g.run := rfl
@[simp] theorem State.writeS_g_saved (s : State) (n : SReg) (v : Word) : (s.writeS n v).g.saved = s.g.saved := rfl
@[simp] theorem State.writeS_g_faults (s : State) (n : SReg) (v : Word) : (s.writeS n v).g.faults = s.g.faults := rfl
@[simp] theorem State.writeS_g_flights (s : State) (n : SReg) (v : Word) : (s.writeS n v).g.flights = s.g.flights := rfl
@[simp] theorem State.writeS_g_nextFlight (s : State) (n : SReg) (v : Word) : (s.writeS n v).g.nextFlight = s.g.nextFlight := rfl
@[simp] theorem State.writeS_g_wset (s : State) (n : SReg) (v : Word) : (s.writeS n v).g.wset = s.g.wset := rfl
@[simp] theorem State.writeS_g_want (s : State) (n : SReg) (v : Word) : (s.writeS n v).g.want = s.g.want := rfl
@[simp] theorem State.writeS_g_granted (s : State) (n : SReg) (v : Word) : (s.writeS n v).g.granted = s.g.granted := rfl
@[simp] theorem State.writeS_g_spillOut (s : State) (n : SReg) (v : Word) : (s.writeS n v).g.spillOut = s.g.spillOut := rfl
@[simp] theorem State.writeS_g_stop (s : State) (n : SReg) (v : Word) : (s.writeS n v).g.stop = s.g.stop := rfl
@[simp] theorem State.writeS_g_abandon (s : State) (n : SReg) (v : Word) : (s.writeS n v).g.abandon = s.g.abandon := rfl
@[simp] theorem State.writeS_g_laneStop (s : State) (n : SReg) (v : Word) : (s.writeS n v).g.laneStop = s.g.laneStop := rfl
@[simp] theorem State.writeS_g_fence (s : State) (n : SReg) (v : Word) : (s.writeS n v).g.fence = s.g.fence := rfl

/-! ## State.writeP -/

@[simp] theorem State.writeP_wg (s : State) (n : BitVec 3) (v : Word) : (s.writeP n v).wg = s.wg := rfl
@[simp] theorem State.writeP_ln (s : State) (n : BitVec 3) (v : Word) : (s.writeP n v).ln = s.ln := rfl
@[simp] theorem State.writeP_core (s : State) (n : BitVec 3) (v : Word) : (s.writeP n v).core = s.core := rfl
@[simp] theorem State.writeP_slot (s : State) (n : BitVec 3) (v : Word) : (s.writeP n v).slot = s.slot := rfl
@[simp] theorem State.writeP_groups (s : State) (n : BitVec 3) (v : Word) : (s.writeP n v).groups = s.groups := rfl
@[simp] theorem State.writeP_wgs (s : State) (n : BitVec 3) (v : Word) : (s.writeP n v).wgs = s.wgs := rfl
@[simp] theorem State.writeP_launches (s : State) (n : BitVec 3) (v : Word) : (s.writeP n v).launches = s.launches := rfl
@[simp] theorem State.writeP_cores (s : State) (n : BitVec 3) (v : Word) : (s.writeP n v).cores = s.cores := rfl
@[simp] theorem State.writeP_mem (s : State) (n : BitVec 3) (v : Word) : (s.writeP n v).mem = s.mem := rfl
@[simp] theorem State.writeP_hmem (s : State) (n : BitVec 3) (v : Word) : (s.writeP n v).hmem = s.hmem := rfl
@[simp] theorem State.writeP_flash (s : State) (n : BitVec 3) (v : Word) : (s.writeP n v).flash = s.flash := rfl
@[simp] theorem State.writeP_fit (s : State) (n : BitVec 3) (v : Word) : (s.writeP n v).fit = s.fit := rfl
@[simp] theorem State.writeP_tree (s : State) (n : BitVec 3) (v : Word) : (s.writeP n v).tree = s.tree := rfl
@[simp] theorem State.writeP_jobs (s : State) (n : BitVec 3) (v : Word) : (s.writeP n v).jobs = s.jobs := rfl
@[simp] theorem State.writeP_porters (s : State) (n : BitVec 3) (v : Word) : (s.writeP n v).porters = s.porters := rfl
@[simp] theorem State.writeP_resreqs (s : State) (n : BitVec 3) (v : Word) : (s.writeP n v).resreqs = s.resreqs := rfl
@[simp] theorem State.writeP_ctxs (s : State) (n : BitVec 3) (v : Word) : (s.writeP n v).ctxs = s.ctxs := rfl
@[simp] theorem State.writeP_funcs (s : State) (n : BitVec 3) (v : Word) : (s.writeP n v).funcs = s.funcs := rfl
@[simp] theorem State.writeP_queues (s : State) (n : BitVec 3) (v : Word) : (s.writeP n v).queues = s.queues := rfl
@[simp] theorem State.writeP_nss (s : State) (n : BitVec 3) (v : Word) : (s.writeP n v).nss = s.nss := rfl
@[simp] theorem State.writeP_dev (s : State) (n : BitVec 3) (v : Word) : (s.writeP n v).dev = s.dev := rfl
@[simp] theorem State.writeP_turns (s : State) (n : BitVec 3) (v : Word) : (s.writeP n v).turns = s.turns := rfl
@[simp] theorem State.writeP_free (s : State) (n : BitVec 3) (v : Word) : (s.writeP n v).free = s.free := rfl
@[simp] theorem State.writeP_g_st (s : State) (n : BitVec 3) (v : Word) : (s.writeP n v).g.st = s.g.st := rfl
@[simp] theorem State.writeP_g_wgId (s : State) (n : BitVec 3) (v : Word) : (s.writeP n v).g.wgId = s.g.wgId := rfl
@[simp] theorem State.writeP_g_gid (s : State) (n : BitVec 3) (v : Word) : (s.writeP n v).g.gid = s.g.gid := rfl
@[simp] theorem State.writeP_g_age (s : State) (n : BitVec 3) (v : Word) : (s.writeP n v).g.age = s.g.age := rfl
@[simp] theorem State.writeP_g_pc (s : State) (n : BitVec 3) (v : Word) : (s.writeP n v).g.pc = s.g.pc := rfl
@[simp] theorem State.writeP_g_s (s : State) (n : BitVec 3) (v : Word) : (s.writeP n v).g.s = s.g.s := rfl
@[simp] theorem State.writeP_g_o (s : State) (n : BitVec 3) (v : Word) : (s.writeP n v).g.o = s.g.o := rfl
@[simp] theorem State.writeP_g_x (s : State) (n : BitVec 3) (v : Word) : (s.writeP n v).g.x = s.g.x := rfl
@[simp] theorem State.writeP_g_p (s : State) (n : BitVec 3) (v : Word) : (s.writeP n v).g.p = vset s.g.p n.toNat v := rfl
@[simp] theorem State.writeP_g_t (s : State) (n : BitVec 3) (v : Word) : (s.writeP n v).g.t = s.g.t := rfl
@[simp] theorem State.writeP_g_f (s : State) (n : BitVec 3) (v : Word) : (s.writeP n v).g.f = s.g.f := rfl
@[simp] theorem State.writeP_g_v (s : State) (n : BitVec 3) (v : Word) : (s.writeP n v).g.v = s.g.v := rfl
@[simp] theorem State.writeP_g_timeHi (s : State) (n : BitVec 3) (v : Word) : (s.writeP n v).g.timeHi = s.g.timeHi := rfl
@[simp] theorem State.writeP_g_blkidx (s : State) (n : BitVec 3) (v : Word) : (s.writeP n v).g.blkidx = s.g.blkidx := rfl
@[simp] theorem State.writeP_g_pageno (s : State) (n : BitVec 3) (v : Word) : (s.writeP n v).g.pageno = s.g.pageno := rfl
@[simp] theorem State.writeP_g_slotno (s : State) (n : BitVec 3) (v : Word) : (s.writeP n v).g.slotno = s.g.slotno := rfl
@[simp] theorem State.writeP_g_pstat (s : State) (n : BitVec 3) (v : Word) : (s.writeP n v).g.pstat = s.g.pstat := rfl
@[simp] theorem State.writeP_g_gstat (s : State) (n : BitVec 3) (v : Word) : (s.writeP n v).g.gstat = s.g.gstat := rfl
@[simp] theorem State.writeP_g_missed (s : State) (n : BitVec 3) (v : Word) : (s.writeP n v).g.missed = s.g.missed := rfl
@[simp] theorem State.writeP_g_astat (s : State) (n : BitVec 3) (v : Word) : (s.writeP n v).g.astat = s.g.astat := rfl
@[simp] theorem State.writeP_g_rstat (s : State) (n : BitVec 3) (v : Word) : (s.writeP n v).g.rstat = s.g.rstat := rfl
@[simp] theorem State.writeP_g_tcause (s : State) (n : BitVec 3) (v : Word) : (s.writeP n v).g.tcause = s.g.tcause := rfl
@[simp] theorem State.writeP_g_tdetail (s : State) (n : BitVec 3) (v : Word) : (s.writeP n v).g.tdetail = s.g.tdetail := rfl
@[simp] theorem State.writeP_g_tepc (s : State) (n : BitVec 3) (v : Word) : (s.writeP n v).g.tepc = s.g.tepc := rfl
@[simp] theorem State.writeP_g_tvalo (s : State) (n : BitVec 3) (v : Word) : (s.writeP n v).g.tvalo = s.g.tvalo := rfl
@[simp] theorem State.writeP_g_tvahi (s : State) (n : BitVec 3) (v : Word) : (s.writeP n v).g.tvahi = s.g.tvahi := rfl
@[simp] theorem State.writeP_g_tlanes (s : State) (n : BitVec 3) (v : Word) : (s.writeP n v).g.tlanes = s.g.tlanes := rfl
@[simp] theorem State.writeP_g_tpass (s : State) (n : BitVec 3) (v : Word) : (s.writeP n v).g.tpass = s.g.tpass := rfl
@[simp] theorem State.writeP_g_hentry (s : State) (n : BitVec 3) (v : Word) : (s.writeP n v).g.hentry = s.g.hentry := rfl
@[simp] theorem State.writeP_g_loop (s : State) (n : BitVec 3) (v : Word) : (s.writeP n v).g.loop = s.g.loop := rfl
@[simp] theorem State.writeP_g_queue (s : State) (n : BitVec 3) (v : Word) : (s.writeP n v).g.queue = s.g.queue := rfl
@[simp] theorem State.writeP_g_run (s : State) (n : BitVec 3) (v : Word) : (s.writeP n v).g.run = s.g.run := rfl
@[simp] theorem State.writeP_g_saved (s : State) (n : BitVec 3) (v : Word) : (s.writeP n v).g.saved = s.g.saved := rfl
@[simp] theorem State.writeP_g_faults (s : State) (n : BitVec 3) (v : Word) : (s.writeP n v).g.faults = s.g.faults := rfl
@[simp] theorem State.writeP_g_flights (s : State) (n : BitVec 3) (v : Word) : (s.writeP n v).g.flights = s.g.flights := rfl
@[simp] theorem State.writeP_g_nextFlight (s : State) (n : BitVec 3) (v : Word) : (s.writeP n v).g.nextFlight = s.g.nextFlight := rfl
@[simp] theorem State.writeP_g_wset (s : State) (n : BitVec 3) (v : Word) : (s.writeP n v).g.wset = s.g.wset := rfl
@[simp] theorem State.writeP_g_want (s : State) (n : BitVec 3) (v : Word) : (s.writeP n v).g.want = s.g.want := rfl
@[simp] theorem State.writeP_g_granted (s : State) (n : BitVec 3) (v : Word) : (s.writeP n v).g.granted = s.g.granted := rfl
@[simp] theorem State.writeP_g_spillOut (s : State) (n : BitVec 3) (v : Word) : (s.writeP n v).g.spillOut = s.g.spillOut := rfl
@[simp] theorem State.writeP_g_stop (s : State) (n : BitVec 3) (v : Word) : (s.writeP n v).g.stop = s.g.stop := rfl
@[simp] theorem State.writeP_g_abandon (s : State) (n : BitVec 3) (v : Word) : (s.writeP n v).g.abandon = s.g.abandon := rfl
@[simp] theorem State.writeP_g_laneStop (s : State) (n : BitVec 3) (v : Word) : (s.writeP n v).g.laneStop = s.g.laneStop := rfl
@[simp] theorem State.writeP_g_fence (s : State) (n : BitVec 3) (v : Word) : (s.writeP n v).g.fence = s.g.fence := rfl

/-! ## State.modFit -/

@[simp] theorem State.modFit_g (s : State) (d : Nat) (f : FitEntry → FitEntry) : (s.modFit d f).g = s.g := rfl
@[simp] theorem State.modFit_wg (s : State) (d : Nat) (f : FitEntry → FitEntry) : (s.modFit d f).wg = s.wg := rfl
@[simp] theorem State.modFit_ln (s : State) (d : Nat) (f : FitEntry → FitEntry) : (s.modFit d f).ln = s.ln := rfl
@[simp] theorem State.modFit_core (s : State) (d : Nat) (f : FitEntry → FitEntry) : (s.modFit d f).core = s.core := rfl
@[simp] theorem State.modFit_slot (s : State) (d : Nat) (f : FitEntry → FitEntry) : (s.modFit d f).slot = s.slot := rfl
@[simp] theorem State.modFit_groups (s : State) (d : Nat) (f : FitEntry → FitEntry) : (s.modFit d f).groups = s.groups := rfl
@[simp] theorem State.modFit_wgs (s : State) (d : Nat) (f : FitEntry → FitEntry) : (s.modFit d f).wgs = s.wgs := rfl
@[simp] theorem State.modFit_launches (s : State) (d : Nat) (f : FitEntry → FitEntry) : (s.modFit d f).launches = s.launches := rfl
@[simp] theorem State.modFit_cores (s : State) (d : Nat) (f : FitEntry → FitEntry) : (s.modFit d f).cores = s.cores := rfl
@[simp] theorem State.modFit_mem (s : State) (d : Nat) (f : FitEntry → FitEntry) : (s.modFit d f).mem = s.mem := rfl
@[simp] theorem State.modFit_hmem (s : State) (d : Nat) (f : FitEntry → FitEntry) : (s.modFit d f).hmem = s.hmem := rfl
@[simp] theorem State.modFit_flash (s : State) (d : Nat) (f : FitEntry → FitEntry) : (s.modFit d f).flash = s.flash := rfl
@[simp] theorem State.modFit_fit (s : State) (d : Nat) (f : FitEntry → FitEntry) : (s.modFit d f).fit = s.fit.map fun e => if e.dfn == d then f e else e := rfl
@[simp] theorem State.modFit_tree (s : State) (d : Nat) (f : FitEntry → FitEntry) : (s.modFit d f).tree = s.tree := rfl
@[simp] theorem State.modFit_jobs (s : State) (d : Nat) (f : FitEntry → FitEntry) : (s.modFit d f).jobs = s.jobs := rfl
@[simp] theorem State.modFit_porters (s : State) (d : Nat) (f : FitEntry → FitEntry) : (s.modFit d f).porters = s.porters := rfl
@[simp] theorem State.modFit_resreqs (s : State) (d : Nat) (f : FitEntry → FitEntry) : (s.modFit d f).resreqs = s.resreqs := rfl
@[simp] theorem State.modFit_ctxs (s : State) (d : Nat) (f : FitEntry → FitEntry) : (s.modFit d f).ctxs = s.ctxs := rfl
@[simp] theorem State.modFit_funcs (s : State) (d : Nat) (f : FitEntry → FitEntry) : (s.modFit d f).funcs = s.funcs := rfl
@[simp] theorem State.modFit_queues (s : State) (d : Nat) (f : FitEntry → FitEntry) : (s.modFit d f).queues = s.queues := rfl
@[simp] theorem State.modFit_nss (s : State) (d : Nat) (f : FitEntry → FitEntry) : (s.modFit d f).nss = s.nss := rfl
@[simp] theorem State.modFit_dev (s : State) (d : Nat) (f : FitEntry → FitEntry) : (s.modFit d f).dev = s.dev := rfl
@[simp] theorem State.modFit_turns (s : State) (d : Nat) (f : FitEntry → FitEntry) : (s.modFit d f).turns = s.turns := rfl
@[simp] theorem State.modFit_free (s : State) (d : Nat) (f : FitEntry → FitEntry) : (s.modFit d f).free = s.free := rfl

/-! ## State.modTree -/

@[simp] theorem State.modTree_g (s : State) (i : Nat) (f : TreeRec → TreeRec) : (s.modTree i f).g = s.g := rfl
@[simp] theorem State.modTree_wg (s : State) (i : Nat) (f : TreeRec → TreeRec) : (s.modTree i f).wg = s.wg := rfl
@[simp] theorem State.modTree_ln (s : State) (i : Nat) (f : TreeRec → TreeRec) : (s.modTree i f).ln = s.ln := rfl
@[simp] theorem State.modTree_core (s : State) (i : Nat) (f : TreeRec → TreeRec) : (s.modTree i f).core = s.core := rfl
@[simp] theorem State.modTree_slot (s : State) (i : Nat) (f : TreeRec → TreeRec) : (s.modTree i f).slot = s.slot := rfl
@[simp] theorem State.modTree_groups (s : State) (i : Nat) (f : TreeRec → TreeRec) : (s.modTree i f).groups = s.groups := rfl
@[simp] theorem State.modTree_wgs (s : State) (i : Nat) (f : TreeRec → TreeRec) : (s.modTree i f).wgs = s.wgs := rfl
@[simp] theorem State.modTree_launches (s : State) (i : Nat) (f : TreeRec → TreeRec) : (s.modTree i f).launches = s.launches := rfl
@[simp] theorem State.modTree_cores (s : State) (i : Nat) (f : TreeRec → TreeRec) : (s.modTree i f).cores = s.cores := rfl
@[simp] theorem State.modTree_mem (s : State) (i : Nat) (f : TreeRec → TreeRec) : (s.modTree i f).mem = s.mem := rfl
@[simp] theorem State.modTree_hmem (s : State) (i : Nat) (f : TreeRec → TreeRec) : (s.modTree i f).hmem = s.hmem := rfl
@[simp] theorem State.modTree_flash (s : State) (i : Nat) (f : TreeRec → TreeRec) : (s.modTree i f).flash = s.flash := rfl
@[simp] theorem State.modTree_fit (s : State) (i : Nat) (f : TreeRec → TreeRec) : (s.modTree i f).fit = s.fit := rfl
@[simp] theorem State.modTree_tree (s : State) (i : Nat) (f : TreeRec → TreeRec) : (s.modTree i f).tree = s.tree.map fun r => if r.index == i then f r else r := rfl
@[simp] theorem State.modTree_jobs (s : State) (i : Nat) (f : TreeRec → TreeRec) : (s.modTree i f).jobs = s.jobs := rfl
@[simp] theorem State.modTree_porters (s : State) (i : Nat) (f : TreeRec → TreeRec) : (s.modTree i f).porters = s.porters := rfl
@[simp] theorem State.modTree_resreqs (s : State) (i : Nat) (f : TreeRec → TreeRec) : (s.modTree i f).resreqs = s.resreqs := rfl
@[simp] theorem State.modTree_ctxs (s : State) (i : Nat) (f : TreeRec → TreeRec) : (s.modTree i f).ctxs = s.ctxs := rfl
@[simp] theorem State.modTree_funcs (s : State) (i : Nat) (f : TreeRec → TreeRec) : (s.modTree i f).funcs = s.funcs := rfl
@[simp] theorem State.modTree_queues (s : State) (i : Nat) (f : TreeRec → TreeRec) : (s.modTree i f).queues = s.queues := rfl
@[simp] theorem State.modTree_nss (s : State) (i : Nat) (f : TreeRec → TreeRec) : (s.modTree i f).nss = s.nss := rfl
@[simp] theorem State.modTree_dev (s : State) (i : Nat) (f : TreeRec → TreeRec) : (s.modTree i f).dev = s.dev := rfl
@[simp] theorem State.modTree_turns (s : State) (i : Nat) (f : TreeRec → TreeRec) : (s.modTree i f).turns = s.turns := rfl
@[simp] theorem State.modTree_free (s : State) (i : Nat) (f : TreeRec → TreeRec) : (s.modTree i f).free = s.free := rfl

/-! ## State.modJob -/

@[simp] theorem State.modJob_g (s : State) (i : Nat) (f : Job → Job) : (s.modJob i f).g = s.g := rfl
@[simp] theorem State.modJob_wg (s : State) (i : Nat) (f : Job → Job) : (s.modJob i f).wg = s.wg := rfl
@[simp] theorem State.modJob_ln (s : State) (i : Nat) (f : Job → Job) : (s.modJob i f).ln = s.ln := rfl
@[simp] theorem State.modJob_core (s : State) (i : Nat) (f : Job → Job) : (s.modJob i f).core = s.core := rfl
@[simp] theorem State.modJob_slot (s : State) (i : Nat) (f : Job → Job) : (s.modJob i f).slot = s.slot := rfl
@[simp] theorem State.modJob_groups (s : State) (i : Nat) (f : Job → Job) : (s.modJob i f).groups = s.groups := rfl
@[simp] theorem State.modJob_wgs (s : State) (i : Nat) (f : Job → Job) : (s.modJob i f).wgs = s.wgs := rfl
@[simp] theorem State.modJob_launches (s : State) (i : Nat) (f : Job → Job) : (s.modJob i f).launches = s.launches := rfl
@[simp] theorem State.modJob_cores (s : State) (i : Nat) (f : Job → Job) : (s.modJob i f).cores = s.cores := rfl
@[simp] theorem State.modJob_mem (s : State) (i : Nat) (f : Job → Job) : (s.modJob i f).mem = s.mem := rfl
@[simp] theorem State.modJob_hmem (s : State) (i : Nat) (f : Job → Job) : (s.modJob i f).hmem = s.hmem := rfl
@[simp] theorem State.modJob_flash (s : State) (i : Nat) (f : Job → Job) : (s.modJob i f).flash = s.flash := rfl
@[simp] theorem State.modJob_fit (s : State) (i : Nat) (f : Job → Job) : (s.modJob i f).fit = s.fit := rfl
@[simp] theorem State.modJob_tree (s : State) (i : Nat) (f : Job → Job) : (s.modJob i f).tree = s.tree := rfl
@[simp] theorem State.modJob_jobs (s : State) (i : Nat) (f : Job → Job) : (s.modJob i f).jobs = s.jobs.map fun j => if j.id == i then f j else j := rfl
@[simp] theorem State.modJob_porters (s : State) (i : Nat) (f : Job → Job) : (s.modJob i f).porters = s.porters := rfl
@[simp] theorem State.modJob_resreqs (s : State) (i : Nat) (f : Job → Job) : (s.modJob i f).resreqs = s.resreqs := rfl
@[simp] theorem State.modJob_ctxs (s : State) (i : Nat) (f : Job → Job) : (s.modJob i f).ctxs = s.ctxs := rfl
@[simp] theorem State.modJob_funcs (s : State) (i : Nat) (f : Job → Job) : (s.modJob i f).funcs = s.funcs := rfl
@[simp] theorem State.modJob_queues (s : State) (i : Nat) (f : Job → Job) : (s.modJob i f).queues = s.queues := rfl
@[simp] theorem State.modJob_nss (s : State) (i : Nat) (f : Job → Job) : (s.modJob i f).nss = s.nss := rfl
@[simp] theorem State.modJob_dev (s : State) (i : Nat) (f : Job → Job) : (s.modJob i f).dev = s.dev := rfl
@[simp] theorem State.modJob_turns (s : State) (i : Nat) (f : Job → Job) : (s.modJob i f).turns = s.turns := rfl
@[simp] theorem State.modJob_free (s : State) (i : Nat) (f : Job → Job) : (s.modJob i f).free = s.free := rfl

/-! ## State.modQueue -/

@[simp] theorem State.modQueue_g (s : State) (t q : Nat) (f : Queue → Queue) : (s.modQueue t q f).g = s.g := rfl
@[simp] theorem State.modQueue_wg (s : State) (t q : Nat) (f : Queue → Queue) : (s.modQueue t q f).wg = s.wg := rfl
@[simp] theorem State.modQueue_ln (s : State) (t q : Nat) (f : Queue → Queue) : (s.modQueue t q f).ln = s.ln := rfl
@[simp] theorem State.modQueue_core (s : State) (t q : Nat) (f : Queue → Queue) : (s.modQueue t q f).core = s.core := rfl
@[simp] theorem State.modQueue_slot (s : State) (t q : Nat) (f : Queue → Queue) : (s.modQueue t q f).slot = s.slot := rfl
@[simp] theorem State.modQueue_groups (s : State) (t q : Nat) (f : Queue → Queue) : (s.modQueue t q f).groups = s.groups := rfl
@[simp] theorem State.modQueue_wgs (s : State) (t q : Nat) (f : Queue → Queue) : (s.modQueue t q f).wgs = s.wgs := rfl
@[simp] theorem State.modQueue_launches (s : State) (t q : Nat) (f : Queue → Queue) : (s.modQueue t q f).launches = s.launches := rfl
@[simp] theorem State.modQueue_cores (s : State) (t q : Nat) (f : Queue → Queue) : (s.modQueue t q f).cores = s.cores := rfl
@[simp] theorem State.modQueue_mem (s : State) (t q : Nat) (f : Queue → Queue) : (s.modQueue t q f).mem = s.mem := rfl
@[simp] theorem State.modQueue_hmem (s : State) (t q : Nat) (f : Queue → Queue) : (s.modQueue t q f).hmem = s.hmem := rfl
@[simp] theorem State.modQueue_flash (s : State) (t q : Nat) (f : Queue → Queue) : (s.modQueue t q f).flash = s.flash := rfl
@[simp] theorem State.modQueue_fit (s : State) (t q : Nat) (f : Queue → Queue) : (s.modQueue t q f).fit = s.fit := rfl
@[simp] theorem State.modQueue_tree (s : State) (t q : Nat) (f : Queue → Queue) : (s.modQueue t q f).tree = s.tree := rfl
@[simp] theorem State.modQueue_jobs (s : State) (t q : Nat) (f : Queue → Queue) : (s.modQueue t q f).jobs = s.jobs := rfl
@[simp] theorem State.modQueue_porters (s : State) (t q : Nat) (f : Queue → Queue) : (s.modQueue t q f).porters = s.porters := rfl
@[simp] theorem State.modQueue_resreqs (s : State) (t q : Nat) (f : Queue → Queue) : (s.modQueue t q f).resreqs = s.resreqs := rfl
@[simp] theorem State.modQueue_ctxs (s : State) (t q : Nat) (f : Queue → Queue) : (s.modQueue t q f).ctxs = s.ctxs := rfl
@[simp] theorem State.modQueue_funcs (s : State) (t q : Nat) (f : Queue → Queue) : (s.modQueue t q f).funcs = s.funcs := rfl
@[simp] theorem State.modQueue_queues (s : State) (t q : Nat) (f : Queue → Queue) : (s.modQueue t q f).queues = s.queues.map fun x => if x.tenant == t && x.q == q then f x else x := rfl
@[simp] theorem State.modQueue_nss (s : State) (t q : Nat) (f : Queue → Queue) : (s.modQueue t q f).nss = s.nss := rfl
@[simp] theorem State.modQueue_dev (s : State) (t q : Nat) (f : Queue → Queue) : (s.modQueue t q f).dev = s.dev := rfl
@[simp] theorem State.modQueue_turns (s : State) (t q : Nat) (f : Queue → Queue) : (s.modQueue t q f).turns = s.turns := rfl
@[simp] theorem State.modQueue_free (s : State) (t q : Nat) (f : Queue → Queue) : (s.modQueue t q f).free = s.free := rfl

/-! ## State.modSeq -/

@[simp] theorem State.modSeq_g (s : State) (f : Seq → Seq) : (s.modSeq f).g = s.g := rfl
@[simp] theorem State.modSeq_wg (s : State) (f : Seq → Seq) : (s.modSeq f).wg = { s.wg with seq := f s.wg.seq } := rfl
@[simp] theorem State.modSeq_ln (s : State) (f : Seq → Seq) : (s.modSeq f).ln = s.ln := rfl
@[simp] theorem State.modSeq_core (s : State) (f : Seq → Seq) : (s.modSeq f).core = s.core := rfl
@[simp] theorem State.modSeq_slot (s : State) (f : Seq → Seq) : (s.modSeq f).slot = s.slot := rfl
@[simp] theorem State.modSeq_groups (s : State) (f : Seq → Seq) : (s.modSeq f).groups = s.groups := rfl
@[simp] theorem State.modSeq_wgs (s : State) (f : Seq → Seq) : (s.modSeq f).wgs = s.wgs := rfl
@[simp] theorem State.modSeq_launches (s : State) (f : Seq → Seq) : (s.modSeq f).launches = s.launches := rfl
@[simp] theorem State.modSeq_cores (s : State) (f : Seq → Seq) : (s.modSeq f).cores = s.cores := rfl
@[simp] theorem State.modSeq_mem (s : State) (f : Seq → Seq) : (s.modSeq f).mem = s.mem := rfl
@[simp] theorem State.modSeq_hmem (s : State) (f : Seq → Seq) : (s.modSeq f).hmem = s.hmem := rfl
@[simp] theorem State.modSeq_flash (s : State) (f : Seq → Seq) : (s.modSeq f).flash = s.flash := rfl
@[simp] theorem State.modSeq_fit (s : State) (f : Seq → Seq) : (s.modSeq f).fit = s.fit := rfl
@[simp] theorem State.modSeq_tree (s : State) (f : Seq → Seq) : (s.modSeq f).tree = s.tree := rfl
@[simp] theorem State.modSeq_jobs (s : State) (f : Seq → Seq) : (s.modSeq f).jobs = s.jobs := rfl
@[simp] theorem State.modSeq_porters (s : State) (f : Seq → Seq) : (s.modSeq f).porters = s.porters := rfl
@[simp] theorem State.modSeq_resreqs (s : State) (f : Seq → Seq) : (s.modSeq f).resreqs = s.resreqs := rfl
@[simp] theorem State.modSeq_ctxs (s : State) (f : Seq → Seq) : (s.modSeq f).ctxs = s.ctxs := rfl
@[simp] theorem State.modSeq_funcs (s : State) (f : Seq → Seq) : (s.modSeq f).funcs = s.funcs := rfl
@[simp] theorem State.modSeq_queues (s : State) (f : Seq → Seq) : (s.modSeq f).queues = s.queues := rfl
@[simp] theorem State.modSeq_nss (s : State) (f : Seq → Seq) : (s.modSeq f).nss = s.nss := rfl
@[simp] theorem State.modSeq_dev (s : State) (f : Seq → Seq) : (s.modSeq f).dev = s.dev := rfl
@[simp] theorem State.modSeq_turns (s : State) (f : Seq → Seq) : (s.modSeq f).turns = s.turns := rfl
@[simp] theorem State.modSeq_free (s : State) (f : Seq → Seq) : (s.modSeq f).free = s.free := rfl

/-! ## State.modFunc -/

@[simp] theorem State.modFunc_g (s : State) (n : Nat) (f : Func → Func) : (s.modFunc n f).g = s.g := rfl
@[simp] theorem State.modFunc_wg (s : State) (n : Nat) (f : Func → Func) : (s.modFunc n f).wg = s.wg := rfl
@[simp] theorem State.modFunc_ln (s : State) (n : Nat) (f : Func → Func) : (s.modFunc n f).ln = s.ln := rfl
@[simp] theorem State.modFunc_core (s : State) (n : Nat) (f : Func → Func) : (s.modFunc n f).core = s.core := rfl
@[simp] theorem State.modFunc_slot (s : State) (n : Nat) (f : Func → Func) : (s.modFunc n f).slot = s.slot := rfl
@[simp] theorem State.modFunc_groups (s : State) (n : Nat) (f : Func → Func) : (s.modFunc n f).groups = s.groups := rfl
@[simp] theorem State.modFunc_wgs (s : State) (n : Nat) (f : Func → Func) : (s.modFunc n f).wgs = s.wgs := rfl
@[simp] theorem State.modFunc_launches (s : State) (n : Nat) (f : Func → Func) : (s.modFunc n f).launches = s.launches := rfl
@[simp] theorem State.modFunc_cores (s : State) (n : Nat) (f : Func → Func) : (s.modFunc n f).cores = s.cores := rfl
@[simp] theorem State.modFunc_mem (s : State) (n : Nat) (f : Func → Func) : (s.modFunc n f).mem = s.mem := rfl
@[simp] theorem State.modFunc_hmem (s : State) (n : Nat) (f : Func → Func) : (s.modFunc n f).hmem = s.hmem := rfl
@[simp] theorem State.modFunc_flash (s : State) (n : Nat) (f : Func → Func) : (s.modFunc n f).flash = s.flash := rfl
@[simp] theorem State.modFunc_fit (s : State) (n : Nat) (f : Func → Func) : (s.modFunc n f).fit = s.fit := rfl
@[simp] theorem State.modFunc_tree (s : State) (n : Nat) (f : Func → Func) : (s.modFunc n f).tree = s.tree := rfl
@[simp] theorem State.modFunc_jobs (s : State) (n : Nat) (f : Func → Func) : (s.modFunc n f).jobs = s.jobs := rfl
@[simp] theorem State.modFunc_porters (s : State) (n : Nat) (f : Func → Func) : (s.modFunc n f).porters = s.porters := rfl
@[simp] theorem State.modFunc_resreqs (s : State) (n : Nat) (f : Func → Func) : (s.modFunc n f).resreqs = s.resreqs := rfl
@[simp] theorem State.modFunc_ctxs (s : State) (n : Nat) (f : Func → Func) : (s.modFunc n f).ctxs = s.ctxs := rfl
@[simp] theorem State.modFunc_funcs (s : State) (n : Nat) (f : Func → Func) : (s.modFunc n f).funcs = s.funcs.mapIdx fun i x => if i == n then f x else x := rfl
@[simp] theorem State.modFunc_queues (s : State) (n : Nat) (f : Func → Func) : (s.modFunc n f).queues = s.queues := rfl
@[simp] theorem State.modFunc_nss (s : State) (n : Nat) (f : Func → Func) : (s.modFunc n f).nss = s.nss := rfl
@[simp] theorem State.modFunc_dev (s : State) (n : Nat) (f : Func → Func) : (s.modFunc n f).dev = s.dev := rfl
@[simp] theorem State.modFunc_turns (s : State) (n : Nat) (f : Func → Func) : (s.modFunc n f).turns = s.turns := rfl
@[simp] theorem State.modFunc_free (s : State) (n : Nat) (f : Func → Func) : (s.modFunc n f).free = s.free := rfl

/-! ## State.modCtx -/

@[simp] theorem State.modCtx_g (s : State) (t : Nat) (f : Ctx → Ctx) : (s.modCtx t f).g = s.g := rfl
@[simp] theorem State.modCtx_wg (s : State) (t : Nat) (f : Ctx → Ctx) : (s.modCtx t f).wg = s.wg := rfl
@[simp] theorem State.modCtx_ln (s : State) (t : Nat) (f : Ctx → Ctx) : (s.modCtx t f).ln = s.ln := rfl
@[simp] theorem State.modCtx_core (s : State) (t : Nat) (f : Ctx → Ctx) : (s.modCtx t f).core = s.core := rfl
@[simp] theorem State.modCtx_slot (s : State) (t : Nat) (f : Ctx → Ctx) : (s.modCtx t f).slot = s.slot := rfl
@[simp] theorem State.modCtx_groups (s : State) (t : Nat) (f : Ctx → Ctx) : (s.modCtx t f).groups = s.groups := rfl
@[simp] theorem State.modCtx_wgs (s : State) (t : Nat) (f : Ctx → Ctx) : (s.modCtx t f).wgs = s.wgs := rfl
@[simp] theorem State.modCtx_launches (s : State) (t : Nat) (f : Ctx → Ctx) : (s.modCtx t f).launches = s.launches := rfl
@[simp] theorem State.modCtx_cores (s : State) (t : Nat) (f : Ctx → Ctx) : (s.modCtx t f).cores = s.cores := rfl
@[simp] theorem State.modCtx_mem (s : State) (t : Nat) (f : Ctx → Ctx) : (s.modCtx t f).mem = s.mem := rfl
@[simp] theorem State.modCtx_hmem (s : State) (t : Nat) (f : Ctx → Ctx) : (s.modCtx t f).hmem = s.hmem := rfl
@[simp] theorem State.modCtx_flash (s : State) (t : Nat) (f : Ctx → Ctx) : (s.modCtx t f).flash = s.flash := rfl
@[simp] theorem State.modCtx_fit (s : State) (t : Nat) (f : Ctx → Ctx) : (s.modCtx t f).fit = s.fit := rfl
@[simp] theorem State.modCtx_tree (s : State) (t : Nat) (f : Ctx → Ctx) : (s.modCtx t f).tree = s.tree := rfl
@[simp] theorem State.modCtx_jobs (s : State) (t : Nat) (f : Ctx → Ctx) : (s.modCtx t f).jobs = s.jobs := rfl
@[simp] theorem State.modCtx_porters (s : State) (t : Nat) (f : Ctx → Ctx) : (s.modCtx t f).porters = s.porters := rfl
@[simp] theorem State.modCtx_resreqs (s : State) (t : Nat) (f : Ctx → Ctx) : (s.modCtx t f).resreqs = s.resreqs := rfl
@[simp] theorem State.modCtx_ctxs (s : State) (t : Nat) (f : Ctx → Ctx) : (s.modCtx t f).ctxs = vset s.ctxs t (f (s.ctx t)) := rfl
@[simp] theorem State.modCtx_funcs (s : State) (t : Nat) (f : Ctx → Ctx) : (s.modCtx t f).funcs = s.funcs := rfl
@[simp] theorem State.modCtx_queues (s : State) (t : Nat) (f : Ctx → Ctx) : (s.modCtx t f).queues = s.queues := rfl
@[simp] theorem State.modCtx_nss (s : State) (t : Nat) (f : Ctx → Ctx) : (s.modCtx t f).nss = s.nss := rfl
@[simp] theorem State.modCtx_dev (s : State) (t : Nat) (f : Ctx → Ctx) : (s.modCtx t f).dev = s.dev := rfl
@[simp] theorem State.modCtx_turns (s : State) (t : Nat) (f : Ctx → Ctx) : (s.modCtx t f).turns = s.turns := rfl
@[simp] theorem State.modCtx_free (s : State) (t : Nat) (f : Ctx → Ctx) : (s.modCtx t f).free = s.free := rfl

/-! ## State.respond -/

@[simp] theorem State.respond_g (s : State) (r : Reply) : (s.respond r).g = s.g := rfl
@[simp] theorem State.respond_wg (s : State) (r : Reply) : (s.respond r).wg = s.wg := rfl
@[simp] theorem State.respond_ln (s : State) (r : Reply) : (s.respond r).ln = s.ln := rfl
@[simp] theorem State.respond_core (s : State) (r : Reply) : (s.respond r).core = s.core := rfl
@[simp] theorem State.respond_slot (s : State) (r : Reply) : (s.respond r).slot = s.slot := rfl
@[simp] theorem State.respond_groups (s : State) (r : Reply) : (s.respond r).groups = s.groups := rfl
@[simp] theorem State.respond_wgs (s : State) (r : Reply) : (s.respond r).wgs = s.wgs := rfl
@[simp] theorem State.respond_launches (s : State) (r : Reply) : (s.respond r).launches = s.launches := rfl
@[simp] theorem State.respond_cores (s : State) (r : Reply) : (s.respond r).cores = s.cores := rfl
@[simp] theorem State.respond_mem (s : State) (r : Reply) : (s.respond r).mem = s.mem := rfl
@[simp] theorem State.respond_hmem (s : State) (r : Reply) : (s.respond r).hmem = s.hmem := rfl
@[simp] theorem State.respond_flash (s : State) (r : Reply) : (s.respond r).flash = s.flash := rfl
@[simp] theorem State.respond_fit (s : State) (r : Reply) : (s.respond r).fit = s.fit := rfl
@[simp] theorem State.respond_tree (s : State) (r : Reply) : (s.respond r).tree = s.tree := rfl
@[simp] theorem State.respond_jobs (s : State) (r : Reply) : (s.respond r).jobs = s.jobs := rfl
@[simp] theorem State.respond_porters (s : State) (r : Reply) : (s.respond r).porters = s.porters := rfl
@[simp] theorem State.respond_resreqs (s : State) (r : Reply) : (s.respond r).resreqs = s.resreqs := rfl
@[simp] theorem State.respond_ctxs (s : State) (r : Reply) : (s.respond r).ctxs = s.ctxs := rfl
@[simp] theorem State.respond_funcs (s : State) (r : Reply) : (s.respond r).funcs = s.funcs := rfl
@[simp] theorem State.respond_queues (s : State) (r : Reply) : (s.respond r).queues = s.queues := rfl
@[simp] theorem State.respond_nss (s : State) (r : Reply) : (s.respond r).nss = s.nss := rfl
@[simp] theorem State.respond_dev (s : State) (r : Reply) : (s.respond r).dev = { s.dev with replies := s.dev.replies ++ [r] } := rfl
@[simp] theorem State.respond_turns (s : State) (r : Reply) : (s.respond r).turns = s.turns := rfl
@[simp] theorem State.respond_free (s : State) (r : Reply) : (s.respond r).free = s.free := rfl

/-! ## State.modMgmt -/

@[simp] theorem State.modMgmt_g (s : State) (k : Nat) (f : Mgmt → Mgmt) : (s.modMgmt k f).g = s.g := rfl
@[simp] theorem State.modMgmt_wg (s : State) (k : Nat) (f : Mgmt → Mgmt) : (s.modMgmt k f).wg = s.wg := rfl
@[simp] theorem State.modMgmt_ln (s : State) (k : Nat) (f : Mgmt → Mgmt) : (s.modMgmt k f).ln = s.ln := rfl
@[simp] theorem State.modMgmt_core (s : State) (k : Nat) (f : Mgmt → Mgmt) : (s.modMgmt k f).core = s.core := rfl
@[simp] theorem State.modMgmt_slot (s : State) (k : Nat) (f : Mgmt → Mgmt) : (s.modMgmt k f).slot = s.slot := rfl
@[simp] theorem State.modMgmt_groups (s : State) (k : Nat) (f : Mgmt → Mgmt) : (s.modMgmt k f).groups = s.groups := rfl
@[simp] theorem State.modMgmt_wgs (s : State) (k : Nat) (f : Mgmt → Mgmt) : (s.modMgmt k f).wgs = s.wgs := rfl
@[simp] theorem State.modMgmt_launches (s : State) (k : Nat) (f : Mgmt → Mgmt) : (s.modMgmt k f).launches = s.launches := rfl
@[simp] theorem State.modMgmt_cores (s : State) (k : Nat) (f : Mgmt → Mgmt) : (s.modMgmt k f).cores = s.cores := rfl
@[simp] theorem State.modMgmt_mem (s : State) (k : Nat) (f : Mgmt → Mgmt) : (s.modMgmt k f).mem = s.mem := rfl
@[simp] theorem State.modMgmt_hmem (s : State) (k : Nat) (f : Mgmt → Mgmt) : (s.modMgmt k f).hmem = s.hmem := rfl
@[simp] theorem State.modMgmt_flash (s : State) (k : Nat) (f : Mgmt → Mgmt) : (s.modMgmt k f).flash = s.flash := rfl
@[simp] theorem State.modMgmt_fit (s : State) (k : Nat) (f : Mgmt → Mgmt) : (s.modMgmt k f).fit = s.fit := rfl
@[simp] theorem State.modMgmt_tree (s : State) (k : Nat) (f : Mgmt → Mgmt) : (s.modMgmt k f).tree = s.tree := rfl
@[simp] theorem State.modMgmt_jobs (s : State) (k : Nat) (f : Mgmt → Mgmt) : (s.modMgmt k f).jobs = s.jobs := rfl
@[simp] theorem State.modMgmt_porters (s : State) (k : Nat) (f : Mgmt → Mgmt) : (s.modMgmt k f).porters = s.porters := rfl
@[simp] theorem State.modMgmt_resreqs (s : State) (k : Nat) (f : Mgmt → Mgmt) : (s.modMgmt k f).resreqs = s.resreqs := rfl
@[simp] theorem State.modMgmt_ctxs (s : State) (k : Nat) (f : Mgmt → Mgmt) : (s.modMgmt k f).ctxs = s.ctxs := rfl
@[simp] theorem State.modMgmt_funcs (s : State) (k : Nat) (f : Mgmt → Mgmt) : (s.modMgmt k f).funcs = s.funcs := rfl
@[simp] theorem State.modMgmt_queues (s : State) (k : Nat) (f : Mgmt → Mgmt) : (s.modMgmt k f).queues = s.queues := rfl
@[simp] theorem State.modMgmt_nss (s : State) (k : Nat) (f : Mgmt → Mgmt) : (s.modMgmt k f).nss = s.nss := rfl
@[simp] theorem State.modMgmt_dev (s : State) (k : Nat) (f : Mgmt → Mgmt) : (s.modMgmt k f).dev = { s.dev with mgmt := vset s.dev.mgmt k (f (s.mgmtCore k)) } := rfl
@[simp] theorem State.modMgmt_turns (s : State) (k : Nat) (f : Mgmt → Mgmt) : (s.modMgmt k f).turns = s.turns := rfl
@[simp] theorem State.modMgmt_free (s : State) (k : Nat) (f : Mgmt → Mgmt) : (s.modMgmt k f).free = s.free := rfl

/-! ## Group.dropBlock -/

@[simp] theorem Group.dropBlock_st (g : Group) : (g.dropBlock).st = g.st := rfl
@[simp] theorem Group.dropBlock_wgId (g : Group) : (g.dropBlock).wgId = g.wgId := rfl
@[simp] theorem Group.dropBlock_gid (g : Group) : (g.dropBlock).gid = g.gid := rfl
@[simp] theorem Group.dropBlock_age (g : Group) : (g.dropBlock).age = g.age := rfl
@[simp] theorem Group.dropBlock_pc (g : Group) : (g.dropBlock).pc = g.pc := rfl
@[simp] theorem Group.dropBlock_s (g : Group) : (g.dropBlock).s = g.s := rfl
@[simp] theorem Group.dropBlock_o (g : Group) : (g.dropBlock).o = g.o := rfl
@[simp] theorem Group.dropBlock_x (g : Group) : (g.dropBlock).x = g.x := rfl
@[simp] theorem Group.dropBlock_p (g : Group) : (g.dropBlock).p = g.p := rfl
@[simp] theorem Group.dropBlock_t (g : Group) : (g.dropBlock).t = g.t := rfl
@[simp] theorem Group.dropBlock_f (g : Group) : (g.dropBlock).f = g.f := rfl
@[simp] theorem Group.dropBlock_v (g : Group) : (g.dropBlock).v = g.v := rfl
@[simp] theorem Group.dropBlock_timeHi (g : Group) : (g.dropBlock).timeHi = g.timeHi := rfl
@[simp] theorem Group.dropBlock_blkidx (g : Group) : (g.dropBlock).blkidx = 0xFFFFFFFF := rfl
@[simp] theorem Group.dropBlock_pageno (g : Group) : (g.dropBlock).pageno = 0xFFFFFFFF := rfl
@[simp] theorem Group.dropBlock_slotno (g : Group) : (g.dropBlock).slotno = 0xFFFFFFFF := rfl
@[simp] theorem Group.dropBlock_pstat (g : Group) : (g.dropBlock).pstat = 0 := rfl
@[simp] theorem Group.dropBlock_gstat (g : Group) : (g.dropBlock).gstat = g.gstat := rfl
@[simp] theorem Group.dropBlock_missed (g : Group) : (g.dropBlock).missed = g.missed := rfl
@[simp] theorem Group.dropBlock_astat (g : Group) : (g.dropBlock).astat = g.astat := rfl
@[simp] theorem Group.dropBlock_rstat (g : Group) : (g.dropBlock).rstat = g.rstat := rfl
@[simp] theorem Group.dropBlock_tcause (g : Group) : (g.dropBlock).tcause = g.tcause := rfl
@[simp] theorem Group.dropBlock_tdetail (g : Group) : (g.dropBlock).tdetail = g.tdetail := rfl
@[simp] theorem Group.dropBlock_tepc (g : Group) : (g.dropBlock).tepc = g.tepc := rfl
@[simp] theorem Group.dropBlock_tvalo (g : Group) : (g.dropBlock).tvalo = g.tvalo := rfl
@[simp] theorem Group.dropBlock_tvahi (g : Group) : (g.dropBlock).tvahi = g.tvahi := rfl
@[simp] theorem Group.dropBlock_tlanes (g : Group) : (g.dropBlock).tlanes = g.tlanes := rfl
@[simp] theorem Group.dropBlock_tpass (g : Group) : (g.dropBlock).tpass = g.tpass := rfl
@[simp] theorem Group.dropBlock_hentry (g : Group) : (g.dropBlock).hentry = g.hentry := rfl
@[simp] theorem Group.dropBlock_loop (g : Group) : (g.dropBlock).loop = g.loop := rfl
@[simp] theorem Group.dropBlock_queue (g : Group) : (g.dropBlock).queue = g.queue := rfl
@[simp] theorem Group.dropBlock_run (g : Group) : (g.dropBlock).run = g.run := rfl
@[simp] theorem Group.dropBlock_saved (g : Group) : (g.dropBlock).saved = g.saved := rfl
@[simp] theorem Group.dropBlock_faults (g : Group) : (g.dropBlock).faults = g.faults := rfl
@[simp] theorem Group.dropBlock_flights (g : Group) : (g.dropBlock).flights = g.flights := rfl
@[simp] theorem Group.dropBlock_nextFlight (g : Group) : (g.dropBlock).nextFlight = g.nextFlight := rfl
@[simp] theorem Group.dropBlock_wset (g : Group) : (g.dropBlock).wset = g.wset := rfl
@[simp] theorem Group.dropBlock_want (g : Group) : (g.dropBlock).want = g.want := rfl
@[simp] theorem Group.dropBlock_granted (g : Group) : (g.dropBlock).granted = g.granted := rfl
@[simp] theorem Group.dropBlock_spillOut (g : Group) : (g.dropBlock).spillOut = g.spillOut := rfl
@[simp] theorem Group.dropBlock_stop (g : Group) : (g.dropBlock).stop = g.stop := rfl
@[simp] theorem Group.dropBlock_abandon (g : Group) : (g.dropBlock).abandon = g.abandon := rfl
@[simp] theorem Group.dropBlock_laneStop (g : Group) : (g.dropBlock).laneStop = g.laneStop := rfl
@[simp] theorem Group.dropBlock_fence (g : Group) : (g.dropBlock).fence = g.fence := rfl

/-! ## Group.releaseV -/

@[simp] theorem Group.releaseV_st (g : Group) : (g.releaseV).st = g.st := rfl
@[simp] theorem Group.releaseV_wgId (g : Group) : (g.releaseV).wgId = g.wgId := rfl
@[simp] theorem Group.releaseV_gid (g : Group) : (g.releaseV).gid = g.gid := rfl
@[simp] theorem Group.releaseV_age (g : Group) : (g.releaseV).age = g.age := rfl
@[simp] theorem Group.releaseV_pc (g : Group) : (g.releaseV).pc = g.pc := rfl
@[simp] theorem Group.releaseV_s (g : Group) : (g.releaseV).s = g.s := rfl
@[simp] theorem Group.releaseV_o (g : Group) : (g.releaseV).o = g.o := rfl
@[simp] theorem Group.releaseV_x (g : Group) : (g.releaseV).x = g.x := rfl
@[simp] theorem Group.releaseV_p (g : Group) : (g.releaseV).p = g.p := rfl
@[simp] theorem Group.releaseV_t (g : Group) : (g.releaseV).t = g.t := rfl
@[simp] theorem Group.releaseV_f (g : Group) : (g.releaseV).f = g.f := rfl
@[simp] theorem Group.releaseV_v (g : Group) : (g.releaseV).v = Vector.replicate 128 VReg.unmapped := rfl
@[simp] theorem Group.releaseV_timeHi (g : Group) : (g.releaseV).timeHi = g.timeHi := rfl
@[simp] theorem Group.releaseV_blkidx (g : Group) : (g.releaseV).blkidx = g.blkidx := rfl
@[simp] theorem Group.releaseV_pageno (g : Group) : (g.releaseV).pageno = g.pageno := rfl
@[simp] theorem Group.releaseV_slotno (g : Group) : (g.releaseV).slotno = g.slotno := rfl
@[simp] theorem Group.releaseV_pstat (g : Group) : (g.releaseV).pstat = g.pstat := rfl
@[simp] theorem Group.releaseV_gstat (g : Group) : (g.releaseV).gstat = g.gstat := rfl
@[simp] theorem Group.releaseV_missed (g : Group) : (g.releaseV).missed = g.missed := rfl
@[simp] theorem Group.releaseV_astat (g : Group) : (g.releaseV).astat = g.astat := rfl
@[simp] theorem Group.releaseV_rstat (g : Group) : (g.releaseV).rstat = g.rstat := rfl
@[simp] theorem Group.releaseV_tcause (g : Group) : (g.releaseV).tcause = g.tcause := rfl
@[simp] theorem Group.releaseV_tdetail (g : Group) : (g.releaseV).tdetail = g.tdetail := rfl
@[simp] theorem Group.releaseV_tepc (g : Group) : (g.releaseV).tepc = g.tepc := rfl
@[simp] theorem Group.releaseV_tvalo (g : Group) : (g.releaseV).tvalo = g.tvalo := rfl
@[simp] theorem Group.releaseV_tvahi (g : Group) : (g.releaseV).tvahi = g.tvahi := rfl
@[simp] theorem Group.releaseV_tlanes (g : Group) : (g.releaseV).tlanes = g.tlanes := rfl
@[simp] theorem Group.releaseV_tpass (g : Group) : (g.releaseV).tpass = g.tpass := rfl
@[simp] theorem Group.releaseV_hentry (g : Group) : (g.releaseV).hentry = g.hentry := rfl
@[simp] theorem Group.releaseV_loop (g : Group) : (g.releaseV).loop = g.loop := rfl
@[simp] theorem Group.releaseV_queue (g : Group) : (g.releaseV).queue = g.queue := rfl
@[simp] theorem Group.releaseV_run (g : Group) : (g.releaseV).run = g.run := rfl
@[simp] theorem Group.releaseV_saved (g : Group) : (g.releaseV).saved = g.saved := rfl
@[simp] theorem Group.releaseV_faults (g : Group) : (g.releaseV).faults = g.faults := rfl
@[simp] theorem Group.releaseV_flights (g : Group) : (g.releaseV).flights = g.flights := rfl
@[simp] theorem Group.releaseV_nextFlight (g : Group) : (g.releaseV).nextFlight = g.nextFlight := rfl
@[simp] theorem Group.releaseV_wset (g : Group) : (g.releaseV).wset = g.wset := rfl
@[simp] theorem Group.releaseV_want (g : Group) : (g.releaseV).want = 0 := rfl
@[simp] theorem Group.releaseV_granted (g : Group) : (g.releaseV).granted = 0 := rfl
@[simp] theorem Group.releaseV_spillOut (g : Group) : (g.releaseV).spillOut = false := rfl
@[simp] theorem Group.releaseV_stop (g : Group) : (g.releaseV).stop = g.stop := rfl
@[simp] theorem Group.releaseV_abandon (g : Group) : (g.releaseV).abandon = g.abandon := rfl
@[simp] theorem Group.releaseV_laneStop (g : Group) : (g.releaseV).laneStop = g.laneStop := rfl
@[simp] theorem Group.releaseV_fence (g : Group) : (g.releaseV).fence = g.fence := rfl

/-! ## Group.setUnmap -/

@[simp] theorem Group.setUnmap_st (g : Group) : (g.setUnmap).st = g.st := rfl
@[simp] theorem Group.setUnmap_wgId (g : Group) : (g.setUnmap).wgId = g.wgId := rfl
@[simp] theorem Group.setUnmap_gid (g : Group) : (g.setUnmap).gid = g.gid := rfl
@[simp] theorem Group.setUnmap_age (g : Group) : (g.setUnmap).age = g.age := rfl
@[simp] theorem Group.setUnmap_pc (g : Group) : (g.setUnmap).pc = g.pc := rfl
@[simp] theorem Group.setUnmap_s (g : Group) : (g.setUnmap).s = g.s := rfl
@[simp] theorem Group.setUnmap_o (g : Group) : (g.setUnmap).o = g.o := rfl
@[simp] theorem Group.setUnmap_x (g : Group) : (g.setUnmap).x = g.x := rfl
@[simp] theorem Group.setUnmap_p (g : Group) : (g.setUnmap).p = g.p := rfl
@[simp] theorem Group.setUnmap_t (g : Group) : (g.setUnmap).t = g.t := rfl
@[simp] theorem Group.setUnmap_f (g : Group) : (g.setUnmap).f = g.f := rfl
@[simp] theorem Group.setUnmap_v (g : Group) : (g.setUnmap).v = g.v := rfl
@[simp] theorem Group.setUnmap_timeHi (g : Group) : (g.setUnmap).timeHi = g.timeHi := rfl
@[simp] theorem Group.setUnmap_blkidx (g : Group) : (g.setUnmap).blkidx = g.blkidx := rfl
@[simp] theorem Group.setUnmap_pageno (g : Group) : (g.setUnmap).pageno = g.pageno := rfl
@[simp] theorem Group.setUnmap_slotno (g : Group) : (g.setUnmap).slotno = g.slotno := rfl
@[simp] theorem Group.setUnmap_pstat (g : Group) : (g.setUnmap).pstat = g.pstat := rfl
@[simp] theorem Group.setUnmap_gstat (g : Group) : (g.setUnmap).gstat = g.gstat ||| 1 := rfl
@[simp] theorem Group.setUnmap_missed (g : Group) : (g.setUnmap).missed = g.missed := rfl
@[simp] theorem Group.setUnmap_astat (g : Group) : (g.setUnmap).astat = g.astat := rfl
@[simp] theorem Group.setUnmap_rstat (g : Group) : (g.setUnmap).rstat = g.rstat := rfl
@[simp] theorem Group.setUnmap_tcause (g : Group) : (g.setUnmap).tcause = g.tcause := rfl
@[simp] theorem Group.setUnmap_tdetail (g : Group) : (g.setUnmap).tdetail = g.tdetail := rfl
@[simp] theorem Group.setUnmap_tepc (g : Group) : (g.setUnmap).tepc = g.tepc := rfl
@[simp] theorem Group.setUnmap_tvalo (g : Group) : (g.setUnmap).tvalo = g.tvalo := rfl
@[simp] theorem Group.setUnmap_tvahi (g : Group) : (g.setUnmap).tvahi = g.tvahi := rfl
@[simp] theorem Group.setUnmap_tlanes (g : Group) : (g.setUnmap).tlanes = g.tlanes := rfl
@[simp] theorem Group.setUnmap_tpass (g : Group) : (g.setUnmap).tpass = g.tpass := rfl
@[simp] theorem Group.setUnmap_hentry (g : Group) : (g.setUnmap).hentry = g.hentry := rfl
@[simp] theorem Group.setUnmap_loop (g : Group) : (g.setUnmap).loop = g.loop := rfl
@[simp] theorem Group.setUnmap_queue (g : Group) : (g.setUnmap).queue = g.queue := rfl
@[simp] theorem Group.setUnmap_run (g : Group) : (g.setUnmap).run = g.run := rfl
@[simp] theorem Group.setUnmap_saved (g : Group) : (g.setUnmap).saved = g.saved := rfl
@[simp] theorem Group.setUnmap_faults (g : Group) : (g.setUnmap).faults = g.faults := rfl
@[simp] theorem Group.setUnmap_flights (g : Group) : (g.setUnmap).flights = g.flights := rfl
@[simp] theorem Group.setUnmap_nextFlight (g : Group) : (g.setUnmap).nextFlight = g.nextFlight := rfl
@[simp] theorem Group.setUnmap_wset (g : Group) : (g.setUnmap).wset = g.wset := rfl
@[simp] theorem Group.setUnmap_want (g : Group) : (g.setUnmap).want = g.want := rfl
@[simp] theorem Group.setUnmap_granted (g : Group) : (g.setUnmap).granted = g.granted := rfl
@[simp] theorem Group.setUnmap_spillOut (g : Group) : (g.setUnmap).spillOut = g.spillOut := rfl
@[simp] theorem Group.setUnmap_stop (g : Group) : (g.setUnmap).stop = g.stop := rfl
@[simp] theorem Group.setUnmap_abandon (g : Group) : (g.setUnmap).abandon = g.abandon := rfl
@[simp] theorem Group.setUnmap_laneStop (g : Group) : (g.setUnmap).laneStop = g.laneStop := rfl
@[simp] theorem Group.setUnmap_fence (g : Group) : (g.setUnmap).fence = g.fence := rfl

/-! ## Group.raise -/

@[simp] theorem Group.raise_st (g : Group) (b : Word) : (g.raise b).st = g.st := rfl
@[simp] theorem Group.raise_wgId (g : Group) (b : Word) : (g.raise b).wgId = g.wgId := rfl
@[simp] theorem Group.raise_gid (g : Group) (b : Word) : (g.raise b).gid = g.gid := rfl
@[simp] theorem Group.raise_age (g : Group) (b : Word) : (g.raise b).age = g.age := rfl
@[simp] theorem Group.raise_pc (g : Group) (b : Word) : (g.raise b).pc = g.pc := rfl
@[simp] theorem Group.raise_s (g : Group) (b : Word) : (g.raise b).s = g.s := rfl
@[simp] theorem Group.raise_o (g : Group) (b : Word) : (g.raise b).o = g.o := rfl
@[simp] theorem Group.raise_x (g : Group) (b : Word) : (g.raise b).x = g.x := rfl
@[simp] theorem Group.raise_p (g : Group) (b : Word) : (g.raise b).p = g.p := rfl
@[simp] theorem Group.raise_t (g : Group) (b : Word) : (g.raise b).t = g.t := rfl
@[simp] theorem Group.raise_f (g : Group) (b : Word) : (g.raise b).f = g.f := rfl
@[simp] theorem Group.raise_v (g : Group) (b : Word) : (g.raise b).v = g.v := rfl
@[simp] theorem Group.raise_timeHi (g : Group) (b : Word) : (g.raise b).timeHi = g.timeHi := rfl
@[simp] theorem Group.raise_blkidx (g : Group) (b : Word) : (g.raise b).blkidx = g.blkidx := rfl
@[simp] theorem Group.raise_pageno (g : Group) (b : Word) : (g.raise b).pageno = g.pageno := rfl
@[simp] theorem Group.raise_slotno (g : Group) (b : Word) : (g.raise b).slotno = g.slotno := rfl
@[simp] theorem Group.raise_pstat (g : Group) (b : Word) : (g.raise b).pstat = g.pstat := rfl
@[simp] theorem Group.raise_gstat (g : Group) (b : Word) : (g.raise b).gstat = g.gstat := rfl
@[simp] theorem Group.raise_missed (g : Group) (b : Word) : (g.raise b).missed = g.missed := rfl
@[simp] theorem Group.raise_astat (g : Group) (b : Word) : (g.raise b).astat = g.astat ||| (b &&& 0xFE0) := rfl
@[simp] theorem Group.raise_rstat (g : Group) (b : Word) : (g.raise b).rstat = g.rstat := rfl
@[simp] theorem Group.raise_tcause (g : Group) (b : Word) : (g.raise b).tcause = g.tcause := rfl
@[simp] theorem Group.raise_tdetail (g : Group) (b : Word) : (g.raise b).tdetail = g.tdetail := rfl
@[simp] theorem Group.raise_tepc (g : Group) (b : Word) : (g.raise b).tepc = g.tepc := rfl
@[simp] theorem Group.raise_tvalo (g : Group) (b : Word) : (g.raise b).tvalo = g.tvalo := rfl
@[simp] theorem Group.raise_tvahi (g : Group) (b : Word) : (g.raise b).tvahi = g.tvahi := rfl
@[simp] theorem Group.raise_tlanes (g : Group) (b : Word) : (g.raise b).tlanes = g.tlanes := rfl
@[simp] theorem Group.raise_tpass (g : Group) (b : Word) : (g.raise b).tpass = g.tpass := rfl
@[simp] theorem Group.raise_hentry (g : Group) (b : Word) : (g.raise b).hentry = g.hentry := rfl
@[simp] theorem Group.raise_loop (g : Group) (b : Word) : (g.raise b).loop = g.loop := rfl
@[simp] theorem Group.raise_queue (g : Group) (b : Word) : (g.raise b).queue = g.queue := rfl
@[simp] theorem Group.raise_run (g : Group) (b : Word) : (g.raise b).run = g.run := rfl
@[simp] theorem Group.raise_saved (g : Group) (b : Word) : (g.raise b).saved = g.saved := rfl
@[simp] theorem Group.raise_faults (g : Group) (b : Word) : (g.raise b).faults = g.faults := rfl
@[simp] theorem Group.raise_flights (g : Group) (b : Word) : (g.raise b).flights = g.flights := rfl
@[simp] theorem Group.raise_nextFlight (g : Group) (b : Word) : (g.raise b).nextFlight = g.nextFlight := rfl
@[simp] theorem Group.raise_wset (g : Group) (b : Word) : (g.raise b).wset = g.wset := rfl
@[simp] theorem Group.raise_want (g : Group) (b : Word) : (g.raise b).want = g.want := rfl
@[simp] theorem Group.raise_granted (g : Group) (b : Word) : (g.raise b).granted = g.granted := rfl
@[simp] theorem Group.raise_spillOut (g : Group) (b : Word) : (g.raise b).spillOut = g.spillOut := rfl
@[simp] theorem Group.raise_stop (g : Group) (b : Word) : (g.raise b).stop = g.stop := rfl
@[simp] theorem Group.raise_abandon (g : Group) (b : Word) : (g.raise b).abandon = g.abandon := rfl
@[simp] theorem Group.raise_laneStop (g : Group) (b : Word) : (g.raise b).laneStop = g.laneStop := rfl
@[simp] theorem Group.raise_fence (g : Group) (b : Word) : (g.raise b).fence = g.fence := rfl

/-! ## Group.modV -/

@[simp] theorem Group.modV_st (g : Group) (k n : Nat) (f : Nat → VReg → VReg) : (g.modV k n f).st = g.st := rfl
@[simp] theorem Group.modV_wgId (g : Group) (k n : Nat) (f : Nat → VReg → VReg) : (g.modV k n f).wgId = g.wgId := rfl
@[simp] theorem Group.modV_gid (g : Group) (k n : Nat) (f : Nat → VReg → VReg) : (g.modV k n f).gid = g.gid := rfl
@[simp] theorem Group.modV_age (g : Group) (k n : Nat) (f : Nat → VReg → VReg) : (g.modV k n f).age = g.age := rfl
@[simp] theorem Group.modV_pc (g : Group) (k n : Nat) (f : Nat → VReg → VReg) : (g.modV k n f).pc = g.pc := rfl
@[simp] theorem Group.modV_s (g : Group) (k n : Nat) (f : Nat → VReg → VReg) : (g.modV k n f).s = g.s := rfl
@[simp] theorem Group.modV_o (g : Group) (k n : Nat) (f : Nat → VReg → VReg) : (g.modV k n f).o = g.o := rfl
@[simp] theorem Group.modV_x (g : Group) (k n : Nat) (f : Nat → VReg → VReg) : (g.modV k n f).x = g.x := rfl
@[simp] theorem Group.modV_p (g : Group) (k n : Nat) (f : Nat → VReg → VReg) : (g.modV k n f).p = g.p := rfl
@[simp] theorem Group.modV_t (g : Group) (k n : Nat) (f : Nat → VReg → VReg) : (g.modV k n f).t = g.t := rfl
@[simp] theorem Group.modV_f (g : Group) (k n : Nat) (f : Nat → VReg → VReg) : (g.modV k n f).f = g.f := rfl
@[simp] theorem Group.modV_timeHi (g : Group) (k n : Nat) (f : Nat → VReg → VReg) : (g.modV k n f).timeHi = g.timeHi := rfl
@[simp] theorem Group.modV_blkidx (g : Group) (k n : Nat) (f : Nat → VReg → VReg) : (g.modV k n f).blkidx = g.blkidx := rfl
@[simp] theorem Group.modV_pageno (g : Group) (k n : Nat) (f : Nat → VReg → VReg) : (g.modV k n f).pageno = g.pageno := rfl
@[simp] theorem Group.modV_slotno (g : Group) (k n : Nat) (f : Nat → VReg → VReg) : (g.modV k n f).slotno = g.slotno := rfl
@[simp] theorem Group.modV_pstat (g : Group) (k n : Nat) (f : Nat → VReg → VReg) : (g.modV k n f).pstat = g.pstat := rfl
@[simp] theorem Group.modV_gstat (g : Group) (k n : Nat) (f : Nat → VReg → VReg) : (g.modV k n f).gstat = g.gstat := rfl
@[simp] theorem Group.modV_missed (g : Group) (k n : Nat) (f : Nat → VReg → VReg) : (g.modV k n f).missed = g.missed := rfl
@[simp] theorem Group.modV_astat (g : Group) (k n : Nat) (f : Nat → VReg → VReg) : (g.modV k n f).astat = g.astat := rfl
@[simp] theorem Group.modV_rstat (g : Group) (k n : Nat) (f : Nat → VReg → VReg) : (g.modV k n f).rstat = g.rstat := rfl
@[simp] theorem Group.modV_tcause (g : Group) (k n : Nat) (f : Nat → VReg → VReg) : (g.modV k n f).tcause = g.tcause := rfl
@[simp] theorem Group.modV_tdetail (g : Group) (k n : Nat) (f : Nat → VReg → VReg) : (g.modV k n f).tdetail = g.tdetail := rfl
@[simp] theorem Group.modV_tepc (g : Group) (k n : Nat) (f : Nat → VReg → VReg) : (g.modV k n f).tepc = g.tepc := rfl
@[simp] theorem Group.modV_tvalo (g : Group) (k n : Nat) (f : Nat → VReg → VReg) : (g.modV k n f).tvalo = g.tvalo := rfl
@[simp] theorem Group.modV_tvahi (g : Group) (k n : Nat) (f : Nat → VReg → VReg) : (g.modV k n f).tvahi = g.tvahi := rfl
@[simp] theorem Group.modV_tlanes (g : Group) (k n : Nat) (f : Nat → VReg → VReg) : (g.modV k n f).tlanes = g.tlanes := rfl
@[simp] theorem Group.modV_tpass (g : Group) (k n : Nat) (f : Nat → VReg → VReg) : (g.modV k n f).tpass = g.tpass := rfl
@[simp] theorem Group.modV_hentry (g : Group) (k n : Nat) (f : Nat → VReg → VReg) : (g.modV k n f).hentry = g.hentry := rfl
@[simp] theorem Group.modV_loop (g : Group) (k n : Nat) (f : Nat → VReg → VReg) : (g.modV k n f).loop = g.loop := rfl
@[simp] theorem Group.modV_queue (g : Group) (k n : Nat) (f : Nat → VReg → VReg) : (g.modV k n f).queue = g.queue := rfl
@[simp] theorem Group.modV_run (g : Group) (k n : Nat) (f : Nat → VReg → VReg) : (g.modV k n f).run = g.run := rfl
@[simp] theorem Group.modV_saved (g : Group) (k n : Nat) (f : Nat → VReg → VReg) : (g.modV k n f).saved = g.saved := rfl
@[simp] theorem Group.modV_faults (g : Group) (k n : Nat) (f : Nat → VReg → VReg) : (g.modV k n f).faults = g.faults := rfl
@[simp] theorem Group.modV_flights (g : Group) (k n : Nat) (f : Nat → VReg → VReg) : (g.modV k n f).flights = g.flights := rfl
@[simp] theorem Group.modV_nextFlight (g : Group) (k n : Nat) (f : Nat → VReg → VReg) : (g.modV k n f).nextFlight = g.nextFlight := rfl
@[simp] theorem Group.modV_wset (g : Group) (k n : Nat) (f : Nat → VReg → VReg) : (g.modV k n f).wset = g.wset := rfl
@[simp] theorem Group.modV_want (g : Group) (k n : Nat) (f : Nat → VReg → VReg) : (g.modV k n f).want = g.want := rfl
@[simp] theorem Group.modV_granted (g : Group) (k n : Nat) (f : Nat → VReg → VReg) : (g.modV k n f).granted = g.granted := rfl
@[simp] theorem Group.modV_spillOut (g : Group) (k n : Nat) (f : Nat → VReg → VReg) : (g.modV k n f).spillOut = g.spillOut := rfl
@[simp] theorem Group.modV_stop (g : Group) (k n : Nat) (f : Nat → VReg → VReg) : (g.modV k n f).stop = g.stop := rfl
@[simp] theorem Group.modV_abandon (g : Group) (k n : Nat) (f : Nat → VReg → VReg) : (g.modV k n f).abandon = g.abandon := rfl
@[simp] theorem Group.modV_laneStop (g : Group) (k n : Nat) (f : Nat → VReg → VReg) : (g.modV k n f).laneStop = g.laneStop := rfl
@[simp] theorem Group.modV_fence (g : Group) (k n : Nat) (f : Nat → VReg → VReg) : (g.modV k n f).fence = g.fence := rfl

/-! ## Group.trapRegs -/

@[simp] theorem Group.trapRegs_st (g : Group) (t : Trap) : (g.trapRegs t).st = g.st := rfl
@[simp] theorem Group.trapRegs_wgId (g : Group) (t : Trap) : (g.trapRegs t).wgId = g.wgId := rfl
@[simp] theorem Group.trapRegs_gid (g : Group) (t : Trap) : (g.trapRegs t).gid = g.gid := rfl
@[simp] theorem Group.trapRegs_age (g : Group) (t : Trap) : (g.trapRegs t).age = g.age := rfl
@[simp] theorem Group.trapRegs_pc (g : Group) (t : Trap) : (g.trapRegs t).pc = g.pc := rfl
@[simp] theorem Group.trapRegs_s (g : Group) (t : Trap) : (g.trapRegs t).s = g.s := rfl
@[simp] theorem Group.trapRegs_o (g : Group) (t : Trap) : (g.trapRegs t).o = g.o := rfl
@[simp] theorem Group.trapRegs_x (g : Group) (t : Trap) : (g.trapRegs t).x = g.x := rfl
@[simp] theorem Group.trapRegs_p (g : Group) (t : Trap) : (g.trapRegs t).p = g.p := rfl
@[simp] theorem Group.trapRegs_t (g : Group) (t : Trap) : (g.trapRegs t).t = g.t := rfl
@[simp] theorem Group.trapRegs_f (g : Group) (t : Trap) : (g.trapRegs t).f = g.f := rfl
@[simp] theorem Group.trapRegs_v (g : Group) (t : Trap) : (g.trapRegs t).v = g.v := rfl
@[simp] theorem Group.trapRegs_timeHi (g : Group) (t : Trap) : (g.trapRegs t).timeHi = g.timeHi := rfl
@[simp] theorem Group.trapRegs_blkidx (g : Group) (t : Trap) : (g.trapRegs t).blkidx = g.blkidx := rfl
@[simp] theorem Group.trapRegs_pageno (g : Group) (t : Trap) : (g.trapRegs t).pageno = g.pageno := rfl
@[simp] theorem Group.trapRegs_slotno (g : Group) (t : Trap) : (g.trapRegs t).slotno = g.slotno := rfl
@[simp] theorem Group.trapRegs_pstat (g : Group) (t : Trap) : (g.trapRegs t).pstat = g.pstat := rfl
@[simp] theorem Group.trapRegs_gstat (g : Group) (t : Trap) : (g.trapRegs t).gstat = g.gstat := rfl
@[simp] theorem Group.trapRegs_missed (g : Group) (t : Trap) : (g.trapRegs t).missed = g.missed := rfl
@[simp] theorem Group.trapRegs_astat (g : Group) (t : Trap) : (g.trapRegs t).astat = g.astat := rfl
@[simp] theorem Group.trapRegs_rstat (g : Group) (t : Trap) : (g.trapRegs t).rstat = g.rstat := rfl
@[simp] theorem Group.trapRegs_tcause (g : Group) (t : Trap) : (g.trapRegs t).tcause = t.cause := rfl
@[simp] theorem Group.trapRegs_tdetail (g : Group) (t : Trap) : (g.trapRegs t).tdetail = t.detail := rfl
@[simp] theorem Group.trapRegs_tepc (g : Group) (t : Trap) : (g.trapRegs t).tepc = BitVec.ofNat 32 t.tepc := rfl
@[simp] theorem Group.trapRegs_tvalo (g : Group) (t : Trap) : (g.trapRegs t).tvalo = BitVec.ofNat 32 t.va := rfl
@[simp] theorem Group.trapRegs_tvahi (g : Group) (t : Trap) : (g.trapRegs t).tvahi = BitVec.ofNat 32 (t.va / 2 ^ 32 % 2 ^ 24) := rfl
@[simp] theorem Group.trapRegs_tlanes (g : Group) (t : Trap) : (g.trapRegs t).tlanes = t.lanes := rfl
@[simp] theorem Group.trapRegs_tpass (g : Group) (t : Trap) : (g.trapRegs t).tpass = BitVec.ofNat 32 (t.pass.getD 0) := rfl
@[simp] theorem Group.trapRegs_hentry (g : Group) (t : Trap) : (g.trapRegs t).hentry = g.hentry := rfl
@[simp] theorem Group.trapRegs_loop (g : Group) (t : Trap) : (g.trapRegs t).loop = g.loop := rfl
@[simp] theorem Group.trapRegs_queue (g : Group) (t : Trap) : (g.trapRegs t).queue = g.queue := rfl
@[simp] theorem Group.trapRegs_run (g : Group) (t : Trap) : (g.trapRegs t).run = g.run := rfl
@[simp] theorem Group.trapRegs_saved (g : Group) (t : Trap) : (g.trapRegs t).saved = g.saved := rfl
@[simp] theorem Group.trapRegs_faults (g : Group) (t : Trap) : (g.trapRegs t).faults = g.faults := rfl
@[simp] theorem Group.trapRegs_flights (g : Group) (t : Trap) : (g.trapRegs t).flights = g.flights := rfl
@[simp] theorem Group.trapRegs_nextFlight (g : Group) (t : Trap) : (g.trapRegs t).nextFlight = g.nextFlight := rfl
@[simp] theorem Group.trapRegs_wset (g : Group) (t : Trap) : (g.trapRegs t).wset = g.wset := rfl
@[simp] theorem Group.trapRegs_want (g : Group) (t : Trap) : (g.trapRegs t).want = g.want := rfl
@[simp] theorem Group.trapRegs_granted (g : Group) (t : Trap) : (g.trapRegs t).granted = g.granted := rfl
@[simp] theorem Group.trapRegs_spillOut (g : Group) (t : Trap) : (g.trapRegs t).spillOut = g.spillOut := rfl
@[simp] theorem Group.trapRegs_stop (g : Group) (t : Trap) : (g.trapRegs t).stop = g.stop := rfl
@[simp] theorem Group.trapRegs_abandon (g : Group) (t : Trap) : (g.trapRegs t).abandon = g.abandon := rfl
@[simp] theorem Group.trapRegs_laneStop (g : Group) (t : Trap) : (g.trapRegs t).laneStop = g.laneStop := rfl
@[simp] theorem Group.trapRegs_fence (g : Group) (t : Trap) : (g.trapRegs t).fence = g.fence := rfl

/-! ## Group.enterHandler -/

@[simp] theorem Group.enterHandler_st (g : Group) (t : Trap) : (g.enterHandler t).st = g.st := rfl
@[simp] theorem Group.enterHandler_wgId (g : Group) (t : Trap) : (g.enterHandler t).wgId = g.wgId := rfl
@[simp] theorem Group.enterHandler_gid (g : Group) (t : Trap) : (g.enterHandler t).gid = g.gid := rfl
@[simp] theorem Group.enterHandler_age (g : Group) (t : Trap) : (g.enterHandler t).age = g.age := rfl
@[simp] theorem Group.enterHandler_pc (g : Group) (t : Trap) : (g.enterHandler t).pc = g.hentry.toNat := rfl
@[simp] theorem Group.enterHandler_s (g : Group) (t : Trap) : (g.enterHandler t).s = g.s := rfl
@[simp] theorem Group.enterHandler_o (g : Group) (t : Trap) : (g.enterHandler t).o = g.o := rfl
@[simp] theorem Group.enterHandler_x (g : Group) (t : Trap) : (g.enterHandler t).x = g.x := rfl
@[simp] theorem Group.enterHandler_p (g : Group) (t : Trap) : (g.enterHandler t).p = g.p := rfl
@[simp] theorem Group.enterHandler_t (g : Group) (t : Trap) : (g.enterHandler t).t = g.t := rfl
@[simp] theorem Group.enterHandler_f (g : Group) (t : Trap) : (g.enterHandler t).f = g.f := rfl
@[simp] theorem Group.enterHandler_v (g : Group) (t : Trap) : (g.enterHandler t).v = g.v := rfl
@[simp] theorem Group.enterHandler_timeHi (g : Group) (t : Trap) : (g.enterHandler t).timeHi = g.timeHi := rfl
@[simp] theorem Group.enterHandler_blkidx (g : Group) (t : Trap) : (g.enterHandler t).blkidx = g.blkidx := rfl
@[simp] theorem Group.enterHandler_pageno (g : Group) (t : Trap) : (g.enterHandler t).pageno = g.pageno := rfl
@[simp] theorem Group.enterHandler_slotno (g : Group) (t : Trap) : (g.enterHandler t).slotno = g.slotno := rfl
@[simp] theorem Group.enterHandler_pstat (g : Group) (t : Trap) : (g.enterHandler t).pstat = g.pstat := rfl
@[simp] theorem Group.enterHandler_gstat (g : Group) (t : Trap) : (g.enterHandler t).gstat = g.gstat := rfl
@[simp] theorem Group.enterHandler_missed (g : Group) (t : Trap) : (g.enterHandler t).missed = g.missed := rfl
@[simp] theorem Group.enterHandler_astat (g : Group) (t : Trap) : (g.enterHandler t).astat = g.astat := rfl
@[simp] theorem Group.enterHandler_rstat (g : Group) (t : Trap) : (g.enterHandler t).rstat = g.rstat := rfl
@[simp] theorem Group.enterHandler_tcause (g : Group) (t : Trap) : (g.enterHandler t).tcause = t.cause := rfl
@[simp] theorem Group.enterHandler_tdetail (g : Group) (t : Trap) : (g.enterHandler t).tdetail = t.detail := rfl
@[simp] theorem Group.enterHandler_tepc (g : Group) (t : Trap) : (g.enterHandler t).tepc = BitVec.ofNat 32 t.tepc := rfl
@[simp] theorem Group.enterHandler_tvalo (g : Group) (t : Trap) : (g.enterHandler t).tvalo = BitVec.ofNat 32 t.va := rfl
@[simp] theorem Group.enterHandler_tvahi (g : Group) (t : Trap) : (g.enterHandler t).tvahi = BitVec.ofNat 32 (t.va / 2 ^ 32 % 2 ^ 24) := rfl
@[simp] theorem Group.enterHandler_tlanes (g : Group) (t : Trap) : (g.enterHandler t).tlanes = t.lanes := rfl
@[simp] theorem Group.enterHandler_tpass (g : Group) (t : Trap) : (g.enterHandler t).tpass = BitVec.ofNat 32 (t.pass.getD 0) := rfl
@[simp] theorem Group.enterHandler_hentry (g : Group) (t : Trap) : (g.enterHandler t).hentry = g.hentry := rfl
@[simp] theorem Group.enterHandler_loop (g : Group) (t : Trap) : (g.enterHandler t).loop = none := rfl
@[simp] theorem Group.enterHandler_queue (g : Group) (t : Trap) : (g.enterHandler t).queue = [] := rfl
@[simp] theorem Group.enterHandler_run (g : Group) (t : Trap) : (g.enterHandler t).run = none := rfl
@[simp] theorem Group.enterHandler_saved (g : Group) (t : Trap) : (g.enterHandler t).saved = some ⟨g.run, g.queue, g.pc, g.loop, t.slot, t.impr && t.src == 2, t.job, t.tslot⟩ := rfl
@[simp] theorem Group.enterHandler_faults (g : Group) (t : Trap) : (g.enterHandler t).faults = g.faults := rfl
@[simp] theorem Group.enterHandler_flights (g : Group) (t : Trap) : (g.enterHandler t).flights = g.flights := rfl
@[simp] theorem Group.enterHandler_nextFlight (g : Group) (t : Trap) : (g.enterHandler t).nextFlight = g.nextFlight := rfl
@[simp] theorem Group.enterHandler_wset (g : Group) (t : Trap) : (g.enterHandler t).wset = g.wset := rfl
@[simp] theorem Group.enterHandler_want (g : Group) (t : Trap) : (g.enterHandler t).want = g.want := rfl
@[simp] theorem Group.enterHandler_granted (g : Group) (t : Trap) : (g.enterHandler t).granted = g.granted := rfl
@[simp] theorem Group.enterHandler_spillOut (g : Group) (t : Trap) : (g.enterHandler t).spillOut = g.spillOut := rfl
@[simp] theorem Group.enterHandler_stop (g : Group) (t : Trap) : (g.enterHandler t).stop = g.stop := rfl
@[simp] theorem Group.enterHandler_abandon (g : Group) (t : Trap) : (g.enterHandler t).abandon = g.abandon := rfl
@[simp] theorem Group.enterHandler_laneStop (g : Group) (t : Trap) : (g.enterHandler t).laneStop = g.laneStop := rfl
@[simp] theorem Group.enterHandler_fence (g : Group) (t : Trap) : (g.enterHandler t).fence = g.fence := rfl

/-! ## Group.restore -/

@[simp] theorem Group.restore_st (g : Group) (v : Saved) : (g.restore v).st = g.st := rfl
@[simp] theorem Group.restore_wgId (g : Group) (v : Saved) : (g.restore v).wgId = g.wgId := rfl
@[simp] theorem Group.restore_gid (g : Group) (v : Saved) : (g.restore v).gid = g.gid := rfl
@[simp] theorem Group.restore_age (g : Group) (v : Saved) : (g.restore v).age = g.age := rfl
@[simp] theorem Group.restore_pc (g : Group) (v : Saved) : (g.restore v).pc = v.pc := rfl
@[simp] theorem Group.restore_s (g : Group) (v : Saved) : (g.restore v).s = g.s := rfl
@[simp] theorem Group.restore_o (g : Group) (v : Saved) : (g.restore v).o = g.o := rfl
@[simp] theorem Group.restore_x (g : Group) (v : Saved) : (g.restore v).x = g.x := rfl
@[simp] theorem Group.restore_p (g : Group) (v : Saved) : (g.restore v).p = g.p := rfl
@[simp] theorem Group.restore_t (g : Group) (v : Saved) : (g.restore v).t = g.t := rfl
@[simp] theorem Group.restore_f (g : Group) (v : Saved) : (g.restore v).f = g.f := rfl
@[simp] theorem Group.restore_v (g : Group) (v : Saved) : (g.restore v).v = g.v := rfl
@[simp] theorem Group.restore_timeHi (g : Group) (v : Saved) : (g.restore v).timeHi = g.timeHi := rfl
@[simp] theorem Group.restore_blkidx (g : Group) (v : Saved) : (g.restore v).blkidx = g.blkidx := rfl
@[simp] theorem Group.restore_pageno (g : Group) (v : Saved) : (g.restore v).pageno = g.pageno := rfl
@[simp] theorem Group.restore_slotno (g : Group) (v : Saved) : (g.restore v).slotno = g.slotno := rfl
@[simp] theorem Group.restore_pstat (g : Group) (v : Saved) : (g.restore v).pstat = g.pstat := rfl
@[simp] theorem Group.restore_gstat (g : Group) (v : Saved) : (g.restore v).gstat = g.gstat := rfl
@[simp] theorem Group.restore_missed (g : Group) (v : Saved) : (g.restore v).missed = g.missed := rfl
@[simp] theorem Group.restore_astat (g : Group) (v : Saved) : (g.restore v).astat = g.astat := rfl
@[simp] theorem Group.restore_rstat (g : Group) (v : Saved) : (g.restore v).rstat = g.rstat := rfl
@[simp] theorem Group.restore_tcause (g : Group) (v : Saved) : (g.restore v).tcause = g.tcause := rfl
@[simp] theorem Group.restore_tdetail (g : Group) (v : Saved) : (g.restore v).tdetail = g.tdetail := rfl
@[simp] theorem Group.restore_tepc (g : Group) (v : Saved) : (g.restore v).tepc = g.tepc := rfl
@[simp] theorem Group.restore_tvalo (g : Group) (v : Saved) : (g.restore v).tvalo = g.tvalo := rfl
@[simp] theorem Group.restore_tvahi (g : Group) (v : Saved) : (g.restore v).tvahi = g.tvahi := rfl
@[simp] theorem Group.restore_tlanes (g : Group) (v : Saved) : (g.restore v).tlanes = g.tlanes := rfl
@[simp] theorem Group.restore_tpass (g : Group) (v : Saved) : (g.restore v).tpass = g.tpass := rfl
@[simp] theorem Group.restore_hentry (g : Group) (v : Saved) : (g.restore v).hentry = g.hentry := rfl
@[simp] theorem Group.restore_loop (g : Group) (v : Saved) : (g.restore v).loop = v.loop := rfl
@[simp] theorem Group.restore_queue (g : Group) (v : Saved) : (g.restore v).queue = v.queue := rfl
@[simp] theorem Group.restore_run (g : Group) (v : Saved) : (g.restore v).run = v.run := rfl
@[simp] theorem Group.restore_saved (g : Group) (v : Saved) : (g.restore v).saved = none := rfl
@[simp] theorem Group.restore_faults (g : Group) (v : Saved) : (g.restore v).faults = g.faults := rfl
@[simp] theorem Group.restore_flights (g : Group) (v : Saved) : (g.restore v).flights = g.flights := rfl
@[simp] theorem Group.restore_nextFlight (g : Group) (v : Saved) : (g.restore v).nextFlight = g.nextFlight := rfl
@[simp] theorem Group.restore_wset (g : Group) (v : Saved) : (g.restore v).wset = g.wset := rfl
@[simp] theorem Group.restore_want (g : Group) (v : Saved) : (g.restore v).want = g.want := rfl
@[simp] theorem Group.restore_granted (g : Group) (v : Saved) : (g.restore v).granted = g.granted := rfl
@[simp] theorem Group.restore_spillOut (g : Group) (v : Saved) : (g.restore v).spillOut = g.spillOut := rfl
@[simp] theorem Group.restore_stop (g : Group) (v : Saved) : (g.restore v).stop = g.stop := rfl
@[simp] theorem Group.restore_abandon (g : Group) (v : Saved) : (g.restore v).abandon = g.abandon := rfl
@[simp] theorem Group.restore_laneStop (g : Group) (v : Saved) : (g.restore v).laneStop = g.laneStop := rfl
@[simp] theorem Group.restore_fence (g : Group) (v : Saved) : (g.restore v).fence = g.fence := rfl

/-! ## Group.abandonBlock -/

@[simp] theorem Group.abandonBlock_st (g : Group) (r : Nat) : (g.abandonBlock r).st = g.st := rfl
@[simp] theorem Group.abandonBlock_wgId (g : Group) (r : Nat) : (g.abandonBlock r).wgId = g.wgId := rfl
@[simp] theorem Group.abandonBlock_gid (g : Group) (r : Nat) : (g.abandonBlock r).gid = g.gid := rfl
@[simp] theorem Group.abandonBlock_age (g : Group) (r : Nat) : (g.abandonBlock r).age = g.age := rfl
@[simp] theorem Group.abandonBlock_pc (g : Group) (r : Nat) : (g.abandonBlock r).pc = r := rfl
@[simp] theorem Group.abandonBlock_s (g : Group) (r : Nat) : (g.abandonBlock r).s = g.s := rfl
@[simp] theorem Group.abandonBlock_o (g : Group) (r : Nat) : (g.abandonBlock r).o = Vector.replicate 8 Lanes.zero := rfl
@[simp] theorem Group.abandonBlock_x (g : Group) (r : Nat) : (g.abandonBlock r).x = g.x := rfl
@[simp] theorem Group.abandonBlock_p (g : Group) (r : Nat) : (g.abandonBlock r).p = g.p := rfl
@[simp] theorem Group.abandonBlock_t (g : Group) (r : Nat) : (g.abandonBlock r).t = g.t := rfl
@[simp] theorem Group.abandonBlock_f (g : Group) (r : Nat) : (g.abandonBlock r).f = g.f := rfl
@[simp] theorem Group.abandonBlock_v (g : Group) (r : Nat) : (g.abandonBlock r).v = Vector.replicate 128 VReg.unmapped := rfl
@[simp] theorem Group.abandonBlock_timeHi (g : Group) (r : Nat) : (g.abandonBlock r).timeHi = g.timeHi := rfl
@[simp] theorem Group.abandonBlock_blkidx (g : Group) (r : Nat) : (g.abandonBlock r).blkidx = g.blkidx := rfl
@[simp] theorem Group.abandonBlock_pageno (g : Group) (r : Nat) : (g.abandonBlock r).pageno = g.pageno := rfl
@[simp] theorem Group.abandonBlock_slotno (g : Group) (r : Nat) : (g.abandonBlock r).slotno = g.slotno := rfl
@[simp] theorem Group.abandonBlock_pstat (g : Group) (r : Nat) : (g.abandonBlock r).pstat = g.pstat := rfl
@[simp] theorem Group.abandonBlock_gstat (g : Group) (r : Nat) : (g.abandonBlock r).gstat = g.gstat := rfl
@[simp] theorem Group.abandonBlock_missed (g : Group) (r : Nat) : (g.abandonBlock r).missed = g.missed := rfl
@[simp] theorem Group.abandonBlock_astat (g : Group) (r : Nat) : (g.abandonBlock r).astat = g.astat := rfl
@[simp] theorem Group.abandonBlock_rstat (g : Group) (r : Nat) : (g.abandonBlock r).rstat = g.rstat := rfl
@[simp] theorem Group.abandonBlock_tcause (g : Group) (r : Nat) : (g.abandonBlock r).tcause = g.tcause := rfl
@[simp] theorem Group.abandonBlock_tdetail (g : Group) (r : Nat) : (g.abandonBlock r).tdetail = g.tdetail := rfl
@[simp] theorem Group.abandonBlock_tepc (g : Group) (r : Nat) : (g.abandonBlock r).tepc = g.tepc := rfl
@[simp] theorem Group.abandonBlock_tvalo (g : Group) (r : Nat) : (g.abandonBlock r).tvalo = g.tvalo := rfl
@[simp] theorem Group.abandonBlock_tvahi (g : Group) (r : Nat) : (g.abandonBlock r).tvahi = g.tvahi := rfl
@[simp] theorem Group.abandonBlock_tlanes (g : Group) (r : Nat) : (g.abandonBlock r).tlanes = g.tlanes := rfl
@[simp] theorem Group.abandonBlock_tpass (g : Group) (r : Nat) : (g.abandonBlock r).tpass = g.tpass := rfl
@[simp] theorem Group.abandonBlock_hentry (g : Group) (r : Nat) : (g.abandonBlock r).hentry = g.hentry := rfl
@[simp] theorem Group.abandonBlock_loop (g : Group) (r : Nat) : (g.abandonBlock r).loop = none := rfl
@[simp] theorem Group.abandonBlock_queue (g : Group) (r : Nat) : (g.abandonBlock r).queue = [] := rfl
@[simp] theorem Group.abandonBlock_run (g : Group) (r : Nat) : (g.abandonBlock r).run = none := rfl
@[simp] theorem Group.abandonBlock_saved (g : Group) (r : Nat) : (g.abandonBlock r).saved = none := rfl
@[simp] theorem Group.abandonBlock_faults (g : Group) (r : Nat) : (g.abandonBlock r).faults = g.faults := rfl
@[simp] theorem Group.abandonBlock_flights (g : Group) (r : Nat) : (g.abandonBlock r).flights = g.flights.map fun f => { f with dst := none } := rfl
@[simp] theorem Group.abandonBlock_nextFlight (g : Group) (r : Nat) : (g.abandonBlock r).nextFlight = g.nextFlight := rfl
@[simp] theorem Group.abandonBlock_wset (g : Group) (r : Nat) : (g.abandonBlock r).wset = g.wset := rfl
@[simp] theorem Group.abandonBlock_want (g : Group) (r : Nat) : (g.abandonBlock r).want = 0 := rfl
@[simp] theorem Group.abandonBlock_granted (g : Group) (r : Nat) : (g.abandonBlock r).granted = 0 := rfl
@[simp] theorem Group.abandonBlock_spillOut (g : Group) (r : Nat) : (g.abandonBlock r).spillOut = false := rfl
@[simp] theorem Group.abandonBlock_stop (g : Group) (r : Nat) : (g.abandonBlock r).stop = g.stop := rfl
@[simp] theorem Group.abandonBlock_abandon (g : Group) (r : Nat) : (g.abandonBlock r).abandon = false := rfl
@[simp] theorem Group.abandonBlock_laneStop (g : Group) (r : Nat) : (g.abandonBlock r).laneStop = g.laneStop := rfl
@[simp] theorem Group.abandonBlock_fence (g : Group) (r : Nat) : (g.abandonBlock r).fence = g.fence := rfl

/-! ## Workgroup.event -/

@[simp] theorem Workgroup.event_id (w : Workgroup) : (w.event).id = w.id := rfl
@[simp] theorem Workgroup.event_lid (w : Workgroup) : (w.event).lid = w.lid := rfl
@[simp] theorem Workgroup.event_k (w : Workgroup) : (w.event).k = w.k := rfl
@[simp] theorem Workgroup.event_coreId (w : Workgroup) : (w.event).coreId = w.coreId := rfl
@[simp] theorem Workgroup.event_place (w : Workgroup) : (w.event).place = w.place := rfl
@[simp] theorem Workgroup.event_sp (w : Workgroup) : (w.event).sp = w.sp := rfl
@[simp] theorem Workgroup.event_slots (w : Workgroup) : (w.event).slots = w.slots := rfl
@[simp] theorem Workgroup.event_idxq (w : Workgroup) : (w.event).idxq = w.idxq := rfl
@[simp] theorem Workgroup.event_offers (w : Workgroup) : (w.event).offers = w.offers := rfl
@[simp] theorem Workgroup.event_parked (w : Workgroup) : (w.event).parked = w.parked := rfl
@[simp] theorem Workgroup.event_lbar (w : Workgroup) : (w.event).lbar = { w.lbar with phase := w.lbar.phase + 1 } := rfl
@[simp] theorem Workgroup.event_endSeen (w : Workgroup) : (w.event).endSeen = w.endSeen := rfl
@[simp] theorem Workgroup.event_jobBars (w : Workgroup) : (w.event).jobBars = w.jobBars := rfl
@[simp] theorem Workgroup.event_settles (w : Workgroup) : (w.event).settles = w.settles := rfl
@[simp] theorem Workgroup.event_arrLog (w : Workgroup) : (w.event).arrLog = w.arrLog := rfl
@[simp] theorem Workgroup.event_seq (w : Workgroup) : (w.event).seq = w.seq := rfl
@[simp] theorem Workgroup.event_stop (w : Workgroup) : (w.event).stop = w.stop := rfl

/-! ## Workgroup.setBar -/

@[simp] theorem Workgroup.setBar_id (w : Workgroup) (off : Nat) (b : Barrier) : (w.setBar off b).id = w.id := rfl
@[simp] theorem Workgroup.setBar_lid (w : Workgroup) (off : Nat) (b : Barrier) : (w.setBar off b).lid = w.lid := rfl
@[simp] theorem Workgroup.setBar_k (w : Workgroup) (off : Nat) (b : Barrier) : (w.setBar off b).k = w.k := rfl
@[simp] theorem Workgroup.setBar_coreId (w : Workgroup) (off : Nat) (b : Barrier) : (w.setBar off b).coreId = w.coreId := rfl
@[simp] theorem Workgroup.setBar_place (w : Workgroup) (off : Nat) (b : Barrier) : (w.setBar off b).place = w.place := rfl
@[simp] theorem Workgroup.setBar_sp (w : Workgroup) (off : Nat) (b : Barrier) : (w.setBar off b).sp = w.sp.writeLE off 16 b.toBits.toNat := rfl
@[simp] theorem Workgroup.setBar_slots (w : Workgroup) (off : Nat) (b : Barrier) : (w.setBar off b).slots = w.slots := rfl
@[simp] theorem Workgroup.setBar_idxq (w : Workgroup) (off : Nat) (b : Barrier) : (w.setBar off b).idxq = w.idxq := rfl
@[simp] theorem Workgroup.setBar_offers (w : Workgroup) (off : Nat) (b : Barrier) : (w.setBar off b).offers = w.offers := rfl
@[simp] theorem Workgroup.setBar_parked (w : Workgroup) (off : Nat) (b : Barrier) : (w.setBar off b).parked = w.parked := rfl
@[simp] theorem Workgroup.setBar_lbar (w : Workgroup) (off : Nat) (b : Barrier) : (w.setBar off b).lbar = w.lbar := rfl
@[simp] theorem Workgroup.setBar_endSeen (w : Workgroup) (off : Nat) (b : Barrier) : (w.setBar off b).endSeen = w.endSeen := rfl
@[simp] theorem Workgroup.setBar_jobBars (w : Workgroup) (off : Nat) (b : Barrier) : (w.setBar off b).jobBars = w.jobBars := rfl
@[simp] theorem Workgroup.setBar_settles (w : Workgroup) (off : Nat) (b : Barrier) : (w.setBar off b).settles = w.settles := rfl
@[simp] theorem Workgroup.setBar_arrLog (w : Workgroup) (off : Nat) (b : Barrier) : (w.setBar off b).arrLog = w.arrLog := rfl
@[simp] theorem Workgroup.setBar_seq (w : Workgroup) (off : Nat) (b : Barrier) : (w.setBar off b).seq = w.seq := rfl
@[simp] theorem Workgroup.setBar_stop (w : Workgroup) (off : Nat) (b : Barrier) : (w.setBar off b).stop = w.stop := rfl

/-! ## Workgroup.carry -/

@[simp] theorem Workgroup.carry_id (w : Workgroup) (off : Nat) (b : Barrier) (p : BitVec 16) (js : List Acquirers) :
    (w.carry off b p js).id = w.id := rfl
@[simp] theorem Workgroup.carry_lid (w : Workgroup) (off : Nat) (b : Barrier) (p : BitVec 16) (js : List Acquirers) :
    (w.carry off b p js).lid = w.lid := rfl
@[simp] theorem Workgroup.carry_k (w : Workgroup) (off : Nat) (b : Barrier) (p : BitVec 16) (js : List Acquirers) :
    (w.carry off b p js).k = w.k := rfl
@[simp] theorem Workgroup.carry_coreId (w : Workgroup) (off : Nat) (b : Barrier) (p : BitVec 16) (js : List Acquirers) :
    (w.carry off b p js).coreId = w.coreId := rfl
@[simp] theorem Workgroup.carry_place (w : Workgroup) (off : Nat) (b : Barrier) (p : BitVec 16) (js : List Acquirers) :
    (w.carry off b p js).place = w.place := rfl
@[simp] theorem Workgroup.carry_sp (w : Workgroup) (off : Nat) (b : Barrier) (p : BitVec 16) (js : List Acquirers) :
    (w.carry off b p js).sp = w.sp := rfl
@[simp] theorem Workgroup.carry_slots (w : Workgroup) (off : Nat) (b : Barrier) (p : BitVec 16) (js : List Acquirers) :
    (w.carry off b p js).slots = w.slots := rfl
@[simp] theorem Workgroup.carry_idxq (w : Workgroup) (off : Nat) (b : Barrier) (p : BitVec 16) (js : List Acquirers) :
    (w.carry off b p js).idxq = w.idxq := rfl
@[simp] theorem Workgroup.carry_offers (w : Workgroup) (off : Nat) (b : Barrier) (p : BitVec 16) (js : List Acquirers) :
    (w.carry off b p js).offers = w.offers := rfl
@[simp] theorem Workgroup.carry_parked (w : Workgroup) (off : Nat) (b : Barrier) (p : BitVec 16) (js : List Acquirers) :
    (w.carry off b p js).parked = w.parked := rfl
@[simp] theorem Workgroup.carry_lbar (w : Workgroup) (off : Nat) (b : Barrier) (p : BitVec 16) (js : List Acquirers) :
    (w.carry off b p js).lbar = w.lbar := rfl
@[simp] theorem Workgroup.carry_endSeen (w : Workgroup) (off : Nat) (b : Barrier) (p : BitVec 16) (js : List Acquirers) :
    (w.carry off b p js).endSeen = w.endSeen := rfl
@[simp] theorem Workgroup.carry_settles (w : Workgroup) (off : Nat) (b : Barrier) (p : BitVec 16) (js : List Acquirers) :
    (w.carry off b p js).settles = w.settles := rfl
@[simp] theorem Workgroup.carry_arrLog (w : Workgroup) (off : Nat) (b : Barrier) (p : BitVec 16) (js : List Acquirers) :
    (w.carry off b p js).arrLog = w.arrLog := rfl
@[simp] theorem Workgroup.carry_seq (w : Workgroup) (off : Nat) (b : Barrier) (p : BitVec 16) (js : List Acquirers) :
    (w.carry off b p js).seq = w.seq := rfl
@[simp] theorem Workgroup.carry_stop (w : Workgroup) (off : Nat) (b : Barrier) (p : BitVec 16) (js : List Acquirers) :
    (w.carry off b p js).stop = w.stop := rfl

/-- What a barrier's phases carry afterwards: the new releases, every other barrier's, and of this barrier those of the same phase and of
those that are complete. -/
theorem Workgroup.mem_carry (w : Workgroup) (off : Nat) (b : Barrier) (p : BitVec 16) (js : List Acquirers) (x : Nat × BitVec 16 × Acquirers) :
    x ∈ (w.carry off b p js).jobBars ↔
      (∃ j ∈ js, (off, p, j) = x) ∨ x ∈ w.jobBars ∧ (x.1 ≠ off ∨ x.2.1 = p ∨ b.passed x.2.1 = true) := by
  simp [Workgroup.carry, or_assoc]

/-! ## Tenants that leave -/

/-- A tenant that leaves changes nothing but its context, its frames' accessed bits, and its functions. -/
theorem State.tenantLeaves_frame (s : State) (b : Nat) :
    s.tenantLeaves b =
      { s with ctxs := (s.tenantLeaves b).ctxs, fit := (s.tenantLeaves b).fit, funcs := (s.tenantLeaves b).funcs } := by
  unfold State.tenantLeaves
  split <;> rfl

/-- So do all that leave. -/
theorem State.tenantsLeave_frame (s : State) :
    s.tenantsLeave = { s with ctxs := s.tenantsLeave.ctxs, fit := s.tenantsLeave.fit, funcs := s.tenantsLeave.funcs } := by
  unfold State.tenantsLeave
  generalize (List.range 16).filter _ = bs
  suffices h : ∀ t : State, ∃ c f u, bs.foldl State.tenantLeaves t = { t with ctxs := c, fit := f, funcs := u } by
    obtain ⟨c, f, u, h⟩ := h s
    rw [h]
  induction bs with
  | nil => exact fun t => ⟨_, _, _, rfl⟩
  | cons b bs ih =>
    intro t
    obtain ⟨c, f, u, h⟩ := ih (t.tenantLeaves b)
    exact ⟨c, f, u, by rw [List.foldl_cons, h, State.tenantLeaves_frame]⟩

end Sys2Proof.Machine
end

