-- ==== Sys2Proof/Laws/Words.lean ====
section
/-! SUPPORT. For each shared operation of the meanings, what it answers: scalar words, transfers of control, faults, lane
words, matrix words, steps of jobs, commands. -/
namespace Sys2Proof.Machine

/-! ## Scalar words -/

/-- A word that can fall through does. -/
theorem finish_onward {s t : State} (h : s.g.after.1 + 4 ≤ s.ln.desc.slen) : s.finish t = s.onward t := by
  simp [State.finish, State.onward, Nat.not_lt.mpr h]

/-- A word that cannot is refused. -/
theorem finish_past {s t : State} (h : s.ln.desc.slen < s.g.after.1 + 4) : s.finish t = s.scalarFault 0x10 := by
  simp [State.finish, h]

/-- The three things that a scalar word can do. -/
theorem scalarWord_cases (s : State) (d : Bool) (regs : List SReg) (eff : State → Except SFault State) :
    (s.scalarGate d d regs = false ∧ scalarWord s d regs eff = .next s.scalarWait) ∨
    (s.scalarGate d d regs = true ∧ ∃ f, eff s = .error f ∧
      scalarWord s d regs eff = .next (s.scalarFault f.code f.detail f.va)) ∨
    (s.scalarGate d d regs = true ∧ ∃ t, eff s = .ok t ∧ scalarWord s d regs eff = .next (s.finish t)) := by
  unfold scalarWord
  cases hg : s.scalarGate d d regs
  · exact .inl ⟨rfl, rfl⟩
  · cases he : eff s with
    | error f => exact .inr (.inl ⟨rfl, f, rfl, rfl⟩)
    | ok t => exact .inr (.inr ⟨rfl, t, rfl, rfl⟩)

/-- A scalar word whose effect is performed. -/
theorem scalarWord_ok {s t : State} {d : Bool} {regs : List SReg} {eff : State → Except SFault State}
    (h : s.ScalarReady d regs) (he : eff s = .ok t) : scalarWord s d regs eff = .next (s.onward t) := by
  simp [scalarWord, h.1, he, finish_onward h.2]

/-- A scalar word that faults. -/
theorem scalarWord_error {s : State} {f : SFault} {d : Bool} {regs : List SReg} {eff : State → Except SFault State}
    (h : s.scalarGate d d regs = true) (he : eff s = .error f) :
    scalarWord s d regs eff = .next (s.scalarFault f.code f.detail f.va) := by
  simp [scalarWord, h, he]

/-- A transfer of control that is performed. -/
theorem scalarJump_ok {s t : State} {d st : Bool} {regs : List SReg} {eff : State → Except SFault State}
    (h : s.scalarGate d st regs = true) (he : eff s = .ok t) : scalarJump s d st regs eff = .next t := by
  simp [scalarJump, h, he]

/-- One that faults. -/
theorem scalarJump_error {s : State} {f : SFault} {d st : Bool} {regs : List SReg} {eff : State → Except SFault State}
    (h : s.scalarGate d st regs = true) (he : eff s = .error f) :
    scalarJump s d st regs eff = .next (s.scalarFault f.code f.detail f.va) := by
  simp [scalarJump, h, he]

/-- A draining word that is performed. -/
theorem scalarTry_ok {s t : State} {eff : State → Option (Except SFault State)} (h : s.ScalarReady true [])
    (he : eff s = some (.ok t)) : scalarTry s eff = .next (s.onward t) := by
  simp [scalarTry, h.1, he, finish_onward h.2]

/-- A target inside the section. -/
theorem jump_inside {s : State} {a : Int} (h : s.InScalar a) :
    s.jump a = .ok { s with g := { s.g with pc := a.toNat } } := by
  have h1 := h.1
  have h2 := h.2
  have : ¬ (a < 0) := by omega
  have : ¬ ((s.ln.desc.slen : Int) < a + 4) := by omega
  simp [State.jump, *]

/-- A target outside it. -/
theorem jump_outside {s : State} {a : Int} (h : ¬ s.InScalar a) : s.jump a = .error { code := 0x10 } := by
  simp only [State.InScalar, not_and] at h
  by_cases h0 : a < 0
  · simp [State.jump, h0]
  · have h2 := h (by omega)
    have : (s.ln.desc.slen : Int) < a + 4 := by omega
    simp [State.jump, this]

/-- What reading S registers changes: the latch alone. -/
theorem latch_eq (s : State) (n : SReg) :
    s.latch n = { s with g := { s.g with timeHi := if n.toNat = 60 then s.timeHigh else s.g.timeHi } } := by
  unfold State.latch
  split <;> rfl

/-- A three-register word: its result, and nothing else. -/
theorem alu_step {s : State} {d a b : SReg} (f : Word → Word → Word) (h : s.ScalarReady false [d, a, b])
    (hd : d.toNat < 48) : ∃ t, alu s d a b f = .next t ∧ ScalarStep s t [a, b] [d] ∧
      vget t.g.s d.toNat 0 = f (s.readS a) (s.readS b) := by
  refine ⟨_, scalarWord_ok h rfl, ⟨?_, ?_⟩, ?_⟩
  · simp only [latch_eq, State.onward, State.writeS, State.latched, List.any_cons, List.any_nil, Bool.or_false]
    by_cases h1 : a.toNat = 60 <;> by_cases h2 : b.toNat = 60 <;> simp [h1, h2, State.timeHigh]
  · intro n hn hne
    have hdn : d.toNat ≠ n.toNat := fun e => hne (by simp [BitVec.eq_of_toNat_eq e.symm])
    simp [latch_eq, State.onward, State.writeS, vget_vset_ne _ _ _ hdn]
  · simp [latch_eq, State.onward, State.writeS, vget_vset _ _ _ _ hd]

/-- A register-immediate word: its result, and nothing else. -/
theorem aluImm_step {s : State} {d a : SReg} (f : Word → Word) (h : s.ScalarReady false [d, a]) (hd : d.toNat < 48) :
    ∃ t, aluImm s d a f = .next t ∧ ScalarStep s t [a] [d] ∧ vget t.g.s d.toNat 0 = f (s.readS a) := by
  refine ⟨_, scalarWord_ok h rfl, ⟨?_, ?_⟩, ?_⟩
  · simp only [latch_eq, State.onward, State.writeS, State.latched, List.any_cons, List.any_nil, Bool.or_false]
    by_cases h1 : a.toNat = 60 <;> simp [h1, State.timeHigh]
  · intro n hn hne
    have hdn : d.toNat ≠ n.toNat := fun e => hne (by simp [BitVec.eq_of_toNat_eq e.symm])
    simp [latch_eq, State.onward, State.writeS, vget_vset_ne _ _ _ hdn]
  · simp [latch_eq, State.onward, State.writeS, vget_vset _ _ _ _ hd]

/-! ## Faults -/

/-- What an access to a frame leaves as it is, but for two codes. -/
theorem metFrame_other {s : State} {t va : Nat} {c : BitVec 8} (h1 : c ≠ 0x14) (h2 : c ≠ 0x50) : s.metFrame t va c = s := by
  simp only [State.metFrame, h1, h2, decide_false, Bool.or_self, Bool.false_eq_true, if_false]

/-- A fault outside a handler enters it. -/
theorem takeFault_enter {s : State} {t : Trap} (h1 : t.code ≠ 0x14) (h2 : t.code ≠ 0x50) (h : s.g.saved = none) :
    s.takeFault t = { s with g := s.g.enterHandler t } := by
  simp only [State.takeFault, metFrame_other h1 h2, State.inHandler, h, h1, Option.isSome_none, Bool.false_eq_true, if_false]

/-- A precise fault in a handler cancels the launch, and is counted. -/
theorem takeFault_double {s : State} {t : Trap} (h1 : t.code ≠ 0x14) (h2 : t.code ≠ 0x50) (h : s.g.saved.isSome = true) :
    s.takeFault t = (s.modErr s.tenant fun e => { e with dblf := satInc e.dblf }).haltLaunch s.ln.lid true := by
  simp only [State.takeFault, metFrame_other h1 h2, State.inHandler, h, h1, if_true, if_false]

/-- With no fault waiting, nothing is delivered. -/
theorem deliverPending_none {s : State} {n : Nat} (h : s.g.faults = []) : s.deliverPending n = s := by
  simp [State.deliverPending, h]

/-! ## Lane words -/

/-- The ORed mask of some sources is zero just where each is. -/
theorem foldl_or_zero {α : Type} (l : List α) (f : α → Word) (m : Word) :
    l.foldl (fun m q => m ||| f q) m = 0 ↔ m = 0 ∧ ∀ q ∈ l, f q = 0 := by
  induction l generalizing m with
  | nil => simp
  | cons q l ih =>
    rw [List.foldl_cons, ih]
    have hor : m ||| f q = 0 ↔ m = 0 ∧ f q = 0 := by
      constructor
      · intro h
        have hb : ∀ i, m.getLsbD i = false ∧ (f q).getLsbD i = false := by
          intro i
          have := congrArg (fun x : Word => x.getLsbD i) h
          simpa using this
        exact ⟨BitVec.eq_of_getLsbD_eq fun i _ => by simp [(hb i).1],
          BitVec.eq_of_getLsbD_eq fun i _ => by simp [(hb i).2]⟩
      · rintro ⟨h1, h2⟩
        rw [h1, h2]
        rfl
    rw [hor]
    constructor
    · rintro ⟨⟨h1, h2⟩, h3⟩
      exact ⟨h1, List.forall_mem_cons.mpr ⟨h2, h3⟩⟩
    · rintro ⟨h1, h2⟩
      obtain ⟨h3, h4⟩ := List.forall_mem_cons.mp h2
      exact ⟨⟨h1, h3⟩, h4⟩

/-- The sources of a lane word beside the values read of them. -/
theorem sees_eq (xs : List Src) (rd : Src → SrcVal) (sel : SrcVal → Word) (at_ : Src → Word) (m : Word) :
    (xs.zip (xs.map rd)).foldl (fun m q => m ||| (sel q.2 &&& at_ q.1)) m =
      xs.foldl (fun m x => m ||| (sel (rd x) &&& at_ x)) m := by
  induction xs generalizing m with
  | nil => rfl
  | cons x xs ih => simp [ih]

/-- A lane word whose way is clear writes its result and leaves for the next word, or ends its path. -/
theorem laneInstr_clear {s : State} {o : LaneOps} {nout : Nat} {srcs : Word → List Src}
    {pre : RunUnit → Option (BitVec 8)} {f : RunUnit → Word → List SrcVal → LaneRes} {r : RunUnit} {p : Path} {c : ClauseSt}
    (hp : pre r = none) (h : s.LaneClear o nout (srcs (enabled r p o)) r p c)
    (hr : (s.laneWrote o (srcs (enabled r p o)) r p
      (f r (enabled r p o) (s.laneReads r p (srcs (enabled r p o))))).LaneRoom o r p c
        (f r (enabled r p o) (s.laneReads r p (srcs (enabled r p o))))) :
    laneInstr s o nout srcs pre f = .next (((s.laneWrote o (srcs (enabled r p o)) r p
      (f r (enabled r p o) (s.laneReads r p (srcs (enabled r p o))))).laneDone
        ((f r (enabled r p o) (s.laneReads r p (srcs (enabled r p o)))).entry o.dst (enabled r p o))).floatDone p) := by
  have hoob : (srcs (enabled r p o)).foldl
      (fun m x => m ||| ((readSrc s.g r p x.x x.n).oob &&& x.lanes (enabled r p o))) 0 = 0 :=
    (foldl_or_zero _ _ _).mpr ⟨rfl, h.bounds⟩
  have hpend : (srcs (enabled r p o)).foldl
      (fun m x => m ||| ((readSrc s.g r p x.x x.n).pend &&& x.held (enabled r p o))) 0 = 0 :=
    (foldl_or_zero _ _ _).mpr ⟨rfl, h.ready⟩
  have hmiss : ((srcs (enabled r p o)).foldl
      (fun m x => m ||| ((readSrc s.g r p x.x x.n).miss &&& x.lanes (enabled r p o))) 0 ≠ 0) ↔
      s.laneMiss r p (enabled r p o) (srcs (enabled r p o)) = true := by
    rw [ne_eq, foldl_or_zero]
    simp [State.laneMiss]
  have hdst : ¬ (nout ≠ 0 ∧ s.g.dstOob o.dst &&& enabled r p o ≠ 0) := fun q => q.2 (h.dst q.1)
  unfold laneInstr
  have hsees := fun (sel : SrcVal → Word) (at_ : Src → Word) =>
    sees_eq (srcs (enabled r p o)) (fun x => readSrc s.g r p x.x x.n) sel at_ 0
  simp only [h.gate, hp, hsees (·.oob) (·.lanes (enabled r p o)), hsees (·.pend) (·.held (enabled r p o)),
    hsees (·.miss) (·.lanes (enabled r p o)), hoob, hpend]
  have hstrict : ¬ (s.laneMiss r p (enabled r p o) (srcs (enabled r p o)) = true ∧ s.g.strict = true) := by
    rintro ⟨h1, h2⟩
    simp [h.strict h2] at h1
  simp only [State.LaneRoom, State.laneWrote, State.laneReads] at hr ⊢
  simp only [decide_eq_true_eq, Bool.and_eq_true, Bool.or_eq_true, Bool.not_eq_true', ne_eq, not_true_eq_false, false_or,
    h.free, hmiss, if_neg hstrict, h.onward, if_neg (Nat.not_lt.mpr h.peak), hr, if_true, if_false,
    Bool.false_eq_true, decide_not]
  rw [if_neg]
  rintro ⟨h1, h2⟩
  exact hdst ⟨by simpa using h1, by simpa using h2⟩

/-- Without a path in the issuing slot that stands in a clause, a lane word does nothing. -/
theorem laneInstr_idle {s : State} {o : LaneOps} {nout : Nat} {srcs : Word → List Src}
    {pre : RunUnit → Option (BitVec 8)} {f : RunUnit → Word → List SrcVal → LaneRes} (h : s.laneGate = none) :
    laneInstr s o nout srcs pre f = .next s := by
  simp [laneInstr, h]

/-- A check that comes first refuses the word with its code. -/
theorem laneInstr_pre {s : State} {o : LaneOps} {nout : Nat} {srcs : Word → List Src}
    {pre : RunUnit → Option (BitVec 8)} {f : RunUnit → Word → List SrcVal → LaneRes} {r : RunUnit} {p : Path} {c : ClauseSt}
    {code : BitVec 8} (h : s.laneGate = some (r, p, c)) (hp : pre r = some code) :
    laneInstr s o nout srcs pre f = .next (s.laneFault code p.mask) := by
  simp [laneInstr, h, hp]

/-- A choice of two outcomes that both are next states. -/
theorem ite_next {σ φ ρ : Type} {q : Prop} [Decidable q] {a b : Host.Outcome σ φ ρ} (ha : ∃ t, a = .next t)
    (hb : ∃ t, b = .next t) : ∃ t, (if q then a else b) = .next t := by
  split
  · exact ha
  · exact hb

/-- A fixed-latency lane word always answers a next state. -/
theorem laneInstr_next (s : State) (o : LaneOps) (nout : Nat) (srcs : Word → List Src)
    (pre : RunUnit → Option (BitVec 8)) (f : RunUnit → Word → List SrcVal → LaneRes) :
    ∃ t, laneInstr s o nout srcs pre f = .next t := by
  unfold laneInstr
  split
  · exact ⟨_, rfl⟩
  · dsimp only
    split
    · exact ⟨_, rfl⟩
    · repeat' first | exact ⟨_, rfl⟩ | apply ite_next

/-- So does a scalar word. -/
theorem scalarWord_next (s : State) (d : Bool) (regs : List SReg) (eff : State → Except SFault State) :
    ∃ t, scalarWord s d regs eff = .next t := by
  unfold scalarWord
  repeat' split
  all_goals exact ⟨_, rfl⟩

/-- So does a transfer of control. -/
theorem scalarJump_next (s : State) (d st : Bool) (regs : List SReg) (eff : State → Except SFault State) :
    ∃ t, scalarJump s d st regs eff = .next t := by
  unfold scalarJump
  repeat' split
  all_goals exact ⟨_, rfl⟩

/-- So does a draining word that may wait. -/
theorem scalarTry_next (s : State) (eff : State → Option (Except SFault State)) : ∃ t, scalarTry s eff = .next t := by
  unfold scalarTry
  repeat' split
  all_goals exact ⟨_, rfl⟩

/-! ## Matrix words -/

/-- A matrix word whose effect is performed: the stream goes on at the next word. -/
theorem matrixWord_ok {s t : State} {eff : State → Except MStop State} (h : s.matrixLive = true)
    (hn : s.wg.seq.mpc + 1 < s.ln.desc.mlen) (he : eff s = .ok t) :
    matrixWord s eff = .next (t.modSeq fun q => { q with mpc := q.mpc + 1, zeros := [] }) := by
  simp [matrixWord, h, Nat.not_le.mpr hn, he]

/-- A matrix word that faults. -/
theorem matrixWord_fault {s : State} {c : BitVec 8} {va : Nat} {sp : Bool} {eff : State → Except MStop State}
    (h : s.matrixLive = true) (hn : s.wg.seq.mpc + 1 < s.ln.desc.mlen) (he : eff s = .error (.fault c va sp)) :
    matrixWord s eff = .next (s.matrixFault c va sp) := by
  simp [matrixWord, h, Nat.not_le.mpr hn, he]

/-- A matrix word always answers a next state. -/
theorem matrixWord_next (s : State) (eff : State → Except MStop State) : ∃ t, matrixWord s eff = .next t := by
  unfold matrixWord
  repeat' split
  all_goals exact ⟨_, rfl⟩

/-! ## Engine jobs and commands -/

/-- The first meeting is `go` just where all are. -/
theorem firstMeets_go (ms : List StepMeets) : firstMeets ms = .go ↔ ∀ m ∈ ms, m = .go := by
  induction ms with
  | nil => simp [firstMeets]
  | cons m ms ih => cases m <;> simp [firstMeets, ih]

/-- A step of a job in whose way nothing stands. -/
theorem jobStep_go {s : State} {id : Nat} {kind : BitVec 8} {size : Job → Nat}
    {reads : Job → Nat → List (Nat × Nat × Nat)} {eff : State → Job → Launch → Nat → State} {j : Job} {l : Launch}
    (hj : s.findJob id = some j) (hl : s.findLaunch j.lid = some l) (hk : j.kind = kind) (hm : j.ofCard = true)
    (hr : j.st = .running) (hh : s.jobHeld j.lid = false) (hn : 0 < min (size j) (j.total - j.pos))
    (hreads : ∀ r ∈ reads j (min (size j) (j.total - j.pos)), ∀ p ∈ j.readPieces r.1 r.2.1 r.2.2, s.readMeets j l p = .go)
    (hwrites : ∀ p ∈ j.writePieces j.pos (min (size j) (j.total - j.pos)), s.writeMeets l p = .go) :
    jobStep s id kind size reads eff =
      .next (eff (s.readFrames j (reads j (min (size j) (j.total - j.pos)))) j l (min (size j) (j.total - j.pos))) := by
  have hms : firstMeets (((reads j (min (size j) (j.total - j.pos))).flatMap fun r =>
      (j.readPieces r.1 r.2.1 r.2.2).map (s.readMeets j l)) ++
        (j.writePieces j.pos (min (size j) (j.total - j.pos))).map (s.writeMeets l)) = .go := by
    rw [firstMeets_go]
    intro m hm
    rcases List.mem_append.mp hm with h | h
    · obtain ⟨r, hr1, hr2⟩ := List.mem_flatMap.mp h
      obtain ⟨p, hp1, hp2⟩ := List.mem_map.mp hr2
      exact hp2 ▸ hreads r hr1 p hp1
    · obtain ⟨p, hp1, hp2⟩ := List.mem_map.mp h
      exact hp2 ▸ hwrites p hp1
  unfold jobStep
  simp only [hj, hl, hms]
  rw [if_pos]
  simp only [hk, hm, hr, hh, hn, decide_true, Bool.not_false, beq_self_eq_true, Bool.and_self]

/-- A command at the head of its queue that completes. -/
theorem cmdWord_done {s t : State} {c : CmdRef} {x : Queue} {k : Cmd} {ks : List Cmd} {cs : BitVec 8}
    {eff : State → CmdOut} (hq : s.queueOf c.tenant c.queue = some x) (hn : x.cmds = k :: ks) (hr : k.ref = c)
    (hb : x.busy = none) (he : eff s = .done t cs) :
    cmdWord s c eff = .next ((t.popCmd c).completeCmd c cs 0 0 0) := by
  simp [cmdWord, hq, hn, hr, hb, he]

/-- One that waits. -/
theorem cmdWord_wait {s t : State} {c : CmdRef} {x : Queue} {k : Cmd} {ks : List Cmd} {eff : State → CmdOut}
    (hq : s.queueOf c.tenant c.queue = some x) (hn : x.cmds = k :: ks) (hr : k.ref = c) (hb : x.busy = none)
    (he : eff s = .wait t) : cmdWord s c eff = .next t := by
  simp [cmdWord, hq, hn, hr, hb, he]

/-- A command always answers a next state. -/
theorem cmdWord_next (s : State) (c : CmdRef) (eff : State → CmdOut) : ∃ t, cmdWord s c eff = .next t := by
  unfold cmdWord
  repeat' split
  all_goals exact ⟨_, rfl⟩

/-- A step of a job always answers a next state. -/
theorem jobStep_next (s : State) (id : Nat) (kind : BitVec 8) (size : Job → Nat)
    (reads : Job → Nat → List (Nat × Nat × Nat)) (eff : State → Job → Launch → Nat → State) :
    ∃ t, jobStep s id kind size reads eff = .next t := by
  unfold jobStep
  split
  · exact ⟨_, rfl⟩
  · split
    · exact ⟨_, rfl⟩
    · dsimp only
      refine ite_next ?_ ⟨_, rfl⟩
      split <;> exact ⟨_, rfl⟩

/-! ## Stores and the state after a batch -/

/-- What a list without some elements finds, where what is sought is none of them. -/
theorem find_filter {α : Type} {p q : α → Bool} (h : ∀ v, p v = true → q v = true) (l : List α) :
    (l.filter q).find? p = l.find? p := by
  rw [List.find?_filter]
  congr 1
  funext v
  by_cases hp : p v = true <;> simp_all

/-- A byte as the group in the focus loads it after its store: the byte stored at that address, elsewhere what it loaded before. -/
theorem storeByte_load (s : State) (a : Nat) (b : Byte) (x : Nat) :
    (s.storeByte a b).loadByte x = if x = a then b else s.loadByte x := by
  simp only [State.storeByte, State.loadByte, Core.load]
  by_cases h : x = a
  · subst h
    simp
    grind
  · rw [find_filter (p := fun v : VCell => v.addr == x && v.wgId == s.g.wgId) (by intro v; simp; omega),
      List.find?_cons_of_neg (by simp; omega), find_filter (p := fun v : VCell => v.addr == x) (by intro v; simp; omega), if_neg h]

/-- A frame marked keeps every record but the FIT. -/
theorem touch_mem (s : State) (a : Nat) (w : Bool) : (s.touch a w).mem = s.mem := rfl

/-- A count raised leaves memory as it is. -/
theorem raiseTile_mem (s : State) (d : Nat) : (s.raiseTile d).mem = s.mem := by
  unfold State.raiseTile
  split
  · rfl
  · split <;> rfl

/-- What a batch of bytes does to memory. -/
theorem batch_mem (s : State) (cells : List (Nat × Byte)) :
    (s.batch cells).mem =
      (cells.flatMap fun c => (s.homed c.1).map fun a => (a, c.2)).foldl (fun m c => m.set c.1 c.2) s.mem := by
  have h : ∀ (ds : List Nat) (t : State),
      (ds.foldl (fun s d => (s.touch (d * 0x10000) true).raiseTile d) t).mem = t.mem := by
    intro ds
    induction ds with
    | nil => intro t; rfl
    | cons d ds ih => intro t; rw [List.foldl_cons, ih, raiseTile_mem, touch_mem]
  exact h _ _

/-- A batch keeps the canonical form of memory. -/
theorem batch_wf {s : State} (cells : List (Nat × Byte)) (h : s.mem.wf = true) : (s.batch cells).mem.wf = true := by
  rw [batch_mem]
  exact Mem.wf_foldl_set _ h

/-- Publishing a group's stores keeps it too. -/
theorem publish_wf {s : State} (w gid : Nat) (h : s.mem.wf = true) : (s.publish w gid).mem.wf = true := by
  unfold State.publish
  split
  · exact h
  · unfold State.modGroup
    split <;> exact batch_wf _ h

/-- Room made in tier A moves frames and leaves every byte where it is (07 R109, R117). -/
theorem makeRoom_mem (s : State) (keep : List Nat) : (s.makeRoom keep).mem = s.mem := by
  have fall (e : FitEntry) : (s.fall e).mem = s.mem := by
    unfold State.fall
    repeat' split
    all_goals rfl
  simp only [State.makeRoom]
  split
  · rfl
  · exact fall _

/-- A frame brought up keeps its bytes (07 R109, R111). -/
theorem bringUp_mem (s : State) (keep : List Nat) (d : Nat) : (s.bringUp keep d).mem = s.mem := by
  have room : (if (s.freeIn .a).isSome then s else s.makeRoom keep).mem = s.mem := by
    split
    · rfl
    · exact makeRoom_mem s keep
  simp only [State.bringUp]
  split <;> exact room

/-! ## Management cores (26 R353, 28 R374) -/

/-- A load that the PMP lets through: zero and a log entry from a frame barred to it, else the bytes at the address. -/
theorem mgmtLoad_allowed {s : State} {k addr n : Nat}
    (h : (s.mgmtCore k).allows (s.mgmtCore k).dataMode addr n .read = true) :
    (∀ d, s.barred addr n false = some d → s.mgmtLoad k addr n = .ok (s.monitor k d, 0)) ∧
    (∀ bs, s.barred addr n false = none → s.mgmtBytes addr n = some bs → 
      s.mgmtLoad k addr n = .ok (s.mgmtTouch addr n, leNat bs)) ∧
    (s.barred addr n false = none → s.mgmtBytes addr n = none → s.mgmtLoad k addr n = .error 5) := by
  refine ⟨fun d hd => ?_, fun bs hb hm => ?_, fun hb hm => ?_⟩ <;> simp [State.mgmtLoad, *]

/-- A store that the PMP lets through: only a log entry to a frame barred to it, else the bytes. -/
theorem mgmtStore_allowed {s : State} {k addr n : Nat} {v : DWord}
    (h : (s.mgmtCore k).allows (s.mgmtCore k).dataMode addr n .write = true) :
    (∀ d, s.barred addr n true = some d → s.mgmtStore k addr n v = .ok (s.monitor k d)) ∧
    (∀ t, s.barred addr n true = none → (s.breakResv addr n).mgmtPut addr (leBytes n v.toNat) = some t →
      s.mgmtStore k addr n v = .ok t) := by
  refine ⟨fun d hd => ?_, fun t hb hm => ?_⟩ <;> simp [State.mgmtStore, *]

/-- What the PMP refuses is an access fault. -/
theorem mgmt_refused {s : State} {k addr n : Nat} {v : DWord} :
    ((s.mgmtCore k).allows (s.mgmtCore k).dataMode addr n .read = false → s.mgmtLoad k addr n = .error 5) ∧
    ((s.mgmtCore k).allows (s.mgmtCore k).dataMode addr n .write = false → s.mgmtStore k addr n v = .error 7) := by
  constructor <;> intro h <;> simp [State.mgmtLoad, State.mgmtStore, h]

/-- x0 reads 0, whatever is written to it. -/
@[simp] theorem xr_zero (m : Mgmt) : m.xr 0 = 0 := rfl

/-- A write to x0 changes nothing. -/
@[simp] theorem setX_zero (m : Mgmt) (v : DWord) : m.setX 0 v = m := rfl

/-- A write to a register leaves the PMP. -/
@[simp] theorem setX_pmp (m : Mgmt) (rd : Nat) (v : DWord) : (m.setX rd v).pmp = m.pmp := by
  simp only [Mgmt.setX]; split <;> rfl

/-- A trap leaves the PMP. -/
@[simp] theorem trap_pmp (m : Mgmt) (c : Nat) (v : DWord) : (m.trap c v).pmp = m.pmp := by
  simp only [Mgmt.trap]; split <;> rfl

/-- The memory after reset has its canonical form. -/
theorem reset_mem_wf : State.reset.mem.wf = true := rfl

/-! ## Margin halls (23 R323) -/

/-- Every core of a placement stands in a hall that the search allows (23 R325). -/
theorem placeIn_halls {s : State} {l : Launch} {hall : Nat → Bool} {cs : List Nat} (h : s.placeIn l hall = some cs) :
    ∀ c ∈ cs, hall (hallOf c) = true := by
  intro c hc
  have := List.find?_some h
  simp only [List.all_eq_true, Bool.and_eq_true] at this
  exact (this c hc).1

/-- Each hall of the run that a launch is to have is its tenant's own or one that it may have. -/
theorem wantRun_halls {s : State} {l : Launch} {cs : List Nat} (h : s.wantRun l = some cs) :
    ∀ c ∈ cs, vget s.dev.hallRun (hallOf c) none = some l.cmd.tenant ∨ s.toHave l (hallOf c) = true := by
  intro c hc
  simp only [State.wantRun] at h
  split at h
  · have := placeIn_halls (by rw [‹s.placeIn _ _ = _›, h]) c hc
    simp at this
    exact this.imp_right And.left
  · have := placeIn_halls h c hc
    simpa using this

/-- A hall of the run that is not its tenant's own is kept for the launch. -/
theorem keepHalls_kept {s : State} {l : Launch} {h : Nat} (hh : h < 32) (hn : s.launchNeeds l h = true)
    (ho : vget s.dev.hallRun h none ≠ some l.cmd.tenant) : vget (s.keepHalls l) h 0 = l.lid := by
  simp only [State.launchNeeds, State.wants, Bool.and_eq_true, Option.any_eq_true] at hn
  obtain ⟨-, cs, hcs, hc⟩ := hn
  obtain ⟨c, hm, rfl⟩ : ∃ c ∈ cs, hallOf c = h := by simpa using hc
  have := (wantRun_halls hcs c hm).resolve_left ho
  have hmem : hallOf c ∈ ((s.wantRun l).getD []).map hallOf := by
    rw [hcs]; exact List.mem_map_of_mem hm
  have hmem' : (((s.wantRun l).getD []).map hallOf).contains (hallOf c) = true := List.contains_iff_mem.mpr hmem
  simp [State.keepHalls, vget, hh, this]
  grind

/-- A hall kept for a launch that still waits goes to its tenant. -/
theorem takerOf_kept {s : State} {p h : Nat} {l : Launch}
    (hl : s.launches.find? (fun x => x.lid == vget s.dev.takenFor h 0 && x.st == .waiting) = some l) :
    s.takerOf p h = some l.cmd.tenant := by
  simp [State.takerOf, hl]

/-- A launch found for a partition is one of its launches, for which what was sought holds. -/
theorem launchFor_some {s : State} {p : Nat} {f : Launch → Bool} {l : Launch} (h : s.launchFor p f = some l) :
    l ∈ s.launches ∧ (s.ctx l.cmd.tenant).part = p ∧ f l = true := by
  obtain ⟨t, -, ht⟩ := List.exists_of_findSome?_eq_some h
  split at ht
  · rename_i hp
    have hm := List.mem_of_find?_eq_some ht
    have hf := List.find?_some ht
    simp at hp hf
    exact ⟨hm, by rw [hf.1]; exact hp.2, hf.2⟩
  · simp at ht

/-! ## Steps -/

/-- A machine with power takes up its next turn. -/
theorem step_runs {s : State} (h : s.mayMove = true) (ht : s.takeTurn.hasTurn s.nextTurn = true) :
    step s = runTurn s.takeTurn s.nextTurn.op := by
  simp [step, h, ht]

/-- One without stops. -/
theorem step_off {s : State} (h : s.mayMove = false) : step s = .fault .powerOff := by
  simp [step, h]

end Sys2Proof.Machine
end

