-- ==== Sys2Proof/Tests/Slice0.lean ====
section
/-! SUPPORT. Tests: what is well formed, words written out from the encodings of the spec, single steps with results that the
spec states, and for every statement with hypotheses a state and operands that meet them. -/
namespace Sys2Proof.Tests

set_option Elab.async false
set_option linter.unusedTactic false
set_option linter.unreachableTactic false
open Sys2Proof Sys2Proof.Machine

/-! ## Well-formed instructions -/

/-- A function that the device has made ready. -/
def fOn : Func := { Func.reset with enabled := true }

theorem test_wf_accepts : (Instr.saddi 20 62 8).WellFormed = true ∧ (Instr.sadd64 2 4 62).WellFormed = true := by decide

/-- Operands: S48 is no destination, pairs are even (12 R178). -/
theorem test_wf_operands : (Instr.sadd 48 0 0).operandsOk = false ∧ (Instr.sadd64 1 2 4).operandsOk = false ∧
    (Instr.enrollR 0 0 46).operandsOk = false ∧ (Instr.mres 2 0).operandsOk = false := by decide

/-- Ranges: a shift by 64, a scope of 5, a predicate without residency (14 R202, R205, 16 R271). -/
theorem test_wf_ranges : (Instr.sshli 0 0 64).rangesOk = false ∧ (Instr.phase 5).rangesOk = false ∧
    (Instr.sld 0 0 0 0 false 1 0).rangesOk = false := by decide

/-- Cells: a status register of no number, `.X2` of FP32 (17 R303, 15 R224). -/
theorem test_wf_assigned : (Instr.srr 0 0x007).assigned = false ∧ (Instr.srw 0 0xFFF).assigned = false := by decide

/-- An operand set whose fields are all empty. -/
def ops : LaneOps := ⟨false, false, 0, .none, .none, false, .none, false, .none, false, 0, false, 0, 0⟩

theorem test_wf_lane : (Instr.fadd { ops with dst := .v 1, a := .v 2, b := .v 3 } .f32 true).assigned = false ∧
    (Instr.iadd { ops with dst := .v 1, a := .v 2, b := .v 3, fs := 1 } .wrap).rangesOk = false ∧
    (Instr.iadd { ops with dst := .v 1, a := .v 2, b := .none } .wrap).operandsOk = false ∧
    (Instr.iadd { ops with dst := .v 1, a := .v 2, b := .v 3 } .wrap).WellFormed = true := by decide

/-! ## Words written out from the encodings -/

/-- 14: format A and B words (R177). -/
theorem test_decode_scalar_alu : decodeTableWord 32 0x0D4F8008 = some (.saddi 20 62 8) ∧
    decodeTableWord 32 0x08310502 = some (.sset .lt 3 4 5) ∧ decodeTableWord 32 0x8C000000 = some .nop ∧
    decodeTableWord 32 0x288F8200 = some (.sst 8 62 0 1 false 0 0) := by decide +kernel

/-- 14: control words. -/
theorem test_decode_scalar_control : decodeTableWord 32 0x71400000 = some (.loop 20 0) ∧
    decodeTableWord 32 0x74000001 = some (.linc 0 0 1) ∧ decodeTableWord 32 0x740C0001 = some (.linc 0 3 1) ∧
    decodeTableWord 32 0x61F00010 = some (.call 31 0x10) ∧ decodeTableWord 32 0x6407C000 = some (.jr 31) ∧
    decodeTableWord 32 0x5C1FFFFE = some (.bpnone 1 0xFFFFE) := by decide +kernel

/-- 17: system words. -/
theorem test_decode_system : decodeTableWord 32 0xE0000042 = some (.trap 0x42) ∧ decodeTableWord 32 0xE4000000 = some .hret ∧
    decodeTableWord 32 0xE8400003 = some (.srr 4 3) ∧ decodeTableWord 32 0xEC014000 = some (.srw 5 0) ∧
    decodeTableWord 32 0xF0000000 = some .halt := by decide +kernel

/-- 17: matrix words. -/
theorem test_decode_matrix : decodeTableWord 64 0x0201000000001400 = some (.mli 0 4 0x1400) ∧
    decodeTableWord 64 0x1800002000000001 = some (.mwait 0 8 1) ∧
    decodeTableWord 64 0x1A0000240000FFFD = some (.mloop 9 0xFFFD) ∧
    decodeTableWord 64 0x1B00000000020000 = some (.mend 2) ∧
    decodeTableWord 64 0x0502000000000400 = some (.mld 8 0x400) ∧ decodeTableWord 64 0x0803000C00000000 = some (.mres 12 3) ∧
    decodeTableWord 64 0x0A02800000000000 = some (.mmod 10) ∧
    decodeTableWord 64 0x1225810080010000 = some (.mst .f32 true 6 4 0 1 0 0 1) := by decide +kernel

/-- 12, 15, 16: lane words. -/
theorem test_decode_lane : decodeTableWord 96 0xC12FFF983060000000000000 =
      some (.clauseHeader ⟨2, 0xFFF, true, 3, false, 0, true, 32, true, true⟩) ∧
    decodeTableWord 96 0x200000101006FF8000000000 = some (.iadd { ops with dst := .v 1, a := .v 2, b := .v 3 } .wrap) ∧
    decodeTableWord 96 0x9008008413FEFF9060FFFFF0 =
      some (.ldG { ops with dst := .v 8, a := .o 2, fs := 1, imm := 0x60FFFFF0 } .b32) := by decide +kernel

/-- The error of a decoding. -/
def refusal (e : Except DecodeError Instr) : Option DecodeError :=
  match e with
  | .ok _ => none
  | .error d => some d

/-- Refused: an unassigned opcode, a reserved bit, a register class (12 R174). -/
theorem test_decode_refuses : refusal (decodeScalar 0x00000000) = some .illegalOpcode ∧
    refusal (decodeScalar 0x8C000001) = some .reservedField ∧ refusal (decodeScalar 0x07000000) = some .badOperandClass := by
  decide +kernel

/-- The encoder writes the same words. -/
theorem test_encode : encode (.saddi 20 62 8) = some (.scalar 0x0D4F8008) ∧
    encode (.mend 2) = some (.matrix 0x1B00000000020000) ∧
    encode (.iadd { ops with dst := .v 1, a := .v 2, b := .v 3 } .wrap) = some (.lane 0x200000101006FF8000000000) := by
  decide +kernel

/-! ## States -/

/-- A group with its workgroup, launch and core, at the start of a scalar section of 64 bytes. -/
def sc : State :=
  let s := State.reset.stage.ready
  { s with ln := { s.ln with desc := { s.ln.desc with slen := 64, count := 4, recn := 2, splen := 0x10000, gang := 1 } } }

/-- S registers set. -/
def setS (s : State) (l : List (Nat × Word)) : State :=
  { s with g := { s.g with s := l.foldl (fun v p => vset v p.1 p.2) s.g.s } }

/-- The group changed. -/
def inG (s : State) (f : Group → Group) : State := { s with g := f s.g }

/-- The workgroup changed. -/
def inW (s : State) (f : Workgroup → Workgroup) : State := { s with wg := f s.wg }

/-- The launch changed. -/
def inL (s : State) (f : Launch → Launch) : State := { s with ln := f s.ln }

/-- The S register n after exec. -/
def sAfter (i : Instr) (s : State) (n : Nat) : Option Word :=
  match exec i s with
  | .next t => some (vget t.g.s n 0)
  | _ => none

/-- The PC after exec. -/
def pcAfter (i : Instr) (s : State) : Option Nat :=
  match exec i s with
  | .next t => some t.g.pc
  | _ => none

/-! ## Single steps -/

/-- 14 R200: the sum wraps; the signed high product; a shift of 63 gives zeros. -/
theorem test_scalar_wraps : sAfter (.sadd 1 2 3) (setS sc [(2, 0xFFFFFFFF), (3, 2)]) 1 = some 1 ∧
    sAfter (.smulhs 1 2 3) (setS sc [(2, 0xFFFFFFFF), (3, 2)]) 1 = some 0xFFFFFFFF ∧
    sAfter (.sshl 1 2 3) (setS sc [(2, 1), (3, 63)]) 1 = some 0 := by decide +kernel

/-- 14 R200: the carry of the pair, and a source that is the destination. -/
theorem test_scalar_pair : sAfter (.sadd64 2 2 4) (setS sc [(2, 0xFFFFFFFF), (4, 1)]) 3 = some 1 := by decide +kernel

/-- 14 R201: signed and unsigned orders differ at the sign bit. -/
theorem test_sset_signs : sAfter (.sset .lt 1 2 3) (setS sc [(2, 0x80000000), (3, 1)]) 1 = some 1 ∧
    sAfter (.sset .ltu 1 2 3) (setS sc [(2, 0x80000000), (3, 1)]) 1 = some 0 := by decide +kernel

/-- 14 R207: a branch back from word 8 by two words. -/
theorem test_branch_back : pcAfter (.br 0xFFFFE) (inG sc fun g => { g with pc := 32 }) = some 24 := by decide +kernel

/-- 14 R209: the link is the word after the call. -/
theorem test_call_link : sAfter (.call 31 2) (inG sc fun g => { g with pc := 8 }) 31 = some 12 := by decide +kernel

/-- The trap registers after a fault. -/
def trapAfter (i : Instr) (s : State) : Option (Word × Word × Word × Nat) :=
  match exec i s with
  | .next t => some (t.g.tcause, t.g.tdetail, t.g.tepc, t.g.pc)
  | _ => none

/-- 17 R300: cause 0x0A, the immediate, the word after; the handler's address. -/
theorem test_trap_entry : trapAfter (.trap 0x42) (inG sc fun g => { g with pc := 8, hentry := 40 }) =
    some (0x0A, 0x42, 12, 40) := by decide +kernel

/-- 14 R209: a target outside the section raises 0x10 at the call. -/
theorem test_call_outside : trapAfter (.call 31 0x7FFFF) (inG sc fun g => { g with pc := 8, hentry := 40 }) =
    some (0x10, 0, 8, 40) := by decide +kernel

/-- A step fetches and runs the word at the PC. -/
theorem test_step_fetches : (match step (sc.withFetchWord 32 0x0C700005) with
    | .next t => some (vget t.g.s 7 0, t.g.pc)
    | _ => none) = some (5, 4) := by decide +kernel

/-- Power off stops the machine (28 R381). -/
theorem test_power_off : (match step { sc with dev := { sc.dev with powered := false }, turns := [⟨0, 0, .scalar⟩] } with
    | .fault f => some f
    | _ => none) = some .powerOff := by decide +kernel

/-! ## The AES example of FIPS 197, appendix C.3 -/

theorem test_aes_encrypt :
    aesEncrypt (roundKeys ((List.range 32).map fun n => BitVec.ofNat 8 n)) ((List.range 16).map fun n => BitVec.ofNat 8 (n * 17)) =
      [0x8E, 0xA2, 0xB7, 0xCA, 0x51, 0x67, 0x45, 0xBF, 0xEA, 0xFC, 0x49, 0x90, 0x4B, 0x49, 0x60, 0x89] := by decide +kernel
theorem test_aes_decrypt :
    aesDecrypt (roundKeys ((List.range 32).map fun n => BitVec.ofNat 8 n))
        [0x8E, 0xA2, 0xB7, 0xCA, 0x51, 0x67, 0x45, 0xBF, 0xEA, 0xFC, 0x49, 0x90, 0x4B, 0x49, 0x60, 0x89] =
      (List.range 16).map fun n => BitVec.ofNat 8 (n * 17) := by decide +kernel

/-! ## Hypotheses: what closes them -/

theorem ready_of {s : State} {d : Bool} {regs : List SReg}
    (h : (s.scalarGate d d regs && decide (s.g.after.1 + 4 ≤ s.ln.desc.slen)) = true) : s.ScalarReady d regs := by
  simpa [State.ScalarReady] using h

theorem matrixReady_of {s : State} (h : (s.matrixLive && decide (s.wg.seq.mpc + 1 < s.ln.desc.mlen)) = true) :
    s.MatrixReady := by
  simpa [State.MatrixReady] using h

theorem ok_of {ε α : Type} {e : Except ε α} {a : α} (h : e.toOption = some a) : e = .ok a := by
  cases e <;> simp_all [Except.toOption]

/-- The error of a result. -/
def errOf {ε α : Type} (e : Except ε α) : Option ε :=
  match e with
  | .error x => some x
  | .ok _ => none

theorem error_of {ε α : Type} {e : Except ε α} {x : ε} (h : errOf e = some x) : e = .error x := by
  cases e <;> simp_all [errOf]

/-! ## More states -/

/-- Frame entry of a resident frame of tenant 0. -/
def frame (d : Nat) : FitEntry :=
  ⟨d, 0, 0, .resident, .a, 0, false, false, false, false, BitVec.ofNat 48 d, false, 0, false, false, false, false, 0, .b, 0⟩

/-- A context of tenant 0 whose table (frames 1, 2; 3; 4) maps address 0 to frame 5, 0x10000 to frame 6 and 0x30000 to frame
7; frame 6 is absent, frame 7 may not be written. -/
def vmOn (s : State) : State :=
  { s with
    ctxs := s.ctxs.set 0 { (s.ctx 0) with valid := true, root := 1, frameq := 16, recq := 100 }
    fit := ((List.range 8).drop 1).map fun d =>
      { frame d with st := if d = 6 then .absent else .resident, tier := if d = 6 then .backing else .a, table := decide (d ≤ 4) }
    mem := ((((Mem.writeLE [] (pteAddr 1 2 0) 8 (pteBits 3 true true)).writeLE (pteAddr 3 1 0) 8 (pteBits 4 true true)).writeLE
      (pteAddr 4 0 0) 8 (pteBits 5 true true)).writeLE (pteAddr 4 0 0x10000) 8 (pteBits 6 true true)).writeLE
      (pteAddr 4 0 0x30000) 8 (pteBits 7 false false) }

/-- The scalar group with that context; S2 is 0x10000, S3 0x20000, S4 0x30000, S5 4. -/
def vm : State := vmOn (setS sc [(2, 0x10000), (3, 0x20000), (4, 0x30000), (5, 4)])

theorem test_vm_walk : vm.walk 0 0 = some (5, true, true) ∧ vm.walk 0 0x1FFFF = some (6, true, true) ∧
    vm.walk 0 0x20000 = none ∧ vm.walk 0 0x30000 = some (7, false, false) ∧ vm.mem.wf = true := by decide +kernel

/-! ## Witnesses: scalar words -/

/-- The word before the last of the section. -/
def sl : State := inG sc fun g => { g with pc := 56 }

/-- Code of the section. -/
def code (s : State) (ws : List (Nat × Nat)) : State :=
  inL s fun l => { l with scode := ws.foldl (fun m w => m.writeLE w.1 4 w.2) l.scode }

/-- With the last S register, and a fall-through into the last word. -/
theorem wit_ScalarAluResult :
    (∀ e ∈ aluTable, (e.1 47 63 0).WellFormed = true) ∧
    sl.ScalarReady false [47, 63, 0] := by
  and_intros <;> first | decide +kernel | exact ready_of (by decide +kernel)

/-- The same. -/
theorem wit_SselResult :
    (Instr.ssel 47 63 0).WellFormed = true ∧
    sl.ScalarReady false [47, 63, 0] := by
  and_intros <;> first | decide +kernel | exact ready_of (by decide +kernel)

/-- The last pairs; the counts. -/
theorem wit_ScalarPairResult :
    (∀ e ∈ alu64Table, (e.1 46 62 60).WellFormed = true) ∧
    sl.ScalarReady false [46, 46 + 1, 62, 62 + 1, 60, 60 + 1] ∧
    (Instr.sclz 47 63).WellFormed = true ∧
    (Instr.spopc 47 63).WellFormed = true ∧
    sl.ScalarReady false [47, 63] := by
  and_intros <;> first | decide +kernel | exact ready_of (by decide +kernel)

/-- Conditions that hold and that do not. -/
theorem wit_SsetResult :
    (Instr.sset .lt 47 63 0).WellFormed = true ∧
    (Instr.sset64 .geu 47 62 60).WellFormed = true ∧
    sl.ScalarReady false [47, 63, 0] ∧
    sl.ScalarReady false [47, 62, 62 + 1, 60, 60 + 1] ∧
    SCond.Holds .ge (sl.readS 62) (sl.readS 0) ∧
    ¬ SCond.Holds .lt (sl.readS 62) (sl.readS 0) := by
  and_intros <;> first | decide +kernel | exact ready_of (by decide +kernel) | (unfold SCond.Holds; decide +kernel)

/-- The greatest shift, and the least immediate. -/
theorem wit_ScalarImmResult :
    (∀ e ∈ immTable, (e.1 47 63 63).WellFormed = true) ∧
    (∀ e ∈ immTable.take 4, (e.1 47 63 0x800).WellFormed = true) ∧
    sl.ScalarReady false [47, 63] := by
  and_intros <;> first | decide +kernel | exact ready_of (by decide +kernel)

/-- The last word and pair of the section, one word beyond, one before, a pair out of line. -/
theorem wit_LiteralLoad :
    (Instr.slit 47 1).WellFormed = true ∧
    sl.ScalarReady false [47] ∧
    ((60 : Nat) : Int) = sl.g.pc + 4 * (1 : BitVec 12).toInt ∧
    60 + 4 ≤ sl.ln.desc.slen ∧
    (sl.ln.desc.slen : Int) < sl.g.pc + 4 * (2 : BitVec 12).toInt + 4 ∧
    (sc.g.pc : Int) + 4 * (0xFFF : BitVec 12).toInt < 0 ∧
    sc.ScalarReady false [47] ∧
    (Instr.slitB64 46 0).WellFormed = true ∧
    sl.ScalarReady false [46, 46 + 1] ∧
    ((56 : Nat) : Int) = sl.g.pc + 4 * (0 : BitVec 12).toInt ∧
    56 + 8 ≤ sl.ln.desc.slen ∧
    ((sl.g.pc : Int) + 4 * (1 : BitVec 12).toInt) % 8 ≠ 0 ∧
    ((sl.g.pc : Int) + 4 * (2 : BitVec 12).toInt) % 8 = 0 ∧
    (sl.ln.desc.slen : Int) < sl.g.pc + 4 * (2 : BitVec 12).toInt + 8 := by
  and_intros <;> first | decide +kernel | exact ready_of (by decide +kernel)

/-- The last word of frame 5, a pair, an absent frame with and without a predicate, an address without a mapping. -/
theorem wit_UniformLoad :
    (Instr.sld 47 5 0 7 false 0 31).WellFormed = true ∧
    (Instr.sld 46 2 1 0 true 7 0).WellFormed = true ∧
    vm.uniWaits = false ∧
    vm.ScalarReady false [] ∧
    vm.reach (vm.readT 7) (vm.readS 5 + BitVec.ofNat 32 ((31 : BitVec 5).toNat * uniSize 0)) (uniSize 0) false = .ok 0x50080 ∧
    vm.reach (vm.readT 0) (vm.readS 2 + BitVec.ofNat 32 ((0 : BitVec 5).toNat * uniSize 1)) (uniSize 1) false = .absent 6 ∧
    vm.reach (vm.readT 0) (vm.readS 3 + BitVec.ofNat 32 ((0 : BitVec 5).toNat * uniSize 1)) (uniSize 1) false = .fault 0x10 := by
  and_intros <;> first | decide +kernel | exact ready_of (by decide +kernel) | exact ok_of (by decide +kernel)

/-- The last word of frame 5, a pair, an absent frame with and without a predicate, an address without a mapping. A frame that may not be written. -/
theorem wit_UniformStore :
    (Instr.sst 47 5 0 7 false 0 31).WellFormed = true ∧
    (Instr.sst 46 2 1 0 true 7 0).WellFormed = true ∧
    vm.uniWaits = false ∧
    vm.ScalarReady false [] ∧
    vm.reach (vm.readT 7) (vm.readS 5 + BitVec.ofNat 32 ((31 : BitVec 5).toNat * uniSize 0)) (uniSize 0) true = .ok 0x50080 ∧
    vm.reach (vm.readT 0) (vm.readS 2 + BitVec.ofNat 32 ((0 : BitVec 5).toNat * uniSize 1)) (uniSize 1) true = .absent 6 ∧
    vm.reach (vm.readT 0) (vm.readS 3 + BitVec.ofNat 32 ((0 : BitVec 5).toNat * uniSize 1)) (uniSize 1) true = .fault 0x10 ∧
    vm.reach (vm.readT 0) (vm.readS 4 + BitVec.ofNat 32 ((0 : BitVec 5).toNat * uniSize 1)) (uniSize 1) true = .fault 0x11 := by
  and_intros <;> first | decide +kernel | exact ready_of (by decide +kernel) | exact ok_of (by decide +kernel)

/-- S3 negative, P7 all ones. -/
def sb : State := inG (setS sl [(3, 0x80000000)]) fun g => { g with p := vset g.p 7 0xFFFFFFFF }

/-- A group whose lane unit waits. -/
def su : State :=
  inG sc fun g => { g with queue := [⟨0, Vector.replicate 64 0, g.p, g.t, 0, false, false⟩] }

/-- Each branch is taken in one state and not taken in another; targets in the last word and one beyond; lane work that a
draining branch waits for. -/
theorem wit_BranchTarget :
    (∀ e ∈ branchWords 3 7, (e.taken sl ∧ sl.scalarGate e.drains true e.regs = true) ∨
      (e.taken sb ∧ sb.scalarGate e.drains true e.regs = true)) ∧
    (∀ e ∈ (branchWords 3 7).drop 1, (¬ e.taken sl ∧ sl.ScalarReady e.drains e.regs) ∨
      (¬ e.taken sb ∧ sb.ScalarReady e.drains e.regs)) ∧
    sl.InScalar (sl.g.pc + 4 * (1 : BitVec 20).toInt) ∧ ¬ sl.InScalar (sl.g.pc + 4 * (2 : BitVec 20).toInt) ∧
    su.scalarGate true true [] = false := by
  refine ⟨?_, ?_, ?_, ?_, ?_⟩
  · simp only [branchWords, List.mem_cons, List.not_mem_nil, or_false]
    rintro e (rfl | rfl | rfl | rfl | rfl | rfl | rfl | rfl)
    · exact .inl ⟨trivial, by decide +kernel⟩
    · exact .inl ⟨(by decide +kernel : sl.readS 3 = 0), by decide +kernel⟩
    · exact .inr ⟨(by decide +kernel : sb.readS 3 ≠ 0), by decide +kernel⟩
    · exact .inr ⟨(by decide +kernel : (sb.readS 3).toInt < 0), by decide +kernel⟩
    · exact .inl ⟨(by decide +kernel : 0 ≤ (sl.readS 3).toInt), by decide +kernel⟩
    · exact .inr ⟨(by decide +kernel : vget sb.g.p 7 0 ≠ 0), by decide +kernel⟩
    · exact .inr ⟨(by decide +kernel : vget sb.g.p 7 0 = 0xFFFFFFFF), by decide +kernel⟩
    · exact .inl ⟨(by decide +kernel : vget sl.g.p 7 0 = 0), by decide +kernel⟩
  · simp only [branchWords, List.drop_succ_cons, List.drop_zero, List.mem_cons, List.not_mem_nil, or_false]
    rintro e (rfl | rfl | rfl | rfl | rfl | rfl | rfl)
    · exact .inr ⟨(by decide +kernel : ¬ sb.readS 3 = 0), ready_of (by decide +kernel)⟩
    · exact .inl ⟨(by decide +kernel : ¬ sl.readS 3 ≠ 0), ready_of (by decide +kernel)⟩
    · exact .inl ⟨(by decide +kernel : ¬ (sl.readS 3).toInt < 0), ready_of (by decide +kernel)⟩
    · exact .inr ⟨(by decide +kernel : ¬ 0 ≤ (sb.readS 3).toInt), ready_of (by decide +kernel)⟩
    · exact .inl ⟨(by decide +kernel : ¬ vget sl.g.p 7 0 ≠ 0), ready_of (by decide +kernel)⟩
    · exact .inl ⟨(by decide +kernel : ¬ vget sl.g.p 7 0 = 0xFFFFFFFF), ready_of (by decide +kernel)⟩
    · exact .inr ⟨(by decide +kernel : ¬ vget sb.g.p 7 0 = 0), ready_of (by decide +kernel)⟩
  · unfold State.InScalar; decide +kernel
  · unfold State.InScalar; decide +kernel
  · decide +kernel

/-- S2 = 60, S3 = 58, S4 = 64, S5 = 66. -/
def sj : State := setS sl [(2, 60), (3, 58), (4, 64), (5, 66)]

/-- Targets: the last word, one out of line, one beyond. -/
theorem wit_CallReturn :
    (Instr.call 47 1).WellFormed = true ∧
    sj.scalarGate false true [47] = true ∧
    sj.InScalar (sj.g.pc + 4 * (1 : BitVec 20).toInt) ∧
    ¬ sj.InScalar (sj.g.pc + 4 * (2 : BitVec 20).toInt) ∧
    sj.scalarGate false true [2] = true ∧
    (sj.readS 2).toNat % 4 = 0 ∧
    sj.InScalar (sj.readS 2).toNat ∧
    sj.scalarGate false true [3] = true ∧
    (sj.readS 3).toNat % 4 ≠ 0 ∧
    sj.InScalar (sj.readS 3).toNat ∧
    sj.scalarGate false true [4] = true ∧
    (sj.readS 4).toNat % 4 = 0 ∧
    ¬ sj.InScalar (sj.readS 4).toNat := by
  and_intros <;> first | decide +kernel | (unfold State.InScalar; decide +kernel)

/-- A target out of line and beyond; a pool that ends with the section, and one that ends a word later. -/
theorem wit_PoolAndJumpOrder :
    sj.scalarGate false true [5] = true ∧
    (sj.readS 5).toNat % 4 ≠ 0 ∧
    ¬ sj.InScalar (sj.readS 5).toNat ∧
    sj.scalarGate false false [] = true ∧
    sj.g.loop = none ∧
    sj.g.pc + 4 * (0 : BitVec 20).toNat + 8 ≤ sj.ln.desc.slen ∧
    sj.ln.desc.slen < sj.g.pc + 4 * (1 : BitVec 20).toNat + 8 := by
  and_intros <;> first | decide +kernel | (unfold State.InScalar; decide +kernel)

/-- A `LOOP S1, 1` at 0 over a `NOP` at 4; S1 = 3, S2 = 0. -/
def lo : State := code (setS sc [(1, 3)]) [(0, 0x70100000), (4, 0x8C000000)]

/-- A `LOOP` before the words given. -/
def lc (ws : List (Nat × Nat)) : State := code (setS sc [(1, 3)]) ws
/-- Its code stands on a page that is not mapped. -/
def lf : State :=
  inL (code (setS vm [(1, 3)]) [(0, 0x70100000), (4, 0x8C000000)]) fun l => { l with desc := { l.desc with scodeVa := 0x20000 } }
/-- Nine `LINC` words. -/
def lc9 : State := lc ((List.range 9).map fun i => (4 + 4 * i, 0x74000000))

/-- A count of 3 and a count of 0; a body not mapped, nine `LINC` words, one with a reserved bit, a body past the section, a `LINC` of the
word after the body, a branch in the body. -/
theorem wit_LoopStart :
    lf.scalarGate false false [1] = true ∧
    lf.ln.loopAt lf.g.pc 1 (lf.readS 1).toNat = .ok ⟨4, 1, [], 0, 3, 0⟩ ∧
    lf.fetchBar (lf.ln.desc.scodeVa + lf.g.pc + 4) (4 + 4 * 1 - (lf.g.pc + 4)) = some (0x10, 131076) ∧
    lo.fetchBar (lo.ln.desc.scodeVa + lo.g.pc + 4) (4 + 4 * 1 - (lo.g.pc + 4)) = none ∧
    lc9.scalarGate false false [1] = true ∧
    lc9.ln.lincs 9 (lc9.g.pc + 4) = .ok (List.replicate 9 ⟨0, 0, 0⟩) ∧
    8 < (List.replicate 9 (⟨0, 0, 0⟩ : LoopStep)).length ∧
    (lc [(4, 0x74100000)]).ln.lincs 9 4 = .error { code := 0x01 } ∧
    (lc []).ln.lincs 9 4 = .ok [] ∧
    (lc []).ln.desc.slen < 4 + 4 * ((31 : BitVec 5).toNat + 1) ∧
    (lc [(4, 0x74200000)]).ln.lincs 9 4 = .ok [⟨1, 0, 0⟩] ∧
    ((lc [(4, 0x74200000)]).ln.bodyWords 8 1).isSome = true ∧
    (lc [(4, 0x40000000)]).ln.bodyWords 4 1 = some [0x40000000] ∧
    barredInLoop 0x40000000 = true ∧
    lo.scalarGate false false [1] = true ∧
    lo.ln.loopAt lo.g.pc ((0 : BitVec 5).toNat + 1) (lo.readS 1).toNat = .ok ⟨4, 1, [], 0, 3, 0⟩ ∧
    0 < (lo.readS 1).toNat ∧
    lo.ln.loopAt lo.g.pc ((0 : BitVec 5).toNat + 1) (lo.readS 2).toNat = .ok ⟨4, 1, [], 0, 0, 0⟩ ∧
    lo.readS 2 = 0 ∧
    4 + 4 * 1 + 4 ≤ lo.ln.desc.slen ∧
    lo.scalarGate false false [] = true := by
  and_intros <;> first | decide +kernel | exact ok_of (by decide +kernel)

/-- A body of one word, one pass. -/
theorem wit_LoopRunsCountPasses :
    (⟨4, 1, [], 0, 1, 0⟩ : LoopSt).word = 0 ∧
    (⟨4, 1, [], 0, 1, 0⟩ : LoopSt).pass = 0 ∧
    0 < (⟨4, 1, [], 0, 1, 0⟩ : LoopSt).blen ∧
    0 < (⟨4, 1, [], 0, 1, 0⟩ : LoopSt).count := by decide +kernel

/-- A lane section of 8 words. -/
def se : State := inL sl fun l => { l with desc := { l.desc with llen := 8 } }

/-- The last header of the section, and one beyond. -/
theorem wit_EnqueueRecords :
    se.scalarGate false true [62] = true ∧
    se.g.stop = false ∧
    se.g.queue.length + (if se.g.run.isSome then 1 else 0) < 8 ∧
    (7 : BitVec 20).toNat + (se.readS 62).toNat < se.ln.desc.llen ∧
    se.g.after.1 + 4 ≤ se.ln.desc.slen ∧
    se.ln.desc.llen ≤ (8 : BitVec 20).toNat + (se.readS 62).toNat := by decide +kernel

/-- A mapped base, one without a mapping, a length of 0. -/
theorem wit_TranslationRegisters :
    (Instr.tmap 7 2 5).WellFormed = true ∧
    vm.ScalarReady false [2, 2 + 1, 5] ∧
    (setS vm [(3, 0)]).walk (setS vm [(3, 0)]).tenant (((setS vm [(3, 0)]).readPair 2).toNat % 2 ^ 56) = some (6, true, true) ∧
    (setS vm [(3, 0)]).ScalarReady false [2, 2 + 1, 5] ∧
    (setS vm [(3, 0)]).readS 5 ≠ 0 ∧
    vm.walk vm.tenant ((vm.readPair 2).toNat % 2 ^ 56) = none ∧
    vm.readS 62 = 0 ∧
    min ((setS vm [(3, 0)]).readS 5).toNat 0x200000 ≤ 1 * 0x10000 - ((setS vm [(3, 0)]).readPair 2).toNat % 0x10000 ∧
    ((setS vm [(3, 0)]).walk 0 0).map (fun w => (w.1 + 1, w.2.1)) = ((setS vm [(3, 0)]).walk 0 0x10000).map (fun w => (w.1, w.2.1)) ∧
    vm.walk 0 0x20000 = none ∧
    vm.ScalarReady false [] := by
  and_intros <;> first | decide +kernel | exact ready_of (by decide +kernel)

/-- A group that holds block 3. -/
theorem wit_EndGroup :
    (inG sc fun g => { g with blkidx := 3 }).Focused ∧
    (inG sc fun g => { g with blkidx := 3 }).scalarGate true true [] = true ∧
    (inG sc fun g => { g with blkidx := 3 }).g.holds = true ∧
    sc.Focused ∧
    sc.scalarGate true true [] = true ∧
    sc.g.holds = false ∧
    sc.g.faults = [] ∧
    sc.g.saved = none ∧
    sc.wg.seq.run = false ∧
    (∀ p, some p ∈ sc.wg.parked → p.taker ≠ some sc.g.gid) ∧
    (∀ j ∈ sc.jobs, j.lid = sc.ln.lid → j.matrix = false → j.kind ≠ landKind) := by
  and_intros <;> first | decide +kernel | (constructor <;> decide +kernel) |
    (intro p h; rw [show sc.wg.parked = [] by decide +kernel] at h; cases h)

/-- A workgroup with slot 7 ready for block 1, block 2 queued as an index, and room for one parked block. -/
def bk : State :=
  inW sc fun w => { w with offers := [.slot 7], idxq := [2], parked := [none]
                           slots := vset w.slots 7 { Slot.free with st := .ready, idx := 1, lpn := 9 } }

/-- A group that holds block 3; S1 is 1, S2 is 3, S3 is 4; block 1 has retired when `r`. -/
def hb (r : Bool) : State :=
  inL (inG (setS bk [(1, 1), (2, 3), (3, 4)]) fun g => { g with blkidx := 3 }) fun l =>
    { l with retired := if r then [1] else [], desc := { l.desc with parklive := 0 } }

/-- A re-offered block that stands in slot 7, with V3 to be bound or none. -/
def pr : Parked :=
  ⟨Vector.replicate 48 5, Vector.replicate 8 0, Vector.replicate 8 TReg.zero, Vector.replicate 8 Lanes.zero,
    vset (Vector.replicate 128 VReg.unmapped) 3 { VReg.unmapped with live := 1 }, 24, none, 1, 3, 0, 0, some 7, false, false, some 0, none⟩
def bp : State :=
  inW bk fun w => { w with parked := [some pr], slots := vset w.slots 7 { Slot.free with st := .parked, idx := 1, lpn := 9 } }

/-- The same where an older group waits for float. -/
def bf : State :=
  inL (inG { bp with groups := [{ bp.g with gid := 1, want := 1 }] } fun g => { g with age := 9 }) fun l => { l with desc := { l.desc with floor := 0 } }

/-- A block held; a ready slot; an index; nothing yet; the end; an invalid entry; a re-offered block with and without float. -/
theorem wit_PgetOutcomes :
    (inW bk fun w => { w with offers := [.bad 2] }).wg.offers = .bad 2 :: [] ∧
    (inW bk fun w => { w with offers := [.bad 2] }).DrainReady ∧
    (inW bk fun w => { w with offers := [.bad 2] }).wg.reoffered (inW bk fun w => { w with offers := [.bad 2] }).g.gid = none ∧
    bp.DrainReady ∧
    bp.g.holds = false ∧
    bp.wg.reoffered bp.g.gid = some 0 ∧
    bp.wg.parked[0]? = some (some pr) ∧
    ({ bp with g := { bp.g with v := Vector.replicate 128 VReg.unmapped } } : State).canBind pr.mapped = true ∧
    bp.core.id = bp.wg.coreId ∧
    ({ bf with g := { bf.g with v := Vector.replicate 128 VReg.unmapped } } : State).canBind pr.mapped = false ∧
    bf.DrainReady ∧
    bf.g.holds = false ∧
    bf.wg.reoffered bf.g.gid = some 0 ∧
    bf.wg.parked[0]? = some (some pr) ∧
    (Instr.pget 46).WellFormed = true ∧
    (hb true).DrainReady ∧
    (hb true).g.holds = true ∧
    bk.DrainReady ∧
    bk.g.holds = false ∧
    bk.wg.reoffered bk.g.gid = none ∧
    (7 < 8) ∧
    bk.wg.offers = .slot 7 :: [] ∧
    (inW bk fun w => { w with offers := [] }).wg.idxq = 2 :: [] ∧
    (inW bk fun w => { w with offers := [] }).DrainReady ∧
    (inW bk fun w => { w with offers := [] }).wg.reoffered (inW bk fun w => { w with offers := [] }).g.gid = none ∧
    sc.DrainReady ∧
    sc.wg.reoffered sc.g.gid = none ∧
    sc.g.holds = false ∧
    sc.wg.offers = [] ∧
    sc.wg.idxq = [] ∧
    sc.wg.atEnd sc.ln = false ∧
    (inL sc fun l => { l with desc := { l.desc with count := 0 } }).wg.atEnd (inL sc fun l => { l with desc := { l.desc with count := 0 } }).ln = true ∧
    (inL sc fun l => { l with desc := { l.desc with count := 0 } }).DrainReady := by
  and_intros <;> first | decide +kernel | exact ready_of (by decide +kernel)

/-- Without a block; a block beyond the grid; the own block; a retired block; one that has not, with PARKLIVE exceeded, without a record, with one. -/
theorem wit_PyieldOutcomes :
    sc.DrainReady ∧
    sc.g.flights = [] ∧
    sc.g.holds = false ∧
    (hb false).DrainReady ∧
    (hb false).g.flights = [] ∧
    (hb false).g.holds = true ∧
    (hb false).ln.desc.count ≤ ((hb false).readS 3).toNat ∧
    (hb false).readS 2 = (hb false).g.blkidx ∧
    ((hb true).readS 1).toNat < (hb true).ln.desc.count ∧
    (hb true).readS 1 ≠ (hb true).g.blkidx ∧
    ((hb true).readS 1).toNat ∈ (hb true).ln.retired ∧
    ((hb false).readS 1).toNat ∉ (hb false).ln.retired ∧
    ((hb false).g.saved.bind (·.run)).any RunUnit.divergent = false ∧
    (⟨⟨0, Vector.replicate 64 0, Vector.replicate 8 0, Vector.replicate 8 TReg.zero, 0, false, false⟩, none, none, [⟨0, 1, none⟩],
      Vector.replicate 16 none⟩ : RunUnit).divergent = true ∧
    (hb false).g.mapped ≤ (hb false).ln.desc.parklive ∧
    none ∈ (hb false).wg.parked ∧
    none ∉ (inW (hb false) fun w => { w with parked := [] }).wg.parked ∧
    (inW (hb false) fun w => { w with parked := [] }).DrainReady ∧
    (inG (hb false) fun g => { g with v := vset g.v 0 { VReg.unmapped with live := 1 } }).ln.desc.parklive < (inG (hb false) fun g => { g with v := vset g.v 0 { VReg.unmapped with live := 1 } }).g.mapped ∧
    (inG (hb false) fun g => { g with v := vset g.v 0 { VReg.unmapped with live := 1 } }).DrainReady := by
  and_intros <;> first | decide +kernel | exact ready_of (by decide +kernel)

/-- With and without a block. -/
theorem wit_PretireRetires :
    sc.Focused ∧
    sc.DrainReady ∧
    sc.g.holds = false ∧
    (hb false).Focused ∧
    (hb false).DrainReady ∧
    (hb false).g.holds = true ∧
    (hb false).released (hb false).g (hb false).ln.lid 3 = true := by
  and_intros <;> first | decide +kernel | exact ready_of (by decide +kernel) | (constructor <;> decide +kernel)

/-- A launch of all the memory below the slots; S1 = 0x5FFF0 - 0x80, S2:S3 = word for scope 4 with one arrival and 64 bytes. -/
def bi : State :=
  inL (setS sc [(1, 0x8000), (2, 0x4001), (3, 64), (4, 8), (5, 0x10000), (6, 0x5001), (8, 0x8000), (10, 0x5FF80)]) fun l =>
    { l with desc := { l.desc with splen := 0x10000 } }

/-- A word with a reserved bit, one with scope 5; an address out of line, one beyond, one of the device; the barrier written. -/
theorem wit_BarrierInit :
    (Instr.binit 1 2).WellFormed = true ∧
    bi.Canonical ∧
    bi.DrainReady ∧
    (bi.readS 8).toNat / 2 ^ 15 ≠ 0 ∧
    5 ≤ (field (bi.readS 6) 12 3 : BitVec 3).toNat ∧
    (bi.readS 2).toNat / 2 ^ 15 = 0 ∧
    (field (bi.readS 2) 12 3 : BitVec 3).toNat ≤ 4 ∧
    (bi.readS 4).toNat % 16 ≠ 0 ∧
    (bi.readS 5).toNat % 16 = 0 ∧
    bi.ln.desc.owns (bi.readS 5).toNat 16 = false ∧
    (bi.readS 10).toNat % 16 = 0 ∧
    (bi.readS 10).toNat < 0x80000 ∧
    bi.ln.desc.owns (bi.readS 10).toNat 16 = true ∧
    (bi.wg.devBar bi.ln.desc (bi.readS 10).toNat).isSome = true ∧
    (bi.readS 1).toNat % 16 = 0 ∧
    (bi.readS 1).toNat < 0x80000 ∧
    bi.ln.desc.owns (bi.readS 1).toNat 16 = true ∧
    (bi.wg.devBar bi.ln.desc (bi.readS 1).toNat).isSome = false ∧
    slotOf bi.ln.desc (bi.readS 1).toNat = none := by
  and_intros <;> first | decide +kernel | exact ready_of (by decide +kernel) | (constructor <;> decide +kernel)

/-- A barrier of scope 1 at 0x8000 that expects two arrivals and 64 bytes; S1 = 0x8000, S3 = 64, S4 = 65, S10 the landing barrier. -/
def ba : State := inW bi fun w => w.setBar 0x8000 ⟨1, 1, 0, 64, 0, 2, 0⟩

/-- An arrival with all the bytes; an older phase carried a release. -/
theorem wit_BarrierArrive :
    (inW ba fun w => { w with jobBars := [(0x8000, 0x8001, .all), (0x8010, 1, .all)] }).Canonical ∧
    ba.Canonical ∧
    ba.Focused ∧
    ba.DrainReady ∧
    ba.wg.place = .resident ∧
    ba.spTarget (ba.readS 1) 16 = .ok (1, 0x8000) ∧
    1 = ba.wg.id ∧
    ba.wg.devBar ba.ln.desc 0x8000 = none ∧
    Barrier.Takes (ba.wg.softBar 0x8000) ba.ln.ticket 1 (ba.readS 3).toNat ∧
    ba.released ba.g ba.ln.lid (ba.wg.softBar 0x8000).scope.toNat = true := by
  and_intros <;> first | decide +kernel | exact ready_of (by decide +kernel) | exact ok_of (by decide +kernel) | (constructor <;> decide +kernel) | (unfold Barrier.Takes; decide +kernel)

/-- The core landing barrier; a barrier of another ticket; one byte too many. -/
theorem wit_BarrierRefuses :
    ba.Focused ∧
    ba.DrainReady ∧
    ba.wg.place = .resident ∧
    ba.spTarget (ba.readS 10) 16 = .ok (1, 0x5FF80) ∧
    (ba.wg.devBar ba.ln.desc 0x5FF80).isSome = true ∧
    bi.Focused ∧
    bi.spTarget (bi.readS 1) 16 = .ok (1, 0x8000) ∧
    bi.wg.devBar bi.ln.desc 0x8000 = none ∧
    (bi.wg.softBar 0x8000).ticket ≠ bi.ln.ticket ∧
    (ba.wg.softBar 0x8000).ticket = ba.ln.ticket ∧
    ¬ Barrier.Takes (ba.wg.softBar 0x8000) ba.ln.ticket 1 (setS ba [(3, 65)] |>.readS 3).toNat ∧
    ba.spTarget (ba.readS 1) 16 = .ok (1, 0x8000) := by
  and_intros <;> first | decide +kernel | exact ready_of (by decide +kernel) | exact ok_of (by decide +kernel) | (constructor <;> decide +kernel) | (unfold Barrier.Takes; decide +kernel)

/-- Scope 4; the fence before and after its tick. -/
theorem wit_PhaseAndFence :
    sl.Focused ∧
    (Instr.phase 4).WellFormed = true ∧
    sl.DrainReady ∧
    sl.released sl.g sl.ln.lid 4 = true ∧
    sl.released sl.g sl.ln.lid 3 = true ∧
    sl.g.fence = none ∧
    (inG { sl with dev := { sl.dev with tick := 1 } } fun g => { g with fence := some 0 }).live = true ∧
    (0 : Nat) < ({ sl with dev := { sl.dev with tick := 1 } } : State).dev.tick ∧
    sl.g.after.1 + 4 ≤ sl.ln.desc.slen := by
  and_intros <;> first | decide +kernel | exact ready_of (by decide +kernel) | (constructor <;> decide +kernel)

/-- A card at address 0 of frame 5: a FILL of 8 bytes to scratchpad address 0, no credit. -/
def jb : State := { setS vm [(2, 0)] with core := { vm.core with snap := (((vm.mem.writeLE 0x50000 8 3).writeLE 0x50058 8 (2 ^ 63 + 8)).writeLE 0x50078 4 0xFFFFFFFF) } }

/-- That card's job. -/
def jbJob : Job := ((jb.jobOfCard (jb.loadBytes 0x50000 128)).toOption.map (·.1)).getD
  ⟨0, 0, 0, 0, 0, false, 0, 0, false, 0, [], 0, 0, [], [], [], .waiting, 0, [], [], [], 0, 0, 0, [], []⟩
/-- 64 jobs of the workgroup wait. -/
def jf : State := { jb with jobs := List.replicate 64 { jbJob with wgId := 1 } }

/-- S2:S3 = 0x10000, S4 = 0x30000, S6 = 1 byte. -/
def rq : State := setS vm [(2, 0x10000), (3, 0), (4, 0x30000), (5, 0), (6, 1)]

/-- The group has stored a byte that no release has published. -/
def jws : State := inG (setS jb [(3, 0)]) fun g => { g with wset := [⟨0x50200, 7, 1, 0⟩] }

/-- Room in the engine queue, and none; a store to be published. -/
theorem wit_JobAccepted :
    (Instr.job 7 2).WellFormed = true ∧
    jb.Focused ∧
    jb.DrainReady ∧
    jb.released jb.g jb.ln.lid 3 = true ∧
    jws.Focused ∧
    jws.DrainReady ∧
    jws.released jws.g jws.ln.lid 3 = true ∧
    (jws.publish 1 0).reachVa 0 1 0 false = .ok 0x50000 ∧
    ((jws.publish 1 0).jobOfCard (jws.loadBytes 0x50000 128)).toOption.isSome = true ∧
    (jws.publish 1 0).mem.get 0x50200 = 7 ∧
    jws.queued < 64 ∧
    (setS jb [(3, 0)] |>.readPair 2).toNat % 2 ^ 56 % 128 = 0 ∧
    (setS jb [(3, 0)]).reachVa 0 1 ((setS jb [(3, 0)] |>.readPair 2).toNat % 2 ^ 56) false = .ok 0x50000 ∧
    ((setS jb [(3, 0)]).jobOfCard ((setS jb [(3, 0)]).loadBytes 0x50000 128)).toOption.isSome = true ∧
    (setS jb [(3, 0)]).queued < 64 ∧
    jf.DrainReady ∧
    64 ≤ jf.queued := by
  and_intros <;> first | decide +kernel | exact ready_of (by decide +kernel) | exact ok_of (by decide +kernel) | (constructor <;> decide +kernel)

/-- One byte of an absent frame; a range without a mapping is queued as bad. -/
theorem wit_ResideRequests :
    rq.DrainReady ∧
    rq.readS 6 ≠ 0 ∧
    ((rq.rangeFrames ((rq.readPair 2).toNat % 2 ^ 56) (rq.readS 6).toNat).1.any rq.foreign) = false ∧
    (Instr.reside 2 6).WellFormed = true ∧
    (Instr.resideB 1 2 6).WellFormed = true := by
  and_intros <;> first | decide +kernel | exact ready_of (by decide +kernel)

/-- A root of tenant 0 with index 1, an inner record below it with index 2, and a tile of frame 5 with index 3 below that. -/
def tr : State :=
  { setS vm [(1, 1), (2, 2), (3, 3), (4, 9), (6, 0), (7, 0), (8, 0x10000), (10, 0x8000)] with
    tree := [⟨1, 0, 0, 0, 2, .inner, 0, 5, 2, 1⟩, ⟨2, 1, 0, 1, 1, .inner, 0, 2, 2, 1⟩, ⟨3, 2, 0, 2, 0, .tile, 0, 1, 1, 0⟩] }

/-- A barrier at 0x8000 for a settle, and the same with settles outstanding. -/
def ts : State := inW tr fun w => w.setBar 0x8000 ⟨1, 1, 0, 0, 0, 1, 0⟩

/-- A handle of no record; a record. -/
theorem wit_TreeHandles :
    tr.DrainReady ∧
    tr.record tr.tenant (tr.readS 4) = none ∧
    (Instr.cread 46 4).WellFormed = true ∧
    (Instr.settle 47 4 10).WellFormed = true ∧
    tr.readS 4 ≠ 0 ∧
    (Instr.enroll 47 4).WellFormed = true ∧
    (tr.record tr.tenant (tr.readS 1)).isSome = true := by
  and_intros <;> first | decide +kernel | exact ready_of (by decide +kernel)

/-- Below a root, and as a root; a region of one frame, and of none. -/
theorem wit_EnrollMakesRecords :
    tr.TreeIndexed ∧
    tr.DrainReady ∧
    (tr.parentOf (tr.readS 1) false).toOption.isSome = true ∧
    (tr.parentOf (tr.readS 62) false).toOption.isSome = true ∧
    tr.overQuota tr.tenant 1 = false ∧
    (Instr.enroll 47 1).WellFormed = true ∧
    (tr.readPair 6).toNat % 2 ^ 56 % 0x10000 = 0 ∧
    (tr.readS (6 + 2)).toNat % 0x10000 = 0 ∧
    (tr.parentOf (tr.readS 1) true).toOption.isSome = true ∧
    tr.regionFrames ((tr.readPair 6).toNat % 2 ^ 56) (List.range ((tr.readS (6 + 2)).toNat / 0x10000)) [] = .ok [5] ∧
    tr.overQuota tr.tenant [5].length = false ∧
    (Instr.enrollR 47 1 6).WellFormed = true ∧
    (setS tr [(8, 0)]).regionFrames 0 (List.range (((setS tr [(8, 0)]).readS (6 + 2)).toNat / 0x10000)) [] = .ok [] := by
  and_intros <;> first | decide +kernel | exact ready_of (by decide +kernel) | exact ok_of (by decide +kernel) | (constructor <;> decide +kernel)

/-- A settle of a record; a tile moved to the root; one withdrawn. -/
theorem wit_SettleAndReparent :
    ts.TreeIndexed ∧
    ts.DrainReady ∧
    (ts.record ts.tenant (ts.readS 1)).isSome = true ∧
    ts.settleBar (ts.readS 10) = .ok ⟨1, 1, 0, 0, 0, 1, 0⟩ ∧
    ts.wg.settles.length < 16 ∧
    (Instr.settle 47 1 10).WellFormed = true ∧
    ts.record ts.tenant (ts.readS 3) = some ⟨3, 2, 0, 2, 0, .tile, 0, 1, 1, 0⟩ ∧
    ts.readS 1 ≠ 0 ∧
    ts.record ts.tenant (ts.readS 1) = some ⟨1, 0, 0, 0, 2, .inner, 0, 5, 2, 1⟩ ∧
    (⟨3, 2, 0, 2, 0, .tile, 0, 1, 1, 0⟩ : TreeRec).handle ∉ ts.pathUp 17 1 ∧
    (0 : Nat) + 1 + 0 ≤ 15 ∧
    ts.readS 62 = 0 := by
  and_intros <;> first | decide +kernel | exact ready_of (by decide +kernel) | exact ok_of (by decide +kernel) | (constructor <;> decide +kernel)

/-- A group in its handler after a cause, with SRC as given, holding block 3 in slot 7, at the `HRET` at 56; TEPC is 60. -/
def hd (cause : Word) (detail : Word) (tslot : Option Nat) : State :=
  inL (inW (inG sl fun g => { g with tcause := cause, tdetail := detail, tepc := 48, blkidx := 3, slotno := 7
                                     saved := some ⟨none, [], 8, none, none, bitsN cause.toNat 31 29 == 2, none, tslot.map fun k => ⟨1, k, 3⟩⟩ }) fun w =>
      { w with slots := vset w.slots 7 { Slot.free with st := .held, idx := 3, holder := some 0, trap := true } }) fun l =>
    { l with desc := { l.desc with reentry := 4 } }

/-- Outside a handler, inside one, and before lane work is over. -/
theorem wit_TrapEntry :
    sl.scalarGate true true [] = true ∧
    sl.g.saved = none ∧
    sl.g.loop = none ∧
    (hd 0x0A 0 none).scalarGate true true [] = true ∧
    (hd 0x0A 0 none).g.saved.isSome = true ∧
    (hd 0x0A 0 none).Focused ∧
    (hd 0x0A 0 none).ln.st = .running ∧
    (hd 0x0A 0 none).ln.aborted = false ∧
    su.drained = false := by
  and_intros <;> first | decide +kernel | (constructor <;> decide +kernel)

/-- Cause 0x10 outside and inside a handler. -/
theorem wit_ScalarFaultEntry :
    (0x10 : BitVec 8) ≠ 0x14 ∧
    (0x10 : BitVec 8) ≠ 0x50 ∧
    sl.g.saved = none ∧
    (hd 0 0 none).g.saved.isSome = true ∧
    (hd 0 0 none).Focused ∧
    (hd 0 0 none).ln.st = .running ∧
    (hd 0 0 none).ln.aborted = false := by
  and_intros <;> first | decide +kernel | (constructor <;> decide +kernel)

/-- Outside a handler; TEPC in the section, at its last word, out of line, beyond; lane, matrix and late causes; cause 0x20. -/
theorem wit_HandlerReturn :
    sl.scalarGate true true [] = true ∧
    sl.g.saved = none ∧
    (hd 0x10 0 none).scalarGate true true [] = true ∧
    (hd 0x10 0 none).g.tcode ≠ 0x20 ∧
    (hd 0x10 0 none).g.tcode ≠ 0x21 ∧
    (hd 0x10 0 none).g.tcause.toNat / 2 ^ 28 = 0 ∧
    (hd 0x10 0 none).g.saved.any (fun v => !v.seq && v.job.isNone) = true ∧
    (hd 0x50000038 0 none).g.tcause.toNat / 2 ^ 28 = 5 ∧
    (hd 0x50000038 0 none).g.saved.any (fun v => v.seq && v.job.isNone) = true ∧
    (hd 0x50000038 0 none).scalarGate true true [] = true ∧
    (hd 0x70000012 0 none).g.tcause.toNat / 2 ^ 28 = 7 ∧
    (hd 0x90000012 0 none).g.tcause.toNat / 2 ^ 28 = 9 ∧
    (hd 0x90000012 0 none).scalarGate true true [] = true ∧
    (hd 0x90000012 0 none).g.tepc ≠ 0xFFFFFFFF ∧
    (hd 0x90000012 0 none).ln.desc.llen ≤ (hd 0x90000012 0 none).g.tepc.toNat ∧
    (inG (inL (hd 0x10000012 0 none) fun l => { l with desc := { l.desc with llen := 8 } }) fun g => { g with tepc := 7 }).g.tepc.toNat <
      (inG (inL (hd 0x10000012 0 none) fun l => { l with desc := { l.desc with llen := 8 } }) fun g => { g with tepc := 7 }).ln.desc.llen ∧
    (inG (hd 0x10000012 0 none) fun g => { g with tepc := 0xFFFFFFFF }).g.tepc = 0xFFFFFFFF ∧
    (hd 0x10 0 none).g.tepc.toNat % 4 = 0 ∧
    (hd 0x10 0 none).g.tepc.toNat + 4 ≤ (hd 0x10 0 none).ln.desc.slen ∧
    (inG (hd 0x10 0 none) fun g => { g with tepc := 62 }).g.tepc.toNat % 4 ≠ 0 ∧
    (hd 0x10 0 none).ln.desc.slen < (inG (hd 0x10 0 none) fun g => { g with tepc := 64 }).g.tepc.toNat + 4 ∧
    (hd 0x20000003 0 none).g.tcause.toNat / 2 ^ 28 = 2 ∧
    (hd 0x20000003 0 none).scalarGate true true [] = true ∧
    (hd 0x30000012 0 none).g.tcause.toNat / 2 ^ 28 = 3 ∧
    (hd 0x10000012 0 none).g.tcause.toNat / 2 ^ 28 = 1 ∧
    (hd 0x50000038 0 none).Focused ∧
    (hd 0x20 0 none).g.tcode = 0x20 ∧
    (hd 0x20 0 none).scalarGate true true [] = true := by
  and_intros <;> first | decide +kernel | (constructor <;> decide +kernel)

/-- With REENTRY at the end of the section. -/
def hx : State := inL (hd 0x21 1 none) fun l => { l with desc := { l.desc with reentry := l.desc.slen } }

/-- A cause that is not 0x20 or 0x21; cause 0x21; a touch trap of a lane on the held slot. -/
theorem wit_Dispositions :
    (hd 0x10 0 none).Focused ∧
    (hd 0x10 0 none).scalarGate true true [] = true ∧
    (hd 0x10 0 none).g.tcode ≠ 0x20 ∧
    (hd 0x10 0 none).g.tcode ≠ 0x21 ∧
    (hd 0x21 1 none).Focused ∧
    (hd 0x21 1 none).scalarGate true true [] = true ∧
    (hd 0x21 1 none).g.tcode = 0x21 ∧
    (hd 0x21 1 none).released (hd 0x21 1 none).g (hd 0x21 1 none).ln.lid 3 = true ∧
    (hd 0x21 1 none).ln.desc.reentry % 4 = 0 ∧
    (hd 0x21 1 none).ln.desc.reentry + 4 ≤ (hd 0x21 1 none).ln.desc.slen ∧
    (hx.ln.desc.slen < hx.ln.desc.reentry + 4 ∧ hx.ln.desc.reentry % 4 = 0 ∧ hx.Focused ∧ hx.scalarGate true true [] = true ∧
      hx.g.tcode = 0x21 ∧ hx.g.saved.isSome = true ∧ hx.released hx.g hx.ln.lid 3 = true) ∧
    (hd 0x21 1 none).g.tdetail ≠ 2 ∧
    (hd 0x21 1 none).g.holds = true ∧
    (hd 0x21 1 none).g.tcause.toNat / 2 ^ 28 = 0 ∧
    (hd 0x21 1 none).g.tepc.toNat % 4 = 0 ∧
    (hd 0x21 1 none).g.tepc.toNat + 8 ≤ (hd 0x21 1 none).ln.desc.slen ∧
    (hd 0x20000020 0 (some 7)).Focused ∧
    (hd 0x20000020 0 (some 7)).scalarGate true true [] = true ∧
    (hd 0x20000020 0 (some 7)).g.tcode = 0x20 ∧
    (hd 0x20000020 0 (some 7)).g.tcause.toNat / 2 ^ 28 = 2 ∧
    (hd 0x20000020 0 (some 7)).AtTrap ⟨1, 7, 3⟩ ∧
    (hd 0x20000020 0 (some 7)).g.saved.bind (·.tslot) = some ⟨1, 7, 3⟩ ∧
    (hd 0x20000020 0 (some 7)).g.holds = true ∧
    (hd 0x20000020 0 (some 7)).ln.desc.reentry % 4 = 0 ∧
    (hd 0x20000020 0 (some 7)).ln.desc.reentry + 4 ≤ (hd 0x20000020 0 (some 7)).ln.desc.slen ∧
    (hd 0x20000020 0 (some 7)).released (hd 0x20000020 0 (some 7)).g (hd 0x20000020 0 (some 7)).ln.lid 3 = true := by
  and_intros <;> first | decide +kernel | (constructor <;> decide +kernel)

/-- Every readable register, with lane work over. -/
theorem wit_StatusRead :
    (∀ e ∈ statusRegs, (Instr.srr 47 e.1).WellFormed = true) ∧
    sl.ScalarReady false [47] ∧
    sl.g.laneIdle = true := by
  and_intros <;> first | decide +kernel | exact ready_of (by decide +kernel)

/-- A scalar cause and another; a handler address in the last word, one out of line, one beyond; no stream. -/
theorem wit_StatusWrite :
    sj.ScalarReady true [] ∧
    sj.g.tcause.toNat / 2 ^ 29 = 0 ∧
    (inG sj fun g => { g with tcause := 0x20000003 }).g.tcause.toNat / 2 ^ 29 ≠ 0 ∧
    (inG sj fun g => { g with tcause := 0x20000003 }).ScalarReady true [] ∧
    (sj.readS 2).toNat % 4 = 0 ∧
    (sj.readS 2).toNat + 4 ≤ sj.ln.desc.slen ∧
    (sj.readS 3).toNat % 4 ≠ 0 ∧
    (sj.readS 4).toNat % 4 = 0 ∧
    sj.ln.desc.slen < (sj.readS 4).toNat + 4 ∧
    sj.wg.seq.run = false := by
  and_intros <;> first | decide +kernel | exact ready_of (by decide +kernel)

/-- A running launch. -/
theorem wit_HaltCancels :
    sl.Focused ∧
    sl.scalarGate true true [] = true ∧
    sl.ln.st = .running ∧
    sl.ln.aborted = false := by
  and_intros <;> first | decide +kernel | (constructor <;> decide +kernel)

/-- A matrix section of 8 words and 2 reservation records. -/
def sm : State := inL sl fun l => { l with desc := { l.desc with mlen := 8, recn := 2, obkib := 4, accu := 8 } }

/-- The stream runs at word 6, the last but one. -/
def mx : State := inW sm fun w => { w with seq := { w.seq with run := true, mpc := 6, tags := List.replicate 8 .zero } }

/-- The last word, one beyond; no records; a stream that runs; its end. -/
theorem wit_StreamStartEnd :
    sm.ScalarReady false [62] ∧
    sm.ln.desc.mlen ≤ (8 : BitVec 20).toNat + (sm.readS 62).toNat ∧
    (7 : BitVec 20).toNat + (sm.readS 62).toNat < sm.ln.desc.mlen ∧
    (inL sm fun l => { l with desc := { l.desc with recn := 0 } }).ln.desc.recn = 0 ∧
    (inL sm fun l => { l with desc := { l.desc with recn := 0 } }).ScalarReady false [62] ∧
    sm.ln.desc.recn ≠ 0 ∧
    mx.wg.seq.run = true ∧
    mx.ScalarReady false [62] ∧
    sm.wg.seq.run = false ∧
    mx.Focused := by
  and_intros <;> first | decide +kernel | exact ready_of (by decide +kernel) | (constructor <;> decide +kernel)

/-- M2 holds a valid modulus, M8 to M11 a record of 16 bytes at 0 of the operand buffer. -/
def mm : State := inW mx fun w => { w with seq := { w.seq with m := vset w.seq.m 2 (2 ^ 31 + 1) } }

/-- An offset within the launch and one beyond; a valid modulus and 0; the last record and one beyond. -/
theorem wit_SequencerRegisters :
    mm.MatrixReady ∧
    mm.ln.desc.pageGrid = false ∧
    mm.ln.desc.owns (8 * (0x1FFF : BitVec 16).toNat) 8 = true ∧
    mm.ln.desc.owns (8 * (0x2000 : BitVec 16).toNat) 8 = false ∧
    modulusOk (mm.mreg 2).toNat = true ∧
    modulusOk (mm.mreg 3).toNat = false ∧
    (1 : BitVec 4).toNat < mm.ln.desc.recn ∧
    mm.ln.desc.recn ≤ (2 : BitVec 4).toNat := by
  and_intros <;> first | decide +kernel | exact matrixReady_of (by decide +kernel)

/-! ## Witnesses: lane words -/

/-- A clause of one word that goes on to the next, a path of all lanes at word 6 of 8, and its unit. -/
def c0 : ClauseSt := ⟨5, 1, 1, some 1, none, false, true⟩
def p0 : Path := ⟨6, 0xFFFFFFFF, none, [], some c0, false, false, []⟩
def r0 : RunUnit :=
  ⟨⟨5, (Vector.replicate 64 0).set 9 0x80000001, Vector.replicate 8 0, Vector.replicate 8 TReg.zero, 0, false, false⟩, some p0,
    none, [], Vector.replicate 16 none⟩

/-- A state in which a unit runs, its path in slot 0; LX and LY are the lengths of the section and of array 0. -/
def onRun (s : State) (r : RunUnit) : State :=
  inL (inG s fun g => { g with run := some r, x := vset g.x 0 ⟨2, 2, 0, [Lanes.zero, Lanes.zero]⟩ }) fun l =>
    { l with desc := { l.desc with llen := 8 } }

def la : State := onRun sc r0

/-- V127 from V2, V3, and S9. -/
def o1 : LaneOps := { ops with dst := .v 127, a := .v 2, b := .v 3, c := .s 9 }

/-- The last pair. -/
def o2 : LaneOps := { ops with dst := .v 126, a := .v 2, b := .v 4, c := .v 6 }

/-- `IMUL` into the last register. -/
theorem wit_LaneIntegerResults : ∃ e ∈ intSpecs o1 .wrap false false .eq 0,
    la.LaneClear o1 e.nout (e.srcs (enabled r0 p0 o1)) r0 p0 c0 ∧
    (la.laneWrote o1 (e.srcs (enabled r0 p0 o1)) r0 p0 (e.value la o1 r0 p0)).LaneRoom o1 r0 p0 c0 (e.value la o1 r0 p0) :=
  ⟨_, List.Mem.head _, by constructor <;> decide +kernel, by unfold State.LaneRoom; decide +kernel⟩

/-- `FADD`. -/
theorem wit_LaneFloatResults : ∃ e ∈ floatSpecs o1 .f32 false .eq .i32 .f32,
    la.LaneClear o1 e.nout (e.srcs (enabled r0 p0 o1)) r0 p0 c0 ∧
    (la.laneWrote o1 (e.srcs (enabled r0 p0 o1)) r0 p0 (e.value la o1 r0 p0)).LaneRoom o1 r0 p0 c0 (e.value la o1 r0 p0) :=
  ⟨_, List.Mem.head _, by constructor <;> decide +kernel, by unfold State.LaneRoom; decide +kernel⟩

/-- The same word. -/
theorem wit_LaneFrame : ∃ e ∈ laneSpecs o1 .wrap false false .eq 0 .f32 false .eq .i32 .f32 false false .and .idx,
    la.LaneClear o1 e.nout (e.srcs (enabled r0 p0 o1)) r0 p0 c0 ∧
    (la.laneWrote o1 (e.srcs (enabled r0 p0 o1)) r0 p0 (e.value la o1 r0 p0)).LaneRoom o1 r0 p0 c0 (e.value la o1 r0 p0) :=
  ⟨_, List.Mem.head _, by constructor <;> decide +kernel, by unfold State.LaneRoom; decide +kernel⟩

/-- `MOV.B64`; `MODADD` with q = 2^31 + 1, and with q = 0. -/
theorem wit_LaneMoveResults : (∃ e ∈ moveSpecs o2 true false .and .idx,
      la.LaneClear o2 e.nout (e.srcs (enabled r0 p0 o2)) r0 p0 c0 ∧
      (la.laneWrote o2 (e.srcs (enabled r0 p0 o2)) r0 p0 (e.value la o2 r0 p0)).LaneRoom o2 r0 p0 c0 (e.value la o2 r0 p0)) ∧
    (∃ e ∈ modSpecs { o2 with c := .s 8 }, ∃ r, r = { r0 with u := { r0.u with s := r0.u.s.set 8 0x80000001 |>.set 9 0 } } ∧
      e.2 r % 2 = 1 ∧ 2 ^ 30 < e.2 r ∧ e.2 r < 2 ^ 62 ∧
      (onRun sc r).LaneClear { o2 with c := .s 8 } e.1.nout (e.1.srcs (enabled r p0 { o2 with c := .s 8 })) r p0 c0) ∧
    (∃ e ∈ modSpecs { o2 with c := .s 62 }, ¬ (e.2 r0 % 2 = 1 ∧ 2 ^ 30 < e.2 r0 ∧ e.2 r0 < 2 ^ 62)) ∧
    la.laneGate = some (r0, p0, c0) :=
  ⟨⟨_, List.Mem.head _, by constructor <;> decide +kernel, by unfold State.LaneRoom; decide +kernel⟩,
   ⟨_, List.Mem.head _, _, rfl, by decide +kernel, by decide +kernel, by decide +kernel, by constructor <;> decide +kernel⟩,
   ⟨_, List.Mem.head _, by decide +kernel⟩, by decide +kernel⟩

/-- An array element beyond LEN; a register that a load still owes; a register without a value under STRICT; PEAK 0; a word at
the end of the section. -/
theorem wit_LaneTraps : let xs := LaneOps.srcsAB o1
    la.laneGate = some (r0, p0, c0) ∧
    ¬ (∀ x ∈ LaneOps.srcsAB { o1 with a := .x 1 }, (readSrc la.g r0 p0 x.x x.n).oob &&& x.lanes (enabled r0 p0 o1) = 0) ∧
    (∀ x ∈ xs, (readSrc la.g r0 p0 x.x x.n).oob &&& x.lanes (enabled r0 p0 o1) = 0) ∧
    ¬ (∀ x ∈ xs, (readSrc (inG la fun g => { g with v := vset g.v 2 ⟨Lanes.zero, 1, 1, none, false⟩ }).g r0 p0 x.x x.n).pend &&&
      x.lanes (enabled r0 p0 o1) = 0) ∧
    (∀ x ∈ xs, (readSrc la.g r0 p0 x.x x.n).pend &&& x.held (enabled r0 p0 o1) = 0) ∧
    ¬ (∀ x ∈ [(⟨.v 2, true, 1, some 1⟩ : Src)],
      (readSrc (inG la fun g => { g with v := vset g.v 2 ⟨Lanes.zero, 2, 2, none, false⟩ }).g r0 p0 x.x x.n).pend &&&
        x.held (enabled r0 p0 o1) = 0) ∧
    la.g.dstOob o1.dst &&& enabled r0 p0 o1 = 0 ∧ la.g.dstPend o1.dst 1 &&& enabled r0 p0 o1 = 0 ∧
    la.laneMiss r0 p0 (enabled r0 p0 o1) xs = true ∧ la.g.strict = false ∧
    (inL la fun l => { l with desc := { l.desc with peak := 0 } }).ln.desc.peak <
      (la.g.lastUse xs (enabled r0 p0 o1)).mappedWith o1.dst 1 (enabled r0 p0 o1) ∧
    (inL la fun l => { l with desc := { l.desc with llen := 7 } }).runsOut r0 p0 c0 = true := by
  decide +kernel

/-- O4 is 1 in every lane. -/
def setLane (s : State) : State := inG s fun g => { g with o := vset g.o 4 ((lanesOf fun _ => 1).getD 0 Lanes.zero) }

/-- Array elements within the array and beyond it; a window entry; the last pair. -/
theorem wit_LaneOperandReads : (31 : Nat) < 32 ∧ (126 : BitVec 7).toNat + 1 < 128 ∧
    ({ p0 with win := [WinEntry.void] } : Path).win[(0 : BitVec 3).toNat]? = some WinEntry.void ∧
    p0.win[(0 : BitVec 3).toNat]? = none ∧ (61 : SReg).toNat < 62 ∧ 1 = ((setLane la).g.oreg (4 + (0 : BitVec 2).toNat) |>.lane 31).toNat ∧
    1 < ((setLane la).g.xarr (0 : BitVec 2).toNat).elts.length := by decide +kernel

/-- One lane, the last registers. -/
theorem wit_LaneResultPlacement : (0x80000000 : Word) ≠ 0 ∧ (126 : BitVec 7).toNat + [Lanes.zero, Lanes.zero].length ≤ 128 ∧
    (7 : BitVec 3).toNat + [Lanes.zero].length ≤ 8 ∧ (∃ v, [Lanes.zero] = [v]) ∧
    1 < ((setLane la).g.xarr (0 : BitVec 2).toNat).elts.length ∧ 1 = ((setLane la).g.oreg (4 + (0 : BitVec 2).toNat) |>.lane 31).toNat :=
  ⟨by decide +kernel, by decide +kernel, by decide +kernel, ⟨_, rfl⟩, by decide +kernel, by decide +kernel⟩

/-- `RFL` and `VOTE.BAL` into S47, with all lanes and with none. -/
def o47 : LaneOps := { ops with dst := .s 47, a := .v 2 }
theorem wit_LaneScalarResult :
    o47.dst = .s 47 ∧ (47 : SReg).toNat < 48 ∧
    la.LaneClear o47 1 [⟨o47.a, o47.la, 1, some (if enabled r0 p0 o47 = 0 then 0 else 1 <<< (lowest (enabled r0 p0 o47)))⟩] r0 p0 c0 ∧
    (la.laneWrote o47 [⟨o47.a, o47.la, 1, some (if enabled r0 p0 o47 = 0 then 0 else 1 <<< (lowest (enabled r0 p0 o47)))⟩] r0 p0
      (oneValue o47 (enabled r0 p0 o47) 0)).LaneRoom o47 r0 p0 c0 (oneValue o47 (enabled r0 p0 o47) 0) ∧
    enabled r0 p0 o47 ≠ 0 ∧ enabled r0 p0 { o47 with pe := true } = 0 ∧ c0.continues = true ∧
    la.LaneClear o47 1 (LaneOps.srcsA o47) r0 p0 c0 ∧
    (la.laneWrote o47 (LaneOps.srcsA o47) r0 p0 (oneValue o47 (enabled r0 p0 o47) 0)).LaneRoom o47 r0 p0 c0
      (oneValue o47 (enabled r0 p0 o47) 0) ∧
    ∀ l < 32, (0 : Word).getLsbD l = ((enabled r0 p0 o47).getLsbD l && (readSrc la.g r0 p0 o47.a 1).word l != 0) := by
  and_intros <;> first | decide +kernel | (constructor <;> decide +kernel) | (unfold State.LaneRoom; decide +kernel)

/-- Encodings of FP32: a NaN, two numbers, and the greatest encoding. -/
theorem wit_FloatEdges : (0xFFFFFFFF : Nat) < 2 * (fmtOf .f32).signW ∧ ((fmtOf .f32).unpack 0x7FC00000 false).isNan = true ∧
    ((fmtOf .f32).unpack 0x3F800000 false).isNan = false ∧ (fmtOf .f32).unpack 0x3F800000 false = .fin false 0x800000 (-23) := by
  decide +kernel

/-- A finite value, a conversion to each kind of type, one under FTZ with a zero for a result, one that NV does not mark. -/
theorem wit_FiniteRounding :
    (Fmt.f32.unpack 0x3F800000 false).IsFinite ∧ (Fmt.f32.unpack (Fmt.f32.add ⟨0, false, false⟩ 0x3F800000 0x33800000).1).IsFinite ∧
    (Fmt.f32.add ⟨0, false, false⟩ 0x3F800000 0x33800000).2 &&& 0x400 = 0 ∧
    Fmt.f32.worth (Fmt.f32.mul ⟨0, true, false⟩ 0x00800000 0x3F000000).1 = 0 ∧
    CType.fmt .e4m3 = some .e4m3 ∧ CType.fmt .f32 = some .f32 ∧ CType.fmt .i64 = none ∧
    (cvtElem .i64 .f32 false ⟨0, false, false⟩ 0x3FC00000).2 &&& 0x200 = 0 :=
  ⟨⟨false, 0x800000, -23, by decide +kernel⟩, ⟨false, 0x800000, -23, by decide +kernel⟩, by decide +kernel, by decide +kernel,
    by decide +kernel, by decide +kernel, by decide +kernel, by decide +kernel⟩

/-- A path at a header, word 5, and the header of a clause of one word: with no flag to wait for, with one, safe, with JOIN. -/
def p1 : Path := ⟨5, 0xFFFFFFFF, none, [], none, false, false, []⟩
def r1 : RunUnit := { r0 with ls0 := some p1 }
def lh : State := onRun sc r1
def h1 : ClauseHdr := ⟨0, 0, false, 0, false, 0, false, 0, false, true⟩
def h2 : ClauseHdr := { h1 with wmask := 0x800 }
def h3 : ClauseHdr := { h1 with safe := true, live := 32 }

/-- The path waits for its join at word 5 in record 15, alone, or as one of two with one on the stack. -/
def r2 (n : Nat) (st : List DivEntry) : RunUnit :=
  { r1 with ls0 := some { p1 with jrec := some 15 }, stack := st, joins := r1.joins.set 15 (some ⟨5, 0, n, none⟩) }

/-- A safe point with LIVE beyond FLOOR; a header at the end of the section; a clause that starts, that waits for F11, a safe one. -/
theorem wit_ClauseHeaders :
    lh.headerGate = some (r1, p1) ∧
    arrives r1 p1 h1 = none ∧
    h3.safe = true ∧
    lh.ln.desc.floor < ({ h3 with live := 33 } : ClauseHdr).live.toNat ∧
    ¬ (h3.safe = true ∧ (h3.live.toNat < lh.g.mapped ∨ lh.ln.desc.floor < h3.live.toNat)) ∧
    (inL lh fun l => { l with desc := { l.desc with llen := 6 } }).ln.desc.llen ≤ p1.pc + 1 ∧
    p1.pc + 1 < lh.ln.desc.llen ∧
    lh.abandonDue = false ∧
    lh.faultDue = false ∧
    h1.safe = false ∧
    (∀ n < 12, h1.wmask.getLsbD n = true → vget lh.g.f n 0 = 0) ∧
    (∃ n < 12, h2.wmask.getLsbD n = true ∧ vget (inG lh fun g => { g with f := vset g.f 11 1 }).g.f n 0 ≠ 0) ∧
    lh.g.stop = false := by decide +kernel

/-- The last path, one of two, one of two with a path on the stack. -/
theorem wit_JoinArrival :
    (onRun sc (r2 1 [])).headerGate = some (r2 1 [], { p1 with jrec := some 15 }) ∧
    (15 < 16) ∧
    (r2 1 []).join 15 = some ⟨5, 0, 1, none⟩ ∧
    ({ h1 with join := true } : ClauseHdr).join = true ∧
    p1.mask ≠ 0 ∧
    (onRun sc (r2 1 [])).boundary = none ∧
    (onRun sc (r2 1 [])).Drops (onRun sc (r2 1 [])) p1.win ∧
    (r2 2 []).join 15 = some ⟨5, 0, 2, none⟩ ∧
    (onRun sc (r2 2 [])).headerGate = some (r2 2 [], { p1 with jrec := some 15 }) ∧
    (r2 2 [⟨0, 1, none⟩]).stack = ⟨0, 1, none⟩ :: [] ∧
    (onRun sc (r2 2 [⟨0, 1, none⟩])).boundary = none := by
  and_intros <;> first | decide +kernel | (unfold State.Drops; decide +kernel)

/-- Lanes 0 to 15 by P1. -/
def oh : LaneOps := { ops with pe := true, pg := 1, imm := 7 }
def r3 (p : Word) (other : Bool) : RunUnit :=
  { r0 with u := { r0.u with p := vset r0.u.p 1 p }, ls1 := if other then some p0 else none }
/-- A path that ends with its clause. -/
def c4 : ClauseSt := { c0 with cont := false }
def r4 : RunUnit := { r0 with ls0 := some { p0 with clause := some c4 } }
/-- With a path on the stack that goes on outside the section. -/
def r5 : RunUnit := { r4 with stack := [⟨8, 1, none⟩] }
/-- Half of the lanes branch, with the other slot full. -/
def rHalf : RunUnit := { r3 0xFFFF true with ls0 := some { p0 with clause := some c4 } }
/-- In record 15 with a join at word 7 or outside the section, as one of n paths. -/
def r6 (at_ n : Nat) : RunUnit := { r0 with ls0 := some { p0 with jrec := some 15 }, joins := r0.joins.set 15 (some ⟨at_, 0, n, none⟩) }

/-- All lanes, to the last word and beyond it; none, with CONT and without; half of them into an empty slot, onto the stack, and with no room. -/
theorem wit_LaneBranch :
    la.laneGate = some (r0, p0, c0) ∧
    p0.mask ≠ 0 ∧
    enabled r0 p0 { ops with imm := 8 } ≠ 0 ∧
    la.ln.desc.llen ≤ ({ ops with imm := 8 } : LaneOps).imm.toNat % 65536 ∧
    p0.others (enabled r0 p0 ops) = 0 ∧
    ({ ops with imm := 7 } : LaneOps).imm.toNat % 65536 < la.ln.desc.llen ∧
    la.Drops la (p0.win.drop 7) ∧
    enabled (r3 0 false) p0 oh = 0 ∧
    c0.cont = true ∧
    p0.pc + 1 < la.ln.desc.llen ∧
    (onRun sc (r3 0 false)).laneGate = some (r3 0 false, p0, c0) ∧
    (onRun sc r4).laneGate = some (r4, { p0 with clause := some c4 }, c4) ∧
    c4.cont = false ∧
    enabled r4 { p0 with clause := some c4 } oh = 0 ∧
    (onRun sc r4).endsOut r4 = false ∧
    (onRun sc r5).endsOut r5 = true ∧
    (inL la fun l => { l with desc := { l.desc with llen := 7 } }).ln.desc.llen ≤ p0.pc + 1 ∧
    ({ imm := 6, pe := true, pn := false, pg := 1, dst := .none, a := .none, la := false, b := .none, lb := false, c := .none, lc := false, fs := 0, re := false, pk := 0 } : LaneOps).imm.toNat % 65536 < 7 ∧
    (onRun sc r4).Drops (onRun sc r4) p0.win ∧
    enabled (r3 0xFFFF false) p0 oh ≠ 0 ∧
    p0.others (enabled (r3 0xFFFF false) p0 oh) ≠ 0 ∧
    (onRun sc (r3 0xFFFF false)).laneGate = some (r3 0xFFFF false, p0, c0) ∧
    (r3 0xFFFF false).openJoin p0 0 = none ∧
    (r3 0xFFFF false).freeJoin = some 0 ∧
    (r3 0xFFFF false).path true = none ∧
    ((r3 0xFFFF true).path true).isSome = true ∧
    (r3 0xFFFF true).stack.length < (inL la fun l => { l with desc := { l.desc with dsdepth := 1 } }).ln.desc.dsdepth ∧
    la.ln.desc.dsdepth ≤ (r3 0xFFFF true).stack.length ∧
    ({ r0 with joins := Vector.replicate 16 (some ⟨7, 0, 2, none⟩) } : RunUnit).freeJoin = none ∧
    (onRun sc rHalf).laneGate = some (rHalf, { p0 with clause := some c4 }, c4) ∧
    enabled rHalf { p0 with clause := some c4 } oh ≠ 0 ∧
    (rHalf.path true).isSome = true ∧
    ¬ (popc32 (p0.others (enabled rHalf p0 oh))).toNat < (popc32 (enabled rHalf p0 oh)).toNat ∧
    rHalf.stack.length < (inL (onRun sc rHalf) fun l => { l with desc := { l.desc with dsdepth := 1 } }).ln.desc.dsdepth ∧
    2 ≤ (⟨0, 0, 2, none⟩ : JoinRec).count := by
  and_intros <;> first | decide +kernel | (unfold State.Drops; decide +kernel)

/-- Half of the lanes, with and without a record, and at the end of the section; all of them, as the last path of its record. -/
theorem wit_LaneJoinEnd :
    (onRun sc (r3 0xFFFF false)).laneGate = some (r3 0xFFFF false, p0, c0) ∧
    p0.others (enabled (r3 0xFFFF false) p0 oh) ≠ 0 ∧
    c0.cont = true ∧
    (inL la fun l => { l with desc := { l.desc with llen := 7 } }).ln.desc.llen ≤ p0.pc + 1 ∧
    p0.pc + 1 < la.ln.desc.llen ∧
    (onRun sc (r3 0xFFFF false)).Drops (onRun sc (r3 0xFFFF false)) (p0.win.drop 7) ∧
    p0.jrec = none ∧
    ({ r0 with joins := r0.joins.set 15 (some ⟨7, 0, 1, none⟩) } : RunUnit).join 15 = some ⟨7, 0, 1, none⟩ ∧
    p0.others (enabled r0 p0 ops) = 0 ∧
    la.Drops la p0.win ∧
    la.endsOut r0 = false ∧
    (onRun sc r5).endsOut r5 = true ∧
    (onRun sc (r6 7 1)).laneGate = some (r6 7 1, { p0 with jrec := some 15 }, c0) ∧
    (r6 7 1).join 15 = some ⟨7, 0, 1, none⟩ ∧
    7 < (onRun sc (r6 7 1)).ln.desc.llen ∧
    (onRun sc (r6 8 1)).ln.desc.llen ≤ 8 ∧
    (r6 7 2).join 15 = some ⟨7, 0, 2, none⟩ ∧
    (r6 7 2).stack = [] ∧
    (0 : Word) ||| enabled r0 p0 ops ≠ 0 := by
  and_intros <;> first | decide +kernel | (unfold State.Drops; decide +kernel)

/-- LEN 2 of XLEN 2, and 3; from S9 and S63. -/
theorem wit_ArrayLength :
    la.laneGate = some (r0, p0, c0) ∧
    ({ ops with dst := .x 0 } : LaneOps).dst = .x 0 ∧
    la.runsOut r0 p0 c0 = false ∧
    (la.g.xarr (0 : BitVec 2).toNat).xlen < ({ ops with imm := 3 } : LaneOps).imm.toNat % 128 ∧
    ({ ops with imm := 2 } : LaneOps).imm.toNat % 128 ≤ (la.g.xarr (0 : BitVec 2).toNat).xlen ∧
    la.Drops la (if c0.continues then p0.win.drop 7 else p0.win) ∧
    ({ ops with a := .s 9 } : LaneOps).a = .s 9 := by
  and_intros <;> first | decide +kernel | (unfold State.Drops; decide +kernel)

/-! ## Witnesses: lane memory -/

/-- A lane of a global access is performed; a lane is absent under a residency predicate. -/
def okLane (s : State) (r : RunUnit) (o : LaneOps) (vs : List SrcVal) (mask : Word) (n : Nat) (wr : Bool) (l : Nat) : Bool :=
  mask.getLsbD l && match s.reach (r.treg o) (laneOff o vs l) n wr with
    | .ok _ => true
    | _ => false

def absLane (s : State) (r : RunUnit) (o : LaneOps) (vs : List SrcVal) (mask : Word) (n : Nat) (wr : Bool) (l : Nat) : Bool :=
  mask.getLsbD l && o.re && match s.reach (r.treg o) (laneOff o vs l) n wr with
    | .absent _ => true
    | _ => false

theorem performs_iff {s : State} {r : RunUnit} {o : LaneOps} {vs : List SrcVal} {mask : Word} {n : Nat} {wr : Bool} {l : Nat} :
    (∃ da, PerformsAt s r o vs mask n wr l da) ↔ okLane s r o vs mask n wr l = true := by
  simp only [PerformsAt, okLane]
  cases s.reach (r.treg o) (laneOff o vs l) n wr <;> simp

theorem absents_iff {s : State} {r : RunUnit} {o : LaneOps} {vs : List SrcVal} {mask : Word} {n : Nat} {wr : Bool} {l : Nat} :
    Absents s r o vs mask n wr l ↔ absLane s r o vs mask n wr l = true := by
  simp only [Absents, absLane]
  cases s.reach (r.treg o) (laneOff o vs l) n wr <;> simp

theorem reaches_of {s : State} {r : RunUnit} {o : LaneOps} {vs : List SrcVal} {mask : Word} {n : Nat} {wr : Bool}
    (h : ∀ l < 32, mask.getLsbD l = true → (okLane s r o vs mask n wr l || absLane s r o vs mask n wr l) = true) :
    Reaches s r o vs mask n wr := by
  intro l hl hm
  have := h l hl hm
  rw [Bool.or_eq_true] at this
  exact this.imp performs_iff.mpr absents_iff.mpr

/-- The running path with the memory of `vm`; its offsets lie in frame 5, or with a predicate in frame 6. -/
def lm : State := vmOn la
def o5 : LaneOps := { ops with dst := .v 126, a := .s 62, b := .v 2, c := .v 4, fs := 1 }
def o6 : LaneOps := { ops with dst := .v 126, a := .s 62, b := .v 2, c := .v 4, re := true, pk := 7, imm := 0x10000 }
def o7 : LaneOps := { o5 with imm := 0x0B000000 }

/-- V2 is 64 times the lane number. -/
def lv : State := inG lm fun g => { g with v := vset g.v 2 ⟨(lanesOf fun l => BitVec.ofNat 32 (64 * l)).getD 0 Lanes.zero, 0xFFFFFFFF, 0, none, false⟩ }
def o8 : LaneOps := { ops with a := .v 2, b := .v 4 }

/-- `LD.G.B64` of frame 5 with a flag, of the absent frame 6; `LD.L` at offset 0 of the own scratchpad. -/
theorem wit_LaneLoads :
    lm.LaneClear o5 2 [addrSrc o5] r0 p0 c0 ∧
    (enabled r0 p0 o5) ≠ 0 ∧
    lm.g.flagFull (flagOf p0.clause o5.fs) = false ∧
    (lm.laneRead o5 [addrSrc o5] r0 p0).LoadRoom o5 2 (enabled r0 p0 o5) 0 c0 ∧
    Reaches lm r0 o5 (lm.laneReads r0 p0 [addrSrc o5]) (enabled r0 p0 o5) 8 false ∧
    lm.LaneClear o6 2 [addrSrc o6] r0 p0 c0 ∧
    (lm.laneRead o6 [addrSrc o6] r0 p0).LoadRoom o6 2 (enabled r0 p0 o6) 0 c0 ∧
    Reaches lm r0 o6 (lm.laneReads r0 p0 [addrSrc o6]) (enabled r0 p0 o6) 8 false ∧
    p0.zeros = [] ∧
    (∀ l < 32, (lm.spTarget (laneOff o5 (lm.laneReads r0 p0 [addrSrc o5]) l) 8).toOption = some (1, 0) ∧ laneTrap lm o5 (lm.laneReads r0 p0 [addrSrc o5]) 8 [] l = none) := by
  and_intros <;> first | decide +kernel | (constructor <;> decide +kernel) | (unfold State.LoadRoom; decide +kernel) | (unfold Reaches; decide +kernel) | exact reaches_of (by decide +kernel)

/-- `ST.G` and `ST.L` of 32 words, 64 bytes apart. -/
theorem wit_LaneStores :
    lv.LaneClear o8 0 [addrSrc o8, { x := o8.b, lu := o8.lb, n := 1 }] r0 p0 c0 ∧
    (lv.laneRead o8 [addrSrc o8, { x := o8.b, lu := o8.lb, n := 1 }] r0 p0).StoreRoom c0 ∧
    Reaches lv r0 o8 (lv.laneReads r0 p0 [addrSrc o8, { x := o8.b, lu := o8.lb, n := 1 }]) (enabled r0 p0 o8) 4 true ∧
    lv.Canonical ∧
    lv.wg.id ≠ 0 ∧
    (∀ l < 32, (lv.spTarget (laneOff o8 (lv.laneReads r0 p0 [addrSrc o8, { x := o8.b, lu := o8.lb, n := 1 }]) l) 4).toOption = some (1, 64 * l)) ∧
    (lv.findWg 1).isSome = true ∧
    lv.wg.storable lv.ln.desc lv.wg.id (64 * 31) = true ∧
    (inL lv fun l => { l with desc := { l.desc with pageGrid := true } }).wg.storable (inL lv fun l => { l with desc := { l.desc with pageGrid := true } }).ln.desc lv.wg.id 0x7FFFF = false := by
  and_intros <;> first | decide +kernel | (constructor <;> decide +kernel) | (unfold State.StoreRoom; decide +kernel) | (unfold Reaches; decide +kernel) | exact reaches_of (by decide +kernel)

/-- `ATOM.L.ADD64`; `ATOM.G.ADD64` of acquire and release at device scope; `XCVT` of an absent frame. -/
theorem wit_LaneAtomics :
    (enabled r0 p0 o5) ≠ 0 ∧
    lm.g.flagFull (flagOf p0.clause o5.fs) = false ∧
    lm.LaneClear o5 (atomRegs .add64) (atomSrcs o5 .add64) r0 p0 c0 ∧
    p0.zeros = [] ∧
    (lm.laneRead o5 (atomSrcs o5 .add64) r0 p0).LoadRoom o5 (atomRegs .add64) (enabled r0 p0 o5) 0 c0 ∧
    (∀ l < 32, (lm.spTarget (laneOff o5 (lm.laneReads r0 p0 (atomSrcs o5 .add64)) l) (atomBytes .add64)).toOption = some (1, 0) ∧ laneTrap lm o5 (lm.laneReads r0 p0 (atomSrcs o5 .add64)) (atomBytes .add64) [] l = none) ∧
    lm.LaneClear o7 2 (atomSrcs o7 .add64) r0 p0 c0 ∧
    lm.PortersFree ∧
    Reaches lm r0 o7 (lm.laneReads r0 p0 (atomSrcs o7 .add64)) (enabled r0 p0 o7) 8 true ∧
    okLane lm r0 o7 (lm.laneReads r0 p0 (atomSrcs o7 .add64)) (enabled r0 p0 o7) 8 true 0 = true ∧
    LaneOps.ord o7 = 3 ∧
    lm.released lm.g lm.ln.lid (LaneOps.scope o7) = true ∧
    lm.Focused ∧
    (∀ l < 32, ((enabled r0 p0 o7).getLsbD l = true ↔ ∃ da, PerformsAt lm r0 o7 (lm.laneReads r0 p0 (atomSrcs o7 .add64)) (enabled r0 p0 o7) 8 true l da) ∧ ((0 : Word).getLsbD l = true ↔ Absents lm r0 o7 (lm.laneReads r0 p0 (atomSrcs o7 .add64)) (enabled r0 p0 o7) 8 true l)) ∧
    (lm.laneRead o7 (atomSrcs o7 .add64) r0 p0).LoadRoom o7 2 (enabled r0 p0 o7) 0 c0 ∧
    lm.LaneClear o6 1 [addrSrc o6] r0 p0 c0 ∧
    Reaches lm r0 o6 (lm.laneReads r0 p0 [addrSrc o6]) (enabled r0 p0 o6) 64 false := by
  and_intros <;> first | decide +kernel | (constructor <;> decide +kernel) | (unfold State.LoadRoom; decide +kernel) | (unfold Reaches; decide +kernel) | (unfold PerformsAt; decide +kernel) | (unfold Absents; decide +kernel) | (unfold State.PortersFree; decide +kernel) | exact reaches_of (by decide +kernel) | (simp only [performs_iff, absents_iff]; decide +kernel)

/-- `RED.G.ADD64` of aligned lanes with a release; lanes 4 bytes apart. -/
theorem wit_LaneReductions :
    (LaneOps.ord { o8 with imm := 0x0E000000 } = 2) ∧
    lv.LaneClear { o8 with imm := 0x0E000000 } 0 [addrSrc o8, { x := o8.b, lu := o8.lb, n := 2 }] r0 p0 c0 ∧
    (∀ l < 32, (r0.treg o8).va (laneOff o8 (lv.laneReads r0 p0 [addrSrc o8, { x := o8.b, lu := o8.lb, n := 2 }]) l) % 8 = 0) ∧
    lv.PortersFree ∧
    (lv.laneRead o8 [addrSrc o8, { x := o8.b, lu := o8.lb, n := 2 }] r0 p0).StoreRoom c0 ∧
    lv.released lv.g lv.ln.lid 3 = true ∧
    lv.Focused ∧
    (r0.treg o8).va (laneOff { o8 with imm := 4 } (lv.laneReads r0 p0 [addrSrc o8, { x := o8.b, lu := o8.lb, n := 2 }]) 0) % 8 ≠ 0 ∧
    (r0.treg o8).va ((srcAt (lv.laneReads r0 p0 [addrSrc o8, { x := (.s 9 : Opnd), lu := false, n := 1 }]) 1).word 0) % 64 ≠ 0 := by
  and_intros <;> first | decide +kernel | (constructor <;> decide +kernel) | (unfold State.StoreRoom; decide +kernel) | (unfold State.PortersFree; decide +kernel)

/-- A barrier at 0x8000 at phase 0 of the launch, and of another. -/
def lw (ticket : BitVec 21) (phase : BitVec 16) : State := inW la fun w => w.setBar 0x8000 ⟨ticket, 2, 0, 0, 0, 1, phase⟩
def r9 : RunUnit := { r0 with u := { r0.u with s := (r0.u.s.set 8 0x8000).set 7 1 } }
def o9 : LaneOps := { ops with a := .s 8, b := .s 7 }
def on9 (s : State) : State := inG s fun g => { g with run := some r9 }

/-- The `WAIT` in a SAFE clause, while its phase is not complete, with a stop request or none. -/
def c0s : ClauseSt := { c0 with safe := true }
def p0s : Path := { p0 with clause := some c0s }
def r9s : RunUnit := { r9 with ls0 := some p0s }
def on9s (stop : Nat) : State := inG (lw 1 0) fun g => { g with run := some r9s, stop := stop == 1 }

/-- Frames that are resident and absent; a phase that is complete, one that is not, a foreign ticket. -/
theorem wit_LaneResideWait :
    lm.LaneClear o5 1 [addrSrc o5] r0 p0 c0 ∧
    (enabled r0 p0 o5) ≠ 0 ∧
    lm.g.flagFull (flagOf p0.clause o5.fs) = false ∧
    (lm.laneRead o5 [addrSrc o5] r0 p0).LoadRoom o5 1 (enabled r0 p0 o5) 0 c0 ∧
    (∀ l < 32, laneFrame lm r0 o5 (lm.laneReads r0 p0 [addrSrc o5]) l = some 5 ∧ lm.foreign 5 = false) ∧
    ((o9.a = .none ∧ (0x8000 : Word) = 0) ∨ ∃ a : SReg, o9.a = .s a ∧ (0x8000 : Word) = r9.u.sreg a.toNat 0 false) ∧
    (∃ b : SReg, o9.b = .s b ∧ (1 : Word) = r9.u.sreg b.toNat 0 false) ∧
    enabled r9 p0 o9 ≠ 0 ∧
    enabled r9 p0 { o9 with pe := true } = 0 ∧
    (on9 (lw 1 1)).LaneClear { o9 with pe := true } 0 [] r9 p0 c0 ∧
    (0x8008 : Word).toNat % 16 ≠ 0 ∧
    (la.ln.desc.owns 0x20000 16 = false ∧ 0x20000 < 0x400000) ∧
    (∃ x ∈ (inW (lw 1 1) fun w => { w with jobBars := [(0x8000, 1, .one ⟨1, some 0⟩)] }).wg.jobBars,
      x.1 = 0x8000 ∧ x.2.1 = 1 ∧ x.2.2.has 1 (some 0) = true) ∧
    (on9 (lw 1 1)).core.id = (on9 (lw 1 1)).wg.coreId ∧
    c0.continues = true ∧
    (on9s 1).LaneClear o9 0 [] r9s p0s c0s ∧
    (on9s 1).StoreRoom c0s ∧
    (on9s 1).findWg 1 = some (on9s 1).wg ∧
    c0s.safe = true ∧
    (on9s 1).g.stop = true ∧
    0x8000 ≤ (((on9s 1).wg.bar la.ln.desc 0x8000).phase - (1 : BitVec 16)).toNat ∧
    (on9s 0).g.stop = false ∧
    (on9s 0).abandonDue = false ∧
    (on9s 0).faultDue = false ∧
    (on9 (lw 1 1)).LaneClear o9 0 [] r9 p0 c0 ∧
    (on9 (lw 1 1)).StoreRoom c0 ∧
    (on9 (lw 1 1)).spTarget (vget r9.u.s 8 0 + LaneOps.off o9) 16 = .ok (1, 0x8000) ∧
    (on9 (lw 1 1)).findWg 1 = some (on9 (lw 1 1)).wg ∧
    ((on9 (lw 1 1)).wg.bar la.ln.desc 0x8000).ticket = la.ln.ticket ∧
    (((on9 (lw 1 1)).wg.bar la.ln.desc 0x8000).phase - (vget r9.u.s 7 0).setWidth 16).toNat < 0x8000 ∧
    0x8000 ≤ (((lw 1 0).wg.bar la.ln.desc 0x8000).phase - (vget r9.u.s 7 0).setWidth 16).toNat ∧
    c0.safe = false ∧
    ((lw 2 0).wg.bar la.ln.desc 0x8000).ticket ≠ la.ln.ticket := by
  and_intros <;> first | decide +kernel | exact ok_of (by decide +kernel) | (constructor <;> decide +kernel) | (unfold State.StoreRoom; decide +kernel) | (unfold State.LoadRoom; decide +kernel)

/-! ## Witnesses: the matrix engine -/

/-- M registers: an INT8 product of one row, one column and one depth over scratchpad, and a store of it to address 0. -/
def mregs : Vector DWord 16 :=
  ((((((((Vector.replicate 16 0).set 2 0x8000000000000000).set 3 1).set 4 0x8000000000000100).set 5 0x100000001).set 6
    0x100010100).set 7 0x100011100).set 8 0).set 9 4

/-- Records 0 and 1: INT8, one KiB each, of A and of B. -/
def recA : BitVec 256 := BitVec.ofNat 256 (2 ^ 142 + 3 * 2 ^ 148 + 2 ^ 128)
def recB : BitVec 256 := BitVec.ofNat 256 (2 ^ 142 + 2 ^ 143 + 3 * 2 ^ 148 + 2 ^ 128 + 2 ^ 120)

def mq : State :=
  vmOn (inW mx fun w => { w with seq := { w.seq with m := mregs, recs := (w.seq.recs.set 0 recA).set 1 recB } })

/-- The job of a word, waiting or running. -/
def mj (st : JobSt) : Job := { jbJob with id := 1, lid := 1, wgId := 1, matrix := true, st := st, preds := [], reads := [], writes := [] }
def mw (st : JobSt) (i : Instr) : State :=
  let s := inW { mq with jobs := [mj st] } fun w => { w with seq := { w.seq with job := some 1 } }
  inL s fun l => { l with mcode := l.mcode.writeLE 48 8 (match encode i with
    | some (.matrix x) => x.toNat
    | _ => 0) }
def wMma : Instr := .mma .i8 2 4 6 0 0 0
def wMst : Instr := .mst .f32 false 8 7 0 1 0 0 0

/-- Records that do not fit; an empty mask; a word to accept, to begin, and at its only step. -/
theorem wit_MatrixProduct :
    mq.MatrixReady ∧
    mq.mmaOf .i8 4 2 6 0 0 0 = .error 0x38 ∧
    mq.mmaOf .i8 2 4 0 0 0 0 = .ok ⟨.i8, ⟨true, 0, 0, 1⟩, ⟨true, 0x100, 1, 1⟩, recA.toNat, recB.toNat, ⟨0, 0, 0, 16, 16, 0⟩⟩ ∧
    mq.wg.seq.job = none ∧
    mq.mmaOf .i8 2 4 6 0 0 0 = .ok ⟨.i8, ⟨true, 0, 0, 1⟩, ⟨true, 0x100, 1, 1⟩, recA.toNat, recB.toNat, ⟨1, 1, 1, 16, 16, 0⟩⟩ ∧
    (mw .waiting wMma).MatrixReady ∧
    (mw .waiting wMma).wordJob = some (mj .waiting) ∧
    (mj .waiting).st ≠ .running ∧
    (mj .waiting).preds = [] ∧
    (mw .waiting wMma).absentIn ((mj .waiting).reads ++ (mj .waiting).writes) = [] ∧
    (mw .running wMma).wordJob = some (mj .running) ∧
    (mj .running).st = .running ∧
    (mw .running wMma).Canonical ∧
    (mw .running wMma).stepMeets [] ⟨.i8, ⟨true, 0, 0, 1⟩, ⟨true, 0x100, 1, 1⟩, recA.toNat, recB.toNat, ⟨1, 1, 1, 16, 16, 0⟩⟩ (progRow (mw .running wMma).wg.seq.mprog / 16) (progStep (mw .running wMma).wg.seq.mprog) = none ∧
    (mw .running wMma).kTurn = true ∧
    (mw .running wMma).AtWord wMma := by
  and_intros <;> first | decide +kernel | exact matrixReady_of (by decide +kernel) | exact ok_of (by decide +kernel) | exact error_of (by decide +kernel) | (constructor <;> decide +kernel)

/-- The least and the greatest modulus of the statement. -/
theorem wit_MatrixIntegerSums :
    (0 < 1) ∧
    (2 ^ 62 - 1 < 2 ^ 62) := by decide +kernel

/-- A mask beyond the tile; the tile of one element; a whole tile. -/
theorem wit_MatrixZero :
    mq.MatrixReady ∧
    mq.Canonical ∧
    mq.tile 7 0 0 0 = none ∧
    mq.tile 6 0 0 7 = some ⟨1, 1, 1, 16, 16, 0x700⟩ := by
  and_intros <;> first | decide +kernel | exact matrixReady_of (by decide +kernel) | (constructor <;> decide +kernel)

/-- At the last row of that store; a store with barrier 15 that has its credit left to make. -/
def mlast : State := inW (mw .running wMst) fun w => { w with seq := { w.seq with mprog := progAt 16 0 } }
def mcr : State :=
  inL (inW (mw .running (.mst .f32 true 8 7 0 1 0 0 15)) fun w =>
    { w.setBar 0x90F0 ⟨1, 2, 0, 68, 0, 1, 0⟩ with seq := { w.seq with mprog := progAt 17 0 ||| 0x40000000 } }) fun l =>
      { l with desc := { l.desc with mbbase := 0x9000 } }

/-- 17 rows: refused for a tile of 16; accepted, begun, at row 0, and at the last row. -/
theorem wit_MatrixStore :
    mq.MatrixReady ∧
    mq.mstOf .f32 false 8 7 0 0 0 0 0 = .error 0x38 ∧
    mq.mstOf .f32 false 8 7 0 1 0 0 0 = .ok ⟨.f32, ⟨false, 0, 0, 4⟩, ⟨17, 1, 1, 32, 16, 0⟩, 0, none⟩ ∧
    mq.wg.seq.job = none ∧
    (mw .waiting wMst).wordJob = some (mj .waiting) ∧
    (mw .running wMst).wordJob = some (mj .running) ∧
    0 = progRow (mw .running wMst).wg.seq.mprog ∧
    (mw .running wMst).wg.seq.mprog.getLsbD 30 = false ∧
    (mw .running wMst).rowMeets ((⟨.f32, ⟨false, 0, 0, 4⟩, ⟨17, 1, 1, 32, 16, 0⟩, 0, none⟩ : MstOp).row 16) = none ∧
    (mw .running wMst).AtWord wMst ∧
    16 = progRow (progAt 16 0) ∧
    (progAt 16 0).getLsbD 30 = false ∧
    (17 : Nat) = 16 + 1 ∧
    (mcr.mstOf .f32 true 8 7 0 1 0 0 15 = .ok ⟨.f32, ⟨false, 0, 0, 4⟩, ⟨17, 1, 1, 32, 16, 0⟩, 0, some 15⟩) ∧
    mcr.MatrixReady ∧
    mcr.wordJob = some (mj .running) ∧
    mcr.wg.seq.mprog.getLsbD 30 = true ∧
    mcr.AtWord (.mst .f32 true 8 7 0 1 0 0 15) ∧
    mcr.Canonical ∧
    mcr.wg.place = .resident ∧
    mcr.wg.devBar mcr.ln.desc (mcr.ln.desc.mbbase + 16 * 15) = none ∧
    Barrier.Takes (mcr.wg.softBar (mcr.ln.desc.mbbase + 16 * 15)) mcr.ln.ticket 1 (17 * 1 * 4) := by
  and_intros <;> first | decide +kernel | exact matrixReady_of (by decide +kernel) | exact ok_of (by decide +kernel) | exact error_of (by decide +kernel) | (constructor <;> decide +kernel) | (unfold Barrier.Takes; decide +kernel)

/-- The last row of the store, for a store without a barrier. -/
theorem wit_WordsComplete :
    (Instr.tmap 7 2 5).WellFormed = true ∧
    vm.ScalarReady false [2, 2 + 1, 5] ∧
    vm.ScalarReady false [] ∧
    sc.Focused ∧
    sc.scalarGate true true [] = true ∧
    sc.g.holds = false ∧
    sc.g.faults = [] ∧
    sc.g.saved = none ∧
    ¬ (sc.wg.seq.run ∧ sc.wg.seq.flt ∧ sc.wg.seq.owner = sc.g.gid) ∧
    mlast.MatrixReady ∧
    mlast.mstOf .f32 false 8 7 0 1 0 0 0 = .ok ⟨.f32, ⟨false, 0, 0, 4⟩, ⟨17, 1, 1, 32, 16, 0⟩, 0, none⟩ ∧
    mlast.wordJob = some (mj .running) ∧
    mlast.AtWord wMst ∧
    progRow mlast.wg.seq.mprog = 16 ∧
    mlast.wg.seq.mprog.getLsbD 30 = false ∧
    mlast.rowMeets ((⟨.f32, ⟨false, 0, 0, 4⟩, ⟨17, 1, 1, 32, 16, 0⟩, 0, none⟩ : MstOp).row 16) = none := by
  and_intros <;> first | decide +kernel | exact ready_of (by decide +kernel) | exact matrixReady_of (by decide +kernel) | exact ok_of (by decide +kernel) | (constructor <;> decide +kernel)

/-- Barrier 15 of the sequencer at 0x9000, of the launch's ticket or another, with one arrival expected. -/
def mb (ticket : BitVec 21) (phase : BitVec 16) : State :=
  inL (inW mx fun w => w.setBar 0x90F0 ⟨ticket, 2, 0, 0, 0, 1, phase⟩) fun l => { l with desc := { l.desc with mbbase := 0x9000 } }

/-- A foreign ticket; phase 1 for a wait of 1; phase 0 for it; an arrival. -/
theorem wit_MatrixBarriers :
    (mb 1 1).MatrixReady ∧
    (mb 1 1).ln.desc.mbbase + 16 * (15 : BitVec 4).toNat = 0x90F0 ∧
    ((mb 2 1).wg.softBar 0x90F0).ticket ≠ (mb 2 1).ln.ticket ∧
    ((mb 1 1).wg.softBar 0x90F0).ticket = (mb 1 1).ln.ticket ∧
    (((mb 1 1).wg.softBar 0x90F0).phase - (((mb 1 1).mreg 0).setWidth 16 + 1)).toNat < 0x8000 ∧
    0x8000 ≤ (((mb 1 0).wg.softBar 0x90F0).phase - (((mb 1 0).mreg 0).setWidth 16 + 1)).toNat ∧
    (mb 1 0).Canonical ∧
    (mb 1 0).wg.place = .resident ∧
    (mb 1 0).wg.devBar (mb 1 0).ln.desc 0x90F0 = none ∧
    Barrier.Takes ((mb 1 0).wg.softBar 0x90F0) (mb 1 0).ln.ticket 1 0 := by
  and_intros <;> first | decide +kernel | exact matrixReady_of (by decide +kernel) | (constructor <;> decide +kernel) | (unfold Barrier.Takes; decide +kernel)

/-- Targets: the last word and one beyond; a count of 1 at the last word but one and at the last; a count of 2. -/
theorem wit_MatrixSteering :
    mm.matrixLive = true ∧
    (0 ≤ (mm.wg.seq.mpc + (1 : BitVec 16).toInt : Int) ∧ (mm.wg.seq.mpc + (1 : BitVec 16).toInt : Int) < mm.ln.desc.mlen) ∧
    ¬ (0 ≤ (mm.wg.seq.mpc + (2 : BitVec 16).toInt : Int) ∧ (mm.wg.seq.mpc + (2 : BitVec 16).toInt : Int) < mm.ln.desc.mlen) ∧
    (mm.mreg 0).toNat ≤ 1 ∧
    (0 ≤ (mm.wg.seq.mpc + 1 : Int) ∧ (mm.wg.seq.mpc + 1 : Int) < mm.ln.desc.mlen) ∧
    ¬ ((inW mm fun w => { w with seq := { w.seq with mpc := 7 } }).wg.seq.mpc + 1 < mm.ln.desc.mlen) ∧
    1 < (mm.mreg 2).toNat := by decide +kernel

/-- M8 to M11: a record in the second KiB; record 0 is valid in the first, or in the same. -/
def mr (off : Nat) : State :=
  inW mx fun w => { w with seq := { w.seq with
    m := w.seq.m.set 9 (BitVec.ofNat 64 (2 ^ 56)) |>.set 10 (BitVec.ofNat 64 (2 ^ 14 + 3 * 2 ^ 20 + 1))
    recs := w.seq.recs.set 0 (BitVec.ofNat 256 (2 ^ 142 + 3 * 2 ^ 148 + 2 ^ 128 + off * 2 ^ 120)) } }

/-- The last record; one beyond; a record without length; a record that meets record 0. -/
theorem wit_ReservationRecords :
    (Instr.mres 8 1).WellFormed = true ∧
    (mr 0).MatrixReady ∧
    (1 : BitVec 4).toNat < (mr 0).ln.desc.recn ∧
    (mr 0).ln.desc.recn ≤ (2 : BitVec 4).toNat ∧
    recordOk ((mr 0).mreg 11 ++ (mr 0).mreg 10 ++ (mr 0).mreg 9 ++ (mr 0).mreg 8).toNat (mr 0).ln.desc.obkib = true ∧
    recordOk ((mr 0).mreg 3 ++ (mr 0).mreg 2 ++ (mr 0).mreg 1 ++ (mr 0).mreg 0).toNat (mr 0).ln.desc.obkib = false ∧
    ¬ (∃ k : Fin 16, k.val ≠ 1 ∧ (vget (mr 0).wg.seq.recs k.val 0).getLsbD 142 = true ∧ recordsMeet ((mr 0).mreg 11 ++ (mr 0).mreg 10 ++ (mr 0).mreg 9 ++ (mr 0).mreg 8).toNat (vget (mr 0).wg.seq.recs k.val 0).toNat = true) ∧
    (∃ k : Fin 16, k.val ≠ 1 ∧ (vget (mr 1).wg.seq.recs k.val 0).getLsbD 142 = true ∧ recordsMeet ((mr 1).mreg 11 ++ (mr 1).mreg 10 ++ (mr 1).mreg 9 ++ (mr 1).mreg 8).toNat (vget (mr 1).wg.seq.recs k.val 0).toNat = true) := by
  and_intros <;> first | decide +kernel | exact matrixReady_of (by decide +kernel)


/-! ## Witnesses: steps of a core, the porters, the dispenser -/

/-- Group 0 waits for 16 registers; group 1, younger, holds as many beyond a floor of 0, in a pool that is else reserved. -/
def held : Vector VReg 128 := Vector.replicate 128 ⟨Lanes.zero, 1, 0, some 0, false⟩
def fg (free : Bool) : State :=
  { inL (inG sc fun g => { g with want := 16 }) (fun l => { l with desc := { l.desc with floor := 0, ngroups := 2, xlen := #v[if free then 0 else 488, 512, 512, 512] } }) with
    groups := [{ sc.g with gid := 1, age := 1, v := held }] }

/-- A flight of two lanes for two registers, counted in F11. -/
def ff : State :=
  inG sc fun g => { g with flights := [⟨1, some 126, 2, 3, 3, 0, [Lanes.zero, Lanes.zero], some 11, none⟩], f := vset g.f 11 1 }

/-- A queued unit; one lane of two, and both; free float; a younger holder; a spilled group. -/
theorem wit_CoreSteps :
    su.live = true ∧
    su.g.laneStop = false ∧
    su.g.run = none ∧
    su.g.queue ≠ [] ∧
    ff.g.flights[0]? = some ⟨1, some 126, 2, 3, 3, 0, [Lanes.zero, Lanes.zero], some 11, none⟩ ∧
    (3 : Word) &&& 3 &&& 1 ≠ 0 ∧
    126 + 1 < 128 ∧
    (11 : BitVec 4).toNat < 12 ∧
    (3 : Word) &&& ~~~(3 &&& 3) = 0 ∧
    (3 : Word) &&& ~~~(3 &&& 1) ≠ 0 ∧
    (fg true).Focused ∧
    ((fg true).g, (fg true).descOf (fg true).wg) ∈ (fg true).groupsOn (fg true).core.id ∧
    0 < (fg true).g.want ∧
    (fg true).g.want ≤ (fg true).floatFree (fg true).core.id ∧
    (∀ p ∈ (fg true).groupsOn (fg true).core.id, 0 < p.1.want → p.1 = (fg true).g ∨ older (fg true).g p.1 = true) ∧
    (fg false).floatFree (fg false).core.id < (fg false).g.want ∧
    ((fg false).groupsOn (fg false).core.id).find? (fun p => p.1.wgId == 1 && p.1.gid == 1) = some ({ sc.g with gid := 1, age := 1, v := held }, (fg false).descOf (fg false).wg) ∧
    older (fg false).g { sc.g with gid := 1, age := 1, v := held } = true ∧
    0 < ({ sc.g with gid := 1, age := 1, v := held } : Group).floatHeld 0 ∧
    ({ sc.g with gid := 1, age := 1, v := held } : Group).canSpill 0 = true ∧
    (inG sc fun g => { g with spillOut := true, granted := 1, v := vset g.v 3 ⟨Lanes.zero, 1, 0, none, true⟩ }).g.spillOut = true ∧
    (inG sc fun g => { g with spillOut := true, granted := 1, v := vset g.v 3 ⟨Lanes.zero, 1, 0, none, true⟩ }).g.spilled ≤ 1 := by
  and_intros <;> first | decide +kernel | (constructor <;> decide +kernel)

/-- A launch with one run of 4,080 registers waits; a register of the group stands in the middle of the pool. -/
def cp : State :=
  { inG sc fun g => { g with v := vset g.v 0 ⟨Lanes.zero, 1, 0, some 2048, false⟩ } with
    launches := [{ sc.ln with lid := 2, st := .waiting, desc := { sc.ln.desc with floor := 0, xlen := #v[4056, 0, 0, 0] } }] }

/-- A run that fits once the register has moved. -/
theorem wit_CompactionMovesRegisters :
    cp.Focused ∧
    (cp.allGroups.map fun g => (g.wgId, g.gid)).Nodup ∧
    (cp.findLaunch 2).isSome = true ∧
    ((cp.findLaunch 2).any fun l => l.st == .waiting && decide ((cp.physUsed cp.core.id).length + l.desc.reserve ≤ Config.pool) && (placeRuns (cp.physUsed cp.core.id) l.desc.runLens).isNone && (placeRuns (cp.runRegs cp.core.id) l.desc.runLens).isSome) = true ∧
    cp.g.st ≠ .ended ∧
    cp.wg.place = .resident := by
  and_intros <;> first | decide +kernel | (constructor <;> decide +kernel)

/-- A request of one lane at an address of frame 5, or of the absent frame 6. -/
def pq (va : BitVec 56) (op : PorterOp) (f : Option Nat) : PorterReq := ⟨0, 7, 1, 1, 0, 0, op, [⟨31, va, 1, 0, .plain⟩], f, []⟩
def pp (va : BitVec 56) (op : PorterOp) (f : Option Nat) : State :=
  { inG vm (fun g => { g with flights := [⟨1, some 0, 1, 1, 0, 0, [Lanes.zero], none, none⟩] }) with porters := [pq va op f] }

/-- A merge of frame 5 onto itself: its source's request in hall 1, and the lane that waits in hall 0. -/
def px : PorterReq := ⟨1, 7, 1, 1, 0, 0, .xmerge, [⟨31, 0x8000, 0, 0x4000, .read⟩], none, []⟩
def pw (m : MergePart) : PorterReq := ⟨0, 7, 1, 1, 0, 0, .xmerge, [⟨31, 0x8000, 0, 0x4000, m⟩], none, []⟩
def pm : State := { vm with porters := [px, pw .await] }

/-- An `ATOM.ADD` for a flight; a reduction at an unmapped address; both sides of a merge. -/
theorem wit_PorterPerforms :
    (pp 0xFFFC (.atom 0) (some 1)).Canonical ∧
    (pp 0xFFFC (.atom 0) (some 1)).porters.find? (fun r => r.hall == 0) = some (pq 0xFFFC (.atom 0) (some 1)) ∧
    (pp 0xFFFC (.atom 0) (some 1)).findLaunch 1 = some (pp 0xFFFC (.atom 0) (some 1)).ln ∧
    (pp 0xFFFC (.atom 0) (some 1)).porterReach (pp 0xFFFC (.atom 0) (some 1)).ln (pq 0xFFFC (.atom 0) (some 1)) ⟨31, 0xFFFC, 1, 0, .plain⟩ = .ok 0x5FFFC ∧
    (pp 0x20000 (.red 0) none).porterReach (pp 0x20000 (.red 0) none).ln (pq 0x20000 (.red 0) none) ⟨31, 0x20000, 1, 0, .plain⟩ = .fault 0x10 ∧
    (0x10 : BitVec 8) ≠ 0x14 ∧
    (pp 0x20000 (.red 0) none).Focused ∧
    (pp 0x20000 (.red 0) none).g.st ≠ .ended ∧
    (pq 0x20000 (.red 0) none).wgId = (pp 0x20000 (.red 0) none).wg.id ∧
    pm.Canonical ∧
    pm.porters.find? (fun r => r.hall == 1) = some px ∧
    pm.findLaunch 1 = some pm.ln ∧
    pm.porterReach pm.ln px ⟨31, 0x8000, 0, 0x4000, .read⟩ = .ok 0x54000 ∧
    pm.porters.find? (fun r => r.hall == 0) = some (pw .await) ∧
    vm.porterReach vm.ln (pw (.got 5)) ⟨31, 0x8000, 0, 0x4000, .got 5⟩ = .ok 0x58000 := by
  and_intros <;> first | decide +kernel | exact ok_of (by decide +kernel) | (constructor <;> decide +kernel)

/-- A page grid whose list at address 0 names page 3 of namespace 0, whose pages are `n`. -/
def pg (n : Nat) : State :=
  let s := vmOn (inL sc fun l => { l with desc := { l.desc with pageGrid := true, parkrec := 1, listbase := 0, cobase := 0 } })
  { s with
    mem := s.mem.writeLE 0x50000 4 3
    dev := { s.dev with vault := [(0, 5)] }
    nss := s.nss.set 0 { Namespace.none with valid := true, pages := n, written := [(3, some 5)] } }
/-- Slot 7 in a state. -/
def ps (f : Slot → Slot) : State := inW (pg 4) fun w => w.modSlot 7 f

/-- An index; an entry of the last page, and one beyond. -/
theorem wit_EntryAssignment :
    sc.Focused ∧
    sc.ln.st = .running ∧
    sc.ln.aborted = false ∧
    sc.ln.deadlock = false ∧
    sc.groupsLeft 1 = true ∧
    sc.ln.next < sc.ln.desc.count ∧
    sc.taker sc.ln (sc.gang sc.ln.lid) = some 0 ∧
    (sc.gang sc.ln.lid)[0]? = some sc.wg ∧
    sc.ln.desc.pageGrid = false ∧
    (pg 4).Focused ∧
    (pg 4).groupsLeft 1 = true ∧
    (pg 4).ln.next < (pg 4).ln.desc.count ∧
    (pg 4).taker (pg 4).ln ((pg 4).gang (pg 4).ln.lid) = some 0 ∧
    ((pg 4).gang (pg 4).ln.lid)[0]? = some (pg 4).wg ∧
    (pg 4).ln.desc.pageGrid = true ∧
    (pg 4).listEntry (pg 4).ln (pg 4).ln.next = some 3 ∧
    (pg 3).listEntry (pg 3).ln (pg 3).ln.next = none ∧
    (pg 3).taker (pg 3).ln ((pg 3).gang (pg 3).ln.lid) = some 0 := by
  and_intros <;> first | decide +kernel | (constructor <;> decide +kernel)

/-- The landing of a page in slot 7, and the slot that it fills. -/
def lj (preds : List Nat) : Job :=
  { Job.fresh 1 1 1 16 0xFFFFFFFF with kind := landKind, param := 7, writes := slotRange 1 7, preds := preds }
def fl (f : Slot → Slot) (preds : List Nat) : State := { ps f with jobs := [lj preds] }

/-- A job before the landing; level 8; the soft decode; a page never written; a page whose key is gone. -/
theorem wit_FlashSense :
    (7 < 8) ∧
    ((fl (fun y => { y with st := .sensing, lpn := 3, level := 8 }) []).wg.slot 7).st = .sensing ∧
    ((fl (fun y => { y with st := .sensing, lpn := 3, level := 8 }) []).wg.slot 7).sensed = false ∧
    (fl (fun y => { y with st := .sensing, lpn := 3, level := 8 }) []).slotJob 7 ((fl (fun y => { y with st := .sensing, lpn := 3, level := 8 }) []).wg.slot 7) = some (lj []) ∧
    (fl (fun y => { y with st := .sensing, lpn := 3, level := 8 }) [4]).slotJob 7 ((fl (fun y => { y with st := .sensing, lpn := 3, level := 8 }) [4]).wg.slot 7) = some (lj [4]) ∧
    (lj []).preds = [] ∧
    (lj [4]).preds ≠ [] ∧
    (fl (fun y => { y with st := .sensing, lpn := 3, level := 8 }) []).pageWritten (fl (fun y => { y with st := .sensing, lpn := 3, level := 8 }) []).ln.desc.nsid ((fl (fun y => { y with st := .sensing, lpn := 3, level := 8 }) []).wg.slot 7).lpn = true ∧
    (fl (fun y => { y with st := .sensing, lpn := 3, level := 8 }) []).pageKeyed (fl (fun y => { y with st := .sensing, lpn := 3, level := 8 }) []).ln.desc.nsid 3 = true ∧
    ((fl (fun y => { y with st := .sensing, lpn := 3, level := 8 }) []).wg.slot 7).level ≤ 8 ∧
    ((fl (fun y => { y with st := .sensing, lpn := 3, level := 9 }) []).wg.slot 7).level = 9 ∧
    (fl (fun y => { y with st := .sensing, lpn := 2 }) []).slotJob 7 ((fl (fun y => { y with st := .sensing, lpn := 2 }) []).wg.slot 7) = some (lj []) ∧
    (fl (fun y => { y with st := .sensing, lpn := 2 }) []).pageWritten 0 2 = false ∧
    ({ fl (fun y => { y with st := .sensing, lpn := 3 }) [] with dev := { (pg 4).dev with vault := [] } } : State).pageWritten 0 3 = true ∧
    ({ fl (fun y => { y with st := .sensing, lpn := 3 }) [] with dev := { (pg 4).dev with vault := [] } } : State).pageKeyed 0 3 = false := by
  and_intros <;> decide +kernel

/-- A block parked with its slot copied out, or waiting for a slot. -/
def pk (slot : Option Nat) (copied : Bool) : Parked :=
  ⟨Vector.replicate 48 0, Vector.replicate 8 0, Vector.replicate 8 TReg.zero, Vector.replicate 8 Lanes.zero,
    Vector.replicate 128 VReg.unmapped, 0, none, 1, 3, 0, 0, slot, copied, false, if copied then some 0 else none, none⟩
def co (slot : Option Nat) (copied : Bool) : State :=
  { inW (ps fun y => { y with st := if copied then .free else .copiedOut }) fun w => { w with parked := [some (pk slot copied)] } with
    jobs := if copied then [] else [{ Job.fresh 1 1 1 0 1 with kind := copyOutKind, reads := slotRange 1 7 }] }

/-- A page that lands, or a block that does again by its job. -/
def la1 (n : BitVec 32) : State := fl (fun y => { y with st := .landing, lpn := 3, bar := { y.bar with landed := n } }) []
def rj : Job := { Job.fresh 1 1 1 0 1 with kind := relandKind, writes := slotRange 1 7 }
def la2 (n : BitVec 32) : State :=
  { inW (ps fun y => { y with st := .landing, reland := true, park := some 0, bar := { y.bar with landed := n } }) fun w =>
      { w with parked := [some { pk (some 7) true with offer := none }] } with
    jobs := [rj] }

/-- The last byte and an earlier one of a page; of a re-landing; the first byte after the sense. -/
theorem wit_LandingCredit :
    (la1 16383).Canonical ∧
    (7 < 8) ∧
    1 = min 2 (16384 - ((la1 16383).wg.slot 7).bar.landed.toNat) ∧
    1 = min 1 (16384 - ((la1 16382).wg.slot 7).bar.landed.toNat) ∧
    (0 < 1) ∧
    (la1 16383).slotJob 7 ((la1 16383).wg.slot 7) = some (lj []) ∧
    (la1 16383).mayLand ((la1 16383).wg.slot 7) (lj []) = true ∧
    (la1 16382).slotJob 7 ((la1 16382).wg.slot 7) = some (lj []) ∧
    (la1 16382).mayLand ((la1 16382).wg.slot 7) (lj []) = true ∧
    0 = ((((la1 16383).wg.slot 7).park.map fun r => (la1 16383).wg.coAddr (la1 16383).ln.desc r).getD 0) ∧
    (lj []).lid = (la1 16383).ln.lid ∧
    (la1 16383).Focused ∧
    (∀ w ∈ (la1 16383).wgs, w.id ≠ (la1 16383).wg.id) ∧
    (la1 16383).ln.deadlock = false ∧
    (la1 16383).ln.next < (la1 16383).ln.desc.count ∧
    (fl (fun y => { y with st := .sensing, sensed := true }) []).mayLand ((fl (fun y => { y with st := .sensing, sensed := true }) []).wg.slot 7) (lj []) = true ∧
    (la2 16383).Canonical ∧
    (la2 16383).slotJob 7 ((la2 16383).wg.slot 7) = some rj ∧
    (la2 16383).mayLand ((la2 16383).wg.slot 7) rj = true ∧
    (la2 16382).mayLand ((la2 16382).wg.slot 7) rj = true ∧
    ((la2 16383).wg.slot 7).reland = true ∧
    ((la2 16383).wg.slot 7).park.map (fun r => (la2 16383).wg.coAddr (la2 16383).ln.desc r) = some 0 ∧
    (la2 16383).coBad (la2 16383).ln 0 = false ∧
    rj.lid = (la2 16383).ln.lid ∧
    rj.st = .waiting ∧
    (la2 16383).Focused ∧
    (∀ w ∈ (la2 16383).wgs, w.id ≠ (la2 16383).wg.id) ∧
    (la2 16383).ln.deadlock = false ∧
    (la2 16383).ln.next < (la2 16383).ln.desc.count := by
  and_intros <;> first | decide +kernel | (constructor <;> decide +kernel)

/-- A slot to copy out; a block that takes slot 0. -/
theorem wit_CopyOutAndBack :
    (co (some 7) false).Canonical ∧
    (co (some 7) false).Focused ∧
    (co (some 7) false).wg.parked[0]? = some (some (pk (some 7) false)) ∧
    ((co (some 7) false).ownJob 1 copyOutKind 0).any (fun j => j.lid == 1 && j.reads == slotRange 1 7 && j.preds.isEmpty) = true ∧
    (co (some 7) false).jobHeld 1 = false ∧
    ((co (some 7) false).wg.slot 7).st = .copiedOut ∧
    ((co (some 7) false).wg.slot 7).stalled = false ∧
    (co (some 7) false).areaAddr (co (some 7) false).ln ((co (some 7) false).wg.coAddr (co (some 7) false).ln.desc 0) = .ok 0x50000 ∧
    (co (some 7) false).ln.deadlock = false ∧
    (co (some 7) false).ln.next < (co (some 7) false).ln.desc.count ∧
    (co none true).Canonical ∧
    (co none true).Focused ∧
    (co none true).wg.parked[0]? = some (some (pk none true)) ∧
    (pk none true).awaitsSlot = true ∧
    (co none true).wg.freeSlot = some 0 ∧
    (co none true).wg.active = true ∧
    (co none true).ln.st = .running ∧
    (co none true).groupsLeft 1 = true ∧
    (∀ q ∈ (co none true).wg.parkedBlocks, q.awaitsSlot = true → (pk none true).offer.getD 0 ≤ q.offer.getD 0) := by
  and_intros <;> first | decide +kernel | exact ok_of (by decide +kernel) | (constructor <;> decide +kernel)

/-- A launch whose group has ended. -/
theorem wit_LaunchEnds :
    (inG sc fun g => { g with st := .ended }).ln.lid ≠ 0 ∧
    (inG sc fun g => { g with st := .ended }).ln.st = .running ∧
    (inG sc fun g => { g with st := .ended }).launchOver 1 = true ∧
    sc.ln.mute = false := by decide +kernel

/-! ## Witnesses: jobs -/

/-- A job of a kind with regions: reads of frame 5, a write region of frame 5 at 0x8000 or of scratchpad. -/
def jr (k : BitVec 2) (n : Nat) (a : BitVec 56) : Region := ⟨k, false, 0, n, a⟩
def job (kind : BitVec 8) (param : Word) (rs : List Region) (reads : List (Nat × Nat × Nat)) (n : Nat) : Job :=
  { jbJob with id := 1, lid := 1, wgId := 1, gid := 0, kind := kind, param := param, cred := false, regions := rs
               stat := 0xFFFFFFFF, preds := [], reads := reads, writes := [(memSpace, 0x58000, n)], st := .running, pos := 0, out := [] }
def jo (j : Job) : State := { vm with jobs := [j] }
def none4 : List Region := List.replicate 4 (jr 0 0 0)
def jCopy : Job := job 0x01 0 ([jr 1 8 0] ++ List.replicate 3 (jr 0 0 0) ++ [jr 1 8 0x8000, jr 0 0 0]) [(memSpace, 0x50000, 8)] 8
def jFill : Job := job 0x03 0 (none4 ++ [jr 1 8 0x8000, jr 0 0 0]) [] 8
def jGath : Job := job 0x02 2 ([jr 1 4 0, jr 1 4 0x100] ++ List.replicate 2 (jr 0 0 0) ++ [jr 1 4 0x8000, jr 0 0 0])
  [(memSpace, 0x50000, 4), (memSpace, 0x50100, 4)] 4

/-- A waiting job; a step of each kind. -/
theorem wit_JobStepsCopy :
    (jo jCopy).Canonical ∧
    ({ jo { jCopy with st := .waiting } with jobs := [{ jCopy with st := .waiting }] } : State).findJob 1 = some { jCopy with st := .waiting } ∧
    (jo jCopy).findLaunch 1 = some (jo jCopy).ln ∧
    (jo jCopy).jobHeld 1 = false ∧
    jCopy.ofCard = true ∧
    jCopy.preds = [] ∧
    (jo jCopy).absentIn (jCopy.reads ++ jCopy.writes) = [] ∧
    (jo jCopy).JobMayStep jCopy (jo jCopy).ln 0x01 8 [(0, jCopy.pos, 8)] ∧
    8 = min 4096 (jCopy.total - jCopy.pos) ∧
    (jo jFill).JobMayStep jFill (jo jFill).ln 0x03 8 [] ∧
    8 = min 4096 (jFill.total - jFill.pos) ∧
    (jo jGath).JobMayStep jGath (jo jGath).ln 0x02 4 ((0, 4 * (jGath.pos / jGath.elem), 4 * (4 / jGath.elem)) :: (jGath.elems 4).filterMap fun i => (jGath.gathered i).map fun x => (1, x, jGath.elem)) ∧
    4 = min 4096 (jGath.total - jGath.pos) := by
  and_intros <;> first | decide +kernel | (constructor <;> decide +kernel)

def jRead : Job := job 0x04 0 ([⟨3, false, 0, 0x4000, 3⟩] ++ List.replicate 3 (jr 0 0 0) ++ [jr 1 0x4000 0x8000, jr 0 0 0]) [] 0x4000
def jRead2 : Job := { jRead with startFlash := [(3, [])] }
def jWrite : Job := { job 0x05 0 ([jr 1 0x4000 0] ++ List.replicate 3 (jr 0 0 0) ++ [⟨3, false, 0, 0x4000, 3⟩, jr 0 0 0]) [(memSpace, 0x50000, 0x4000)] 0 with writes := [] }
def jSend : Job := { job 0x07 0 ([jr 1 8 0] ++ List.replicate 3 (jr 0 0 0) ++ [⟨1, true, 0, 8, 0⟩, jr 0 0 0]) [(memSpace, 0x50000, 8)] 8 with writes := [(peerSpace 0, 0, 8)] }
def jFetch : Job := { job 0x08 0 ([⟨1, true, 0, 8, 0⟩] ++ List.replicate 3 (jr 0 0 0) ++ [jr 1 8 0x8000, jr 0 0 0]) [] 8 with out := List.replicate 8 1 }

/-- A page read, a page written, a send and a fetch. -/
theorem wit_JobStepsFlash :
    (jo jRead).Canonical ∧
    (jo jRead).JobMayStep jRead (jo jRead).ln 0x04 0x4000 [] ∧
    0x4000 = min 0x4000 (jRead.total - jRead.pos) ∧
    3 = (jRead.region 0).addr.toNat % 2 ^ 32 + jRead.pos / 0x4000 ∧
    (jo jWrite).JobMayStep jWrite (jo jWrite).ln 0x05 0x4000 [(0, jWrite.pos, 0x4000)] ∧
    (jWrite.region 4).kind = 3 ∧
    0x4000 = min 0x4000 (jWrite.total - jWrite.pos) ∧
    (jo jSend).JobMayStep jSend (jo jSend).ln 0x07 8 [(0, jSend.pos, 8)] ∧
    (jo jFetch).JobMayStep jFetch (jo jFetch).ln 0x08 8 [] ∧
    jFetch.total ≤ jFetch.out.length ∧
    jRead.startFlash.find? (fun x => x.1 == 3) = none ∧
    (jo jRead2).JobMayStep jRead2 (jo jRead2).ln 0x04 0x4000 [] ∧
    jRead2.startFlash.find? (fun x => x.1 == 3) = some (3, []) ∧
    (jo jRead2).pageKeyed 0 3 = true := by
  and_intros <;> first | decide +kernel | (constructor <;> decide +kernel)

/-- A deciphering of 16 bytes with the key of slot 0; the function of the launch in RUN or not. -/
def jCi : Job := job 0x06 0 ([jr 1 16 0, jr 1 16 0x100] ++ List.replicate 2 (jr 0 0 0) ++ [jr 1 16 0x8000, jr 0 0 0])
  [(memSpace, 0x50000, 16), (memSpace, 0x50100, 16)] 16
def jc (run : Bool) : State :=
  { jo jCi with
    ctxs := vm.ctxs.set 0 { vm.ctx 0 with vault := [⟨0, 0, .cipherIn, false, 0⟩] }
    funcs := vm.funcs.set 0 { fOn with tdisp := if run then .run else .locked } }

/-- A function that is not in RUN; a tag that fails; a tag that does not. -/
theorem wit_CipherIn :
    jCi.pos = 0 ∧
    (jc true).JobMayStep jCi (jc true).ln 0x06 jCi.total [(0, 0, jCi.total), (1, 0, 16)] ∧
    (jc false).JobMayStep jCi (jc false).ln 0x06 jCi.total [(0, 0, jCi.total), (1, 0, 16)] ∧
    (jc false).vfRun (jc false).ln.func = false ∧
    (jc true).vfRun (jc true).ln.func = true ∧
    (jc true).ln.cmd.tenant < 16 ∧
    (((jc true).ctx (jc true).ln.cmd.tenant).vault.find? fun k => k.slot == bitsN jCi.param.toNat 15 8).map (·.key) = some 0 ∧
    gcmDecrypt 0 (beBytes 12 jCi.iv.toNat) (jCi.read 0 0 jCi.total) (jCi.read 1 0 16) = none ∧
    (gcmDecrypt 0 (beBytes 12 jCi.iv.toNat) [] (gcmTag (roundKeys (keyBytes 0)) (beBytes 12 jCi.iv.toNat) [])).isSome = true := by
  and_intros <;> first | decide +kernel | (constructor <;> decide +kernel)

/-- A job that has made 4 bytes for frame 5, and one that credits the barrier at 0x8000. -/
def jd : Job := { jFill with st := .stepped, out := [1, 2, 3, 4], writes := [(memSpace, 0x58000, 8)], stat := 0x100 }
def je : Job := { jFill with st := .stepped, out := [], cred := true, credbar := 0x8000 }
def jw (j : Job) : State := inW (jo j) fun w => w.setBar 0x8000 ⟨1, 2, 0, 8, 0, 1, 0⟩

/-- With the workgroup switched out. -/
def jo' : State := inW (jw je) fun w => { w with place := .saved }

/-- Bytes and a status word; a credit of 8 bytes. -/
theorem wit_JobCompletes :
    (jw jd).Canonical ∧
    (jw jd).findJob 1 = some jd ∧
    (jw jd).findLaunch 1 = some (jw jd).ln ∧
    jd.st = .stepped ∧
    jd.ofCard = true ∧
    (jw jd).ln.deadlock = false ∧
    (jw jd).ln.next < (jw jd).ln.desc.count ∧
    jd.cred = false ∧
    jd.writePieces 0 jd.out.length = [(0x8000, memSpace, 0x58000, jd.out.length)] ∧
    jd.stat ≠ 0xFFFFFFFF ∧
    (jw jd).wg.id ≠ 0 ∧
    jd.wgId = (jw jd).wg.id ∧
    (∀ i, i < 4 → (jw jd).wg.storable (jw jd).ln.desc 1 (jd.stat.toNat % 0x80000 + i) = true) ∧
    je.out = [] ∧
    je.ofCard = true ∧
    (jw je).findJob 1 = some je ∧
    je.cred = true ∧
    je.stat = 0xFFFFFFFF ∧
    isRemote je.credbar = false ∧
    (jw je).wg.place = .resident ∧
    (jw je).wg.devBar (jw je).ln.desc (je.credbar.toNat % 0x80000) = none ∧
    Barrier.Takes ((jw je).wg.softBar (je.credbar.toNat % 0x80000)) (jw je).ln.ticket 1 je.total ∧
    jo'.Canonical ∧
    jo'.findJob 1 = some je ∧
    jo'.findLaunch 1 = some jo'.ln ∧
    jo'.wg.place ≠ .resident ∧
    jo'.wg.devBar jo'.ln.desc (je.credbar.toNat % 0x80000) = none ∧
    Barrier.Takes (jo'.wg.softBar (je.credbar.toNat % 0x80000)) jo'.ln.ticket ((jo'.wg.logged (je.credbar.toNat % 0x80000)).arrivals + 1)
      ((jo'.wg.logged (je.credbar.toNat % 0x80000)).bytes + je.total) := by
  and_intros <;> first | decide +kernel | (constructor <;> decide +kernel) | (unfold Barrier.Takes; decide +kernel)

/-- Four bytes that device 1, tenant 2 sends to address 0 of tenant 0. -/
def tf : Transfer := ⟨9, 1, 2, true, 0, [1, 2, 3, 4], 4⟩
def tx : State := { vm with dev := { vm.dev with transfers := [tf], peers := [((1, 2), 0)] } }

/-- A send that is over, a fetch that begins, no links; bytes from a peer. -/
theorem wit_PeerTransfers :
    (jo { jSend with pos := 8 }).findJob 1 = some { jSend with pos := 8 } ∧
    ({ jSend with pos := 8 } : Job).pos = ({ jSend with pos := 8 } : Job).total ∧
    (jo jSend).dev.links ≠ 0 ∧
    jSend.st = .running ∧
    jSend.ofCard = true ∧
    jFetch.ofCard = true ∧
    (jo { jFetch with out := [] }).findJob 1 = some { jFetch with out := [] } ∧
    ({ vm.dev with links := 0 } : Dev).links = 0 ∧
    tx.Canonical ∧
    tx.findJob 9 = none ∧
    tx.dev.transfers.find? (fun y => y.id == 9) = some tf ∧
    tx.peerTenant tf.device tf.tenant = some 0 ∧
    tf.len = tf.data.length ∧
    0 < tf.len ∧
    frameRanges (fun va => tx.reachVa 0 0 va true) (frameFuel tf.len) tf.va.toNat tf.len = .ok [(memSpace, 0x50000, tf.len)] ∧
    tx.absentIn [(memSpace, 0x50000, tf.len)] = [] := by
  and_intros <;> first | decide +kernel | exact ok_of (by decide +kernel) | (constructor <;> decide +kernel)


/-! ## Witnesses: the tree, frames, time -/

/-- The inner record below the root. -/
theorem wit_RollupAddsDelta :
    tr.TreeIndexed ∧
    (⟨2, 1, 0, 1, 1, .inner, 0, 2, 2, 1⟩ : TreeRec) ∈ tr.tree ∧
    (⟨1, 0, 0, 0, 2, .inner, 0, 5, 2, 1⟩ : TreeRec) ∈ tr.tree ∧
    (1 : Word) = (⟨1, 0, 0, 0, 2, .inner, 0, 5, 2, 1⟩ : TreeRec).handle ∧
    (1 : Word) ≠ 0 ∧
    (1 : Nat) ≠ 2 ∧
    tr.deeperPending ⟨2, 1, 0, 1, 1, .inner, 0, 2, 2, 1⟩ = false ∧
    ({ tr with tree := tr.tree.map fun r => if r.depth = 2 then { r with count := r.sent + 1 } else r } : State).deeperPending ⟨2, 1, 0, 1, 1, .inner, 0, 2, 2, 1⟩ = true := by
  and_intros <;> first | decide +kernel | (constructor <;> decide +kernel)

/-- A settle outstanding on the barrier at 0x8000. -/
def tz : State := inW ts fun w => { w with settles := [⟨1, 0x8000, 0, 0⟩] }

/-- One settle. -/
theorem wit_SettleDrains :
    tz.Canonical ∧
    tz.TreeIndexed ∧
    tz.wg.settles = ⟨1, 0x8000, 0, 0⟩ :: [] ∧
    tz.wg.place = .resident ∧
    tz.wg.devBar tz.ln.desc ((0x8000 : Word).toNat % 0x80000) = none ∧
    Barrier.Takes (tz.wg.softBar ((0x8000 : Word).toNat % 0x80000)) tz.ln.ticket 1 0 ∧
    (∀ r ∈ tz.tree, r.depth ≤ 15) ∧
    (∀ r ∈ tz.tree, ∀ p ∈ tz.tree, r.kind ≠ .free → p.kind ≠ .free → r.parent ≠ 0 → r.parent = p.handle → p.depth < r.depth) := by
  and_intros <;> first | decide +kernel | (constructor <;> decide +kernel) | (unfold Barrier.Takes; decide +kernel)

/-- A residency request of the group; frame 5 is as given. -/
def rr (frames : List Nat) (bad : Bool) : ResReq := ⟨4, 1, 0, 1, 0, frames, bad, none, none⟩
def rs (frames : List Nat) (bad : Bool) (st : FrameSt) : State :=
  { vm with resreqs := [rr frames bad], fit := vm.fit.map fun e => if e.dfn = 5 then { e with st := st } else e }

/-- A bad range, a poisoned frame, a resident one, a missing one. -/
theorem wit_ResidencyCompletes :
    (rs [] true .resident).Focused ∧
    (rs [] true .resident).resreqs.find? (fun x => x.id == 4) = some (rr [] true) ∧
    (rr [] true).wgId = (rs [] true .resident).wg.id ∧
    (rr [] true).bad = true ∧
    (∃ e ∈ (rr [5] false).frames.filterMap (rs [5] false .poisoned).fitOf, e.st = .poisoned) ∧
    (∀ e ∈ (rr [5] false).frames.filterMap (rs [5] false .resident).fitOf, e.st ≠ .poisoned ∧ e.isUp = true) ∧
    (rr [6] false).frames.filterMap (rs [6] false .resident).fitOf = [{ frame 6 with st := .absent, tier := .backing }] ∧
    (rs [6] false .resident).freeIn .a = some 0 ∧
    ((rs [6] false .resident).usedIn .a).length < Config.tierAFrames := by
  and_intros <;> first | decide +kernel | (constructor <;> decide +kernel)

/-- Frames 8 (evicted, protected) and 9 (resident in tier B) of tenant 3, which does not run. -/
def fr8 : FitEntry := { frame 8 with st := .absent, tier := .backing, tenant := 3, prot := true, evicted := true }
def fr9 : FitEntry := { frame 9 with tier := .b, tenant := 3 }
def mg : State := { vm with fit := vm.fit ++ [fr8, fr9] }

/-- Up to frame 100 of tier A; down; out, of a tenant that runs and of one that does not; back, and with a failed tag. -/
theorem wit_FramesMove :
    mg.fitOf 9 = some fr9 ∧
    fr9.tier ≠ .c ∧
    fr9.st ≠ .poisoned ∧
    fr9.evicted = false ∧
    (100 : BitVec 48).toNat ∉ mg.usedIn .a ∧
    (100 : BitVec 48).toNat < Config.tierAFrames ∧
    fr9.tier ≠ .a ∧
    fr9.st = .resident ∧
    mg.tenantRuns fr9.tenant = false ∧
    mg.pinned fr9.tenant fr9.dfn = false ∧
    (inL vm fun l => { l with desc := { l.desc with pageGrid := true, parkrec := 1, cobase := 0 } }).pinned 0 5 = true ∧
    (100 : BitVec 48).toNat ∉ mg.usedIn .backing ∧
    mg.fitOf 5 = some (frame 5) ∧
    (frame 5).evicted = false ∧
    mg.tenantRuns 0 = true ∧
    mg.fitOf 8 = some fr8 ∧
    fr8.evicted = true ∧
    fr8.st = .absent ∧
    mg.freeIn .a = some 0 ∧
    fr8.prot = true ∧
    fr8.tenant < 16 ∧
    (∀ q ∈ mg.resreqs, fr8.dfn ∉ q.frames) := by decide +kernel

/-- Hall 0 is guaranteed to partition 0 and granted to tenant 0 in slice 0, to tenant 0 with borrower 1 in slice 3. -/
def gr (s : State) (e0 e3 : BitVec 16) : State :=
  { s with dev := { s.dev with guarHalls := [(0, 0)], marginHalls := [(1, 0)], grants := (s.dev.grants.set 0 e0).set 3 e3 } }

/-- Ready, at 1 ms of device time: a period is due, and slice 3 of the period that began then. -/
def tp (slice : Nat) (period : Nat) : State :=
  { gr sc 0 0 with dev := { (gr sc 0 0).dev with ready := true, time := 1000000, slice := slice, period := period } }

/-- Tenant 3, none of whose work is left. -/
def tsl : State := (tp 3 9).modCtx 3 fun c => { c with presence := .here }

/-- Nothing due; a period due, with a table marked and without, and none; slice 3, early and in time; an entry without V, a resident
primary, a borrower for an idle primary; a hall taken back. -/
theorem wit_TimeAndSlices :
    (gr sc 0 0).due = none ∧
    (tp 0 9).due ≠ none ∧
    (tp 0 9).dev.periodDue = true ∧
    (tp 0 9).dev.marked = false ∧
    ({ (tp 0 9).dev with marked := true } : Dev).periodDue = true ∧
    (tp 0 10).dev.time.toNat / 100000 ≤ (tp 0 10).dev.period ∧
    (tp 3 10).dev.time.toNat < 100000 * (tp 3 10).dev.period + 25000 * (tp 3 10).dev.slice ∧
    (tp 3 9).dev.slice < 4 ∧
    (tsl.dev.slice < 4 ∧ 100000 * tsl.dev.period + 25000 * tsl.dev.slice ≤ tsl.dev.time.toNat ∧ (tsl.ctx 3).presence = .here ∧
      (∀ w ∈ tsl.wgsOf 3, w.place ≠ .resident) ∧ (∀ k ∈ tsl.allCores, k.stopFor ≠ some 3) ∧ ((tsl.ctx 0).presence ≠ .here)) ∧
    (∃ w ∈ (tp 3 9).wgsOf 0, w.place = .resident) ∧
    100000 * (tp 3 9).dev.period + 25000 * (tp 3 9).dev.slice ≤ (tp 3 9).dev.time.toNat ∧
    ((gr sc 0 0).grantAt 0 0).v = false ∧
    ((gr sc 0x8000 0).grantAt 0 0).v = true ∧
    vget (gr sc 0x8000 0).dev.revoked 0 false = false ∧
    ((gr sc 0x8000 0).residentOn 0 0 || (gr sc 0x8000 0).placeableOn 0 0) = true ∧
    ((gr sc 0x8C00 0x8C00).grantAt 0 3).bv = true ∧
    ((gr sc 0x9400 0).grantAt 0 0).v = true ∧
    ((gr sc 0x9400 0).residentOn 0 2 || (gr sc 0x9400 0).placeableOn 0 2) = false ∧
    ((gr sc 0x9400 0).grantAt 0 0).borr = 0 ∧
    ((gr sc 0x9400 0).residentOn 0 0 || (gr sc 0x9400 0).placeableOn 0 0) = true := by decide +kernel

/-- Queue 5 of tenant 0 with a command at its head; a due packet for it with the template at address 0. -/
def cr : CmdRef := ⟨0, 5, 1, 1, 0, none⟩
def kc : Cmd := ⟨cr, 7, []⟩
def qx (en : Bool) : Queue := { Queue.fresh 0 5 0 with en := en, cmds := [kc] }
def dq (s : State) (en : Bool) : State := { s with queues := [qx en], dev := { s.dev with ready := true, pstate := .active } }
def pkt (per : BitVec 40) : Timer := ⟨2, 0, 0, 0x100, 0, per, 5, 0, 0⟩
def tm (en : Bool) (per : BitVec 40) : State := let s := dq vm en; { s with dev := { s.dev with timers := [pkt per], time := 5 } }

/-- A single and a periodic packet; a queue that is not enabled. -/
theorem wit_TimerReleases :
    (tm true 0).dev.timers.find? (fun y => y.tenant == 0 && y.num == 2) = some (pkt 0) ∧
    (pkt 0).time.toNat ≤ (tm true 0).dev.time.toNat ∧
    (((tm true 0).func 0).any fun f => f.run == .paused) = false ∧
    (tm true 0).dev.pstate ≠ .d3hot ∧
    (tm true 0).queueOf 0 5 = some (qx true) ∧
    (qx true).en = true ∧
    (match (tm true 0).span 0 0 96 false true with | .ok _ => true | _ => false) = true ∧
    ((pagesOf 0 96).any fun a => ((tm true 0).walk 0 a).any fun w => ((tm true 0).fitOf w.1).any fun e => e.owned) = false ∧
    (pkt 3).period ≠ 0 ∧
    (tm false 0).queueOf 0 5 = some (qx false) := by
  and_intros <;> first | decide +kernel | exact ok_of (by decide +kernel)

/-! ## Witnesses: switches and admission -/

/-- The gang of the group is on core 0, in hall 0, which tenant `t` runs. -/
def sw (t : Option Nat) : State :=
  let s := inL sc fun l => { l with cores := [0] }
  { s with dev := { s.dev with hallRun := vset s.dev.hallRun 0 t } }
/-- Asked to stop, its group stopped or not. -/
def sp (quiet : Bool) : State :=
  let s := inG (inW (sw none) fun w => { w with stop := true }) fun g => { g with st := if quiet then .stopped else .running, stop := true }
  { s with core := { s.core with stopFor := some 0 } }
/-- A launch of tenant 0 on one core, of one group, that waits. -/
def wl : Launch := { Launch.stage 9 with st := .waiting, cmd := cr, desc := { (Launch.stage 9).desc with gang := 1, slen := 8, count := 0 } }
/-- Hall 0 is a margin hall of partition 0, tenant 1 of partition 5 runs on it, and tenant 0 needs it. -/
def rv : State :=
  let s := inL (vmOn (sw (some 1))) fun l => { l with cmd := { cr with tenant := 1 } }
  { s with launches := [wl], ctxs := s.ctxs.set 1 { s.ctx 1 with valid := true, part := 5 }, dev := { s.dev with marginHalls := [(0, 0)] } }

/-- A hall not granted; a core whose groups have stopped; one that is forced; a hall taken back. -/
theorem wit_StopsAndHalts :
    (sw none).Focused ∧
    (sw none).ln.st = .running ∧
    (∃ c ∈ (sw none).ln.cores, hallOf c = 0) ∧
    (sw none).granted (sw none).ln = false ∧
    (sw none).wg.place = .resident ∧
    (sw none).wg.stop = false ∧
    (sw none).g.st = .running ∧
    (sw none).jobs = [] ∧
    (sp true).Focused ∧
    (sp true).core.stopFor.isSome = true ∧
    (sp true).core.halted = false ∧
    (∀ w ∈ (sp true).stopping (sp true).core.id, (sp true).wgQuiet w = true) ∧
    (sp false).Focused ∧
    (sp false).core.stopFor.isSome = true ∧
    (sp false).wg.place = .resident ∧
    (sp false).wg.stop = true ∧
    (sp false).g.st = .running ∧
    (sp false).ln.st = .running ∧
    (sp false).ln.aborted = false ∧
    (sp false).tenant < 16 ∧
    (∀ w ∈ (sp false).stopping (sp false).core.id, (sp false).wgQuiet w = false → w.lid = (sp false).ln.lid) ∧
    rv.Focused ∧
    rv.marginOf 0 = some 0 ∧
    vget rv.dev.hallRun 0 none = some 1 ∧
    (rv.ctx 1).part ≠ 0 ∧
    (rv.launchFor 0 fun l => rv.launchNeeds l 0).isSome = true ∧
    rv.ln.st = .running ∧
    (∃ c ∈ rv.ln.cores, hallOf c = 0) ∧
    rv.wg.place = .resident ∧
    rv.wg.stop = false ∧
    rv.g.st = .running := by
  and_intros <;> first | decide +kernel | (constructor <;> decide +kernel)

/-- Halted; in the shadow; saved; staged for the tenant that hall 0 runs. -/
def ih : State := { sp true with core := { (sp true).core with halted := true } }
def im (p : Place) (sh : Option Nat) (t : Option Nat) : State :=
  let s := inG (inW (sw t) fun w => { w with place := p, stop := true }) fun g => { g with st := .stopped, stop := true }
  { s with core := { s.core with shadow := sh }, dev := { s.dev with marginHalls := [(0, 0)] } }

/-- The work that was to stop has ended before the exchange; another image of the tenant is out. -/
def ie : State :=
  let s := inG (inW (sw none) fun w => { w with place := .saved }) fun g => { g with st := .stopped }
  { s with core := { s.core with stopFor := some 0, halted := true } }

/-- The same without a stop request. -/
def ix : State := ({ ie with core := { ie.core with stopFor := none } } : State).modCtx 0 fun c => { c with presence := .here }

/-- Each of the moves. -/
theorem wit_ImagesExchange :
    ih.Focused ∧
    ih.stopping ih.core.id = [ih.wg] ∧
    ih.granted ih.ln = false ∧
    ih.core.halted = true ∧
    ih.core.shadow = none ∧
    vget ih.dev.hallRun (hallOf ih.core.id) none = none ∧
    (im .shadow (some 0) none).Focused ∧
    (im .shadow (some 0) none).wg.coreId = (im .shadow (some 0) none).core.id ∧
    (im .shadow (some 0) none).wg.place = .shadow ∧
    (im .saved none none).wg.place = .saved ∧
    vget (im .saved none (some 0)).dev.hallRun 0 none = some (im .saved none (some 0)).tenant ∧
    (im .saved none (some 0)).Focused ∧
    (im .saved none none).nextTenant 0 ≠ some (im .saved none none).tenant ∧
    (im .saved none none).core.shadow = none ∧
    (im .shadow (some 0) (some 0)).Focused ∧
    (im .shadow (some 0) (some 0)).stopping 0 = [] ∧
    (im .shadow (some 0) (some 0)).core.stopFor = none ∧
    (im .shadow (some 0) (some 0)).imagesOf 0 (im .shadow (some 0) (some 0)).tenant = [(im .shadow (some 0) (some 0)).wg] ∧
    (im .shadow (some 0) (some 0)).granted (im .shadow (some 0) (some 0)).ln = true ∧
    (im .shadow (some 0) (some 0)).core.shadow = some (im .shadow (some 0) (some 0)).tenant ∧
    vget (im .shadow (some 0) (some 0)).dev.hallRun (hallOf 0) none = some (im .shadow (some 0) (some 0)).tenant ∧
    (im .shadow (some 0) (some 0)).g.st = .stopped ∧
    (im .saved none none).Focused ∧
    (im .saved none none).marginOf 0 = some 0 ∧
    vget ({ (im .saved none none).dev with revoked := vset (im .saved none none).dev.revoked 0 true } : Dev).revoked 0 false = true ∧
    vget (im .saved none none).dev.revoked 0 false = false ∧
    hallOf (im .saved none none).core.id = 0 ∧
    (∀ w ∈ (im .saved none none).allWgs, w.id ≠ 0 → hallOf w.coreId = 0 → w.place = .saved) ∧
    (∀ k ∈ (im .saved none none).allCores, hallOf k.id = 0 → k.shadow = none ∧ k.stopFor = none) ∧
    ie.Focused ∧
    ie.stopping ie.core.id = [] ∧
    (ie.core.stopFor = some 0 ∨ (ie.ctx 0).presence = .here ∧ ∀ h < 32, vget ie.dev.hallRun h none ≠ some 0) ∧
    ((ix.ctx 0).presence = .here ∧ ∀ h < 32, vget ix.dev.hallRun h none ≠ some 0) ∧
    ix.Focused ∧
    ix.stopping ix.core.id = [] ∧
    ix.core.halted = true ∧
    ix.tenantIn 0 = false ∧
    (∀ k ∈ ix.cores, k.stopFor ≠ some 0) ∧
    ie.core.halted = true ∧
    vget ie.dev.hallRun (hallOf ie.core.id) none = none ∧
    ie.tenantIn 0 = false ∧
    (∀ k ∈ ie.cores, k.stopFor ≠ some 0) ∧
    (({ rv with dev := { rv.dev with takenFor := vset rv.dev.takenFor 0 9 } } : State).launches.find? fun x => x.lid == 9 && x.st == .waiting) =
      some wl := by
  and_intros <;> first | decide +kernel | (constructor <;> decide +kernel)

/-- The waiting launch in the focus, with its hall granted; `n` cells, which need an area that is not mapped. -/
def ad (n : Nat) : State :=
  { vmOn State.reset with
    ln := { wl with desc := { wl.desc with count := n, resbase := 0x20000 } }
    dev := { Dev.reset with ready := true, hallRun := vset Dev.reset.hallRun 0 (some 0) } }
/-- Function 0 with an interrupt of a generation, running or not. -/
def fi (gen : BitVec 8) (run : FnRun) : Func := { fOn with irqs := [⟨7, gen⟩], run := run }
def ir (gen : BitVec 8) (run : FnRun) : State := { sc with funcs := sc.funcs.set 0 (fi gen run) }

/-- A function of the tenant that is paused; an interrupt of a protected tenant without an IDE stream. -/
def ad' : State := { ad 0 with funcs := (ad 0).funcs.set 1 { fOn with bound := true, run := .paused } }
def ib : State :=
  { sc with
    funcs := sc.funcs.set 0 { fi 0 .running with bound := true }
    ctxs := sc.ctxs.set 0 { sc.ctx 0 with valid := true, prot := true } }

/-- A launch that begins; one without its areas; an interrupt after a reset, one that is sent, one that is kept. -/
theorem wit_AdmissionAndInterrupts :
    (ad 0).ln.lid ≠ 0 ∧
    (ad 0).ln.st = .waiting ∧
    (ad 0).dev.ready = true ∧
    (ad 0).offered 0 = some (ad 0).ln.lid ∧
    (ad 0).offered 0 ≠ some 10 ∧
    (ad 0).pausedTenant 0 = false ∧
    ad'.pausedTenant ad'.ln.cmd.tenant = true ∧
    ad'.ln.lid ≠ 0 ∧
    (ad 0).coReady (ad 0).ln = true ∧
    (ad 0).thresholdMet (ad 0).ln = true ∧
    (ad 0).placement (ad 0).ln = some [0] ∧
    (ad 0).areasOk (ad 0).ln = true ∧
    ((ad 0).ctx 0).presence ≠ .here ∧
    ((ad 0).modCtx 0 fun c => { c with presence := .here }).placement (ad 0).ln = some [0] ∧
    (ad 0).ln.cmd.tenant < 16 ∧
    ({ fOn with bound := true, run := .descheduled } : Func).of 0 = true ∧
    (ad 1).areasOk (ad 1).ln = false ∧
    (ad 1).placement (ad 1).ln = some [0] ∧
    (ad 1).coReady (ad 1).ln = true ∧
    (ad 1).offered 0 = some (ad 1).ln.lid ∧
    (ad 1).thresholdMet (ad 1).ln = true ∧
    (ir 1 .running).func 0 = some (fi 1 .running) ∧
    (fi 1 .running).irqs = ⟨7, 1⟩ :: [] ∧
    (1 : BitVec 8) ≠ (fi 1 .running).gen ∧
    (ir 0 .running).func 0 = some (fi 0 .running) ∧
    (fi 0 .running).run = .running ∧
    (fi 0 .running).bound = false ∧
    ib.func 0 = some { fi 0 .running with bound := true } ∧
    ib.passes 0 0 = false ∧
    (ir 0 .paused).func 0 = some (fi 0 .paused) ∧
    (fi 0 .paused).run ≠ .running := by decide +kernel


/-! ## Witnesses: commands, queues, contexts -/

/-- A descriptor at address 0: a section of 8 bytes at 0x1000, one lane word at 0x1100, one group, one cell at 0x2000. -/
def dsc : Nat :=
  8 * 2 ^ 416 + 2 ^ 384 + 0x1000 * 2 ^ 448 + 0x1100 * 2 ^ 320 + 4 * 2 ^ 192 + 2 ^ 183 + 2 ^ (512 + 320) + 0x2000 * 2 ^ (512 + 88) +
    2 ^ (896 + 16) + 2 ^ 896
def dl : State := let s := dq (vmOn State.reset) true; { s with mem := s.mem.writeLE 0x50000 192 dsc }
/-- A LAUNCH stands behind the command at the head of the queue. -/
def kl : Cmd := ⟨⟨0, 5, 1, 2, 0, none⟩, 8, [1, 0, 0, 0, 0, 0, 0, 0]⟩
def qk : Queue := { qx true with cmds := [kc, kl] }
def dk : State := { dl with queues := [qk] }
def takes (a : Accept) : Bool :=
  match a with
  | .take _ _ _ _ => true
  | _ => false

/-- A descriptor that is taken, one out of line; a running launch of the tenant, none; no open launch, and one. -/
theorem wit_LaunchCancelDrain :
    dl.CmdReady cr (qx true) kc [] ∧
    dl.inError 0 = false ∧
    ({ dl with funcs := dl.funcs.set 0 { fOn with tdisp := .error } } : State).inError 0 = true ∧
    ({ dl with funcs := dl.funcs.set 0 { fOn with tdisp := .error } } : State).CmdReady cr (qx true) kc [] ∧
    cr.tenant < 16 ∧
    takes (dl.checkLaunch 0 0) = true ∧
    dl.checkLaunch 0 32 = .reject ∧
    (dq sc true).CmdReady cr (qx true) kc [] ∧
    (dq sc true).ln.lid = (1 : Word).toNat ∧
    (dq sc true).ln.cmd.tenant = 0 ∧
    (dq sc true).ln.st = .running ∧
    (dq sc true).ln.aborted = false ∧
    (∀ l, dl.findLaunch (1 : Word).toNat = some l → l.cmd.tenant ≠ 0) ∧
    dl.findLaunch (1 : Word).toNat = none ∧
    dl.launchCmd 0 1 = none ∧
    dk.CmdReady cr (qk) kc [kl] ∧
    dk.findLaunch (8 : Word).toNat = none ∧
    dk.launchCmd 0 (8 : Word).toNat = some kl ∧
    dl.openLaunches 0 5 = [] ∧
    (inL (dq sc true) fun l => { l with cmd := cr }).openLaunches 0 5 ≠ [] ∧
    (inL (dq sc true) fun l => { l with cmd := cr }).CmdReady cr (qx true) kc [] := by
  and_intros <;> first | decide +kernel | (constructor <;> decide +kernel) | (intro l hl; have h : dl.findLaunch 1 = none := by decide +kernel; exact absurd (h.symm.trans hl) (by simp))

/-- Packets at 0x100 (queue 5), 0x120 (a reserved bit); a translation register of two frames at 0x10000. -/
def ar : State :=
  let s := dq vm true
  { s with mem := (s.mem.writeLE 0x50100 32 (5 * 2 ^ 146 + 2)).writeLE 0x50120 32 (2 ^ 140 + 5 * 2 ^ 146 + 2)
           g := { s.g with t := vset s.g.t 7 ⟨true, true, 0x20000, 6, 0x10000⟩ } }
def bsAt (s : State) (va n : Nat) : List Byte :=
  match s.span 0 va n false true with
  | .ok bs => bs
  | _ => []

/-- A malformed packet, a new one, one whose number is armed; a range that touches the last byte of a run, one that ends before it. -/
theorem wit_TimersAndTinval :
    ar.CmdReady cr (qx true) kc [] ∧
    (0x100 : DWord).toNat % 32 = 0 ∧
    ar.span 0 0x100 32 false true = .ok (bsAt ar 0x100 32) ∧
    ar.packet 0 0x120 (bsAt ar 0x120 32) = none ∧
    ar.packet 0 0x100 (bsAt ar 0x100 32) = some (pkt 0) ∧
    ar.dev.timers.length < 8192 ∧
    (∀ y ∈ ar.dev.timers, ¬ (y.tenant = 0 ∧ y.num = 2)) ∧
    (∃ y ∈ (tm true 0).dev.timers, y.tenant = 0 ∧ y.num = (pkt 0).num) ∧
    ar.Focused ∧
    ar.tenant = 0 ∧
    ¬ (0x10000 + 0x20000 ≤ (0x2FFFF : DWord).toNat) ∧
    (0xFFFF : DWord).toNat + (1 : DWord).toNat ≤ 0x10000 := by
  and_intros <;> first | decide +kernel | exact ok_of (by decide +kernel) | (constructor <;> decide +kernel)

/-- The quota is met; the group's launch has no area; frame 5 has an owner. -/
def full : State := let s := dq vm true; { s with ctxs := s.ctxs.set 0 { s.ctx 0 with frameq := 3 } }
def own : State := let s := dq vm true; { s with fit := s.fit.map fun e => if e.dfn = 5 then { e with owned := true, ticket := 1 } else e }
def mp : State := let s := dq (vmOn State.reset) true; s

/-- A range out of line, the last frame and one beyond; a quota that is met; a remap of frame 5; a new frame at 0x20000; an unmap; one that waits. -/
theorem wit_MapAndUnmap :
    mp.CmdReady cr (qx true) kc [] ∧
    mp.Canonical ∧
    mp.mapBad 0 0x8000 0x10000 0 0 = true ∧
    mp.mapBad 0 (2 ^ 56 - 0x10000) 0x10000 0 0 = false ∧
    mp.mapBad 0 (2 ^ 56 - 0x10000) 0x20000 0 0 = true ∧
    full.CmdReady cr (qx true) kc [] ∧
    full.mapBad 0 0x20000 0x10000 0 0 = false ∧
    (0 : DWord).getLsbD 4 = false ∧
    (0 : DWord).getLsbD 5 = false ∧
    (full.ctx 0).frameq < full.framesOf 0 + ((offsetsOf 0x10000).filter fun o => (full.walk 0 (0x20000 + o)).isNone).length ∧
    mp.mapBad 0 0 0x10000 0x10 0 = false ∧
    (0x10 : DWord).getLsbD 4 = true ∧
    mp.reachesArea 0 0 0x10000 = false ∧
    mp.framesOf 0 ≤ (mp.ctx 0).frameq ∧
    mp.walk 0 0 = some (5, true, true) ∧
    mp.leafAddr 0 0 = some 0x40000 ∧
    (5 < 2 ^ 28) ∧
    mp.mapBad 0 0x20000 0x10000 3 0 = false ∧
    (3 : DWord).toNat < 4 ∧
    mp.framesOf 0 < (mp.ctx 0).frameq ∧
    mp.walk 0 0x20000 = none ∧
    (mp.newFrame 0 (mp.ctx 0).prot false).map (·.2) = some 8 ∧
    pteValid (mp.mem.readLE (pteAddr (mp.ctx 0).root 2 0x20000) 8) = true ∧
    3 = bitsN (mp.mem.readLE (pteAddr (mp.ctx 0).root 2 0x20000) 8) 27 0 ∧
    pteValid (mp.mem.readLE (pteAddr 3 1 0x20000) 8) = true ∧
    4 = bitsN (mp.mem.readLE (pteAddr 3 1 0x20000) 8) 27 0 ∧
    (mp.fitOf (mp.ctx 0).root).isSome = true ∧
    (mp.fitOf ((mp.ctx 0).root + 1)).isSome = true ∧
    (mp.fitOf 3).isSome = true ∧
    (mp.fitOf 4).isSome = true ∧
    rangeOk 0 0x8000 = false ∧
    rangeOk 0 0x10000 = true ∧
    mp.unmapWaits 0 0 0x10000 = false ∧
    (((mp.writePte 0x40000 0).mappings 0).any fun m => m.2 == 5) = false ∧
    own.unmapWaits 0 0 0x10000 = true ∧
    own.CmdReady cr (qx true) kc [] := by
  and_intros <;> first | decide +kernel | (constructor <;> decide +kernel)

/-- Function 0 with a TDISP state and a run state; queue 5 with no commands. -/
def fq (t : Tdisp) (r : FnRun) (held : List (Nat × DWord)) : Func := { fOn with tdisp := t, run := r, held := held }
def qe (en : Bool) : Queue := { qx en with cmds := [] }
def qr (t : Tdisp) (r : FnRun) (q : Queue) : State :=
  let s := dq (vmOn State.reset) true
  { s with queues := [q], funcs := s.funcs.set 0 (fq t r []) }

/-- D3hot, an enabled queue, ERROR, a disabled queue, a paused function; enabling; disabling with a command, and without. -/
theorem wit_QueueRegisters :
    (qr .unlocked .running (qe true)).func 0 = some (fq .unlocked .running []) ∧
    (qr .unlocked .running (qe true)).queueAt 0 5 = some (qe true) ∧
    (qr .unlocked .running (qe true)).dev.pstate ≠ .d3hot ∧
    ({ (qr .unlocked .running (qe true)).dev with pstate := .d3hot } : Dev).pstate = .d3hot ∧
    (fq .unlocked .running []).tdisp ≠ .error ∧
    (fq .unlocked .running []).run ≠ .paused ∧
    (qr .unlocked .running (qe true)).passes 0 0 = true ∧
    ({ qr .unlocked .running (qe true) with ctxs := (qr .unlocked .running (qe true)).ctxs.set 0 { (qr .unlocked .running (qe true)).ctx 0 with prot := true } } : State).passes 0 0 = false ∧
    (qe true).en = true ∧
    (fq .error .running []).tdisp = .error ∧
    (qr .error .running (qe true)).queueAt 0 5 = some (qe true) ∧
    (qr .unlocked .running (qe false)).queueAt 0 5 = some (qe false) ∧
    (qe false).en = false ∧
    (fq .unlocked .paused []).run = .paused ∧
    (qr .unlocked .paused (qe true)).queueAt 0 5 = some (qe true) ∧
    (qr .unlocked .running (qe false)).dev.ready = true ∧
    ((qr .unlocked .running (qe false)).ctx (qe false).tenant).valid = true ∧
    (qx true).cmds ≠ [] ∧
    (qr .unlocked .running (qx true)).queueAt 0 5 = some (qx true) ∧
    (qe true).cmds = [] ∧
    (qr .unlocked .running (qe true)).openLaunches 0 5 = [] := by
  and_intros <;> first | decide +kernel | exact error_of (by decide +kernel)

/-- Tenant 15 with a CCFG; partition 0 holds hall 0. -/
def cx (ccfg : DWord) : State :=
  let s := dq (vmOn State.reset) true
  { s with ctxs := s.ctxs.set 15 { s.ctx 15 with ccfg := ccfg }, dev := { s.dev with guarHalls := [(0, 0)] } }

/-- A valid tenant; quotas beyond the tiers and within them; tenant 15. -/
theorem wit_Contexts :
    (15 < 16) ∧
    (cx 0).dev.ready = true ∧
    ((cx 0).ctx 0).valid = true ∧
    ((cx 0xFFFFFFFF).ctx 15).valid = false ∧
    (cx 0xFFFFFFFF).tierSize .a + (cx 0xFFFFFFFF).tierSize .b < (cx 0xFFFFFFFF).promised (·.frameq) + bitsN ((cx 0xFFFFFFFF).ctx 15).ccfg.toNat 31 0 ∧
    (cx 0x100000010).promised (·.frameq) + bitsN ((cx 0x100000010).ctx 15).ccfg.toNat 31 0 ≤ (cx 0x100000010).tierSize .a + (cx 0x100000010).tierSize .b ∧
    (cx 0x100000010).promised (·.recq) + bitsN ((cx 0x100000010).ctx 15).ccfg.toNat 55 32 ≤ Config.treeRecords ∧
    (cx 0x100000010).partHolds (bitsN ((cx 0x100000010).ctx 15).ccfg.toNat 59 56) = true ∧
    ((cx 0x100000010).newRoot 15).map (·.2) = some 8 ∧
    ((cx 0x100000010).ctx 15).valid = false := by
  and_intros <;> first | decide +kernel | (unfold SCond.Holds; decide +kernel)

/-- Namespace 15 with an NCFG, namespace 0 of tenant 0, used by a page-grid launch or not. -/
def nx (ncfg : DWord) (used : Bool) : State :=
  let s := dq (vmOn State.reset) true
  { s with
    nss := (s.nss.set 15 { Namespace.none with ncfg := ncfg }).set 0 { Namespace.none with valid := true, pages := 4 }
    ln := if used then { sc.ln with desc := { sc.ln.desc with pageGrid := true } } else s.ln }

/-- A valid one; an owner without a context; pages beyond the capacity and within it; in use, and not. -/
theorem wit_Namespaces :
    (15 < 16) ∧
    (nx 0 false).dev.ready = true ∧
    ((nx 0 false).ns 0).valid = true ∧
    ((nx 0xF000000000000001 false).ctx (bitsN ((nx 0xF000000000000001 false).ns 15).ncfg.toNat 63 60)).valid = false ∧
    ((nx 0x3FFFFFFFF false).ns 15).valid = false ∧
    ((nx 0x3FFFFFFFF false).ctx (bitsN ((nx 0x3FFFFFFFF false).ns 15).ncfg.toNat 63 60)).valid = true ∧
    Config.userPages < (((nx 0x3FFFFFFFF false).nss.toList.filter (·.valid)).map (·.pages)).sum + bitsN ((nx 0x3FFFFFFFF false).ns 15).ncfg.toNat 33 0 ∧
    (((nx 8 false).nss.toList.filter (·.valid)).map (·.pages)).sum + bitsN ((nx 8 false).ns 15).ncfg.toNat 33 0 ≤ Config.userPages ∧
    ((nx 0x3FFFFFFFF false).ctx 0).prot = false ∧
    ((nx 0x3FFFFFFFF false).ctx 0).topSlot = some 255 ∧
    ({ (nx 0 false).ctx 0 with vault := (List.range 256).map fun k => ⟨k, 0, .frame, false, 0⟩ } : Ctx).topSlot = none ∧
    (nx 0 true).nsUsed 0 = true ∧
    (nx 0 false).nsUsed 0 = false := by decide +kernel

/-- A state whose function 1 is as given, of tenant 0, with its queue 5. -/
def f1 (f : Func → Func) : Func := f { fOn with tenant := 0 }
def vf (f : Func → Func) : State :=
  { dq vm true with funcs := (vm.funcs.set 0 fOn).set 1 (f1 f), queues := [{ qe true with func := 1 }] }

/-- The block of queue 5; tenant 15; an unlocked and a locked function. -/
theorem wit_HostRegisters :
    (vf id).func 1 = some (f1 id) ∧
    (vf id).queueAt 1 5 = some { qe true with func := 1 } ∧
    (5 < 64) ∧
    (f1 id).locked = false ∧
    (qr .unlocked .running (qe false)).queueAt 0 5 = some (qe false) ∧
    (qe false).en = false ∧
    (vf id).func 0 = some (fOn) ∧
    (15 < 16) ∧
    (∀ c ∈ (f1 id).cfg, c.1 = 7 → c.2 ≠ 1) ∧
    (f1 fun f => { f with tdisp := .locked }).locked = true ∧
    (f1 fun f => { f with tdisp := .locked }).cfg = [] ∧
    (vf fun f => { f with tdisp := .locked }).func 1 = some (f1 fun f => { f with tdisp := .locked }) := by decide +kernel


/-! ## Witnesses: trust and service -/

/-- A VF in each state; a tenant that is not protected, and one that is. -/
theorem wit_DeviceInterfaces :
    (1 : Nat) ≠ 0 ∧
    (vf fun f => { f with ide := true }).func 1 = some (f1 fun f => { f with ide := true }) ∧
    (f1 fun f => { f with ide := true }).tdisp = .unlocked ∧
    (f1 fun f => { f with ide := true }).ide = true ∧
    (f1 id).ide = false ∧
    (f1 fun f => { f with tdisp := .locked }).tdisp = .locked ∧
    (f1 id).tdisp ≠ .locked ∧
    (f1 id).bound = false ∧
    ((vf id).ctx (f1 id).tenant).prot = false ∧
    (vf fun f => { f with bound := true }).func 1 = some (f1 fun f => { f with bound := true }) ∧
    (f1 fun f => { f with bound := true }).bound = true ∧
    (f1 id).tenant < 16 ∧
    (∀ x ∈ (vf fun f => { f with bound := true }).queues, ∀ k ∈ x.cmds, k.ref.tenant = x.tenant ∧ k.ref.queue = x.q) ∧
    ((vf id).ctx 0).valid = true ∧
    (({ vf id with ctxs := (vf id).ctxs.set 0 { (vf id).ctx 0 with prot := true } } : State).ctx 0).prot = true ∧
    (vf fun f => { f with ide := true }).launchesOn 1 = [] ∧
    (vf fun f => { f with ide := true }).launchCmdsOn 1 = [] := by decide +kernel

/-- A session of function 1, which is bound; the key of slot 255 has the session's OWNERTAG. -/
def ss : Session := ⟨1, 9, 0x13, [1, 2, 3], 0, 0⟩
def vk : VaultKey := ⟨255, 5, .cipherIn, true, ss.ownerTag⟩
def kv (k : VaultKey) : State :=
  let s := vf fun f => { f with bound := true }
  { s with ctxs := s.ctxs.set 0 { s.ctx 0 with vault := [k] }, dev := { s.dev with sessions := [ss] } }

/-- The last slot, exportable and not; a key of another owner; a function bound to none; no session; a blob that does not unwrap, and the
pieces of one. -/
theorem wit_KeyVault :
    (kv vk).VaultOpen 9 255 ss (f1 fun f => { f with bound := true }) ∧
    ((kv vk).ctx 0).vault.find? (fun v => v.slot == 255) = some vk ∧
    vk.exportable = true ∧
    ({ vk with exportable := false } : VaultKey).exportable = false ∧
    (kv { vk with exportable := false }).VaultOpen 9 255 ss (f1 fun f => { f with bound := true }) ∧
    ({ vk with owner := vk.owner + 1 } : VaultKey).owner ≠ ss.ownerTag ∧
    (f1 id).bound = false ∧
    (vf id).dev.sessions.find? (fun x => x.id == 9) = none ∧
    (255 < 256) ∧
    (keyUnwrap ((kv vk).seal 0) []).bind (VaultKey.ofBytes 255) = none ∧
    VaultKey.ofBytes 255 vk.bytes = some vk := by
  and_intros <;> first | decide +kernel | (constructor <;> first | decide +kernel | (intro k h; have e : k = _ := (Option.some.inj (h.symm.trans (show _ = some _ from rfl))); subst e; rfl))

/-- Boot at a stage. -/
def bt (n : Nat) : State := { State.reset with dev := { Dev.reset with stage := n } }
/-- 32 sessions. -/
def s32 : State := let s := vf id; { s with dev := { s.dev with sessions := (List.range 32).map fun n => ⟨1, n, 0x12, [], 0, 0⟩ } }

/-- Room for a session, and none; versions; indexes 1, 4, 16 and 31, of a function that is bound and of one that is not; each stage. -/
theorem wit_SessionsAndBoot :
    (vf id).func 1 = some (f1 id) ∧
    (vf id).dev.sessions.length < 32 ∧
    (∀ x ∈ (vf id).dev.sessions, x.id ≠ 9) ∧
    32 ≤ s32.dev.sessions.length ∧
    (∀ x ∈ s32.dev.sessions, x.id ≠ 32) ∧
    (0x11 : Byte) ≠ 0x12 ∧
    (0x11 : Byte) ≠ 0x13 ∧
    (1 ≤ 4) ∧
    (4 ≤ 4) ∧
    (16 ≤ 16) ∧
    (31 < 32) ∧
    (f1 fun f => { f with bound := true }).bound = true ∧
    16 = 16 + (f1 id).tenant ∧
    31 ≠ 16 + (f1 id).tenant ∧
    (f1 id).bound = false ∧
    (bt 0).dev.bootHalt = false ∧
    (bt 0).dev.ready = false ∧
    (bt 3).dev.stage < 4 ∧
    0 < (bt 1).dev.stage ∧
    (bt 2).dev.stage < 3 ∧
    ({ (bt 2).dev with keys := [] } : Dev).imageOk [] [] [] = false ∧
    (bt 0).dev.stage = 0 ∧
    (bt 3).dev.stage = 3 ∧
    (bt 3).funcs ≠ [] := by decide +kernel

/-- No hypothesis of a stage is empty: an image whose check a device makes true passes at stages 2 and 3. -/
theorem wit_BootImage (h : Config.falconCheck [1] [2] [3] = true) :
    ({ (bt 2).dev with keys := [[1]] } : Dev).imageOk [1] [2] [3] = true ∧
    ({ (bt 3).dev with keys := [[1]] } : Dev).imageOk [1] [2] [3] = true := by
  constructor <;> · simp only [Dev.imageOk, h]; decide +kernel

/-- Core 3 in U mode. -/
def mu : State := mg.modMgmt 3 fun m => { m with mode := .user }

/-- A frame with PROT set and one without, read and written in M mode and refused in U mode; a frame that no instruction changes. -/
theorem wit_ManagementCores :
    3 < 4 ∧
    mg.barred 0x8FFF8 8 false = some 8 ∧
    mg.barred 0x8FFF8 8 true = some 8 ∧
    mg.barred 0x90000 8 false = none ∧
    mg.barred 0x90000 8 true = none ∧
    (mg.mgmtCore 3).allows (mg.mgmtCore 3).dataMode 0x8FFF8 8 .read = true ∧
    (mg.mgmtCore 3).allows (mg.mgmtCore 3).dataMode 0x8FFF8 8 .write = true ∧
    (mg.mgmtCore 3).allows (mg.mgmtCore 3).dataMode 0x90000 8 .read = true ∧
    (mg.mgmtCore 3).allows (mg.mgmtCore 3).dataMode 0x90000 8 .write = true ∧
    (mu.mgmtCore 3).allows (mu.mgmtCore 3).dataMode 0x90000 8 .read = false ∧
    (mu.mgmtCore 3).allows (mu.mgmtCore 3).dataMode 0x90000 8 .write = false ∧
    (mu.mgmtCore 3).mode ≠ .machine ∧
    mg.Canonical ∧
    mg.fitOf (0x80000 / 0x10000) = some fr8 ∧
    fr8.prot = true ∧
    (∀ x ∈ mg.fit, x.dfn = fr8.dfn → x.tier ≠ .c) ∧
    (vf id).func 1 = some (f1 id) := by
  and_intros <;> first | decide +kernel | (constructor <;> decide +kernel)

/-- `ADDI x1, x0, 5` on core 0; `C.LI x10, 5` and `C.J 0` as the words that they stand for. -/
theorem test_management_addi :
    vget ((mg.hostAct (.mgmt 0 0x00500093)).mgmtCore 0).x 1 0 = 5 ∧ ((mg.hostAct (.mgmt 0 0x00500093)).mgmtCore 0).pc = 4 ∧
    rvExpand 0x4515 = some 0x00500513 ∧ rvExpand 0xA001 = some 0x6F := by decide +kernel

/-- A journal entry that waits, with a record for queue 5. -/
def je1 : JEntry := ⟨1, 0, 0, 5, 0, .complete, 0, 0, 0, [], some (1, cr)⟩
def jn : State := let s := dq (vmOn State.reset) true; { s with dev := { s.dev with jseq := 1, journal := [je1] } }

/-- Power off and on; ready; D3hot; an entry to mirror with a record, and without. -/
theorem wit_PowerStates :
    ({ State.reset with dev := { Dev.reset with powered := false } } : State).dev.powered = false ∧
    jn.dev.powered = true ∧
    jn.dev.ready = true ∧
    jn.dev.pstate ≠ .d3hot ∧
    (vf id).func 0 ≠ none ∧
    ({ jn.dev with pstate := .d3hot } : Dev).pstate = .d3hot ∧
    jn.dev.journal.find? (fun x => x.jseq == jn.dev.jhead + 1) = some je1 ∧
    je1.record = some (1, cr) ∧
    cr.timer = none ∧
    jn.queueOf cr.tenant cr.queue = some (qx true) ∧
    jn.Canonical ∧
    jn.passes (qx true).func (qx true).tenant = true ∧
    ({ je1 with record := none } : JEntry).record = none := by
  and_intros <;> first | decide +kernel | (constructor <;> decide +kernel)

/-- Function 1 bound to tenant 0; a protected context from a device that has not attested, or that has. -/
def vb : State := vf fun f => { f with bound := true }
def mv (attested : Bool) : Moved := ⟨0x8000000000000000, attested, [], [], [], []⟩

/-- SR-IOV off; a VF to pause, whose work runs; one that goes on, with a NOTIFY held and without; a valid tenant. -/
theorem wit_VirtualFunctions :
    (qr .unlocked .running (qe true)).dev.ready = true ∧
    (qr .unlocked .running (qe true)).dev.sriov = false ∧
    (1 : Nat) ≠ 0 ∧
    (vf id).func 1 = some (f1 id) ∧
    (f1 id).run ≠ .paused ∧
    vb.func 1 = some (f1 fun f => { f with bound := true }) ∧
    vb.Focused ∧
    vb.tenant = (f1 id).tenant ∧
    vb.ln.st = .running ∧
    vb.wg.place = .resident ∧
    vb.wg.stop = false ∧
    (ib.ctx 0).prot = true ∧
    (mv false).ccfg.msb = true ∧
    (mv false).attested = false ∧
    ({ vb.dev with links := 0 } : Dev).links = 0 ∧
    (qr .unlocked .paused (qe true)).func 0 = some (fq .unlocked .paused []) ∧
    (fq .unlocked .paused []).held = [] ∧
    ({ qr .unlocked .paused (qe true) with funcs := (qr .unlocked .paused (qe true)).funcs.set 0 (fq .unlocked .paused [(5, 3)]) } : State).func 0 = some (fq .unlocked .paused [(5, 3)]) ∧
    (fq .unlocked .paused [(5, 3)]).held = [(5, 3)] ∧
    (fq .unlocked .paused [(5, 3)]).tdisp ≠ .error ∧
    (qr .unlocked .paused (qe true)).passes 0 0 = true ∧
    (fq .error .paused [(5, 3)]).tdisp = .error ∧
    (qr .unlocked .paused (qe true)).queueAt 0 5 = some (qe true) ∧
    ((qr .unlocked .paused (qe true)).ctx 0).valid = true := by
  and_intros <;> first | decide +kernel | (constructor <;> decide +kernel)

/-- A frame of tier B in the memory of a CXL device. -/
def fr9x : FitEntry := { fr9 with loc := BitVec.ofNat 48 Config.tierBFrames }
def mcx : State := { vm with fit := vm.fit ++ [fr8, fr9x], dev := { vm.dev with cxl := vm.dev.cxl.set 0 1 } }

/-- A state in which a part is worn. -/
def wn (p : Part) (u : BitVec 24) (s : State) : State :=
  { s with dev := { s.dev with wear := [((partCode p, u), Config.wearThreshold (partCode p) + 1)] } }

/-- Each kind of part is worn at the last unit, and not while nothing is counted; a pseudo-channel without frames is free. -/
theorem wit_Worn :
    (∀ p, (wn p 0xFFFFFF { sc with fit := [] }).worn p 0xFFFFFF = true) ∧
    (∀ p, (wn p 0xFFFFFF { sc with fit := [] }).channelFree 0xFFFFFF = true) ∧
    (∀ p, State.reset.worn p 0xFFFFFF = false) ∧
    ((wn .core 0 { sc with core := { sc.core with halted := true } }).worn .core 0 = true ∧
      ((wn .core 0 { sc with core := { sc.core with halted := true } }).findCore 0).any (·.halted) = true ∧
      vget (wn .core 0 { sc with core := { sc.core with halted := true } }).dev.spares (hallOf 0) false = true) := by
  refine ⟨fun p => ?_, fun p => rfl, fun p => ?_, ?_, by decide +kernel, by decide +kernel⟩
  · simp [State.worn, State.wornBy, wn]
  · simp [State.worn, State.wornBy, State.reset, Dev.reset]
  · simp [State.worn, State.wornBy, wn]

/-- A pseudo-channel whose place 0 holds a frame is not free. -/
theorem wit_ChannelUsed (h : Config.inChannel 0xFFFFFF 0 0 = true) :
    ({ sc with fit := [{ frame 5 with loc := 0 }] } : State).channelFree 0xFFFFFF = false := by
  have h : Config.inChannel (16777215#24) 0 0 = true := h
  simp [State.channelFree, frame, h, show sc.dev.caplog.length = 0 from by decide +kernel]

/-- A halted core; array 6; a resident frame; a frame of tier B at the end of the range; the last link and one before. -/
theorem wit_ErrorsAndSpares :
    (({ sc with core := { sc.core with halted := true } } : State).findCore (0 : BitVec 24).toNat).any (·.halted) = true ∧
    vget sc.dev.spares (hallOf (0 : BitVec 24).toNat) false = true ∧
    (6 < 7) ∧
    (15 < 16) ∧
    vm.fitOf 5 = some (frame 5) ∧
    (frame 5).table = false ∧
    (frame 5).st = .resident ∧
    (frame 5).tier = .a ∧
    (frame 5).tenant < 16 ∧
    sc.Focused ∧
    sc.ln.st = .running ∧
    sc.ln.aborted = false ∧
    sc.tenant < 16 ∧
    mg.fitOf 9 = some fr9 ∧
    fr9.tier = .b ∧
    fr9.st = .resident ∧
    mg.fitOf 5 = some (frame 5) ∧
    mcx.fitOf 9 = some fr9x ∧
    fr9x.tier = .b ∧
    fr9x.st = .resident ∧
    Config.tierBFrames ≤ fr9x.loc.toNat ∧
    (wearParts 6).length ≤ 7 ∧
    sc.dev.links &&& ~~~((1 : BitVec 16) <<< 15) ≠ 0 ∧
    (0x8000 : BitVec 16) &&& ~~~((1 : BitVec 16) <<< 15) = 0 ∧
    jSend.st = .running ∧
    jSend.kind = 0x07 ∧
    ({ jFetch with out := [] } : Job).out = [] := by
  and_intros <;> first | decide +kernel | (constructor <;> decide +kernel)

/-- A turn of each stream; a loop body whose word a `LINC` changes is covered by the same hypotheses with `lp`. -/
def tn (op : TurnOp) (s : State) : State := { s with turns := [⟨0, 0, op⟩] }

/-- A `NOP` at the PC, in a loop body, with and without a turn; lane words; a matrix word; an event; a command. -/
theorem wit_StepRunsDecodedInstruction :
    (tn .scalar lo).dev.powered = true ∧
    (code sc [(0, 0x8C000000)]).g.pc % 4 = 0 ∧
    (code sc [(0, 0x8C000000)]).g.pc + 4 ≤ (code sc [(0, 0x8C000000)]).ln.desc.slen ∧
    (code sc [(0, 0x8C000000)]).g.loop = none ∧
    decodeScalar (BitVec.ofNat 32 ((code sc [(0, 0x8C000000)]).ln.scode.readLE 0 4)) = .ok .nop ∧
    (tn .scalar lo).turns = ⟨0, 0, .scalar⟩ :: [] ∧
    (code sc [(0, 0x8C000000)]).turns = [] ∧
    (code sc [(0, 0x8C000000)]).g.st = .running ∧
    (code sc [(0, 0x8C000000)]).g.run = none ∧
    (code sc [(0, 0x8C000000)]).g.queue = [] ∧
    (⟨4, 1, [], 0, 3, 0⟩ : LoopSt).regsAt (BitVec.ofNat 32 (lo.ln.scode.readLE 4 4)) = some 0x8C000000 ∧
    (⟨4, 1, [], 0, 3, 0⟩ : LoopSt).immAt 0x8C000000 = 0x8C000000 ∧
    (code sc [(0, 0x8C000000)]).fetchBar ((code sc [(0, 0x8C000000)]).ln.desc.scodeVa + 0) 4 = none ∧
    lo.fetchBar (lo.ln.desc.scodeVa + 4) 4 = none ∧
    la.fetchBar (la.ln.desc.lcodeVa + 12 * p0.pc) 12 = none ∧
    (mw .waiting wMst).fetchBar ((mw .waiting wMst).ln.desc.mcodeVa + 8 * (mw .waiting wMst).wg.seq.mpc) 8 = none ∧
    decodeScalar 0x8C000000 = .ok .nop ∧
    (tn (.lane false) la).g.run = some r0 ∧
    r0.path false = some p0 ∧
    p0.pc < la.ln.desc.llen ∧
    p0.clause = some c0 ∧
    decodeLaneAt c0.place 0x200000101006FF8000000000 = .ok (.iadd { ops with dst := .v 1, a := .v 2, b := .v 3 } .wrap) ∧
    r1.path false = some p1 ∧
    p1.clause = none ∧
    decodeHeader 0xC12FFF983060000000000000 = .ok ⟨2, 0xFFF, true, 3, false, 0, true, 32, true, true⟩ ∧
    (tn .matrix (mw .waiting wMst)).matrixLive = true ∧
    (mw .waiting wMst).wg.seq.mpc < (mw .waiting wMst).ln.desc.mlen ∧
    decodeMatrix (BitVec.ofNat 64 ((mw .waiting wMst).ln.mcode.readLE (8 * (mw .waiting wMst).wg.seq.mpc) 8)) = .ok wMst ∧
    (tn (.event .heartbeatTick) sc).turns = ⟨0, 0, .event .heartbeatTick⟩ :: [] ∧
    (dq sc true).queueOf 0 5 = some (qx true) ∧
    (qx true).busy = none ∧
    (qx true).cmds = kc :: [] ∧
    (cmdInstr { kc with words := [4, 0, 0, 0, 0, 0, 0, 0] }).isSome = true := by
  and_intros <;> first | decide +kernel | exact ok_of (by decide +kernel)

/-- Reset, and a step from it. -/
theorem wit_CanonicalKept :
    State.reset.Canonical ∧
    State.reset.TreeIndexed ∧
    (match step State.reset with | .next _ => true | _ => false) = true ∧
    tr.TreeIndexed := by
  and_intros <;> first | decide +kernel | (constructor <;> decide +kernel)

/-- A step with power and one without. -/
theorem wit_EveryInstructionAnswers :
    sc.mayMove = true ∧
    ({ sc with dev := { sc.dev with powered := false }, turns := [⟨0, 0, .scalar⟩] } : State).mayMove = false := by decide +kernel

/-- A word of each stream. -/
theorem wit_EncodingsAgree :
    (Instr.saddi 20 62 8).WellFormed = true ∧
    encode (.saddi 20 62 8) = some (.scalar 0x0D4F8008) ∧
    decode (.scalar 0x0D4F8008) = .ok (.saddi 20 62 8) ∧
    decode (.matrix 0x1B00000000020000) = .ok (.mend 2) ∧
    decode (.lane 0x200000101006FF8000000000) = .ok (.iadd { ops with dst := .v 1, a := .v 2, b := .v 3 } .wrap) := by
  and_intros <;> first | decide +kernel | exact ok_of (by decide +kernel)

end Sys2Proof.Tests
end

section
/-! PROOFS. The page dispenser and the end of a launch (01 R19 to R24, R41, R42, R45): what the shared operations do to the
workgroup in the focus, and the steps of the dispenser one by one. -/
namespace Sys2Proof.Machine

/-! ## Byte lists -/

/-- An address without an entry reads as zero, whatever the order of the list (log 2). -/
theorem Mem.get_unlisted {m : Mem} {a : Nat} (h : ∀ c ∈ m, c.1 ≠ a) : m.get a = 0 := by
  induction m with
  | nil => rfl
  | cons c m ih =>
    rw [Mem.get, if_neg (h c List.mem_cons_self), ih fun d hd => h d (List.mem_cons_of_mem _ hd), ite_self]

/-- Cells written elsewhere leave a byte as it is. -/
theorem Mem.get_foldl_set_other {m : Mem} {cells : List (Nat × Byte)} {a : Nat} (hm : m.wf = true)
    (h : ∀ c ∈ cells, c.1 ≠ a) : (cells.foldl (fun (m : Mem) c => m.set c.1 c.2) m).get a = m.get a := by
  induction cells generalizing m with
  | nil => rfl
  | cons c cs ih =>
    rw [List.foldl_cons, ih (Mem.wf_set _ _ hm) fun d hd => h d (List.mem_cons_of_mem _ hd), Mem.get_set _ _ _ hm,
      if_neg (Ne.symm (h c List.mem_cons_self))]

/-- A byte that every cell at its address agrees on reads so once the cells are written. -/
theorem Mem.get_foldl_set {m : Mem} {cells : List (Nat × Byte)} {a : Nat} {b : Byte} (hm : m.wf = true) (hc : (a, b) ∈ cells)
    (h : ∀ c ∈ cells, c.1 = a → c.2 = b) : (cells.foldl (fun (m : Mem) c => m.set c.1 c.2) m).get a = b := by
  induction cells generalizing m with
  | nil => simp at hc
  | cons c cs ih =>
    have htail : ∀ d ∈ cs, d.1 = a → d.2 = b := fun d hd => h d (List.mem_cons_of_mem _ hd)
    rw [List.foldl_cons]
    by_cases hin : (a, b) ∈ cs
    · exact ih (Mem.wf_set _ _ hm) hin htail
    · have hnone : ∀ d ∈ cs, d.1 ≠ a := fun d hd hda => hin (by rw [← hda, ← htail d hd hda]; exact hd)
      have hhead : (a, b) = c := (List.mem_cons.mp hc).resolve_right hin
      rw [Mem.get_foldl_set_other (Mem.wf_set _ _ hm) hnone, Mem.get_set _ _ _ hm, if_pos (congrArg Prod.fst hhead), ← hhead]

/-- Bytes written from an address up read as they were written. -/
theorem Mem.get_foldl_range {m : Mem} (f : Nat → Byte) (a k i : Nat) (hm : m.wf = true) (hi : i < k) :
    (((List.range k).map fun i => (a + i, f i)).foldl (fun (m : Mem) c => m.set c.1 c.2) m).get (a + i) = f i := by
  refine Mem.get_foldl_set hm (List.mem_map.mpr ⟨i, List.mem_range.mpr hi, rfl⟩) fun c hc hca => ?_
  obtain ⟨x, -, rfl⟩ := List.mem_map.mp hc
  rw [Nat.add_left_cancel hca]

/-- The others read as before. -/
theorem Mem.get_foldl_range_other {m : Mem} (f : Nat → Byte) (a k x : Nat) (hm : m.wf = true) (hx : x < a ∨ a + k ≤ x) :
    (((List.range k).map fun i => (a + i, f i)).foldl (fun (m : Mem) c => m.set c.1 c.2) m).get x = m.get x := by
  refine Mem.get_foldl_set_other hm fun c hc => ?_
  obtain ⟨i, hi, rfl⟩ := List.mem_map.mp hc
  have := List.mem_range.mp hi
  dsimp only
  omega

/-! ## Slots of a workgroup -/

@[simp] theorem Workgroup.modSlot_id (w : Workgroup) (n : Nat) (f : Slot → Slot) : (w.modSlot n f).id = w.id := by
  unfold Workgroup.modSlot; split <;> rfl

@[simp] theorem Workgroup.modSlot_lid (w : Workgroup) (n : Nat) (f : Slot → Slot) : (w.modSlot n f).lid = w.lid := by
  unfold Workgroup.modSlot; split <;> rfl

@[simp] theorem Workgroup.modSlot_coreId (w : Workgroup) (n : Nat) (f : Slot → Slot) : (w.modSlot n f).coreId = w.coreId := by
  unfold Workgroup.modSlot; split <;> rfl

@[simp] theorem Workgroup.modSlot_sp (w : Workgroup) (n : Nat) (f : Slot → Slot) : (w.modSlot n f).sp = w.sp := by
  unfold Workgroup.modSlot; split <;> rfl

@[simp] theorem Workgroup.modSlot_offers (w : Workgroup) (n : Nat) (f : Slot → Slot) : (w.modSlot n f).offers = w.offers := by
  unfold Workgroup.modSlot; split <;> rfl

@[simp] theorem Workgroup.modSlot_lbar (w : Workgroup) (n : Nat) (f : Slot → Slot) : (w.modSlot n f).lbar = w.lbar := by
  unfold Workgroup.modSlot; split <;> rfl

@[simp] theorem Workgroup.modSlot_parked (w : Workgroup) (n : Nat) (f : Slot → Slot) : (w.modSlot n f).parked = w.parked := by
  unfold Workgroup.modSlot; split <;> rfl

/-- A slot changed changes nothing of its workgroup but the slots. -/
theorem Workgroup.modSlot_frame (w : Workgroup) (n : Nat) (f : Slot → Slot) :
    w.modSlot n f = { w with slots := (w.modSlot n f).slots } := by
  unfold Workgroup.modSlot; split <;> rfl

@[simp] theorem Workgroup.slot_modSlot {w : Workgroup} {n : Nat} {f : Slot → Slot} (h : n < 8) :
    (w.modSlot n f).slot n = f (w.slot n) := by
  simp [Workgroup.modSlot, Workgroup.slot, h]

theorem Workgroup.slot_modSlot_ne {w : Workgroup} {n m : Nat} {f : Slot → Slot} (h : m ≠ n) :
    (w.modSlot n f).slot m = w.slot m := by
  unfold Workgroup.modSlot Workgroup.slot
  split
  · split
    · simp [Vector.getElem_set_ne, Ne.symm h]
    · rfl
  · rfl

/-- Two changes of one slot are one. -/
theorem Workgroup.modSlot_modSlot (w : Workgroup) (n : Nat) (f g : Slot → Slot) :
    (w.modSlot n f).modSlot n g = w.modSlot n fun y => g (f y) := by
  by_cases h : n < 8 <;> simp [Workgroup.modSlot, h]

/-- What a change does to the slot as it stands is all that counts. -/
theorem Workgroup.modSlot_congr {w : Workgroup} {n : Nat} {f g : Slot → Slot} (h : f (w.slot n) = g (w.slot n)) :
    w.modSlot n f = w.modSlot n g := by
  unfold Workgroup.slot at h
  unfold Workgroup.modSlot
  split
  · next hn => rw [dif_pos hn] at h; rw [h]
  · rfl

/-- The slot found free has one of the eight numbers. -/
theorem Workgroup.freeSlot_lt {w : Workgroup} {n : Nat} (h : w.freeSlot = some n) : n < 8 :=
  List.mem_range.mp (List.mem_of_find?_eq_some h)

/-- A core is not at its end while entries are left to assign or something waits there (01 R28). -/
theorem Workgroup.not_atEnd {w : Workgroup} {l : Launch} (hst : l.st = .running) (hd : l.deadlock = false)
    (h : l.next < l.desc.count ∨ w.idxq ≠ [] ∨ w.offers ≠ [] ∨
      ∃ n, n < 8 ∧ (w.slot n).st ≠ .free ∧ (w.slot n).st ≠ .held) :
    w.atEnd l = false := by
  rw [Bool.eq_false_iff]
  intro he
  simp only [Workgroup.atEnd, hst, hd, Bool.or_eq_true, Bool.and_eq_true, decide_eq_true_eq, List.all_eq_true, beq_iff_eq,
    List.isEmpty_iff, reduceCtorEq, Bool.false_eq_true, or_self, false_or] at he
  obtain ⟨⟨⟨⟨hnext, hslots⟩, hidx⟩, hoff⟩, -⟩ := he
  rcases h with h | h | h | ⟨n, hn, hfree, hheld⟩
  · omega
  · exact h hidx
  · exact h hoff
  · have := hslots (w.slots[n]) (by simp)
    rw [Workgroup.slot, dif_pos hn] at hfree hheld
    exact this.elim hfree hheld

/-! ## The launch and the workgroup in the focus -/

/-- The launch in the focus is the one found under its number. -/
theorem State.findLaunch_focus {s : State} (h : s.ln.lid ≠ 0) : s.findLaunch s.ln.lid = some s.ln := by
  simp [State.findLaunch, State.allLaunches, h]

/-- The workgroup in the focus is one of its launch. -/
theorem State.wg_mem_launchWgs {s : State} (h : s.wg.id ≠ 0) : s.wg ∈ s.launchWgs s.wg.lid := by
  simp [State.launchWgs, State.allWgs, h]

theorem State.modWg_focus {s : State} {w : Nat} {f : Workgroup → Workgroup} (h : s.wg.id = w) :
    s.modWg w f = { s with wg := f s.wg } := by
  simp [State.modWg, h]

theorem State.modWg_wg (s : State) (w : Nat) (f : Workgroup → Workgroup) :
    (s.modWg w f).wg = if s.wg.id = w then f s.wg else s.wg := by
  by_cases h : s.wg.id = w <;> simp [State.modWg, h]

theorem State.modLaunch_focus {s : State} {f : Launch → Launch} {l : Nat} (h : s.ln.lid = l) :
    s.modLaunch l f = { s with ln := f s.ln } := by
  simp [State.modLaunch, h]

/-- t is s with other workgroups at most. -/
def State.OnlyWgs (s t : State) : Prop := ∃ w ws, t = { s with wg := w, wgs := ws }

theorem State.OnlyWgs.refl (s : State) : s.OnlyWgs s := ⟨_, _, rfl⟩

theorem State.OnlyWgs.trans {s t u : State} (h : s.OnlyWgs t) (k : t.OnlyWgs u) : s.OnlyWgs u := by
  obtain ⟨w, ws, rfl⟩ := h
  obtain ⟨v, vs, rfl⟩ := k
  exact ⟨v, vs, rfl⟩

theorem State.onlyWgs_modWg (s : State) (w : Nat) (f : Workgroup → Workgroup) : s.OnlyWgs (s.modWg w f) := by
  unfold State.modWg
  split <;> exact ⟨_, _, rfl⟩

theorem State.onlyWgs_foldl {α : Type} {f : State → α → State} (hf : ∀ (s : State) x, s.OnlyWgs (f s x)) (xs : List α)
    (s : State) : s.OnlyWgs (xs.foldl f s) :=
  List.foldlRecOn xs f (.refl s) fun t h x _ => h.trans (hf t x)

/-- What holds of the workgroup in the focus and is kept by each change holds after changes of several workgroups. -/
theorem State.foldl_modWg_wg {f : Workgroup → Workgroup → Workgroup} {p : Workgroup → Prop} (hf : ∀ x w, p w → p (f x w))
    (ws : List Workgroup) {s : State} (h : p s.wg) : p (ws.foldl (fun s x => s.modWg x.id (f x)) s).wg := by
  refine List.foldlRecOn (motive := fun t : State => p t.wg) ws _ h fun t ht x _ => ?_
  rw [State.modWg_wg]
  split
  · exact hf x _ ht
  · exact ht

/-- The workgroup in the focus changed where it is among those that change. -/
theorem State.foldl_modWg_focus {f : Workgroup → Workgroup} (hf : ∀ w, f (f w) = f w) (hid : ∀ w, (f w).id = w.id)
    {ws : List Workgroup} {s : State} (h : s.wg ∈ ws) : (ws.foldl (fun s x => s.modWg x.id f) s).wg = f s.wg := by
  obtain ⟨xs, ys, rfl⟩ := List.append_of_mem h
  have hbefore : (xs.foldl (fun s x => s.modWg x.id f) s).wg = s.wg ∨ (xs.foldl (fun s x => s.modWg x.id f) s).wg = f s.wg := by
    refine State.foldl_modWg_wg (f := fun _ => f) (p := fun w => w = s.wg ∨ w = f s.wg) (fun _ w hw => ?_) xs (.inl rfl)
    rcases hw with rfl | rfl
    · exact .inr rfl
    · exact .inr (hf _)
  rw [List.foldl_append, List.foldl_cons]
  refine State.foldl_modWg_wg (f := fun _ => f) (p := fun w => w = f s.wg) (fun _ w hw => by rw [hw, hf]) ys ?_
  rcases hbefore with he | he
  · rw [State.modWg_focus (by rw [he]), he]
  · rw [State.modWg_focus (by rw [he, hid]), he, hf]

/-! ## END looked at again (01 R24) -/

/-- The END condition of one core looked at again. -/
def Workgroup.lookAtEnd (w : Workgroup) (l : Launch) : Workgroup :=
  if w.atEnd l && !w.endSeen then { w.event with endSeen := true } else { w with endSeen := w.atEnd l }

/-- What `checkEnd` does to the cores of a launch. -/
theorem State.checkEnd_eq {s : State} {lid : Nat} {l : Launch} (h : s.findLaunch lid = some l) :
    s.checkEnd lid = (s.launchWgs lid).foldl (fun s x => s.modWg x.id fun w => w.lookAtEnd l) s := by
  simp only [State.checkEnd, h]; rfl

/-- A look at END changes the landing barrier and what is known of END. -/
theorem Workgroup.lookAtEnd_frame (w : Workgroup) (l : Launch) : ∃ b e, w.lookAtEnd l = { w with lbar := b, endSeen := e } := by
  unfold Workgroup.lookAtEnd
  split <;> exact ⟨_, _, rfl⟩

/-- A second look finds nothing new. -/
theorem Workgroup.lookAtEnd_twice (w : Workgroup) (l : Launch) : (w.lookAtEnd l).lookAtEnd l = w.lookAtEnd l := by
  have hseen : ∀ e, ({ w with endSeen := e } : Workgroup).atEnd l = w.atEnd l := fun _ => rfl
  have hevent : ({ w.event with endSeen := true } : Workgroup).atEnd l = w.atEnd l := rfl
  unfold Workgroup.lookAtEnd
  cases ha : w.atEnd l <;> cases hs : w.endSeen
  all_goals
    simp only [ha, hseen, hevent, Bool.and_true, Bool.and_false, Bool.not_true, Bool.not_false, if_true, Bool.false_eq_true,
      if_false]

/-- A look at the END conditions changes workgroups alone. -/
theorem State.checkEnd_onlyWgs (s : State) (lid : Nat) : s.OnlyWgs (s.checkEnd lid) := by
  unfold State.checkEnd
  split
  · exact .refl s
  · exact State.onlyWgs_foldl (fun s w => State.onlyWgs_modWg s _ _) _ s

/-- Of the workgroup in the focus it changes the landing barrier and what is known of END. -/
theorem State.checkEnd_wg (s : State) (lid : Nat) : ∃ b e, (s.checkEnd lid).wg = { s.wg with lbar := b, endSeen := e } := by
  cases hl : s.findLaunch lid with
  | none => exact ⟨s.wg.lbar, s.wg.endSeen, by simp only [State.checkEnd, hl]⟩
  | some l =>
    rw [State.checkEnd_eq hl]
    refine State.foldl_modWg_wg (f := fun _ w => w.lookAtEnd l) (p := fun w => ∃ b e, w = { s.wg with lbar := b, endSeen := e })
      ?_ _ ⟨_, _, rfl⟩
    rintro - - ⟨b, e, rfl⟩
    obtain ⟨b', e', h⟩ := ({ s.wg with lbar := b, endSeen := e } : Workgroup).lookAtEnd_frame l
    exact ⟨b', e', h⟩

/-- A core that is not at its end makes no event. -/
theorem State.checkEnd_open {s : State} (h0 : s.ln.lid ≠ 0) (hid : s.wg.id ≠ 0) (hlid : s.wg.lid = s.ln.lid)
    (ha : s.wg.atEnd s.ln = false) :
    ∃ ws, s.checkEnd s.ln.lid = { s with wg := { s.wg with endSeen := false }, wgs := ws } := by
  have hw : (s.checkEnd s.ln.lid).wg = s.wg.lookAtEnd s.ln := by
    rw [State.checkEnd_eq (State.findLaunch_focus h0)]
    refine State.foldl_modWg_focus (f := fun w => w.lookAtEnd s.ln) (fun w => w.lookAtEnd_twice _) (fun w => ?_)
      (hlid ▸ State.wg_mem_launchWgs hid)
    obtain ⟨b, e, h⟩ := w.lookAtEnd_frame s.ln
    rw [h]
  obtain ⟨w, ws, hframe⟩ := s.checkEnd_onlyWgs s.ln.lid
  rw [hframe, Workgroup.lookAtEnd, ha] at hw
  exact ⟨ws, by rw [hframe]; exact congrArg (fun w => { s with wg := w, wgs := ws }) hw⟩

/-! ## Assignment (01 R19 to R24) -/

/-- A core that takes the next entry has a free place (01 R20). -/
theorem State.taker_hasPlace {s : State} {l : Launch} {ws : List Workgroup} {k : Nat} {w : Workgroup}
    (h : s.taker l ws = some k) (hw : ws[k]? = some w) : w.hasPlace l.desc = true := by
  have hfree : (ws[k]?).any (fun w : Workgroup => w.hasPlace l.desc) = true := by
    simp only [State.taker] at h
    split at h
    · split at h
      · next hp => exact Option.some.inj h ▸ hp
      · cases h
    · exact List.find?_some (p := fun k => (ws[k]?).any fun w : Workgroup => w.hasPlace l.desc) h
  simpa [hw] using hfree

/-- On a page grid the place is a landing slot. -/
theorem Workgroup.hasPlace_slot {w : Workgroup} {d : Desc} (h : w.hasPlace d = true) (hp : d.pageGrid = true) :
    ∃ n, w.freeSlot = some n := by
  simp only [Workgroup.hasPlace, hp, if_true, Bool.and_eq_true] at h
  exact Option.isSome_iff_exists.mp h.2.1

/-- A frame that a device read meets is marked, and nothing else changes. -/
theorem State.devTouch_frame (s : State) (l : Launch) (va : Nat) : s.devTouch l va = { s with fit := (s.devTouch l va).fit } := by
  unfold State.devTouch
  split <;> rfl

/-- So it is with the reads for the next index. -/
theorem State.readEntry_frame (s : State) (l : Launch) : ∃ f, s.readEntry l = { s with fit := f } := by
  have htouch : ∀ (t : State) (va : Nat), (∃ f, t = { s with fit := f }) → ∃ f, t.devTouch l va = { s with fit := f } := by
    rintro - va ⟨f, rfl⟩
    exact ⟨_, State.devTouch_frame _ l va⟩
  have hplan : ∃ f, (if l.desc.plan = 0 then s else s.devTouch l (l.desc.plan + 2 * l.next)) = { s with fit := f } := by
    split
    · exact ⟨_, rfl⟩
    · exact htouch _ _ ⟨_, rfl⟩
  unfold State.readEntry
  dsimp only
  split
  · exact htouch _ _ hplan
  · exact hplan

/-- What the next entry is: the LPN of a valid one on a page grid. -/
def State.nextEntry (s : State) : Option Nat := if s.ln.desc.pageGrid then s.listEntry s.ln s.ln.next else none

/-- The launch after its next entry was given to the core at gang position k. -/
def State.dealt (s : State) (k : Nat) : Launch :=
  { s.ln with next := s.ln.next + 1, rr := (k + 1) % (s.gang s.ln.lid).length }

/-- The premises of an assignment to the workgroup in the focus. -/
structure State.Assigns (s : State) (k : Nat) : Prop where
  focus : s.Focused
  runs  : s.ln.st = .running
  going : s.ln.aborted = false
  moves : s.ln.deadlock = false
  left  : s.groupsLeft s.ln.lid = true
  more  : s.ln.next < s.ln.desc.count
  taker : s.taker s.ln (s.gang s.ln.lid) = some k
  wg    : (s.gang s.ln.lid)[k]? = some s.wg

/-- An assignment that leaves the core with something at hand: what it gave, and the launch moved on. -/
theorem State.Assigns.gives {s : State} {k : Nat} {w : Workgroup} {f : List FitEntry} {js : List Job} (h : s.Assigns k)
    (ha : (s.readEntry s.ln).assign s.ln s.wg s.nextEntry = { s with wg := w, fit := f, jobs := js }) (hid : w.id = s.wg.id)
    (hlid : w.lid = s.wg.lid)
    (hw : w.idxq ≠ [] ∨ w.offers ≠ [] ∨ ∃ n, n < 8 ∧ (w.slot n).st ≠ .free ∧ (w.slot n).st ≠ .held) :
    ∃ ws, exec .entryAssignment s =
      .next { s with wg := { w with endSeen := false }, wgs := ws, ln := s.dealt k, fit := f, jobs := js } := by
  have hstep : exec .entryAssignment s =
      .next (({ s with wg := w, fit := f, jobs := js, ln := s.dealt k } : State).checkEnd s.ln.lid) := by
    simp only [exec, execEntryAssignment, h.runs, h.going, h.left, h.more, h.taker, h.wg, beq_self_eq_true, Bool.not_false,
      decide_true, Bool.and_self, if_true]
    rw [show (if s.ln.desc.pageGrid = true then s.listEntry s.ln s.ln.next else none) = s.nextEntry from rfl, ha,
      State.modLaunch_focus rfl]
    rfl
  rw [hstep]
  have hopen : w.atEnd (s.dealt k) = false := Workgroup.not_atEnd h.runs h.moves (.inr hw)
  obtain ⟨ws, hws⟩ := State.checkEnd_open (s := { s with wg := w, fit := f, jobs := js, ln := s.dealt k }) h.focus.launch
    (hid ▸ h.focus.wg) (hlid ▸ h.focus.ofLn) hopen
  exact ⟨ws, congrArg _ hws⟩

/-- An index of an index grid is queued (01 R21). -/
theorem State.Assigns.index {s : State} {k : Nat} (h : s.Assigns k) (hp : s.ln.desc.pageGrid = false) :
    ∃ ws f, exec .entryAssignment s = .next { s with
      wg := { s.wg with
        idxq := s.wg.idxq ++ [s.ln.next], lbar := { s.wg.lbar with phase := s.wg.lbar.phase + 1 }, endSeen := false }
      wgs := ws, ln := s.dealt k, fit := f } := by
  obtain ⟨f, hf⟩ := s.readEntry_frame s.ln
  have ha : (s.readEntry s.ln).assign s.ln s.wg s.nextEntry =
      { s with wg := ({ s.wg with idxq := s.wg.idxq ++ [s.ln.next] } : Workgroup).event, fit := f, jobs := s.jobs } := by
    simp [hf, State.assign, State.modWg_focus, Workgroup.give, hp]
  obtain ⟨ws, hws⟩ := h.gives ha rfl rfl (.inl (by simp))
  exact ⟨ws, f, hws⟩

/-- An invalid entry of a page list is offered without a slot (01 R19). -/
theorem State.Assigns.invalid {s : State} {k : Nat} (h : s.Assigns k) (hp : s.ln.desc.pageGrid = true)
    (he : s.listEntry s.ln s.ln.next = none) :
    ∃ ws f, exec .entryAssignment s = .next { s with
      wg := { s.wg with
        offers := s.wg.offers ++ [.bad s.ln.next]
        lbar := { s.wg.lbar with phase := s.wg.lbar.phase + 1 }
        endSeen := false }
      wgs := ws, ln := s.dealt k, fit := f } := by
  obtain ⟨f, hf⟩ := s.readEntry_frame s.ln
  have ha : (s.readEntry s.ln).assign s.ln s.wg s.nextEntry =
      { s with wg := ({ s.wg with offers := s.wg.offers ++ [.bad s.ln.next] } : Workgroup).event, fit := f, jobs := s.jobs } := by
    simp [hf, State.assign, State.modWg_focus, Workgroup.give, State.nextEntry, hp, he]
  obtain ⟨ws, hws⟩ := h.gives ha rfl rfl (.inr (.inl (by simp)))
  exact ⟨ws, f, hws⟩

/-- The slot of an entry assigned: its page is to be sensed, its barrier is armed (01 R22, R23). -/
def Slot.assigned (y : Slot) (l : Launch) (p : Nat) : Slot :=
  { Slot.free with st := .sensing, idx := l.next, lpn := p, bar := ⟨l.ticket, 1, 0, 16384, 0, 1, y.bar.phase⟩ }

/-- A job of the device's own as the gang's task scheduler accepts it (01 R41, R42, 08 R138). -/
def State.newOwn (s : State) (w : Workgroup) (kind : BitVec 8) (r : Nat) (reads writes : List (Nat × Nat × Nat)) : Job :=
  { Job.fresh s.newJob w.lid w.id 16 0xFFFFFFFF with
    kind := kind, param := BitVec.ofNat 32 r, reads := reads, writes := writes, preds := s.predsOf w.lid reads writes [] }

theorem State.acceptOwn_eq (s : State) (w : Workgroup) (kind : BitVec 8) (r : Nat) (reads writes : List (Nat × Nat × Nat)) :
    s.acceptOwn w kind r reads writes = { s with jobs := s.jobs ++ [s.newOwn w kind r reads writes] } := rfl

/-- The landing of page p in slot n of the workgroup in the focus. -/
def State.landing (s : State) (n p : Nat) : Job :=
  s.newOwn s.wg landKind n [(flashSpace s.ln.desc.nsid, p, 1)] (slotRange s.wg.id n)

/-- A valid entry's page is to be sensed in a free slot, and its landing joins the jobs of the gang (01 R22 to R24, 08 R138). -/
theorem State.Assigns.page {s : State} {k p n : Nat} (h : s.Assigns k) (hp : s.ln.desc.pageGrid = true)
    (he : s.listEntry s.ln s.ln.next = some p) (hn : s.wg.freeSlot = some n) :
    ∃ ws f, exec .entryAssignment s = .next { s with
      wg := { s.wg.modSlot n fun y => y.assigned s.ln p with endSeen := false }
      wgs := ws, ln := s.dealt k, fit := f, jobs := s.jobs ++ [s.landing n p] } := by
  obtain ⟨f, hf⟩ := s.readEntry_frame s.ln
  have ha : (s.readEntry s.ln).assign s.ln s.wg s.nextEntry =
      { s with wg := s.wg.modSlot n fun y => y.assigned s.ln p, fit := f, jobs := s.jobs ++ [s.landing n p] } := by
    simp [hf, State.assign, State.modWg_focus, Workgroup.give, State.nextEntry, hp, he, hn]
    rfl
  have hn8 := Workgroup.freeSlot_lt hn
  obtain ⟨ws, hws⟩ := h.gives ha (by simp) (by simp)
    (.inr (.inr ⟨n, hn8, by simp [hn8, Slot.assigned], by simp [hn8, Slot.assigned]⟩))
  exact ⟨ws, f, hws⟩

/-- An earlier job of the gang that meets the ranges of a new one precedes it (08 R135). -/
theorem State.mem_predsOf {s : State} {e : Job} {lid : Nat} {reads writes : List (Nat × Nat × Nat)} {after : List (BitVec 16)}
    (h : e ∈ s.jobs) (hl : e.lid = lid) (hb : e.before reads writes = true) : e.id ∈ s.predsOf lid reads writes after :=
  List.mem_map_of_mem (List.mem_filter.mpr ⟨h, by simp [hl, hb]⟩)

/-- The assignment clauses of O46, by the kind of the grid and the entry. -/
theorem entryAssignment : Claims.EntryAssignment := by
  intro s k hf hr ha hd hg hn ht hw
  have h : s.Assigns k := ⟨hf, hr, ha, hd, hg, hn, ht, hw⟩
  cases hp : s.ln.desc.pageGrid with
  | false =>
    obtain ⟨ws, f, hx⟩ := h.index hp
    exact ⟨_, hx, rfl, rfl, fun _ => rfl, fun _ => rfl, nofun, nofun⟩
  | true =>
    cases he : s.listEntry s.ln s.ln.next with
    | none =>
      obtain ⟨ws, f, hx⟩ := h.invalid hp he
      exact ⟨_, hx, rfl, rfl, fun _ => rfl, nofun, fun _ _ => rfl, nofun⟩
    | some p =>
      obtain ⟨n, hfree⟩ := Workgroup.hasPlace_slot (State.taker_hasPlace ht hw) hp
      obtain ⟨ws, f, hx⟩ := h.page hp he hfree
      refine ⟨_, hx, rfl, rfl, by simp, nofun, nofun, ?_⟩
      rintro q - hq
      cases hq
      refine ⟨n, hfree, Workgroup.freeSlot_lt hfree, rfl, _, rfl, hf.ofLn, rfl, rfl, rfl, rfl, rfl, fun e he hl hb => ?_⟩
      exact State.mem_predsOf he (hl.trans hf.ofLn.symm) hb

/-! ## Sensing (01 R27, 28 R378) -/

/-- A slot after one sense of its page: read as zeros where the page was never written, not decoded where its key is gone. -/
def State.senseOf (s : State) (y : Slot) (ok : Bool) : Slot :=
  if s.pageWritten s.ln.desc.nsid y.lpn then y.sense (ok && s.pageKeyed s.ln.desc.nsid y.lpn)
  else { y with sensed := true, pstat := 0 }

/-- A sense waits for the jobs before the landing (08 R135). -/
theorem flashSense_waits {s : State} {n : Nat} {ok : Bool} {j : Job} (hj : s.slotJob n (s.wg.slot n) = some j)
    (hp : j.preds ≠ []) : exec (.flashSense n ok) s = .next s := by
  simp [exec, execFlashSense, hj, hp]

/-- A sense of a page that is to be sensed. -/
theorem flashSense_senses {s : State} {n : Nat} {ok : Bool} {j : Job} (hst : (s.wg.slot n).st = .sensing)
    (hs : (s.wg.slot n).sensed = false) (hj : s.slotJob n (s.wg.slot n) = some j) (hp : j.preds = []) :
    exec (.flashSense n ok) s = .next { s with
      wg := s.wg.modSlot n fun _ => s.senseOf (s.wg.slot n) ok
      jobs := if (s.senseOf (s.wg.slot n) ok).sensed then
          (s.modJob j.id fun j => j.decoded (s.wg.slot n).lpn (s.flashPage s.ln.desc.nsid (s.wg.slot n).lpn)).jobs
        else s.jobs } := by
  have hgo : ((s.wg.slot n).st == .sensing && !(s.wg.slot n).sensed && j.preds.isEmpty) = true := by simp [hst, hs, hp]
  have hstep : exec (.flashSense n ok) s = .next (
      if (s.senseOf (s.wg.slot n) ok).sensed then
        ({ s with wg := s.wg.modSlot n fun _ => s.senseOf (s.wg.slot n) ok } : State).modJob j.id fun j =>
          j.decoded (s.wg.slot n).lpn (s.flashPage s.ln.desc.nsid (s.wg.slot n).lpn)
      else { s with wg := s.wg.modSlot n fun _ => s.senseOf (s.wg.slot n) ok }) := by
    simp only [exec, execFlashSense, hj, hgo, if_true]
    rfl
  rw [hstep]
  split <;> rfl

/-- A page never written reads as zeros, without a sense (28 R378). -/
theorem State.senseOf_unwritten {s : State} {y : Slot} {ok : Bool} (h : s.pageWritten s.ln.desc.nsid y.lpn = false) :
    s.senseOf y ok = { y with sensed := true, pstat := 0 } := by
  simp [State.senseOf, h]

/-- A page whose key the namespace has is decoded as the sense says. -/
theorem State.senseOf_keyed {s : State} {y : Slot} {ok : Bool} (h : s.pageWritten s.ln.desc.nsid y.lpn = true)
    (hk : s.pageKeyed s.ln.desc.nsid y.lpn = true) : s.senseOf y ok = y.sense ok := by
  simp [State.senseOf, h, hk]

/-- Decoded at a read-retry level. -/
theorem Slot.sense_decoded {y : Slot} (h : y.level ≤ 8) :
    y.sense true = { y with sensed := true, pstat := BitVec.ofNat 16 y.level } := by
  simp [Slot.sense, show y.level ≠ 9 by omega]

/-- Decoded by the soft decode. -/
theorem Slot.sense_soft {y : Slot} (h : y.level = 9) : y.sense true = { y with sensed := true, pstat := 0x208 } := by
  simp [Slot.sense, h]

/-- Not decoded: one level on. -/
theorem Slot.sense_retry {y : Slot} (h : y.level ≤ 8) : y.sense false = { y with level := y.level + 1 } := by
  simp [Slot.sense, show y.level ≠ 9 by omega]

/-- Not decoded by the soft decode: uncorrectable, with its touch trap armed. -/
theorem Slot.sense_lost {y : Slot} (h : y.level = 9) : y.sense false = { y with sensed := true, pstat := 0x408, trap := true } := by
  simp [Slot.sense, h]

/-- The sensing clauses of O46: one sense by whether the page was written, whether it decodes, and the level. -/
theorem flashSense : Claims.FlashSense := by
  intro s n ok j hn hst hs hj
  refine ⟨flashSense_waits hj, fun hp => ⟨_, flashSense_senses hst hs hj hp, ?_⟩⟩
  simp only [Workgroup.slot_modSlot hn]
  refine ⟨trivial, fun h => by simp [h], fun h => by simp only [h, if_true]; rfl, State.senseOf_unwritten, fun hw hk => ?_⟩
  rw [State.senseOf_keyed hw hk]
  refine ⟨?_, ?_, ?_, ?_⟩ <;> rintro rfl hl
  · exact Slot.sense_decoded hl
  · exact Slot.sense_soft hl
  · exact Slot.sense_retry hl
  · exact Slot.sense_lost hl

/-- Settles O46: the assignment of entries and indexes, and the sensing of pages. -/
theorem dispenserAssigns : Obligations.DispenserAssigns := ⟨entryAssignment, flashSense⟩

/-! ## What recording parked blocks may change (01 R34, R44 to R46) -/

/-- What the owner table says of a frame (26 R354). -/
def FitEntry.owner (e : FitEntry) : Nat × Bool × BitVec 21 := (e.dfn, e.owned, e.ticket)

theorem FitEntry.owner_inj {x e : FitEntry} : x.owner = e.owner ↔ x.dfn = e.dfn ∧ x.owned = e.owned ∧ x.ticket = e.ticket := by
  simp [FitEntry.owner]

/-- A change of FIT entries that keeps what the owner table says keeps it for the whole table. -/
theorem map_owner_map {f : FitEntry → FitEntry} (hf : ∀ e, (f e).owner = e.owner) (es : List FitEntry) :
    (es.map f).map FitEntry.owner = es.map FitEntry.owner := by
  rw [List.map_map]
  exact List.map_congr_left fun e _ => hf e

/-- A frame marked keeps its owner. -/
theorem State.touch_owner (s : State) (da : Nat) (w : Bool) : (s.touch da w).fit.map FitEntry.owner = s.fit.map FitEntry.owner := by
  refine map_owner_map (fun e => ?_) s.fit
  split <;> rfl

/-- A count raised changes records of the tree alone. -/
theorem State.raiseTile_frame (s : State) (d : Nat) : ∃ tr fr, s.raiseTile d = { s with tree := tr, free := fr } := by
  unfold State.raiseTile
  split
  · exact ⟨_, _, rfl⟩
  · split <;> exact ⟨_, _, rfl⟩

/-- A batch changes memory, the counts of tiles, and marks of frames; owners stay (08 R124, 10 R148). -/
theorem State.batch_frame (s : State) (cells : List (Nat × Byte)) :
    ∃ m f tr fr, s.batch cells = { s with mem := m, fit := f, tree := tr, free := fr } ∧
      f.map FitEntry.owner = s.fit.map FitEntry.owner := by
  unfold State.batch
  refine List.foldlRecOn (motive := fun t : State => ∃ m f tr fr, t = { s with mem := m, fit := f, tree := tr, free := fr } ∧
    f.map FitEntry.owner = s.fit.map FitEntry.owner) _ _ ⟨_, _, _, _, rfl, rfl⟩ ?_
  rintro - ⟨m, f, tr, fr, rfl, hf⟩ d -
  obtain ⟨tr', fr', h⟩ := State.raiseTile_frame
    (State.touch { s with mem := m, fit := f, tree := tr, free := fr } (d * 0x10000) true) d
  exact ⟨_, _, tr', fr', h, (State.touch_owner _ _ _).trans hf⟩

/-- What writing cells of parked blocks, and dropping these, may change: parked records, late faults and grid words of a launch,
memory with its marks and counts. -/
structure State.Recorded (s t : State) : Prop where
  rest : t = { s with
    wg := { s.wg with parked := t.wg.parked }
    wgs := t.wgs
    ln := { s.ln with
      lateCnt := t.ln.lateCnt, lateIdx := t.ln.lateIdx, nparked := t.ln.nparked, firstPark := t.ln.firstPark }
    launches := t.launches, mem := t.mem, fit := t.fit, tree := t.tree, free := t.free }
  owners : t.fit.map FitEntry.owner = s.fit.map FitEntry.owner

theorem State.Recorded.refl (s : State) : s.Recorded s := ⟨rfl, rfl⟩

theorem State.Recorded.trans {s t u : State} (h : s.Recorded t) (k : t.Recorded u) : s.Recorded u where
  rest := k.rest.trans (by rw [h.rest])
  owners := k.owners.trans h.owners

theorem State.recorded_foldl {α : Type} {f : State → α → State} (hf : ∀ (s : State) x, s.Recorded (f s x)) (xs : List α)
    (s : State) : s.Recorded (xs.foldl f s) :=
  List.foldlRecOn xs f (.refl s) fun t h x _ => h.trans (hf t x)

theorem State.recorded_batch (s : State) (cells : List (Nat × Byte)) : s.Recorded (s.batch cells) := by
  obtain ⟨m, f, tr, fr, h, hf⟩ := s.batch_frame cells
  rw [h]
  exact ⟨rfl, hf⟩

theorem State.recorded_modLaunch (s : State) (lid : Nat) {f : Launch → Launch} (hf : ∀ l, f l = { l with
      lateCnt := (f l).lateCnt, lateIdx := (f l).lateIdx, nparked := (f l).nparked, firstPark := (f l).firstPark }) :
    s.Recorded (s.modLaunch lid f) := by
  unfold State.modLaunch
  split
  · exact ⟨congrArg (fun l => { s with ln := l }) (hf s.ln), rfl⟩
  · exact ⟨rfl, rfl⟩

theorem State.recorded_modWg (s : State) (w : Nat) {f : Workgroup → Workgroup}
    (hf : ∀ w, f w = { w with parked := (f w).parked }) : s.Recorded (s.modWg w f) := by
  unfold State.modWg
  split
  · exact ⟨congrArg (fun w => { s with wg := w }) (hf s.wg), rfl⟩
  · exact ⟨rfl, rfl⟩

/-- A late fault counts, and is written to the log (07 R116). -/
theorem State.recorded_late (s : State) (lid : Nat) (f : LateFault) : s.Recorded (s.late lid f) := by
  unfold State.late
  split
  · exact .refl s
  · have hcount := s.recorded_modLaunch lid (f := fun l => { l with lateCnt := min 0xFFFFFFFF (l.lateCnt + 1) }) fun _ => rfl
    dsimp only
    split
    · exact hcount
    · split
      · exact hcount.trans ((State.recorded_batch _ _).trans (State.recorded_modLaunch _ _ fun _ => rfl))
      · exact hcount

/-- A cell is written, or its failure is late (01 R34). -/
theorem State.recorded_writeCell (s : State) (lid idx core gid value : Nat) : s.Recorded (s.writeCell lid idx core gid value) := by
  unfold State.writeCell
  split
  · exact .refl s
  · dsimp only
    split
    · exact State.recorded_batch _ _
    · exact State.recorded_late _ _ _

/-- The parked blocks of a launch that ends are recorded and dropped (01 R44 to R46). -/
theorem State.recorded_dropParked (s : State) (lid : Nat) (d : Bool) : s.Recorded (s.dropParked lid d) := by
  unfold State.dropParked
  exact (State.recorded_foldl (fun _ _ => State.recorded_writeCell ..) _ s).trans
    ((State.recorded_foldl (fun _ _ => State.recorded_modWg _ _ fun _ => rfl) _ _).trans
      (State.recorded_modLaunch _ _ fun _ => rfl))

@[simp] theorem State.modLaunch_wg (s : State) (l : Nat) (f : Launch → Launch) : (s.modLaunch l f).wg = s.wg := by
  unfold State.modLaunch; split <;> rfl

/-- Of the workgroup in the focus, a DEADLOCK found changes parked records, the landing barrier and END (01 R44). -/
theorem State.checkDeadlock_wg (s : State) (lid : Nat) :
    ∃ p b e, (s.checkDeadlock lid).wg = { s.wg with parked := p, lbar := b, endSeen := e } := by
  unfold State.checkDeadlock
  split
  · exact ⟨_, _, _, rfl⟩
  · split
    · refine State.foldl_modWg_wg (f := fun _ w => { w.event with endSeen := true })
        (p := fun w => ∃ p b e, w = { s.wg with parked := p, lbar := b, endSeen := e }) ?_ _
        ⟨(s.dropParked lid true).wg.parked, s.wg.lbar, s.wg.endSeen, ?_⟩
      · rintro - - ⟨p, b, e, rfl⟩
        exact ⟨_, _, _, rfl⟩
      · rw [State.modLaunch_wg]
        exact congrArg State.wg (s.recorded_dropParked lid true).rest
    · exact ⟨_, _, _, rfl⟩

/-- No DEADLOCK while entries are left to assign (01 R44). -/
theorem State.checkDeadlock_open {s : State} {lid : Nat} {l : Launch} (h : s.findLaunch lid = some l) (hn : l.next < l.desc.count) :
    s.checkDeadlock lid = s := by
  simp [State.checkDeadlock, h, State.deadlocked, Nat.not_le.mpr hn]

/-! ## Slots held for jobs alone made free (01 R22) -/

/-- What a sweep of a launch's slots may do to one of its workgroups, v before and w after it: a slot is emptied where a
workgroup ws of its number is held. -/
structure Workgroup.Swept (ws : List Workgroup) (v w : Workgroup) : Prop where
  rest : w = { v with slots := w.slots }
  slot : ∀ m, w.slot m = v.slot m ∨ w.slot m = (v.slot m).emptied ∧ ∃ x ∈ ws, x.id = v.id ∧ (x.slot m).st = .held

theorem Workgroup.Swept.id_eq {ws : List Workgroup} {v w : Workgroup} (h : v.Swept ws w) : w.id = v.id := by rw [h.rest]

theorem Workgroup.Swept.lid_eq {ws : List Workgroup} {v w : Workgroup} (h : v.Swept ws w) : w.lid = v.lid := by rw [h.rest]

theorem Workgroup.Swept.refl (ws : List Workgroup) (w : Workgroup) : w.Swept ws w := ⟨rfl, fun _ => .inl rfl⟩

/-- One more slot emptied. -/
theorem Workgroup.Swept.empty {ws : List Workgroup} {v w x : Workgroup} {n : Nat} (h : v.Swept ws w) (hx : x ∈ ws)
    (hid : x.id = w.id) (hn : n < 8) (hst : (x.slot n).st = .held) : v.Swept ws (w.modSlot n Slot.emptied) where
  rest := by rw [Workgroup.modSlot_frame, h.rest]
  slot m := by
    by_cases hm : m = n
    · subst hm
      right
      refine ⟨?_, x, hx, hid.trans h.id_eq, hst⟩
      rw [Workgroup.slot_modSlot hn]
      rcases h.slot m with he | ⟨he, -⟩ <;> rw [he]
      rfl
    · rw [Workgroup.slot_modSlot_ne hm]
      exact h.slot m

/-- A slot is as before, or emptied; its barrier stands either way. -/
theorem Workgroup.Swept.bar {ws : List Workgroup} {v w : Workgroup} (h : v.Swept ws w) (m : Nat) :
    (w.slot m).bar = (v.slot m).bar := by
  rcases h.slot m with he | ⟨he, -⟩ <;> rw [he]
  rfl

/-- A sweep leaves a slot that is not held, where no other workgroup has the number of its own. -/
theorem Workgroup.Swept.kept {ws : List Workgroup} {v w : Workgroup} {m : Nat} (h : v.Swept ws w)
    (hst : (v.slot m).st ≠ .held) (hws : ∀ x ∈ ws, x.id = v.id → x = v) : w.slot m = v.slot m := by
  rcases h.slot m with he | ⟨-, x, hx, hid, hx'⟩
  · exact he
  · exact absurd (hws x hx hid ▸ hx') hst

/-- A slot that no job covers is released by emptying it. -/
theorem State.releaseSlot_uncovered {s : State} {w n : Nat} (h : s.jobCovers w n = false) :
    s.releaseSlot w n = s.modWg w fun x => x.modSlot n Slot.emptied := by
  simp only [State.releaseSlot, h]
  rfl

/-- The sweep of a launch's slots: workgroups alone change, the one in the focus as `Workgroup.Swept` says. -/
theorem State.sweepSlots_swept (s : State) (lid : Nat) :
    s.OnlyWgs (s.sweepSlots lid) ∧ s.wg.Swept (s.launchWgs lid) (s.sweepSlots lid).wg := by
  unfold State.sweepSlots
  refine List.foldlRecOn (motive := fun t : State => s.OnlyWgs t ∧ s.wg.Swept (s.launchWgs lid) t.wg) _ _
    ⟨.refl s, .refl _ _⟩ ?_
  intro t ht x hx
  refine List.foldlRecOn (motive := fun t : State => s.OnlyWgs t ∧ s.wg.Swept (s.launchWgs lid) t.wg) _ _ ht ?_
  rintro u ⟨honly, hswept⟩ n hn
  split
  · next hc =>
    simp only [Bool.and_eq_true, beq_iff_eq, Bool.not_eq_true'] at hc
    obtain ⟨⟨hst, -⟩, hcov⟩ := hc
    rw [State.releaseSlot_uncovered hcov]
    refine ⟨honly.trans (State.onlyWgs_modWg _ _ _), ?_⟩
    unfold State.modWg
    split
    · next hid => exact hswept.empty hx (beq_iff_eq.mp hid).symm (List.mem_range.mp hn) hst
    · exact hswept
  · exact ⟨honly, hswept⟩

/-! ## A job that is over (08 R135) -/

/-- The jobs that are left when one is over; none waits for it any more. -/
def State.jobsWithout (s : State) (j : Job) : List Job :=
  (s.jobs.filter fun k => k.id != j.id).map fun (k : Job) => { k with preds := k.preds.filter fun p => p != j.id }

theorem State.mem_jobsWithout {s : State} {j x : Job} (h : x ∈ s.jobsWithout j) : x.id ≠ j.id ∧ j.id ∉ x.preds := by
  obtain ⟨k, hk, rfl⟩ := List.mem_map.mp h
  have := (List.mem_filter.mp hk).2
  simpa using this

/-- A job over, in its three parts: slots swept, END and DEADLOCK looked at. -/
theorem State.dropJob_eq (s : State) (j : Job) :
    s.dropJob j = ((({ s with jobs := s.jobsWithout j } : State).sweepSlots j.lid).checkEnd j.lid).checkDeadlock j.lid := rfl

/-- Scratchpad and slot barriers of the workgroup in the focus are as before. -/
theorem State.dropJob_kept (s : State) (j : Job) :
    (s.dropJob j).wg.sp = s.wg.sp ∧ ∀ m, ((s.dropJob j).wg.slot m).bar = (s.wg.slot m).bar := by
  rw [State.dropJob_eq]
  generalize ht : ({ s with jobs := s.jobsWithout j } : State) = t
  obtain ⟨p, b, e, hdead⟩ := ((t.sweepSlots j.lid).checkEnd j.lid).checkDeadlock_wg j.lid
  obtain ⟨b', e', hend⟩ := (t.sweepSlots j.lid).checkEnd_wg j.lid
  obtain ⟨-, hswept⟩ := t.sweepSlots_swept j.lid
  have hwg : t.wg = s.wg := by rw [← ht]
  rw [hdead, hend]
  refine ⟨?_, fun m => ?_⟩
  · show (t.sweepSlots j.lid).wg.sp = s.wg.sp
    rw [hswept.rest, hwg]
  · exact (hswept.bar m).trans (by rw [hwg])

/-- The workgroup in the focus is at work for a running launch that has entries left to assign. -/
structure State.Open (s : State) : Prop where
  focus : s.Focused
  runs  : s.ln.st = .running
  moves : s.ln.deadlock = false
  more  : s.ln.next < s.ln.desc.count

/-- It stays so where the workgroup in the focus is replaced by one of its number, and memory changes. -/
theorem State.Open.withWg {s : State} (h : s.Open) {w : Workgroup} (hid : w.id = s.wg.id) (hlid : w.lid = s.wg.lid)
    (hcore : w.coreId = s.wg.coreId) (m : Mem) (f : List FitEntry) (tr : List TreeRec) (fr : Nat) :
    ({ s with wg := w, mem := m, fit := f, tree := tr, free := fr } : State).Open where
  focus := ⟨h.focus.group, hid ▸ h.focus.wg, h.focus.launch, h.focus.ofWg.trans hid.symm, hlid.trans h.focus.ofLn,
    h.focus.ofCore.trans hcore.symm⟩
  runs := h.runs
  moves := h.moves
  more := h.more

/-- A job of the launch in the focus over while entries are left to assign: END and DEADLOCK stay away. -/
theorem State.Open.dropJob {s : State} {j : Job} (h : s.Open) (hj : j.lid = s.ln.lid) :
    ∃ w ws, s.dropJob j = { s with wg := { w with endSeen := false }, wgs := ws, jobs := s.jobsWithout j } ∧
      s.wg.Swept (s.launchWgs s.ln.lid) w := by
  obtain ⟨⟨w, ws, hsweep⟩, hswept⟩ := ({ s with jobs := s.jobsWithout j } : State).sweepSlots_swept s.ln.lid
  rw [hsweep] at hswept
  have hid : w.id = s.wg.id := hswept.id_eq
  have hlid : w.lid = s.wg.lid := hswept.lid_eq
  obtain ⟨ws', hend⟩ := State.checkEnd_open (s := { s with wg := w, wgs := ws, jobs := s.jobsWithout j }) h.focus.launch
    (hid ▸ h.focus.wg) (hlid.trans h.focus.ofLn) (Workgroup.not_atEnd h.runs h.moves (.inl h.more))
  refine ⟨w, ws', ?_, hswept⟩
  rw [State.dropJob_eq, hj, hsweep]
  refine (congrArg (fun t : State => t.checkDeadlock s.ln.lid) hend).trans ?_
  exact State.checkDeadlock_open (State.findLaunch_focus (s := { s with
    wg := { w with endSeen := false }, wgs := ws', jobs := s.jobsWithout j }) h.focus.launch) h.more

/-! ## A frame marked answers accesses as before (07 R103, R106) -/

/-- A frame marked keeps its number and all that an access looks at. -/
theorem State.touch_frameCheck (s : State) (da : Nat) (w : Bool) (t : Nat) (ticket : BitVec 21) (x : Nat) :
    (s.touch da w).frameCheck t ticket x = s.frameCheck t ticket x := by
  have hfit : (s.touch da w).fitOf (x / 0x10000) = (s.fitOf (x / 0x10000)).map fun e =>
      if e.dfn == da / 0x10000 then { e with acc := true, dirty := e.dirty || w } else e := by
    simp only [State.fitOf, State.touch, State.modFit_fit, List.find?_map]
    congr 2
    funext e
    dsimp only [Function.comp]
    split <;> rfl
  unfold State.frameCheck
  rw [hfit]
  cases s.fitOf (x / 0x10000) with
  | none => rfl
  | some e =>
    rw [Option.map_some]
    cases e.dfn == da / 0x10000 <;> rfl

theorem State.devTouch_areaAddr (s : State) (k : Launch) (x : Nat) (l : Launch) (va : Nat) :
    (s.devTouch k x).areaAddr l va = s.areaAddr l va := by
  have hreach : (s.devTouch k x).reachVa l.cmd.tenant l.ticket va true = s.reachVa l.cmd.tenant l.ticket va true := by
    unfold State.devTouch
    split
    · simp only [State.reachVa, State.touch_frameCheck]; rfl
    · rfl
  simp only [State.areaAddr, hreach]

/-! ## Landing (01 R22, R23, R42) -/

@[simp] theorem State.begun_id (s : State) (j : Job) : (s.begun j).id = j.id := by unfold State.begun; split <;> rfl

@[simp] theorem State.begun_lid (s : State) (j : Job) : (s.begun j).lid = j.lid := by unfold State.begun; split <;> rfl

@[simp] theorem State.begun_startFlash (s : State) (j : Job) : (s.begun j).startFlash = j.startFlash := by
  unfold State.begun; split <;> rfl

theorem State.begun_startMem (s : State) (j : Job) : (s.begun j).startMem = if j.st = .waiting then s.mem else j.startMem := by
  unfold State.begun; split <;> rfl

/-- The workgroup in the focus after k more bytes of a job have landed in slot n, which was y before. -/
def State.landingWg (s : State) (y : Slot) (n k base : Nat) (j : Job) : Workgroup :=
  let cells := (List.range k).map fun i =>
    (0x60000 + 0x4000 * n + y.bar.landed.toNat + i, s.landingByte s.ln y j base (y.bar.landed.toNat + i))
  ({ s.wg with sp := cells.foldl (fun (m : Mem) c => m.set c.1 c.2) s.wg.sp } : Workgroup).modSlot n fun y =>
    { y with st := .landing, bar := { y.bar with landed := y.bar.landed + BitVec.ofNat 32 k } }

@[simp] theorem State.landingWg_id (s : State) (y : Slot) (n k base : Nat) (j : Job) :
    (s.landingWg y n k base j).id = s.wg.id := by simp [State.landingWg]

@[simp] theorem State.landingWg_lid (s : State) (y : Slot) (n k base : Nat) (j : Job) :
    (s.landingWg y n k base j).lid = s.wg.lid := by simp [State.landingWg]

@[simp] theorem State.landingWg_coreId (s : State) (y : Slot) (n k base : Nat) (j : Job) :
    (s.landingWg y n k base j).coreId = s.wg.coreId := by simp [State.landingWg]

@[simp] theorem State.landingWg_offers (s : State) (y : Slot) (n k base : Nat) (j : Job) :
    (s.landingWg y n k base j).offers = s.wg.offers := by simp [State.landingWg]

@[simp] theorem State.landingWg_lbar (s : State) (y : Slot) (n k base : Nat) (j : Job) :
    (s.landingWg y n k base j).lbar = s.wg.lbar := by simp [State.landingWg]

theorem State.landingWg_slot {s : State} {y : Slot} {n k base : Nat} {j : Job} (hn : n < 8) :
    (s.landingWg y n k base j).slot n = { s.wg.slot n with
      st := .landing, bar := { (s.wg.slot n).bar with landed := (s.wg.slot n).bar.landed + BitVec.ofNat 32 k } } :=
  Workgroup.slot_modSlot hn

theorem State.landingWg_slot_ne {s : State} {y : Slot} {n m k base : Nat} {j : Job} (h : m ≠ n) :
    (s.landingWg y n k base j).slot m = s.wg.slot m := Workgroup.slot_modSlot_ne h

/-- The bytes that landed stand in the slot. -/
theorem State.landingWg_byte {s : State} {y : Slot} {n k base i : Nat} {j : Job} (hs : s.Canonical) (hi : i < k) :
    (s.landingWg y n k base j).sp.get (0x60000 + 0x4000 * n + y.bar.landed.toNat + i) =
      s.landingByte s.ln y j base (y.bar.landed.toNat + i) := by
  rw [State.landingWg, Workgroup.modSlot_sp]
  exact Mem.get_foldl_range (fun i => s.landingByte s.ln y j base (y.bar.landed.toNat + i)) _ k i (hs.sp _ List.mem_cons_self) hi

/-- No other byte of the scratchpad changes. -/
theorem State.landingWg_other {s : State} {y : Slot} {n k base a : Nat} {j : Job} (hs : s.Canonical)
    (ha : a < 0x60000 + 0x4000 * n + y.bar.landed.toNat ∨ 0x60000 + 0x4000 * n + y.bar.landed.toNat + k ≤ a) :
    (s.landingWg y n k base j).sp.get a = s.wg.sp.get a := by
  rw [State.landingWg, Workgroup.modSlot_sp]
  exact Mem.get_foldl_range_other (fun i => s.landingByte s.ln y j base (y.bar.landed.toNat + i)) _ k a
    (hs.sp _ List.mem_cons_self) ha

/-- What lands at offset i: a byte of the copied-out block as it stood at the start, or of the page as it was decoded. -/
theorem State.landingByte_begun (s : State) (y : Slot) (j : Job) (base i : Nat) :
    s.landingByte s.ln y (s.begun j) base i =
      if y.reland = true then
        ((s.areaAddr s.ln (base + i)).toOption.map (if j.st = .waiting then s.mem else j.startMem).get).getD 0
      else if y.pstat.getLsbD 10 = true then 0
      else Mem.get (((j.startFlash.find? fun p => p.1 == y.lpn).map (·.2)).getD []) i := by
  unfold State.landingByte
  rw [State.begun_startMem, State.begun_startFlash]
  cases s.areaAddr s.ln (base + i) <;> rfl

/-- A slot after its last byte: ready, or parked again; its barrier one phase on (01 R22 to R24, R42). -/
def Slot.landed (y : Slot) : Slot :=
  { y with
    st := if y.reland then .parked else .ready
    bar := { y.bar with landed := 0, arrived := 0, phase := y.bar.phase + 1 } }

/-- A core after the last byte of a slot: its landing barrier one phase on, and a page that landed offered. -/
theorem Workgroup.landed_eq {w : Workgroup} {n : Nat} (hn : n < 8) : w.landed n = { w.modSlot n Slot.landed with
    lbar := { w.lbar with phase := w.lbar.phase + 1 }
    offers := if (w.slot n).reland then w.offers else w.offers ++ [.slot n] } := by
  simp only [Workgroup.landed, Workgroup.slot_modSlot hn, Workgroup.modSlot_modSlot, Workgroup.event, Workgroup.modSlot_lbar,
    Workgroup.modSlot_offers]
  cases hr : (w.slot n).reland
  · simp only [Bool.false_eq_true, if_false]
    rw [Workgroup.modSlot_congr (g := Slot.landed) (by simp only [Slot.landed, hr]; rfl)]
  · simp only [if_true]
    rw [Workgroup.modSlot_congr (g := Slot.landed) (by simp only [Slot.landed, hr]; rfl)]

@[simp] theorem Workgroup.landed_id (w : Workgroup) (n : Nat) : (w.landed n).id = w.id := by
  unfold Workgroup.landed; dsimp only; split <;> simp

@[simp] theorem Workgroup.landed_lid (w : Workgroup) (n : Nat) : (w.landed n).lid = w.lid := by
  unfold Workgroup.landed; dsimp only; split <;> simp

@[simp] theorem Workgroup.landed_coreId (w : Workgroup) (n : Nat) : (w.landed n).coreId = w.coreId := by
  unfold Workgroup.landed; dsimp only; split <;> simp

@[simp] theorem Workgroup.landed_sp (w : Workgroup) (n : Nat) : (w.landed n).sp = w.sp := by
  unfold Workgroup.landed; dsimp only; split <;> simp

theorem Workgroup.landed_slot {w : Workgroup} {n : Nat} (hn : n < 8) : (w.landed n).slot n = (w.slot n).landed := by
  rw [Workgroup.landed_eq hn]
  exact Workgroup.slot_modSlot hn

theorem Workgroup.landed_slot_ne {w : Workgroup} {n m : Nat} (hn : n < 8) (h : m ≠ n) : (w.landed n).slot m = w.slot m := by
  rw [Workgroup.landed_eq hn]
  exact Workgroup.slot_modSlot_ne h

/-- The premises of a landing of k bytes, at most b, in slot n of the workgroup in the focus by job j. -/
structure State.Lands (s : State) (n b k base : Nat) (j : Job) : Prop where
  slot  : n < 8
  size  : k = min b (16384 - (s.wg.slot n).bar.landed.toNat)
  more  : 0 < k
  job   : s.slotJob n (s.wg.slot n) = some j
  may   : s.mayLand (s.wg.slot n) j = true
  place : base = ((s.wg.slot n).park.map fun r => s.wg.coAddr s.ln.desc r).getD 0
  good  : (s.wg.slot n).reland = true → s.coBad s.ln base = false

/-- Bytes land while the launch runs (01 R45). -/
theorem State.Lands.runs {s : State} {n b k base : Nat} {j : Job} (h : s.Lands n b k base j) : s.ln.st = .running := by
  have := h.may
  simp only [State.mayLand, Bool.and_eq_true, beq_iff_eq] at this
  exact this.1.2

/-- The state after k bytes have landed in slot n, read in state u: the job goes on, or is over with the last byte. -/
def State.landIn (s u : State) (n k base : Nat) (j : Job) : State :=
  if (s.wg.slot n).bar.landed.toNat + k = 16384 then
    ({ u with wg := (u.landingWg (s.wg.slot n) n k base (s.begun j)).landed n } : State).dropJob (s.begun j)
  else ({ u with wg := u.landingWg (s.wg.slot n) n k base (s.begun j) } : State).modJob (s.begun j).id fun _ => s.begun j

/-- A re-landing marks the frame of the copy-out area that it reads. -/
theorem State.Lands.touches {s : State} {n b k base : Nat} {j : Job} (h : s.Lands n b k base j) :
    exec (.landingCredit n b) s =
      .next (s.landIn (if (s.wg.slot n).reland then s.devTouch s.ln base else s) n k base j) := by
  have hgo : (s.mayLand (s.wg.slot n) j && decide (0 < k)) = true := by simp [h.may, h.more]
  have hbad : ¬ ((s.wg.slot n).reland && s.coBad s.ln base) = true := by
    rw [Bool.and_eq_true]
    rintro ⟨hr, hc⟩
    rw [h.good hr] at hc
    cases hc
  show execLandingCredit n b s = _
  unfold execLandingCredit
  simp only [h.job, ← h.size, ← h.place, if_pos hgo, if_neg hbad]
  unfold State.landIn
  split <;> rfl

/-- Nothing but the marks of frames depends on it. -/
theorem State.Lands.step {s : State} {n b k base : Nat} {j : Job} (h : s.Lands n b k base j) :
    ∃ f, ((s.wg.slot n).reland = false → f = s.fit) ∧ exec (.landingCredit n b) s = .next (
      if (s.wg.slot n).bar.landed.toNat + k = 16384 then
        ({ s with wg := (s.landingWg (s.wg.slot n) n k base (s.begun j)).landed n, fit := f } : State).dropJob (s.begun j)
      else ({ s with wg := s.landingWg (s.wg.slot n) n k base (s.begun j), fit := f } : State).modJob j.id fun _ => s.begun j) := by
  rw [h.touches]
  cases hr : (s.wg.slot n).reland with
  | false => exact ⟨s.fit, fun _ => rfl, by rw [State.landIn, State.begun_id]; rfl⟩
  | true =>
    refine ⟨(s.devTouch s.ln base).fit, nofun, ?_⟩
    have hbyte : (s.devTouch s.ln base).landingByte s.ln (s.wg.slot n) (s.begun j) base =
        s.landingByte s.ln (s.wg.slot n) (s.begun j) base := by
      funext i
      simp only [State.landingByte, State.devTouch_areaAddr]
    have hwg : (s.devTouch s.ln base).landingWg (s.wg.slot n) n k base (s.begun j) =
        s.landingWg (s.wg.slot n) n k base (s.begun j) := by
      have hw : (s.devTouch s.ln base).wg = s.wg := by rw [State.devTouch_frame]
      have hl : (s.devTouch s.ln base).ln = s.ln := by rw [State.devTouch_frame]
      simp only [State.landingWg, hw, hl, hbyte]
    rw [if_pos rfl, State.landIn, hwg, State.begun_id, State.devTouch_frame]

/-- Where no other workgroup has the number of the one in the focus, that one is the only one of its launch with it. -/
theorem State.launchWgs_unique {s : State} (h : ∀ w ∈ s.wgs, w.id ≠ s.wg.id) {lid : Nat} {x : Workgroup}
    (hx : x ∈ s.launchWgs lid) (hid : x.id = s.wg.id) : x = s.wg :=
  (List.mem_cons.mp (List.mem_filter.mp hx).1).resolve_right fun hm => h x hm hid

/-- The last bytes of a slot, while entries are left to assign. -/
theorem State.Lands.last {s : State} {n b k base : Nat} {j : Job} (h : s.Lands n b k base j) (hj : j.lid = s.ln.lid)
    (ho : s.Open) (hu : ∀ w ∈ s.wgs, w.id ≠ s.wg.id) (f : List FitEntry) : ∃ w ws,
      ({ s with wg := (s.landingWg (s.wg.slot n) n k base (s.begun j)).landed n, fit := f } : State).dropJob (s.begun j) =
        { s with wg := w, wgs := ws, fit := f, jobs := s.jobsWithout j } ∧
      (w.slot n).st = (if (s.wg.slot n).reland then .parked else .ready) ∧
      w.offers = (if (s.wg.slot n).reland then s.wg.offers else s.wg.offers ++ [.slot n]) ∧
      w.lbar = { s.wg.lbar with phase := s.wg.lbar.phase + 1 } ∧
      ∀ m, m ≠ n → (s.wg.slot m).st ≠ .held → w.slot m = s.wg.slot m := by
  have hslot := State.landingWg_slot (s := s) (y := s.wg.slot n) (k := k) (base := base) (j := s.begun j) h.slot
  have hother : ∀ m, m ≠ n → ((s.landingWg (s.wg.slot n) n k base (s.begun j)).landed n).slot m = s.wg.slot m := fun m hm =>
    (Workgroup.landed_slot_ne h.slot hm).trans (State.landingWg_slot_ne hm)
  have hoffers : ((s.landingWg (s.wg.slot n) n k base (s.begun j)).landed n).offers =
      if (s.wg.slot n).reland then s.wg.offers else s.wg.offers ++ [.slot n] := by
    rw [Workgroup.landed_eq h.slot, hslot, State.landingWg_offers]
  have hlbar : ((s.landingWg (s.wg.slot n) n k base (s.begun j)).landed n).lbar =
      { s.wg.lbar with phase := s.wg.lbar.phase + 1 } := by
    rw [Workgroup.landed_eq h.slot, State.landingWg_lbar]
  have hst : (((s.landingWg (s.wg.slot n) n k base (s.begun j)).landed n).slot n).st =
      if (s.wg.slot n).reland then .parked else .ready := by
    rw [Workgroup.landed_slot h.slot, hslot]
    rfl
  have hid : ((s.landingWg (s.wg.slot n) n k base (s.begun j)).landed n).id = s.wg.id := by simp
  have hopen := ho.withWg hid (by simp) (by simp) s.mem f s.tree s.free
  generalize (s.landingWg (s.wg.slot n) n k base (s.begun j)).landed n = u at *
  obtain ⟨w, ws, hx, hswept⟩ := hopen.dropJob (j := s.begun j) ((s.begun_lid j).trans hj)
  have hkeep : ∀ m, (u.slot m).st ≠ .held → w.slot m = u.slot m := fun m hm => hswept.kept hm fun x hx hxid =>
    State.launchWgs_unique (s := { s with wg := u, fit := f }) (fun w hw => hid ▸ hu w hw) hx hxid
  have hjobs : ({ s with wg := u, fit := f } : State).jobsWithout (s.begun j) = s.jobsWithout j := by
    simp only [State.jobsWithout, State.begun_id]
  rw [hjobs] at hx
  refine ⟨{ w with endSeen := false }, ws, hx, ?_, ?_, ?_, fun m hm hne => ?_⟩
  · refine (congrArg Slot.st (hkeep n ?_)).trans hst
    rw [hst]
    split <;> simp
  · rw [hswept.rest]
    exact hoffers
  · rw [hswept.rest]
    exact hlbar
  · exact (hkeep m (by rw [hother m hm]; exact hne)).trans (hother m hm)

/-- Scratchpad and slot barriers where the job is over with the last byte. -/
theorem State.dropJob_landed {s : State} {n k base : Nat} (hn : n < 8) (j : Job) (f : List FitEntry) :
    let t := ({ s with wg := (s.landingWg (s.wg.slot n) n k base (s.begun j)).landed n, fit := f } : State).dropJob (s.begun j)
    t.wg.sp = (s.landingWg (s.wg.slot n) n k base (s.begun j)).sp ∧
      (t.wg.slot n).bar = { (s.wg.slot n).bar with landed := 0, arrived := 0, phase := (s.wg.slot n).bar.phase + 1 } := by
  intro t
  obtain ⟨hsp, hbar⟩ := ({ s with
    wg := (s.landingWg (s.wg.slot n) n k base (s.begun j)).landed n, fit := f } : State).dropJob_kept (s.begun j)
  refine ⟨hsp.trans (Workgroup.landed_sp _ _), (hbar n).trans ?_⟩
  rw [Workgroup.landed_slot hn, State.landingWg_slot hn]
  rfl

/-- The landing clauses of O47, by whether the last byte has landed. -/
theorem landingCredit : Claims.LandingCredit := by
  intro s n b k base j hs hn hk h0 hj hmay hbase hgood y last page start
  have h : s.Lands n b k base j := ⟨hn, hk, h0, hj, hmay, hbase, hgood⟩
  obtain ⟨f, hfit, hx⟩ := h.step
  have hbyte : ∀ i, i < k →
      (s.landingWg (s.wg.slot n) n k base (s.begun j)).sp.get (0x60000 + 0x4000 * n + y.bar.landed.toNat + i) =
      if y.reland = true then ((s.areaAddr s.ln (base + y.bar.landed.toNat + i)).toOption.map start.get).getD 0
      else if y.pstat.getLsbD 10 = true then 0 else Mem.get page (y.bar.landed.toNat + i) := fun i hi => by
    rw [Nat.add_assoc base]
    exact (State.landingWg_byte hs hi).trans (State.landingByte_begun ..)
  have hother : ∀ a, a < 0x60000 + 0x4000 * n + y.bar.landed.toNat ∨ 0x60000 + 0x4000 * n + y.bar.landed.toNat + k ≤ a →
      (s.landingWg (s.wg.slot n) n k base (s.begun j)).sp.get a = s.wg.sp.get a := fun a ha => State.landingWg_other hs ha
  by_cases hl : last
  · rw [if_pos hl] at hx
    obtain ⟨hsp, hbar⟩ := State.dropJob_landed (s := s) (k := k) (base := base) hn j f
    refine ⟨_, hx, hsp ▸ hbyte, hsp ▸ hother, fun hnl => absurd hl hnl, fun _ => hbar, fun _ hlid hf hu hd hc => ?_⟩
    obtain ⟨w, ws, heq, hst, hoff, hlbar, hslots⟩ := h.last hlid ⟨hf, h.runs, hd, hc⟩ hu f
    rw [heq]
    refine ⟨rfl, hfit, fun hr => ?_, fun hr => ⟨hst.trans (if_pos hr), hoff.trans (if_pos hr)⟩,
      fun m _ hm hne => hslots m hm hne, hlbar, fun x hx => State.mem_jobsWithout hx⟩
    have hr' : ¬ (s.wg.slot n).reland = true := by rw [show (s.wg.slot n).reland = false from hr]; exact Bool.false_ne_true
    exact ⟨hst.trans (if_neg hr'), hoff.trans (if_neg hr')⟩
  · rw [if_neg hl] at hx
    refine ⟨_, hx, hbyte, hother, fun _ => ⟨rfl, fun m _ hm => State.landingWg_slot_ne hm, hfit, ?_, State.landingWg_slot hn,
      State.landingWg_offers .., State.landingWg_lbar ..⟩, fun hl' => absurd hl' hl, fun hl' => absurd hl' hl⟩
    rfl

/-! ## A range of bytes stored by the device (08 R124, 23 R315) -/

/-- A byte shows at its own address. -/
theorem State.self_mem_homed (s : State) (da : Nat) : da ∈ s.homed da := by
  unfold State.homed
  split
  · split
    · exact List.mem_cons_self
    · exact List.mem_singleton_self _
  · exact List.mem_singleton_self _

/-- Wherever a byte shows, it has its own place within the frame. -/
theorem State.homed_mod {s : State} {da a : Nat} (h : a ∈ s.homed da) : a % 0x10000 = da % 0x10000 := by
  unfold State.homed at h
  split at h
  · split at h
    · rcases List.mem_cons.mp h with rfl | h
      · rfl
      · obtain ⟨x, -, rfl⟩ := List.mem_map.mp h
        omega
    · rw [List.mem_singleton.mp h]
  · rw [List.mem_singleton.mp h]

/-- The cells of consecutive bytes. -/
theorem mem_cellsAt {a : Nat} {bs : List Byte} {c : Nat × Byte} :
    c ∈ cellsAt a bs ↔ ∃ i, ∃ h : i < bs.length, c = (a + i, bs[i]) := by
  constructor
  · intro h
    obtain ⟨q, hq, rfl⟩ := List.mem_map.mp h
    obtain ⟨i, hi, rfl⟩ := List.mem_iff_getElem.mp hq
    exact ⟨i, by simpa using hi, by simp⟩
  · rintro ⟨i, hi, rfl⟩
    refine List.mem_map.mpr ⟨(i, bs[i]), List.mem_iff_getElem.mpr ⟨i, by simpa using hi, by simp⟩, rfl⟩

/-- A range of at most a frame's size reads as it was stored, even where frames share a page of the host. -/
theorem State.batch_bytes {s : State} {da : Nat} {bs : List Byte} (hm : s.mem.wf = true) (hn : bs.length ≤ 0x10000) :
    (s.batch (cellsAt da bs)).mem.bytes da bs.length = bs := by
  refine List.ext_getElem (by simp [Mem.bytes]) fun i h1 h2 => ?_
  rw [show ((s.batch (cellsAt da bs)).mem.bytes da bs.length)[i] = (s.batch (cellsAt da bs)).mem.get (da + i) by simp [Mem.bytes],
    batch_mem]
  refine Mem.get_foldl_set hm ?_ fun c hc hca => ?_
  · exact List.mem_flatMap.mpr ⟨_, mem_cellsAt.mpr ⟨i, h2, rfl⟩, List.mem_map.mpr ⟨_, s.self_mem_homed _, rfl⟩⟩
  · obtain ⟨d, hd, hcd⟩ := List.mem_flatMap.mp hc
    obtain ⟨k, hk, rfl⟩ := mem_cellsAt.mp hd
    obtain ⟨a, ha, rfl⟩ := List.mem_map.mp hcd
    have hmod := State.homed_mod ha
    obtain rfl : k = i := by dsimp only at hca hmod; omega
    rfl

/-- A byte that no stored byte shows at is as before. -/
theorem State.batch_other {s : State} {da a : Nat} {bs : List Byte} (hm : s.mem.wf = true) (ha : ¬ s.Shows da bs.length a) :
    (s.batch (cellsAt da bs)).mem.get a = s.mem.get a := by
  rw [batch_mem]
  refine Mem.get_foldl_set_other hm fun c hc => ?_
  obtain ⟨d, hd, hcd⟩ := List.mem_flatMap.mp hc
  obtain ⟨k, hk, rfl⟩ := mem_cellsAt.mp hd
  obtain ⟨x, hx, rfl⟩ := List.mem_map.mp hcd
  rintro rfl
  exact ha ⟨k, hk, hx⟩

/-! ## Copy-out (01 R41, R49) -/

/-- A workgroup after the block of slot n was copied out to record r: the slot is free, the record keeps its touch trap. -/
def Workgroup.copiedOut (w : Workgroup) (n r : Nat) : Workgroup :=
  { w.modSlot n Slot.emptied with
    parked := w.parked.mapIdx fun i o => if i = r then o.map fun p => { p with slot := none, trap := (w.slot n).trap } else o }

theorem Workgroup.copiedOut_parked {w : Workgroup} {n r : Nat} {p : Parked} (h : w.parked[r]? = some (some p)) :
    (w.copiedOut n r).parked[r]? = some (some { p with slot := none, trap := (w.slot n).trap }) := by
  simp [Workgroup.copiedOut, List.getElem?_mapIdx, h]

/-- The premises of a copy-out of the block of slot n to record r, whose place begins at da, by job j. -/
structure State.CopiesOut (s : State) (r n da : Nat) (j : Job) : Prop where
  slot  : n < 8
  job   : s.ownJob s.wg.id copyOutKind r = some j
  reads : j.reads = slotRange s.wg.id n
  first : j.preds = []
  held  : s.jobHeld s.ln.lid = false
  out   : (s.wg.slot n).st = .copiedOut
  quiet : (s.wg.slot n).stalled = false
  area  : s.areaAddr s.ln (s.wg.coAddr s.ln.desc r) = .ok da

/-- The bytes of slot n of the workgroup in the focus, as cells from da up. -/
def State.slotCells (s : State) (n da : Nat) : List (Nat × Byte) := cellsAt da (s.wg.sp.bytes (0x60000 + 0x4000 * n) 0x4000)

/-- They read there as they stood in the slot. -/
theorem State.slotCells_bytes {s : State} (n da : Nat) (hm : s.mem.wf = true) :
    (s.batch (s.slotCells n da)).mem.bytes da 0x4000 = s.wg.sp.bytes (0x60000 + 0x4000 * n) 0x4000 := by
  have hlen : (s.wg.sp.bytes (0x60000 + 0x4000 * n) 0x4000).length = 0x4000 := by simp [Mem.bytes]
  have h := State.batch_bytes (da := da) hm (hlen.trans_le (by omega))
  rwa [hlen] at h

/-- No other byte of memory changes. -/
theorem State.slotCells_other {s : State} {n da a : Nat} (hm : s.mem.wf = true) (ha : ¬ s.Shows da 0x4000 a) :
    (s.batch (s.slotCells n da)).mem.get a = s.mem.get a := by
  have hlen : (s.wg.sp.bytes (0x60000 + 0x4000 * n) 0x4000).length = 0x4000 := by simp [Mem.bytes]
  exact State.batch_other hm (by rwa [hlen])

/-- The copy-out job of a record is over in one step, once the jobs before it are. -/
theorem State.CopiesOut.step {s : State} {r n da : Nat} {j : Job} (h : s.CopiesOut r n da j) : exec (.copyOut r) s =
    .next (({ s.batch (s.slotCells n da) with wg := s.wg.copiedOut n r } : State).dropJob j) := by
  have hn : (slotRange s.wg.id n).head?.map (fun x => (x.2.1 - 0x60000) / 0x4000) = some n := by
    simp only [slotRange, List.head?_cons, Option.map_some, Option.some.injEq]
    omega
  obtain ⟨m, f, tr, fr, hb, -⟩ := s.batch_frame (s.slotCells n da)
  rw [State.slotCells] at hb ⊢
  simp only [exec, execCopyOut, h.job, h.reads, hn, h.first, h.held, h.quiet, h.area, h.out, List.isEmpty_nil, Bool.not_true,
    Bool.or_self, Bool.false_eq_true, if_false, beq_self_eq_true, if_true, hb]
  simp only [Workgroup.copiedOut, Workgroup.modSlot_parked]

/-- What a copy-out leaves, while entries are left to assign. -/
theorem State.CopiesOut.leaves {s : State} {r n da : Nat} {j : Job} (h : s.CopiesOut r n da j) (hj : j.lid = s.ln.lid)
    (ho : s.Open) : ∃ w ws m f tr fr, exec (.copyOut r) s = .next { s with
        wg := w, wgs := ws, mem := m, fit := f, tree := tr, free := fr, jobs := s.jobsWithout j } ∧
      m = (s.batch (s.slotCells n da)).mem ∧ w.parked = (s.wg.copiedOut n r).parked ∧ (w.slot n).st = .free ∧
      w.sp = s.wg.sp := by
  obtain ⟨m, f, tr, fr, hb, -⟩ := s.batch_frame (s.slotCells n da)
  have hopen := ho.withWg (w := s.wg.copiedOut n r) (Workgroup.modSlot_id ..) (Workgroup.modSlot_lid ..)
    (Workgroup.modSlot_coreId ..) m f tr fr
  obtain ⟨w, ws, hx, hswept⟩ := hopen.dropJob (j := j) hj
  refine ⟨{ w with endSeen := false }, ws, m, f, tr, fr, ?_, by rw [hb], ?_, ?_, ?_⟩
  · rw [h.step, hb, hx]
    rfl
  · rw [hswept.rest]
  · have hfree : ((s.wg.copiedOut n r).slot n).st = .free := congrArg Slot.st (Workgroup.slot_modSlot h.slot)
    rcases hswept.slot n with he | ⟨he, -⟩
    · exact (congrArg Slot.st he).trans hfree
    · exact congrArg Slot.st he
  · rw [hswept.rest]
    exact Workgroup.modSlot_sp ..

/-! ## Re-landing (01 R42) -/

/-- The slot that a copied-out block takes again. -/
def Slot.relanding (y : Slot) (l : Launch) (r : Nat) (p : Parked) : Slot :=
  { Slot.free with
    st := .landing
    idx := p.blkidx.toNat
    lpn := p.pageno.toNat
    pstat := (p.pstat ||| 0x80).setWidth 16
    trap := p.trap
    park := some r
    reland := true
    bar := ⟨l.ticket, 1, 0, 16384, 0, 1, y.bar.phase⟩ }

/-- A workgroup whose block of record r takes slot n again. -/
def Workgroup.relanding (w : Workgroup) (l : Launch) (n r : Nat) (p : Parked) : Workgroup :=
  { w.modSlot n fun y => y.relanding l r p with
    parked := w.parked.set r (some { p with slot := some n, copied := false, pstat := p.pstat ||| 0x80 }) }

@[simp] theorem Workgroup.relanding_id (w : Workgroup) (l : Launch) (n r : Nat) (p : Parked) : (w.relanding l n r p).id = w.id :=
  w.modSlot_id ..

@[simp] theorem Workgroup.relanding_lid (w : Workgroup) (l : Launch) (n r : Nat) (p : Parked) : (w.relanding l n r p).lid = w.lid :=
  w.modSlot_lid ..

/-- A block whose awaited block has retired takes the next free slot, by a job of the gang. -/
theorem relanding_step {s : State} {r n : Nat} {p : Parked} (hr : s.wg.parked[r]? = some (some p)) (hw : p.awaitsSlot = true)
    (hn : s.wg.freeSlot = some n) (ha : s.wg.active = true) (hst : s.ln.st = .running) (hg : s.groupsLeft s.ln.lid = true)
    (hfirst : ∀ q ∈ s.wg.parkedBlocks, q.awaitsSlot = true → p.offer.getD 0 ≤ q.offer.getD 0) :
    exec (.relanding r) s = .next (({ s with wg := s.wg.relanding s.ln n r p } : State).acceptOwn (s.wg.relanding s.ln n r p)
      relandKind r (s.coRange s.ln (s.wg.relanding s.ln n r p) r) (slotRange (s.wg.relanding s.ln n r p).id n)) := by
  have hall : (s.wg.parkedBlocks.all fun q => !q.awaitsSlot || decide (p.offer.getD 0 ≤ q.offer.getD 0)) = true := by
    rw [List.all_eq_true]
    intro q hq
    cases hqa : q.awaitsSlot
    · rfl
    · simpa using hfirst q hq hqa
  simp only [exec, execRelanding, hr, hn, hw, ha, hst, hg, hall, Option.bind_some, id_eq, beq_self_eq_true, Bool.and_self, if_true,
    Workgroup.modSlot_parked]
  rfl

/-- The copy-out clauses of O47: out by the job of the record, and back by one of its own. -/
theorem copyOutAndBack : Claims.CopyOutAndBack := by
  intro s r n da p hc hf hr hn
  refine ⟨fun j hj hlid hreads hp hh hst hs hda hrun hd hnext => ?_, fun hw hfree ha hst hg hfirst => ?_⟩
  · obtain ⟨w, ws, m, f, tr, fr, hx, hm, hparked, hslot, hsp⟩ :=
      State.CopiesOut.leaves ⟨hn, hj, hreads, hp, hh, hst, hs, hda⟩ hlid ⟨hf, hrun, hd, hnext⟩
    have hbytes := State.slotCells_bytes n da hc.mem
    have hother := fun a => State.slotCells_other (n := n) (da := da) (a := a) hc.mem
    rw [← hm] at hbytes hother
    exact ⟨_, hx, hbytes, hother,
      hparked ▸ Workgroup.copiedOut_parked hr, hslot, hsp, rfl, fun x hx => State.mem_jobsWithout hx⟩
  · have hparked : (s.wg.relanding s.ln n r p).parked[r]? =
        some (some { p with slot := some n, copied := false, pstat := p.pstat ||| 0x80 }) := by
      have hlt : r < s.wg.parked.length := (List.getElem?_eq_some_iff.mp hr).1
      simp [Workgroup.relanding, hlt]
    refine ⟨_, ({ s with wg := s.wg.relanding s.ln n r p } : State).newOwn (s.wg.relanding s.ln n r p) relandKind r
        (s.coRange s.ln (s.wg.relanding s.ln n r p) r) (slotRange (s.wg.relanding s.ln n r p).id n),
      relanding_step hr hw hfree ha hst hg hfirst, ?_, rfl, rfl, Workgroup.relanding_lid .., Workgroup.relanding_id .., rfl,
      congrArg (slotRange · n) (Workgroup.relanding_id ..), fun e he hl hb => ?_, hparked, Workgroup.slot_modSlot hn⟩
    · rw [State.acceptOwn_eq, Workgroup.relanding, Workgroup.modSlot_frame]
    · exact State.mem_predsOf he (hl.trans (Workgroup.relanding_lid ..).symm) hb

/-- Settles O47: landings, copy-outs and re-landings. -/
theorem landingsAndCopies : Obligations.LandingsAndCopies := ⟨landingCredit, copyOutAndBack⟩

/-! ## Owned frames zeroed and released (26 R354) -/

/-- A frame written with zeros and released. -/
def State.zeroFrame (s : State) (d : Nat) : State :=
  (((s.scrubFrame d).touch (d * 0x10000) true).raiseTile d).modFit d fun e => { e with owned := false, ticket := 0 }

/-- The frames owned under a ticket. -/
def State.ownedFrames (s : State) (ticket : BitVec 21) : List Nat :=
  (s.fit.filter fun e => e.owned && e.ticket == ticket).map (·.dfn)

theorem State.mem_ownedFrames {s : State} {e : FitEntry} (he : e ∈ s.fit) (ho : e.owned = true) :
    e.dfn ∈ s.ownedFrames e.ticket :=
  List.mem_map_of_mem (List.mem_filter.mpr ⟨he, by simp [ho]⟩)

/-- They are zeroed one after the other. -/
theorem State.zeroOwned_eq (s : State) (ticket : BitVec 21) :
    s.zeroOwned ticket = (s.ownedFrames ticket).foldl State.zeroFrame s := rfl

/-- What zeroing the frames ds leaves: no byte of them is listed, none of them is owned, and no frame is owned anew. -/
structure State.Zeroed (s t : State) (ds : List Nat) : Prop where
  wg   : t.wg = s.wg
  wgs  : t.wgs = s.wgs
  ln   : t.ln = s.ln
  mem  : ∀ c ∈ t.mem, c ∈ s.mem ∧ c.1 / 0x10000 ∉ ds
  fit  : ∀ e ∈ t.fit, e.owned = true → e.dfn ∉ ds ∧ ∃ x ∈ s.fit, x.owner = e.owner

theorem State.Zeroed.refl (s : State) : s.Zeroed s [] :=
  ⟨rfl, rfl, rfl, fun _ hc => ⟨hc, List.not_mem_nil⟩, fun e he _ => ⟨List.not_mem_nil, e, he, rfl⟩⟩

theorem State.Zeroed.trans {s t u : State} {ds es : List Nat} (h : s.Zeroed t ds) (k : t.Zeroed u es) : s.Zeroed u (ds ++ es) where
  wg := k.wg.trans h.wg
  wgs := k.wgs.trans h.wgs
  ln := k.ln.trans h.ln
  mem c hc := by
    obtain ⟨hct, hes⟩ := k.mem c hc
    obtain ⟨hcs, hds⟩ := h.mem c hct
    exact ⟨hcs, by simp [hds, hes]⟩
  fit e he ho := by
    obtain ⟨hes, x, hx, hxe⟩ := k.fit e he ho
    obtain ⟨hdfn, howned, -⟩ := FitEntry.owner_inj.mp hxe
    obtain ⟨hds, y, hy, hyx⟩ := h.fit x hx (howned.trans ho)
    exact ⟨by simp [hes, hdfn ▸ hds], y, hy, hyx.trans hxe⟩

theorem State.zeroFrame_zeroed (s : State) (d : Nat) : s.Zeroed (s.zeroFrame d) [d] := by
  obtain ⟨tr, fr, h⟩ := ((s.scrubFrame d).touch (d * 0x10000) true).raiseTile_frame d
  rw [State.zeroFrame, h]
  refine ⟨rfl, rfl, rfl, fun c hc => ?_, fun e he ho => ?_⟩
  · obtain ⟨hcs, hout⟩ := List.mem_filter.mp (show c ∈ s.mem.clear (d * 0x10000) 0x10000 from hc)
    simp only [Bool.or_eq_true, decide_eq_true_eq] at hout
    exact ⟨hcs, by rw [List.mem_singleton]; omega⟩
  · obtain ⟨y, hy, rfl⟩ := List.mem_map.mp he
    obtain ⟨x, hx, rfl⟩ := List.mem_map.mp hy
    have hdiv : d * 0x10000 / 0x10000 = d := by omega
    by_cases hd : x.dfn = d
    · simp [hd, hdiv] at ho
    · simp only [hdiv, beq_iff_eq, hd, if_false]
      exact ⟨by simpa using hd, x, hx, rfl⟩

theorem State.zeroOwned_zeroed (s : State) (ticket : BitVec 21) : s.Zeroed (s.zeroOwned ticket) (s.ownedFrames ticket) := by
  have hfold : ∀ (ds : List Nat) (t : State), t.Zeroed (ds.foldl State.zeroFrame t) ds := by
    intro ds
    induction ds with
    | nil => exact fun t => .refl t
    | cons d ds ih => exact fun t => (t.zeroFrame_zeroed d).trans (ih _)
  rw [State.zeroOwned_eq]
  exact hfold _ s

/-- No frame is owned under the ticket any more. -/
theorem State.zeroOwned_released {s : State} {ticket : BitVec 21} :
    ∀ e ∈ (s.zeroOwned ticket).fit, ¬ (e.owned = true ∧ e.ticket = ticket) := by
  rintro e he ⟨ho, rfl⟩
  obtain ⟨hout, x, hx, hxe⟩ := (s.zeroOwned_zeroed _).fit e he ho
  obtain ⟨hdfn, howned, hticket⟩ := FitEntry.owner_inj.mp hxe
  exact hout (hdfn ▸ hticket ▸ State.mem_ownedFrames hx (howned.trans ho))

/-- The frames that were owned under it read as zeros. -/
theorem State.zeroOwned_zeros {s : State} {e : FitEntry} (he : e ∈ s.fit) (ho : e.owned = true) {i : Nat} (hi : i < 0x10000) :
    (s.zeroOwned e.ticket).mem.get (e.dfn * 0x10000 + i) = 0 := by
  refine Mem.get_unlisted fun c hc hce => ((s.zeroOwned_zeroed _).mem c hc).2 ?_
  rw [show c.1 / 0x10000 = e.dfn by omega]
  exact State.mem_ownedFrames he ho

/-! ## The gang taken away, and the command complete (01 R46, 23 R317) -/

/-- No workgroup of the launch is left. -/
theorem State.dropGang_wgs {s : State} {lid : Nat} : ∀ w ∈ (s.dropGang lid).allWgs, w.lid = lid → w.id = 0 := by
  have hgone : ∀ w ∈ s.allWgs, w.id ∉ (s.launchWgs lid).map (·.id) → w.lid = lid → w.id = 0 := by
    intro w hw hout hl
    by_contra hid
    exact hout (List.mem_map_of_mem (List.mem_filter.mpr ⟨hw, by simp [hl, hid]⟩))
  intro w hw hl
  rcases List.mem_cons.mp hw with rfl | hw
  · simp only [State.dropGang] at hl ⊢
    split
    · rfl
    · next hout =>
      rw [if_neg hout] at hl
      exact hgone _ List.mem_cons_self (by simpa using hout) hl
  · obtain ⟨hw, hout⟩ := List.mem_filter.mp hw
    exact hgone w (List.mem_cons_of_mem _ hw) (by simpa using hout) hl

/-- Nor is a job of it. -/
theorem State.dropGang_jobs {s : State} {lid : Nat} : ∀ j ∈ (s.dropGang lid).jobs, j.lid ≠ lid := by
  intro j hj
  simpa using (List.mem_filter.mp hj).2

/-- A command completes: queues and journal change, and the journal has its entry (23 R316, R317). -/
theorem State.completeCmd_frame (s : State) (c : CmdRef) (cs : BitVec 8) (lid grid late : Nat) :
    ∃ d q, s.completeCmd c cs lid grid late = { s with dev := d, queues := q } ∧
      ∃ e ∈ d.journal, e.kind = .complete ∧ e.lid = BitVec.ofNat 32 lid ∧ e.cstatus = cs ∧ e.record.isSome = true := by
  have hsettle : ∀ (t : State) a b, ∃ q, t.settleQueue a b = { t with queues := q } := by
    intro t a b
    unfold State.settleQueue
    split
    · split <;> exact ⟨_, rfl⟩
    · exact ⟨_, rfl⟩
  unfold State.completeCmd
  obtain ⟨q, h⟩ := hsettle (s.append _) c.tenant c.queue
  exact ⟨_, q, h, _, List.mem_append_right _ (List.mem_singleton_self _), rfl, rfl, rfl, rfl⟩

/-- Tenants that leave leave the owner of every frame. -/
theorem State.tenantsLeave_owner (s : State) : s.tenantsLeave.fit.map FitEntry.owner = s.fit.map FitEntry.owner := by
  refine List.foldlRecOn (motive := fun t : State => t.fit.map FitEntry.owner = s.fit.map FitEntry.owner) _ _ rfl fun t ht b _ => ?_
  rw [← ht]
  unfold State.tenantLeaves
  split
  · rfl
  · refine map_owner_map (fun e => ?_) _
    split <;> rfl

/-- A launch closed after its gang is gone: the launch has ended, its queue goes on, and unless it is mute its command completes. -/
def State.closeLaunch (s : State) (l : Launch) : State :=
  let s := s.modLaunch l.lid fun l => { l with st := .ended }
  let s := s.modQueue l.cmd.tenant l.cmd.queue fun x => if x.busy = some l.lid then { x with busy := none } else x
  let s := if l.mute then s
    else s.completeCmd l.cmd (if l.aborted then 0x03 else 0x00) l.lid (l.gridWords l.status) l.lateCnt
  s.restPower.tenantsLeave

/-- What closing leaves of the rest. -/
structure State.Closed (s t : State) (l : Launch) : Prop where
  ln      : t.ln = { s.ln with st := .ended }
  wgs     : t.allWgs = s.allWgs
  jobs    : t.jobs = s.jobs
  mem     : t.mem = s.mem
  owners  : t.fit.map FitEntry.owner = s.fit.map FitEntry.owner
  journal : l.mute = false → ∃ e ∈ t.dev.journal, e.kind = .complete ∧ e.lid = BitVec.ofNat 32 l.lid ∧
    e.cstatus = (if l.aborted then 3 else 0) ∧ e.record.isSome = true

theorem State.closeLaunch_closed {s : State} {l : Launch} (h : s.ln.lid = l.lid) : s.Closed (s.closeLaunch l) l := by
  unfold State.closeLaunch
  rw [State.modLaunch_focus h]
  cases hm : l.mute with
  | true =>
    simp only [if_true]
    generalize ht : State.restPower _ = t
    rw [t.tenantsLeave_frame]
    subst ht
    exact ⟨rfl, rfl, rfl, rfl, State.tenantsLeave_owner _, fun h => by rw [hm] at h; cases h⟩
  | false =>
    simp only [Bool.false_eq_true, if_false]
    generalize hu : State.modQueue _ _ _ _ = u
    obtain ⟨d, q, hc, hj⟩ := u.completeCmd_frame l.cmd (if l.aborted then 0x03 else 0x00) l.lid (l.gridWords l.status) l.lateCnt
    rw [hc]
    generalize ht : State.restPower _ = t
    rw [t.tenantsLeave_frame]
    subst ht hu
    exact ⟨rfl, rfl, rfl, rfl, State.tenantsLeave_owner _, fun _ => hj⟩

/-- A running launch ends: its parked blocks are recorded, its frames zeroed, its gang taken away, and it is closed. -/
theorem State.endLaunch_focus {s : State} (h : s.ln.lid ≠ 0) : ∃ u, s.Recorded u ∧
    s.endLaunch s.ln.lid false = ((u.zeroOwned u.ln.ticket).dropGang u.ln.lid).closeLaunch u.ln := by
  obtain ⟨u, hu, hrec⟩ : ∃ u, (if s.ln.aborted then
        s.modLaunch s.ln.lid fun l => { l with nparked := l.nparked + (s.parkedOf s.ln.lid).length }
      else if s.ln.deadlock then s else s.dropParked s.ln.lid false) = u ∧ s.Recorded u := by
    refine ⟨_, rfl, ?_⟩
    split
    · exact s.recorded_modLaunch _ fun _ => rfl
    · split
      · exact .refl s
      · exact s.recorded_dropParked _ _
  refine ⟨u, hrec, ?_⟩
  have hlid : u.ln.lid = s.ln.lid := by rw [hrec.rest]
  simp only [State.endLaunch, State.findLaunch_focus h, hu]
  rw [← hlid, State.findLaunch_focus (hlid ▸ h)]
  rfl

/-- Settles O14: the step's state is the gang taken away from the zeroed frames, and closed. -/
theorem launchEnds : Obligations.LaunchEnds := by
  intro s h0 hst hover
  have hstep : exec .launchEnd s = .next (s.endLaunch s.ln.lid false) := by simp [exec, execLaunchEnd, h0, hst, hover]
  obtain ⟨u, hrec, hend⟩ := State.endLaunch_focus h0
  obtain ⟨hlid, hticket, hmute, haborted⟩ : u.ln.lid = s.ln.lid ∧ u.ln.ticket = s.ln.ticket ∧ u.ln.mute = s.ln.mute ∧
      u.ln.aborted = s.ln.aborted := by rw [hrec.rest]; exact ⟨rfl, rfl, rfl, rfl⟩
  have hln : (u.zeroOwned u.ln.ticket).ln = u.ln := (u.zeroOwned_zeroed _).ln
  have hclosed := State.closeLaunch_closed (s := (u.zeroOwned u.ln.ticket).dropGang u.ln.lid) (congrArg Launch.lid hln)
  rw [hend] at hstep
  refine ⟨_, hstep, ?_, ?_, ?_, ?_, ?_, ?_, ?_⟩
  · rw [hclosed.ln]
    exact (congrArg Launch.lid hln).trans hlid
  · rw [hclosed.ln]
  · rw [hclosed.wgs, ← hlid]
    exact State.dropGang_wgs
  · rw [hclosed.jobs, ← hlid]
    exact State.dropGang_jobs
  · intro e he howner
    obtain ⟨x, hx, hxe⟩ := List.mem_map.mp (hclosed.owners ▸ List.mem_map_of_mem he)
    obtain ⟨-, howned, hxticket⟩ := FitEntry.owner_inj.mp hxe
    exact State.zeroOwned_released x hx ⟨howned.trans howner.1, hxticket.trans (howner.2.trans hticket.symm)⟩
  · intro e he ho ht i hi
    obtain ⟨x, hx, hxe⟩ := List.mem_map.mp (hrec.owners ▸ List.mem_map_of_mem he)
    obtain ⟨hdfn, howned, hxticket⟩ := FitEntry.owner_inj.mp hxe
    rw [hclosed.mem, ← hdfn, hticket, ← ht, ← hxticket]
    exact State.zeroOwned_zeros hx (howned.trans ho) hi
  · intro hm
    obtain ⟨e, he, hkind, helid, hcs, hrecd⟩ := hclosed.journal (hmute.trans hm)
    exact ⟨e, he, hkind, by rw [helid, hlid], by rw [hcs, haborted], hrecd⟩

end Sys2Proof.Machine
end

section
/-! PROOFS. Registers of the groups: compaction moves bindings and nothing else (03 R74), and what a write of a V destination does to
the windows of the running unit (03 R60). -/
namespace Sys2Proof.Machine

/-! ## Bindings moved out of an area -/

/-- r' is r bound to another physical register at most, and to the same one where that lies outside the area. -/
structure VReg.Rebound (area : List Nat) (r r' : VReg) : Prop where
  rest  : r' = { r with phys := r'.phys }
  bound : r'.phys.isSome = r.phys.isSome
  kept  : ∀ k, r.phys = some k → k ∉ area → r'.phys = some k

/-- A V register is bound to no register of the area. -/
def VReg.Outside (area : List Nat) (r : VReg) : Prop := ∀ k, r.phys = some k → k ∉ area

theorem VReg.Rebound.refl (area : List Nat) (r : VReg) : r.Rebound area r := ⟨rfl, rfl, fun _ h _ => h⟩

theorem VReg.Rebound.trans {area : List Nat} {r r' r'' : VReg} (h : r.Rebound area r') (h' : r'.Rebound area r'') :
    r.Rebound area r'' where
  rest := by rw [h'.rest, h.rest]
  bound := h'.bound.trans h.bound
  kept k hk hout := h'.kept k (h.kept k hk hout) hout

/-- A binding outside the area stays there. -/
theorem VReg.Rebound.outside {area : List Nat} {r r' : VReg} (h : r.Rebound area r') (ho : r.Outside area) :
    r'.Outside area := by
  intro k hk
  obtain ⟨j, hj⟩ := Option.isSome_iff_exists.mp (h.bound ▸ hk ▸ rfl : r.phys.isSome = true)
  have hjk : j = k := Option.some.inj ((h.kept j hj (ho j hj)).symm.trans hk)
  exact hjk ▸ ho j hj

/-- g' is g with V registers rebound, and COMPACT of GSTAT. -/
structure Group.Rebound (area : List Nat) (g g' : Group) : Prop where
  rest : g' = { g with v := g'.v, gstat := g'.gstat }
  vreg : ∀ n, (g.vreg n).Rebound area (g'.vreg n)

theorem Group.Rebound.refl (area : List Nat) (g : Group) : g.Rebound area g := ⟨rfl, fun _ => .refl area _⟩

theorem Group.Rebound.trans {area : List Nat} {g g' g'' : Group} (h : g.Rebound area g') (h' : g'.Rebound area g'') :
    g.Rebound area g'' where
  rest := by rw [h'.rest, h.rest]
  vreg n := (h.vreg n).trans (h'.vreg n)

/-- The V registers of a group in order of their numbers. -/
theorem Group.toList_v (g : Group) : g.v.toList = (List.range 128).map g.vreg := by
  refine List.ext_getElem (by simp) fun n hn _ => ?_
  have hlt : n < 128 := by simpa using hn
  simp [Group.vreg, vget, hlt]

/-- As many registers are bound as before. -/
theorem Group.Rebound.bound_length {area : List Nat} {g g' : Group} (h : g.Rebound area g') :
    (g'.v.toList.filterMap (·.phys)).length = (g.v.toList.filterMap (·.phys)).length := by
  simp only [Group.toList_v, List.length_filterMap_eq_countP, List.countP_map]
  exact List.countP_congr fun n _ => by simp [(h.vreg n).bound]

/-- The V register of a group after one register is bound to k. -/
theorem Group.vreg_modV_one (g : Group) {n : Nat} (hn : n < 128) (f : Nat → VReg → VReg) (m : Nat) :
    (g.modV n 1 f).vreg m = if m = n then f 0 (g.vreg n) else g.vreg m := by
  have hv : (g.modV n 1 f).v = vset g.v n (f 0 (g.vreg n)) := rfl
  rw [Group.vreg, hv]
  split
  next h => rw [h, vget_vset _ _ _ _ hn]
  next h => rw [vget_vset_ne _ _ _ (Ne.symm h), Group.vreg]

/-- A V register bound to k, as the compactor does (03 R74). -/
def Group.bindTo (g : Group) (n k : Nat) : Group :=
  { g.modV n 1 fun _ r => { r with phys := some k } with gstat := g.gstat ||| 4 }

theorem Group.vreg_bindTo (g : Group) {n : Nat} (hn : n < 128) (k m : Nat) :
    (g.bindTo n k).vreg m = if m = n then { g.vreg n with phys := some k } else g.vreg m :=
  g.vreg_modV_one hn (fun _ r => { r with phys := some k }) m

/-- A register bound in the area is rebound by a move. -/
theorem Group.rebound_bindTo {g : Group} {area : List Nat} {n k r : Nat} (hn : n < 128) (hr : (g.vreg n).phys = some r)
    (ha : r ∈ area) : g.Rebound area (g.bindTo n k) where
  rest := rfl
  vreg m := by
    rw [g.vreg_bindTo hn]
    split
    next h =>
      subst h
      refine ⟨rfl, by simp [hr], fun j hj hout => ?_⟩
      exact absurd (Option.some.inj (hr.symm.trans hj) ▸ ha) hout
    next => exact .refl area _

/-! ## Compaction in the state -/

/-- What names a group. -/
def Group.key (g : Group) : Nat × Nat := (g.wgId, g.gid)

/-- Only bindings of groups differ, and COMPACT. -/
structure State.Rebound (area : List Nat) (s t : State) : Prop where
  rest   : t = { s with g := t.g, groups := t.groups }
  groups : List.Forall₂ (Group.Rebound area) s.allGroups t.allGroups

theorem State.Rebound.refl (area : List Nat) (s : State) : s.Rebound area s :=
  ⟨rfl, List.forall₂_same.mpr fun g _ => .refl area g⟩

/-- A relation that composes does so for lists, element by element. -/
theorem forall₂_trans {α : Type} {R : α → α → Prop} (hR : ∀ {a b c}, R a b → R b c → R a c) {xs ys zs : List α}
    (h : List.Forall₂ R xs ys) (h' : List.Forall₂ R ys zs) : List.Forall₂ R xs zs := by
  induction h generalizing zs with
  | nil => exact h'
  | cons hab _ ih =>
    cases h' with
    | cons hbc htail => exact .cons (hR hab hbc) (ih htail)

theorem State.Rebound.trans {area : List Nat} {s t u : State} (h : s.Rebound area t) (h' : t.Rebound area u) :
    s.Rebound area u where
  rest := by rw [h'.rest, h.rest]
  groups := forall₂_trans .trans h.groups h'.groups

/-- The group in the focus is rebound. -/
theorem State.Rebound.focus {area : List Nat} {s t : State} (h : s.Rebound area t) : s.g.Rebound area t.g :=
  (List.forall₂_cons.mp h.groups).1

theorem State.Rebound.focus_name {area : List Nat} {s t : State} (h : s.Rebound area t) :
    t.g.wgId = s.g.wgId ∧ t.g.gid = s.g.gid := by
  rw [h.focus.rest]
  exact ⟨rfl, rfl⟩

/-- The groups keep their names: each is still the only one of its name. -/
theorem State.Rebound.nodup {area : List Nat} {s t : State} (h : s.Rebound area t) (hkeys : (s.allGroups.map Group.key).Nodup) :
    (t.allGroups.map Group.key).Nodup := by
  have hsame : s.allGroups.map Group.key = t.allGroups.map Group.key := by
    refine List.forall₂_eq_eq_eq ▸ List.rel_map (P := Eq) (fun g g' hg => ?_) h.groups
    rw [hg.rest]
    rfl
  exact hsame ▸ hkeys

/-- The groups of some workgroups are the same ones, rebound. -/
theorem State.Rebound.groupsOf {area : List Nat} {s t : State} (h : s.Rebound area t) (ws : List Workgroup) :
    List.Forall₂ (fun p q : Group × Desc => p.1.Rebound area q.1) (s.groupsOf ws) (t.groupsOf ws) := by
  have hdesc : t.descOf = s.descOf := by rw [h.rest]; rfl
  refine List.rel_flatMap (R := Eq) (by rw [List.forall₂_eq_eq_eq]) fun w w' hw => ?_
  subst hw
  refine List.rel_map (R := Group.Rebound area) (fun g g' hg => by exact hg) (List.rel_filter (fun g g' hg => ?_) h.groups)
  rw [hg.rest]

/-- Rebound groups use as many physical registers. -/
theorem physOf_length {area : List Nat} {gs gs' : List (Group × Desc)}
    (h : List.Forall₂ (fun p q : Group × Desc => p.1.Rebound area q.1) gs gs') :
    (physOf gs').length = (physOf gs).length := by
  induction h with
  | nil => rfl
  | cons hg _ ih =>
    simp only [physOf, List.flatMap_cons, List.length_append] at ih ⊢
    rw [ih, hg.bound_length, hg.rest]

/-- The core uses as many physical registers. -/
theorem State.Rebound.physUsed_length {area : List Nat} {s t : State} (h : s.Rebound area t) (c : Nat) :
    (t.physUsed c).length = (s.physUsed c).length := by
  have hbeside : t.beside c = s.beside c := by rw [h.rest]; rfl
  rw [State.physUsed, hbeside]
  exact physOf_length (h.groupsOf _)

/-- A group changed under a name that only one group has. -/
theorem State.allGroups_modGroup {s : State} (h : (s.allGroups.map Group.key).Nodup) (w gid : Nat) (f : Group → Group) :
    (s.modGroup w gid f).allGroups = s.allGroups.map fun g => if g.wgId == w && g.gid == gid then f g else g := by
  unfold State.modGroup
  split
  next hf =>
    have hother : ∀ g ∈ s.groups, (g.wgId == w && g.gid == gid) = false := by
      intro g hg
      by_contra hkey
      simp only [State.focused, Bool.and_eq_true, beq_iff_eq, Bool.not_eq_false] at hf hkey
      refine (List.nodup_cons.mp h).1 (List.mem_map.mpr ⟨g, hg, ?_⟩)
      simp only [Group.key, hkey, hf]
    have hrest : s.groups.map (fun g => if g.wgId == w && g.gid == gid then f g else g) = s.groups := by
      conv_rhs => rw [← List.map_id s.groups]
      exact List.map_congr_left fun g hg => by simp [hother g hg]
    have hfocus : (s.g.wgId == w && s.g.gid == gid) = true := hf
    rw [State.allGroups, State.allGroups, List.map_cons, if_pos hfocus, hrest]
  next hf =>
    have hfocus : ¬ (s.g.wgId == w && s.g.gid == gid) = true := hf
    rw [State.allGroups, State.allGroups, List.map_cons, if_neg hfocus]

/-- The group found under a name is the only one of that name. -/
theorem State.findGroup_unique {s : State} (h : (s.allGroups.map Group.key).Nodup) {w gid : Nat} {g g' : Group}
    (hfind : s.findGroup w gid = some g) (hg' : g' ∈ s.allGroups) (hkey : (g'.wgId == w && g'.gid == gid) = true) : g' = g := by
  have hnamed := List.find?_some hfind
  simp only [Bool.and_eq_true, beq_iff_eq] at hnamed hkey
  refine List.inj_on_of_nodup_map h hg' (List.mem_of_find?_eq_some hfind) ?_
  simp only [Group.key, hnamed, hkey]

/-! ## A free register to move to -/

/-- Where a register in use lies in the area, the registers in use and those of the area leave one free if they do not outnumber
the pool. -/
theorem exists_free {used area : List Nat} {r : Nat} (hused : r ∈ used) (harea : r ∈ area)
    (hroom : used.length + area.length ≤ Config.pool) :
    ∃ k, ((List.range Config.pool).find? fun k => !(used ++ area).contains k) = some k := by
  by_contra hnone
  have hall : List.range Config.pool ⊆ used ++ area.erase r := by
    intro k hk
    have hin : k ∈ used ++ area := by
      by_contra hin
      exact List.find?_eq_none.mp (Option.eq_none_iff_forall_ne_some.mpr fun j hj => hnone ⟨j, hj⟩) k hk (by simpa using hin)
    rcases List.mem_append.mp hin with hk | hk
    · exact List.mem_append_left _ hk
    · by_cases hkr : k = r
      · exact List.mem_append_left _ (hkr ▸ hused)
      · exact List.mem_append_right _ ((List.mem_erase_of_ne hkr).mpr hk)
  have hle := (List.subperm_of_subset List.nodup_range hall).length_le
  rw [List.length_range, List.length_append, List.length_erase_of_mem harea] at hle
  have hpos := List.length_pos_of_mem harea
  omega

/-- The runs of a launch take no more registers than their lengths say. -/
theorem runArea_length_le (bs lens : List Nat) : (runArea bs lens).length ≤ lens.sum := by
  induction bs generalizing lens with
  | nil => simp [runArea]
  | cons b bs ih =>
    cases lens with
    | nil => simp [runArea]
    | cons n lens =>
      have hih := ih lens
      simp only [runArea, List.zip_cons_cons, List.flatMap_cons, List.length_append, List.length_map, List.length_range,
        List.sum_cons] at hih ⊢
      omega

/-- A workgroup reserves at least its runs (03 R73). -/
theorem Desc.runLens_sum_le (d : Desc) : d.runLens.sum ≤ d.reserve := by
  have hsum : ∀ (n : Nat) (l : List Nat), (List.replicate n l).flatten.sum = n * l.sum := by
    intro n l
    induction n with
    | zero => simp
    | succ n ih => rw [List.replicate_succ, List.flatten_cons, List.sum_append, ih, Nat.succ_mul, Nat.add_comm]
  rw [Desc.runLens, hsum, Desc.reserve, Desc.groupReserve]
  exact Nat.mul_le_mul_left _ (Nat.le_add_left _ _)

/-! ## The moves -/

/-- What one element of a list brings about in a fold, and every element keeps, holds at the end; all beside an invariant. -/
theorem foldl_brings_about {σ α : Type} {f : σ → α → σ} {I P : σ → Prop} {xs : List α} {x : α} {s : σ} (hx : x ∈ xs) (hI : I s)
    (hstep : ∀ t y, y ∈ xs → I t → I (f t y)) (hkeep : ∀ t y, y ∈ xs → I t → P t → P (f t y)) (hdo : ∀ t, I t → P (f t x)) :
    P (xs.foldl f s) := by
  obtain ⟨as, bs, rfl⟩ := List.append_of_mem hx
  have has : I (as.foldl f s) :=
    List.foldlRecOn as f hI fun t ht y hy => hstep t y (List.mem_append_left _ hy) ht
  rw [List.foldl_append, List.foldl_cons]
  refine (List.foldlRecOn (motive := fun t => I t ∧ P t) bs f ⟨hstep _ x hx has, hdo _ has⟩ fun t ht y hy => ?_).2
  have hy : y ∈ as ++ x :: bs := List.mem_append_right _ (List.mem_cons_of_mem _ hy)
  exact ⟨hstep t y hy ht.1, hkeep t y hy ht.1 ht.2⟩

/-- One register of a group moved out of an area. -/
def State.moveReg (c : Nat) (area : List Nat) (w gid : Nat) (s : State) (n : Nat) : State :=
  match s.findGroup w gid with
  | none => s
  | some g =>
    match (g.vreg n).phys with
    | some r =>
      if area.contains r then
        match (List.range Config.pool).find? fun k => !(s.physUsed c ++ area).contains k with
        | some k => s.modGroup w gid fun g => g.bindTo n k
        | none => s
      else s
    | none => s

theorem State.moveOut_eq (s : State) (c : Nat) (area : List Nat) (w gid : Nat) :
    s.moveOut c area w gid = (List.range 128).foldl (State.moveReg c area w gid) s := by
  unfold State.moveOut State.moveReg
  generalize Config.pool = pool
  rfl

section
variable {s : State} {c w gid n : Nat} {area : List Nat}

/-- A move rebinds, whatever register it is of. -/
theorem State.rebound_moveReg (hkeys : (s.allGroups.map Group.key).Nodup) (hn : n < 128) :
    s.Rebound area (s.moveReg c area w gid n) := by
  unfold State.moveReg
  split
  next => exact .refl area s
  next g hfind =>
    split
    next r hr =>
      split
      next ha =>
        split
        next k hk =>
          constructor
          · unfold State.modGroup
            split <;> rfl
          · rw [State.allGroups_modGroup hkeys, List.forall₂_map_right_iff, List.forall₂_same]
            intro g' hg'
            split
            next hkey =>
              obtain rfl := State.findGroup_unique hkeys hfind hg' hkey
              exact Group.rebound_bindTo hn hr (by simpa using ha)
            next => exact .refl area g'
        next => exact .refl area s
      next => exact .refl area s
    next => exact .refl area s

theorem State.rebound_moveOut (hkeys : (s.allGroups.map Group.key).Nodup) : s.Rebound area (s.moveOut c area w gid) :=
  s.moveOut_eq c area w gid ▸ List.foldlRecOn _ _ (.refl area s) fun _ ht _ hn =>
    ht.trans (State.rebound_moveReg (ht.nodup hkeys) (List.mem_range.mp hn))

/-- Groups moved out one after the other are rebound. -/
theorem State.rebound_moveOuts (hkeys : (s.allGroups.map Group.key).Nodup) (gs : List (Group × Desc)) :
    s.Rebound area (gs.foldl (fun s p => s.moveOut c area p.1.wgId p.1.gid) s) :=
  List.foldlRecOn gs _ (.refl area s) fun _ ht _ _ => ht.trans (State.rebound_moveOut (ht.nodup hkeys))

/-- The group in the focus has not ended, and its workgroup is resident on the core. -/
structure State.OnCore (s : State) (c : Nat) : Prop where
  present  : s.g.st ≠ .absent
  goes     : s.g.st ≠ .ended
  ofWg     : s.g.wgId = s.wg.id
  wg       : s.wg.id ≠ 0
  core     : s.wg.coreId = c
  resident : s.wg.place = .resident

theorem State.OnCore.rebound {t : State} (h : s.OnCore c) (hr : s.Rebound area t) : t.OnCore c := by
  obtain ⟨hpresent, hgoes, hofWg, hwg, hcore, hresident⟩ := h
  have hst : t.g.st = s.g.st := by rw [hr.focus.rest]
  have hsame : t.wg = s.wg := by rw [hr.rest]
  exact ⟨hst ▸ hpresent, hst ▸ hgoes, by rw [hr.focus_name.1, hsame, hofWg], hsame ▸ hwg, hsame ▸ hcore, hsame ▸ hresident⟩

/-- The group in the focus is among those of some workgroups if its own is. -/
theorem State.OnCore.mem_groupsOf (h : s.OnCore c) {ws : List Workgroup} (hws : s.wg ∈ ws) :
    (s.g, s.descOf s.wg) ∈ s.groupsOf ws := by
  refine List.mem_flatMap.mpr ⟨s.wg, hws, List.mem_map.mpr ⟨s.g, List.mem_filter.mpr ⟨List.mem_cons_self, ?_⟩, rfl⟩⟩
  simp [h.present, h.goes, h.ofWg]

theorem State.OnCore.mem_groupsOn (h : s.OnCore c) : (s.g, s.descOf s.wg) ∈ s.groupsOn c :=
  h.mem_groupsOf (List.mem_filter.mpr ⟨List.mem_cons_self, by simp [h.wg, h.core, h.resident]⟩)

/-- A register of the group in the focus is in use on its core. -/
theorem State.OnCore.mem_physUsed (h : s.OnCore c) (hn : n < 128) {r : Nat} (hr : (s.g.vreg n).phys = some r) :
    r ∈ s.physUsed c := by
  have hbeside : s.wg ∈ s.beside c :=
    List.mem_filter.mpr ⟨List.mem_cons_self, by simp [h.wg, h.core, h.resident]⟩
  refine List.mem_flatMap.mpr ⟨_, h.mem_groupsOf hbeside, List.mem_append_left _ (List.mem_filterMap.mpr ⟨s.g.vreg n, ?_, hr⟩)⟩
  rw [Group.toList_v]
  exact List.mem_map_of_mem (List.mem_range.mpr hn)

theorem State.OnCore.findGroup (h : s.OnCore c) : s.findGroup s.g.wgId s.g.gid = some s.g := by
  simp [State.findGroup, State.allGroups, h.present]

/-- After its move a register of the group in the focus lies outside the area. -/
theorem State.OnCore.outside_moveReg (h : s.OnCore c) (hroom : (s.physUsed c).length + area.length ≤ Config.pool)
    (hn : n < 128) : ((s.moveReg c area s.g.wgId s.g.gid n).g.vreg n).Outside area := by
  unfold State.moveReg
  simp only [h.findGroup]
  cases hr : (s.g.vreg n).phys with
  | none => exact fun k hk => by simp [hr] at hk
  | some r =>
    by_cases ha : r ∈ area
    · obtain ⟨k, hk⟩ := exists_free (h.mem_physUsed hn hr) ha hroom
      have hout : k ∉ s.physUsed c ++ area := by simpa using List.find?_some hk
      have hg : (s.modGroup s.g.wgId s.g.gid fun g => g.bindTo n k).g = s.g.bindTo n k := by
        simp [State.modGroup, State.focused]
      simp only [List.contains_iff_mem.mpr ha, if_true, hk, hg, Group.vreg_bindTo _ hn]
      rintro j ⟨⟩
      exact fun hj => hout (List.mem_append_right _ hj)
    · simp only [List.contains_iff_mem, ha, if_false]
      exact fun k hk => by rwa [← Option.some.inj (hr.symm.trans hk)]

/-- Moved out, the group in the focus has no register in the area. -/
theorem State.OnCore.outside_moveOut (h : s.OnCore c) (hkeys : (s.allGroups.map Group.key).Nodup)
    (hroom : (s.physUsed c).length + area.length ≤ Config.pool) (hn : n < 128) :
    ((s.moveOut c area s.g.wgId s.g.gid).g.vreg n).Outside area := by
  rw [State.moveOut_eq]
  refine foldl_brings_about (I := s.Rebound area) (P := fun t => (t.g.vreg n).Outside area) (List.mem_range.mpr hn) (.refl area s)
    (fun t m hm ht => ?_) (fun t m hm ht hout => ?_) fun t ht => ?_
  · exact ht.trans (State.rebound_moveReg (ht.nodup hkeys) (List.mem_range.mp hm))
  · exact ((State.rebound_moveReg (ht.nodup hkeys) (List.mem_range.mp hm)).focus.vreg n).outside hout
  · obtain ⟨hw, hgid⟩ := ht.focus_name
    rw [← hw, ← hgid]
    exact (h.rebound ht).outside_moveReg (ht.physUsed_length c ▸ hroom) hn

/-- Once all groups of the core are moved out, the group in the focus has no register in the area. -/
theorem State.OnCore.outside_moveOuts (h : s.OnCore c) (hkeys : (s.allGroups.map Group.key).Nodup)
    (hroom : (s.physUsed c).length + area.length ≤ Config.pool) (hn : n < 128) :
    (((s.groupsOn c).foldl (fun s p => s.moveOut c area p.1.wgId p.1.gid) s).g.vreg n).Outside area := by
  refine foldl_brings_about (I := s.Rebound area) (P := fun t => (t.g.vreg n).Outside area) h.mem_groupsOn (.refl area s)
    (fun t p _ ht => ?_) (fun t p _ ht hout => ?_) fun t ht => ?_
  · exact ht.trans (State.rebound_moveOut (ht.nodup hkeys))
  · exact ((State.rebound_moveOut (ht.nodup hkeys)).focus.vreg n).outside hout
  · obtain ⟨hw, hgid⟩ := ht.focus_name
    dsimp only
    rw [← hw, ← hgid]
    exact (h.rebound ht).outside_moveOut (ht.nodup hkeys) (ht.physUsed_length c ▸ hroom) hn

end

/-- Settles O12: moves only rebind, and a register in the area always finds another, since the launch fits in count. -/
theorem compactionMovesRegisters : Obligations.CompactionMovesRegisters := by
  intro s l bs hfocus hkeys hfind hwait hcount hnone hplace hgoes hres
  have hon : s.OnCore s.core.id := ⟨hfocus.group, hgoes, hfocus.ofWg, hfocus.wg, hfocus.ofCore.symm, hres⟩
  have hroom : (s.physUsed s.core.id).length + (runArea bs l.desc.runLens).length ≤ Config.pool :=
    (Nat.add_le_add_left ((runArea_length_le _ _).trans l.desc.runLens_sum_le) _).trans hcount
  have hstep : exec (.compaction l.lid) s = .next ((s.groupsOn s.core.id).foldl
      (fun u p => u.moveOut s.core.id (runArea bs l.desc.runLens) p.1.wgId p.1.gid) s) := by
    simp [exec, execCompaction, hfind, hwait, hcount, hnone, hplace, runArea]
  have hre : s.Rebound (runArea bs l.desc.runLens) _ := State.rebound_moveOuts (c := s.core.id) hkeys (s.groupsOn s.core.id)
  refine ⟨_, hstep, hre.rest, hre.focus.rest, fun n hn => ?_⟩
  exact ⟨(hre.focus.vreg n).rest, (hre.focus.vreg n).bound, hon.outside_moveOuts hkeys hroom hn, (hre.focus.vreg n).kept⟩

/-! ## A write of a V destination and the windows (03 R60) -/

/-- A group whose running unit still claims lane 0 of V0 for an entry of the window of LS0. -/
def claiming : Group :=
  let u : LaneUnit :=
    ⟨0, Vector.replicate 64 0, Vector.replicate 8 0, Vector.replicate 8 TReg.zero, 0, false, false⟩
  let p : Path := { Path.bare 0 1 none with win := [{ WinEntry.void with dst := [(0, 1)] }] }
  { Group.absent with run := some ⟨u, some p, none, [], Vector.replicate 16 none⟩ }

/-- Which lanes of which V registers the window of LS0 claims, entry by entry. -/
def Group.claims (g : Group) : List (List (Nat × Word)) :=
  ((g.run.bind (·.ls0)).map fun p => p.win.map (·.dst)).getD []

/-- Lane 0 of V0 written anew: the older entry claims it no more (03 R60). -/
theorem claims_writeDst_claiming :
    claiming.claims = [[(0, 1)]] ∧ (claiming.writeDst (.v 0) 1 [Lanes.zero]).claims = [[(0, 0)]] := by
  decide

/-- Refutes O39: a V result takes the lanes that it writes from the older entries of the windows (03 R60), so the running unit
changes beside the V registers, and `LaneResultPlacement` leaves it unchanged. -/
theorem not_laneOperands : ¬ Obligations.LaneOperands := by
  rintro ⟨-, hplace, -⟩
  obtain ⟨hV, -⟩ := hplace claiming 1 [Lanes.zero] (by decide)
  obtain ⟨-, -, hrest⟩ := hV 0 (by decide)
  have hclaims : (claiming.writeDst (.v 0) 1 [Lanes.zero]).claims = claiming.claims := by rw [hrest]; rfl
  rw [claims_writeDst_claiming.1, claims_writeDst_claiming.2] at hclaims
  exact absurd hclaims (by decide)

end Sys2Proof.Machine
end

section
/-! PROOFS. Floating-point numbers (05 R82, R84, R86, 15 R228, R235): an exact result lies between two neighbours in the order of the encodings
of its format, RM takes one of them, and what comes out is the format's value next to the exact one. -/
namespace Sys2Proof.Machine

/-! ## The number next to an exact one (05 R82) -/

/-- A magnitude with a sign. -/
def signed (neg : Bool) (n : Nat) : Int := if neg then -(n : Int) else n

@[simp] theorem signed_true (n : Nat) : signed true n = -(n : Int) := rfl

@[simp] theorem signed_false (n : Nat) : signed false n = n := rfl

@[simp] theorem signed_zero (neg : Bool) : signed neg 0 = 0 := by cases neg <;> rfl

@[simp] theorem natAbs_signed (neg : Bool) (n : Nat) : (signed neg n).natAbs = n := by cases neg <;> simp

theorem signed_mul (neg : Bool) (n k : Nat) : signed neg n * (k : Int) = signed neg (n * k) := by cases neg <;> simp

theorem signed_natAbs (v : Int) : signed (decide (v < 0)) v.natAbs = v := by
  simp only [signed, decide_eq_true_eq]
  split <;> omega

/-- RM takes magnitudes of numbers of this sign down. -/
def Inward (rm : BitVec 2) (neg : Bool) : Prop := rm = 1 ∨ (rm = 2 ∧ neg = false) ∨ (rm = 3 ∧ neg = true)

/-- RM takes magnitudes of numbers of this sign up. -/
def Outward (rm : BitVec 2) (neg : Bool) : Prop := (rm = 2 ∧ neg = true) ∨ (rm = 3 ∧ neg = false)

/-- `x` lies at or above the k-th of the magnitudes `V`, below the one after it; RM takes it to the j-th. -/
inductive RoundsTo (rm : BitVec 2) (neg : Bool) (V : Nat → Nat) (x k : Nat) : Nat → Prop
  | exact : V k = x → RoundsTo rm neg V x k k
  | inward : Inward rm neg → RoundsTo rm neg V x k k
  | outward : Outward rm neg → V k < x → RoundsTo rm neg V x k (k + 1)
  | below : rm = 0 → 2 * x < V k + V (k + 1) → RoundsTo rm neg V x k k
  | above : rm = 0 → V k + V (k + 1) < 2 * x → RoundsTo rm neg V x k (k + 1)
  | tieBelow : rm = 0 → 2 * x = V k + V (k + 1) → k % 2 = 0 → RoundsTo rm neg V x k k
  | tieAbove : rm = 0 → 2 * x = V k + V (k + 1) → (k + 1) % 2 = 0 → RoundsTo rm neg V x k (k + 1)

section
variable {rm : BitVec 2} {neg : Bool} {P : Int → Prop} {even : Bool}

theorem nextTo_nearest {x y : Int} : NextTo 0 P even x y ↔ ∀ v, P v → (y - x).natAbs ≤ (v - x).natAbs ∧
    (v ≠ y → (y - x).natAbs = (v - x).natAbs → even = true) := by
  simp [NextTo]

theorem nextTo_truncated {x y : Int} : NextTo 1 P even x y ↔
    y.natAbs ≤ x.natAbs ∧ 0 ≤ x * y ∧ ∀ v, P v → v.natAbs ≤ x.natAbs → v.natAbs ≤ y.natAbs := by
  simp [NextTo]

theorem nextTo_down {x y : Int} : NextTo 2 P even x y ↔ y ≤ x ∧ ∀ v, P v → v ≤ x → v ≤ y := by
  simp [NextTo]

theorem nextTo_up {x y : Int} : NextTo 3 P even x y ↔ x ≤ y ∧ ∀ v, P v → x ≤ v → y ≤ v := by
  simp [NextTo]

theorem rm_cases : ∀ rm : BitVec 2, rm = 0 ∨ rm = 1 ∨ rm = 2 ∨ rm = 3 := by decide

theorem nextTo_self (x : Int) : NextTo rm P even x x := by
  obtain rfl | rfl | rfl | rfl := rm_cases rm
  · exact nextTo_nearest.mpr fun v _ => ⟨by omega, fun _ _ => by omega⟩
  · exact nextTo_truncated.mpr ⟨le_rfl, mul_self_nonneg x, fun v _ h => h⟩
  · exact nextTo_down.mpr ⟨le_rfl, fun v _ h => h⟩
  · exact nextTo_up.mpr ⟨le_rfl, fun v _ h => h⟩

/-- Magnitudes taken down: to the greatest that is not above. -/
theorem nextTo_of_inward {x y : Nat} (hrm : Inward rm neg) (hyx : y ≤ x) (hP : ∀ v, P v → v.natAbs ≤ x → v.natAbs ≤ y) :
    NextTo rm P even (signed neg x) (signed neg y) := by
  obtain rfl | ⟨rfl, rfl⟩ | ⟨rfl, rfl⟩ := hrm
  · refine nextTo_truncated.mpr ⟨by simpa, ?_, by simpa using hP⟩
    cases neg <;> simp <;> positivity
  · refine nextTo_down.mpr ⟨by simpa, fun v hv h => ?_⟩
    have := hP v hv
    simp only [signed_false] at *
    omega
  · refine nextTo_up.mpr ⟨by simpa, fun v hv h => ?_⟩
    have := hP v hv
    simp only [signed_true] at *
    omega

/-- Magnitudes taken up: to the least that is not below. -/
theorem nextTo_of_outward {x y : Nat} (hrm : Outward rm neg) (hxy : x ≤ y) (hP : ∀ v, P v → x ≤ v.natAbs → y ≤ v.natAbs) :
    NextTo rm P even (signed neg x) (signed neg y) := by
  obtain ⟨rfl, rfl⟩ | ⟨rfl, rfl⟩ := hrm
  · refine nextTo_down.mpr ⟨by simpa, fun v hv h => ?_⟩
    have := hP v hv
    simp only [signed_true] at *
    omega
  · refine nextTo_up.mpr ⟨by simpa, fun v hv h => ?_⟩
    have := hP v hv
    simp only [signed_false] at *
    omega

/-- Among the nearest it is enough to look at the magnitudes. -/
theorem nextTo_of_nearest {x y : Nat} (hrm : rm = 0) (hx : x = 0 → y = 0)
    (hP : ∀ v, P v → ((y : Int) - x).natAbs ≤ ((v.natAbs : Int) - x).natAbs ∧
      (v.natAbs ≠ y → ((y : Int) - x).natAbs = ((v.natAbs : Int) - x).natAbs → even = true)) :
    NextTo rm P even (signed neg x) (signed neg y) := by
  subst hrm
  refine nextTo_nearest.mpr fun v hv => ?_
  obtain ⟨hle, heven⟩ := hP v hv
  cases neg <;> simp only [signed_true, signed_false]
  · exact ⟨by omega, fun hne heq => heven (by omega) (by omega)⟩
  · exact ⟨by omega, fun hne heq => heven (by omega) (by omega)⟩

/-- Where the magnitudes rise and hold those of all numbers considered, the one rounded to is next to `x`. -/
theorem RoundsTo.nextTo {V : Nat → Nat} {x k j : Nat} (h : RoundsTo rm neg V x k j) (hV : StrictMono V) (hlo : V k ≤ x)
    (hhi : x < V (k + 1)) (hP : ∀ v, P v → ∃ n, v.natAbs = V n) (heven : j % 2 = 0 → even = true) :
    NextTo rm P even (signed neg x) (signed neg (V j)) := by
  have hgap : ∀ v, P v → v.natAbs ≤ V k ∨ V (k + 1) ≤ v.natAbs := fun v hv => by
    obtain ⟨n, hn⟩ := hP v hv
    rw [hn, hV.le_iff_le, hV.le_iff_le]
    omega
  have hzero : x = 0 → V k = 0 := by omega
  cases h with
  | exact h => exact h ▸ nextTo_self _
  | inward h => exact nextTo_of_inward h hlo fun v hv _ => by have := hgap v hv; omega
  | outward h hlt => exact nextTo_of_outward h hhi.le fun v hv _ => by have := hgap v hv; omega
  | below h hx =>
    exact nextTo_of_nearest h hzero fun v hv => by
      have := hgap v hv
      exact ⟨by omega, fun _ _ => by omega⟩
  | above h hx =>
    exact nextTo_of_nearest h (by omega) fun v hv => by
      have := hgap v hv
      exact ⟨by omega, fun _ _ => by omega⟩
  | tieBelow h hx hk =>
    exact nextTo_of_nearest h hzero fun v hv => by
      have := hgap v hv
      exact ⟨by omega, fun _ _ => heven hk⟩
  | tieAbove h hx hk =>
    exact nextTo_of_nearest h (by omega) fun v hv => by
      have := hgap v hv
      exact ⟨by omega, fun _ _ => heven hk⟩
end

/-- The magnitudes counted in another unit, and from another number on. -/
theorem RoundsTo.transport {rm : BitVec 2} {neg : Bool} {V V' : Nat → Nat} {x k j : Nat} (h : RoundsTo rm neg V x k j) (u s : Nat)
    (hu : 0 < u) (hs : s % 2 = 0) (hk : V' (s + k) = V k * u) (hk' : V' (s + k + 1) = V (k + 1) * u) :
    RoundsTo rm neg V' (x * u) (s + k) (s + j) := by
  have hsum : V' (s + k) + V' (s + k + 1) = (V k + V (k + 1)) * u := by rw [hk, hk', Nat.add_mul]
  have hx : 2 * (x * u) = 2 * x * u := (Nat.mul_assoc ..).symm
  cases h with
  | exact h => exact .exact (by rw [hk, h])
  | inward h => exact .inward h
  | outward h hlt => exact .outward h (by rw [hk]; exact Nat.mul_lt_mul_of_pos_right hlt hu)
  | below h hlt => exact .below h (by rw [hsum, hx]; exact Nat.mul_lt_mul_of_pos_right hlt hu)
  | above h hlt => exact .above h (by rw [hsum, hx]; exact Nat.mul_lt_mul_of_pos_right hlt hu)
  | tieBelow h heq hev => exact .tieBelow h (by rw [hsum, hx, heq]) (by omega)
  | tieAbove h heq hev => exact .tieAbove h (by rw [hsum, hx, heq]) (by omega)

/-! ## Rounding to a whole number of a unit -/

/-- 2^e counted in 2^-800. -/
def unitAt (e : Int) : Nat := 2 ^ (e + 800).toNat

theorem unitAt_pos (e : Int) : 0 < unitAt e := Nat.two_pow_pos _

/-- One is 2^800 of the unit. -/
theorem unitAt_zero : (unitAt 0 : Int) = 2 ^ 800 := Nat.cast_pow 2 (0 + 800 : Int).toNat

theorem unitAt_add {e : Int} (he : -800 ≤ e) (n : Nat) : unitAt (e + n) = 2 ^ n * unitAt e := by
  rw [unitAt, unitAt, ← Nat.pow_add]
  congr 1
  omega

theorem unitAt_eq_of_le {e q : Int} (hq : -800 ≤ q) (hqe : q ≤ e) : unitAt e = 2 ^ (e - q).toNat * unitAt q := by
  rw [← unitAt_add hq, Int.toNat_of_nonneg (by omega), add_sub_cancel]

/-- Where 2^q is coarser than 2^e, RM chooses by what the division of m leaves. -/
theorem roundAt_coarse (neg : Bool) (m : Nat) {e q : Int} (rm : BitVec 2) (h : e < q) :
    RoundsTo rm neg (· * 2 ^ (q - e).toNat) m (m / 2 ^ (q - e).toNat) (roundAt neg m e q rm).1 := by
  rw [roundAt, if_neg (by omega)]
  have hw : 0 < 2 ^ (q - e).toNat := Nat.two_pow_pos _
  generalize 2 ^ (q - e).toNat = w at hw ⊢
  have hdiv : m / w * w + m % w = m := by rw [Nat.mul_comm]; exact Nat.div_add_mod m w
  have hsucc : (m / w + 1) * w = m / w * w + w := Nat.succ_mul ..
  dsimp only
  split
  · exact .exact (by omega)
  · obtain rfl | rfl | rfl | rfl := rm_cases rm
    · obtain hlt | hlt | heq : 2 * (m % w) < w ∨ w < 2 * (m % w) ∨ 2 * (m % w) = w := by omega
      · simpa [hlt.not_gt, hlt.ne] using RoundsTo.below (V := (· * w)) rfl (by omega)
      · simpa [hlt] using RoundsTo.above (V := (· * w)) rfl (by omega)
      · obtain heven | hodd := Nat.mod_two_eq_zero_or_one (m / w)
        · simpa [heq, heven] using RoundsTo.tieBelow (V := (· * w)) rfl (by omega) heven
        · simpa [heq, hodd] using RoundsTo.tieAbove (V := (· * w)) rfl (by omega) (by omega)
    · exact .inward (.inl rfl)
    · cases neg
      · exact .inward (.inr (.inl ⟨rfl, rfl⟩))
      · exact .outward (.inl ⟨rfl, rfl⟩) (by omega)
    · cases neg
      · exact .outward (.inr ⟨rfl, rfl⟩) (by omega)
      · exact .inward (.inr (.inr ⟨rfl, rfl⟩))

/-- The magnitude m · 2^e as a whole number of 2^q. -/
theorem roundAt_roundsTo (neg : Bool) (m : Nat) {e q : Int} (rm : BitVec 2) (he : -800 ≤ e) (hq : -800 ≤ q) :
    ∃ k, k * unitAt q ≤ m * unitAt e ∧ m * unitAt e < (k + 1) * unitAt q ∧
      RoundsTo rm neg (· * unitAt q) (m * unitAt e) k (roundAt neg m e q rm).1 := by
  by_cases h : q ≤ e
  · refine ⟨m * 2 ^ (e - q).toNat, ?_⟩
    have hx : m * unitAt e = m * 2 ^ (e - q).toNat * unitAt q := by rw [unitAt_eq_of_le hq h, Nat.mul_assoc]
    rw [hx, roundAt, if_pos h]
    exact ⟨le_rfl, Nat.mul_lt_mul_of_pos_right (Nat.lt_succ_self _) (unitAt_pos q), .exact rfl⟩
  · have hround := roundAt_coarse neg m rm (Int.not_le.mp h)
    have hscale : ∀ n, n * unitAt q = n * 2 ^ (q - e).toNat * unitAt e := fun n => by
      rw [unitAt_eq_of_le he (by omega), Nat.mul_assoc]
    refine ⟨m / 2 ^ (q - e).toNat, ?_, ?_, ?_⟩
    · rw [hscale]
      exact Nat.mul_le_mul_right _ (Nat.div_mul_le_self ..)
    · rw [hscale]
      exact Nat.mul_lt_mul_of_pos_right (by rw [Nat.mul_comm]; exact Nat.lt_mul_div_succ m (Nat.two_pow_pos _)) (unitAt_pos e)
    · simpa using hround.transport (V' := (· * unitAt q)) (unitAt e) 0 (unitAt_pos e) rfl (by simpa using hscale _) (by simpa using hscale _)

/-! ## The encodings of a format in order (05 R78, R79) -/

/-- The encoding of magnitude n, without its sign: significand m, shifted s places beyond the subnormals. -/
structure Fmt.Splits (f : Fmt) (n s m : Nat) : Prop where
  eq  : n = s * 2 ^ f.fbits + m
  sub : m < 2 ^ f.fbits → s = 0
  lt  : m < 2 ^ (f.fbits + 1)

/-- The magnitude of an encoding without its sign, in units of the last place of a subnormal. -/
def Fmt.mag (f : Fmt) (n : Nat) : Nat :=
  if n < 2 ^ f.fbits then n else (n % 2 ^ f.fbits + 2 ^ f.fbits) * 2 ^ (n / 2 ^ f.fbits - 1)

/-- The greatest finite encoding without its sign. -/
def Fmt.maxFin (f : Fmt) : Nat := if f = .e4m3 then 0x7E else f.infEnc - 1

theorem Fmt.exists_splits (f : Fmt) (n : Nat) : ∃ s m, f.Splits n s m := by
  by_cases h : n < 2 ^ f.fbits
  · exact ⟨0, n, by omega, fun _ => rfl, by rw [Nat.pow_succ]; omega⟩
  · have hdiv := Nat.div_add_mod n (2 ^ f.fbits)
    have hmod := Nat.mod_lt n (Nat.two_pow_pos f.fbits)
    obtain ⟨s, hs⟩ : ∃ s, n / 2 ^ f.fbits = s + 1 :=
      Nat.exists_eq_add_of_le' (Nat.div_pos (Nat.le_of_not_lt h) (Nat.two_pow_pos _))
    refine ⟨s, n % 2 ^ f.fbits + 2 ^ f.fbits, ?_, by omega, by rw [Nat.pow_succ]; omega⟩
    rw [hs, Nat.mul_add, Nat.mul_comm] at hdiv
    omega

/-- The significand may be one past its greatest: the carry raises the exponent. -/
theorem Fmt.mag_shift (f : Fmt) {s m : Nat} (hsub : m < 2 ^ f.fbits → s = 0) (hm : m ≤ 2 ^ (f.fbits + 1)) :
    f.mag (s * 2 ^ f.fbits + m) = m * 2 ^ s := by
  have hp := Nat.two_pow_pos f.fbits
  rw [Nat.pow_succ] at hm
  unfold Fmt.mag
  generalize 2 ^ f.fbits = p at *
  by_cases hlt : m < p
  · simp [hsub hlt, hlt]
  obtain ⟨d, rfl⟩ : ∃ d, m = p + d := Nat.exists_eq_add_of_le (Nat.le_of_not_lt hlt)
  have hnum : s * p + (p + d) = d + p * (s + 1) := by rw [Nat.mul_add, Nat.mul_comm]; omega
  rw [if_neg (by omega), hnum, Nat.add_mul_mod_self_left, Nat.add_mul_div_left _ _ hp]
  obtain hd | rfl : d < p ∨ d = p := by omega
  · simp [Nat.mod_eq_of_lt hd, Nat.div_eq_of_lt hd, Nat.add_comm]
  · simp [Nat.div_self hp, Nat.add_comm 1, Nat.pow_succ]
    ring

theorem Fmt.Splits.mag {f : Fmt} {n s m : Nat} (h : f.Splits n s m) : f.mag n = m * 2 ^ s := by
  rw [h.eq, f.mag_shift h.sub h.lt.le]

theorem Fmt.Splits.mag_succ {f : Fmt} {n s m : Nat} (h : f.Splits n s m) : f.mag (n + 1) = (m + 1) * 2 ^ s := by
  rw [h.eq, Nat.add_assoc, f.mag_shift (fun hm => h.sub (by omega)) h.lt]

theorem Fmt.mag_strictMono (f : Fmt) : StrictMono f.mag := strictMono_nat_of_lt_succ fun n => by
  obtain ⟨s, m, h⟩ := f.exists_splits n
  rw [h.mag, h.mag_succ]
  exact Nat.mul_lt_mul_of_pos_right (Nat.lt_succ_self m) (Nat.two_pow_pos s)

theorem Fmt.mag_zero (f : Fmt) : f.mag 0 = 0 := by simp [Fmt.mag]

/-- The magnitude of an encoding without its sign, in 2^-800. -/
def Fmt.size (f : Fmt) (n : Nat) : Nat := f.mag n * unitAt f.lsb

theorem Fmt.size_strictMono (f : Fmt) : StrictMono f.size :=
  fun _ _ h => Nat.mul_lt_mul_of_pos_right (f.mag_strictMono h) (unitAt_pos _)

@[simp] theorem Fmt.size_zero (f : Fmt) : f.size 0 = 0 := by simp [Fmt.size, f.mag_zero]

/-- In every format but binary64, which no lane word has, values are whole numbers of 2^-400. -/
theorem Fmt.lsb_ge {f : Fmt} (hf : f ≠ .f64) : -400 ≤ f.lsb := by
  cases f with
  | f64 => exact absurd rfl hf
  | _ => decide

theorem Fmt.signW_eq (f : Fmt) : f.signW = 2 ^ f.fbits * 2 ^ f.ebits := by rw [Fmt.signW, Nat.add_comm, Nat.pow_add]

theorem Fmt.even_two_pow_fbits (f : Fmt) : 2 ^ f.fbits % 2 = 0 := by cases f <;> rfl

theorem Fmt.Splits.size {f : Fmt} {n s m : Nat} (h : f.Splits n s m) (hf : f ≠ .f64) : f.size n = m * unitAt (f.lsb + s) := by
  rw [unitAt_add (by have := f.lsb_ge hf; omega), Fmt.size, h.mag, Nat.mul_assoc]

theorem Fmt.Splits.size_succ {f : Fmt} {n s m : Nat} (h : f.Splits n s m) (hf : f ≠ .f64) :
    f.size (n + 1) = (m + 1) * unitAt (f.lsb + s) := by
  rw [unitAt_add (by have := f.lsb_ge hf; omega), Fmt.size, h.mag_succ, Nat.mul_assoc]

/-! ## What an encoding stands for -/

/-- The sign bit of an encoding is set. -/
def Fmt.sign (f : Fmt) (n : Nat) : Bool := n / f.signW % 2 == 1

theorem Fmt.mod_signW (f : Fmt) (n : Nat) : n % f.signW = n / 2 ^ f.fbits % 2 ^ f.ebits * 2 ^ f.fbits + n % 2 ^ f.fbits := by
  rw [f.signW_eq, Nat.mod_mul, Nat.add_comm, Nat.mul_comm]

/-- Below the exponent field of the infinities; in E4M3, below the NaN. -/
theorem Fmt.le_maxFin {f : Fmt} {ex fr : Nat} (hex : ex < 2 ^ f.ebits) (hfr : fr < 2 ^ f.fbits)
    (hnan : ¬ (f = .e4m3 ∧ ex = 15 ∧ fr = 7)) (hinf : ¬ (f ≠ .e4m3 ∧ ex = 2 ^ f.ebits - 1)) :
    ex * 2 ^ f.fbits + fr ≤ f.maxFin := by
  cases f <;> simp [Fmt.maxFin, Fmt.infEnc, Fmt.ebits, Fmt.fbits] at * <;> omega

/-- A finite value, and the encoding it has in the format. -/
theorem Fmt.unpack_fin {f : Fmt} {n : Nat} {ftz neg : Bool} {m : Nat} {e : Int} (h : f.unpack n ftz = .fin neg m e) :
    neg = f.sign n ∧ n % f.signW ≤ f.maxFin ∧
      ((ftz = true ∧ m = 0 ∧ e = 0) ∨ ∃ s : Nat, e = f.lsb + s ∧ f.Splits (n % f.signW) s m) := by
  have hex := Nat.mod_lt (n / 2 ^ f.fbits) (Nat.two_pow_pos f.ebits)
  have hfr := Nat.mod_lt n (Nat.two_pow_pos f.fbits)
  rw [f.mod_signW]
  unfold Fmt.unpack at h
  dsimp only at h
  generalize n / 2 ^ f.fbits % 2 ^ f.ebits = ex at *
  generalize n % 2 ^ f.fbits = fr at *
  split at h
  · cases h
  next hnan =>
  split at h
  · split at h <;> cases h
  next hinf =>
  have hmax := f.le_maxFin hex hfr (by simpa [and_assoc] using hnan) (by simpa using hinf)
  split at h
  next hzero =>
    subst hzero
    split at h
    next hftz =>
      cases h
      exact ⟨rfl, hmax, .inl ⟨hftz, rfl, rfl⟩⟩
    next =>
      cases h
      exact ⟨rfl, hmax, .inr ⟨0, by simp, by simp, fun _ => rfl, by rw [Nat.pow_succ]; omega⟩⟩
  next hpos =>
    cases h
    obtain ⟨s, rfl⟩ := Nat.exists_eq_succ_of_ne_zero hpos
    exact ⟨rfl, hmax, .inr ⟨s, by push_cast; omega, by rw [Nat.succ_mul]; omega, by omega, by rw [Nat.pow_succ]; omega⟩⟩

theorem Fmt.signW_pos (f : Fmt) : 0 < f.signW := Nat.two_pow_pos _

/-- What a sign adds to an encoding. -/
def Fmt.signPart (f : Fmt) (neg : Bool) : Nat := if neg then f.signW else 0

@[simp] theorem Fmt.signPart_true (f : Fmt) : f.signPart true = f.signW := rfl

@[simp] theorem Fmt.signPart_false (f : Fmt) : f.signPart false = 0 := rfl

theorem Fmt.maxFin_lt (f : Fmt) : f.maxFin < f.signW := by cases f <;> decide

theorem Fmt.two_pow_fbits_le_maxFin (f : Fmt) : 2 ^ f.fbits ≤ f.maxFin := by cases f <;> decide

theorem Fmt.infEnc_lt (f : Fmt) : f.infEnc < f.signW := by cases f <;> decide

section
variable {f : Fmt} {neg : Bool} {n : Nat}

theorem Fmt.signPart_add_mod (h : n < f.signW) : (f.signPart neg + n) % f.signW = n := by
  cases neg <;> simp [Nat.mod_eq_of_lt h]

theorem Fmt.sign_signPart_add (h : n < f.signW) : f.sign (f.signPart neg + n) = neg := by
  cases neg <;> simp [Fmt.sign, Nat.div_eq_of_lt h, f.signW_pos]

theorem Fmt.signPart_add_lt (h : n < f.signW) : f.signPart neg + n < 2 * f.signW := by
  cases neg <;> simp <;> omega

theorem Fmt.signPart_sign_add_mod (h : n < 2 * f.signW) : f.signPart (f.sign n) + n % f.signW = n := by
  have hdiv := Nat.div_add_mod n f.signW
  have hlt : n / f.signW < 2 := Nat.div_lt_of_lt_mul (by rwa [Nat.mul_comm])
  obtain hd | hd := Nat.le_one_iff_eq_zero_or_eq_one.mp (Nat.lt_succ_iff.mp hlt) <;>
    simpa [Fmt.sign, hd] using hdiv

theorem Fmt.signPart_even : f.signPart neg % 2 = 0 := by cases f <;> cases neg <;> rfl
end

/-! ## Exact values -/

/-- A finite value in 2^-800. -/
def FVal.exact : FVal → Int
  | .fin s m e => signed s (m * unitAt e)
  | _ => 0

/-- A finite value whose exponent is at least k. -/
def FVal.From (k : Int) (v : FVal) : Prop := ∃ s m e, v = .fin s m e ∧ k ≤ e

theorem FVal.units_fin (s : Bool) (m : Nat) (e : Int) : (FVal.fin s m e).units = signed s (m * 2 ^ (e + 400).toNat) := by
  cases s <;> simp [FVal.units]

theorem FVal.From.units_mul {v : FVal} (h : v.From (-400)) : v.units * 2 ^ 400 = v.exact := by
  obtain ⟨s, m, e, rfl, he⟩ := h
  have hpow : ((2 ^ 400 : Nat) : Int) = 2 ^ 400 := Nat.cast_pow 2 400
  have hexp : (e + 800).toNat = (e + 400).toNat + 400 := by omega
  rw [FVal.units_fin, ← hpow, signed_mul, FVal.exact, unitAt, hexp, Nat.pow_add, Nat.mul_assoc]

theorem Fmt.unpack_from {f : Fmt} (hf : f ≠ .f64) {n : Nat} {ftz : Bool} (h : (f.unpack n ftz).IsFinite) :
    (f.unpack n ftz).From (-400) := by
  obtain ⟨neg, m, e, h⟩ := h
  refine ⟨neg, m, e, h, ?_⟩
  have := f.lsb_ge hf
  obtain ⟨-, -, ⟨-, -, rfl⟩ | ⟨s, rfl, -⟩⟩ := Fmt.unpack_fin h <;> omega

theorem Fmt.worth_eq {f : Fmt} (hf : f ≠ .f64) {n : Nat} (h : (f.unpack n).IsFinite) :
    f.worth n = signed (f.sign n) (f.size (n % f.signW)) := by
  rw [Fmt.worth, (Fmt.unpack_from hf h).units_mul]
  obtain ⟨neg, m, e, h⟩ := h
  obtain ⟨rfl, -, ⟨hftz, -, -⟩ | ⟨s, rfl, hs⟩⟩ := Fmt.unpack_fin h
  · cases hftz
  · rw [h, FVal.exact, hs.size hf]

/-! ## One rounding into a format (05 R84, R86) -/

/-- How an encoding without its sign comes out of the format, given the place j that RM takes it to: a subnormal flushed, beyond the
range of E4M3, an infinity, the greatest finite value, the place itself. -/
inductive Fmt.Outcome (f : Fmt) (rm : BitVec 2) (ftz neg : Bool) (j : Nat) : Nat × Word → Prop
  | flushed (st : Word) : ftz = true → j < 2 ^ f.fbits → f.Outcome rm ftz neg j (f.signPart neg + 0, st)
  | clamped : f = .e4m3 → f.Outcome rm ftz neg j (f.signPart neg + f.maxFin, stFSAT)
  | infinite (st : Word) : f ≠ .e4m3 → f.Outcome rm ftz neg j (f.signPart neg + f.infEnc, st)
  | largest (st : Word) : f.maxFin < j → Inward rm neg → f.Outcome rm ftz neg j (f.signPart neg + f.maxFin, st)
  | finite (st : Word) : j ≤ f.maxFin → (ftz = true → j = 0 ∨ 2 ^ f.fbits ≤ j) → f.Outcome rm ftz neg j (f.signPart neg + j, st)

theorem RoundsTo.le {rm : BitVec 2} {neg : Bool} {V : Nat → Nat} {x k j : Nat} (h : RoundsTo rm neg V x k j) : k ≤ j := by
  cases h <;> omega

theorem RoundsTo.le_succ {rm : BitVec 2} {neg : Bool} {V : Nat → Nat} {x k j : Nat} (h : RoundsTo rm neg V x k j) : j ≤ k + 1 := by
  cases h <;> omega

theorem unitAt_mono {a b : Int} (h : a ≤ b) : unitAt a ≤ unitAt b := Nat.pow_le_pow_right (by decide) (by omega)

/-- The last place of a result is that of the leading digits, or of the subnormals. -/
theorem Fmt.splits_of_place {f : Fmt} (hf : f ≠ .f64) {m k s : Nat} {e : Int} (hm : m ≠ 0) (he : -800 ≤ e)
    (hq : max (e + (Nat.log2 m : Int) - f.fbits) f.lsb = f.lsb + s)
    (hlo : k * unitAt (f.lsb + s) ≤ m * unitAt e) (hhi : m * unitAt e < (k + 1) * unitAt (f.lsb + s)) :
    f.Splits (s * 2 ^ f.fbits + k) s k := by
  have hlsb := f.lsb_ge hf
  have hmlo : unitAt (e + Nat.log2 m) ≤ m * unitAt e := by
    rw [unitAt_add he]
    exact Nat.mul_le_mul_right _ (Nat.log2_self_le hm)
  have hmhi : m * unitAt e < unitAt (e + (Nat.log2 m + 1 : Nat)) := by
    rw [unitAt_add he]
    exact Nat.mul_lt_mul_of_pos_right Nat.lt_log2_self (unitAt_pos e)
  refine ⟨rfl, fun hk => ?_, ?_⟩
  · by_contra hs
    have hle : (k + 1) * unitAt (f.lsb + s) ≤ unitAt (f.lsb + s + f.fbits) := by
      rw [unitAt_add (by omega) f.fbits]
      exact Nat.mul_le_mul_right _ hk
    have hplace : f.lsb + s + f.fbits = e + Nat.log2 m := by omega
    rw [hplace] at hle
    omega
  · by_contra hk
    have hle : unitAt (f.lsb + s + (f.fbits + 1 : Nat)) ≤ k * unitAt (f.lsb + s) := by
      rw [unitAt_add (by omega) (f.fbits + 1)]
      exact Nat.mul_le_mul_right _ (Nat.le_of_not_lt hk)
    have := unitAt_mono (a := e + (Nat.log2 m + 1 : Nat)) (b := f.lsb + s + (f.fbits + 1 : Nat)) (by omega)
    omega

theorem inward_of_not_toInf {rm : BitVec 2} {neg : Bool} (h : ¬ (rm = 0 || (rm = 2 && neg) || (rm = 3 && !neg)) = true) : Inward rm neg := by
  obtain rfl | rfl | rfl | rfl := rm_cases rm <;> cases neg <;> simp [Inward] at h ⊢

/-- The encoding of a nonzero magnitude, given its last place and what that place rounds to. -/
theorem Fmt.round_of_place {f : Fmt} {rm : BitVec 2} {ftz neg : Bool} {m s r : Nat} {e : Int} {ix : Bool} (hm : m ≠ 0)
    (hs : max (e + (Nat.log2 m : Int) - f.fbits) f.lsb = f.lsb + s) (hr : roundAt neg m e (f.lsb + s) rm = (r, ix))
    (hsub : r < 2 ^ f.fbits → s = 0) :
    f.round rm ftz neg m e =
      let enc := s * 2 ^ f.fbits + r
      if ftz = true ∧ 0 < r ∧ r < 2 ^ f.fbits then (f.signPart neg, stUF ||| stNX)
      else if f = .e4m3 ∧ 0x7E < enc then (f.signPart neg + 0x7E, stFSAT)
      else if f ≠ .e4m3 ∧ f.infEnc ≤ enc then
        (f.signPart neg + if rm = 0 || (rm = 2 && neg) || (rm = 3 && !neg) then f.infEnc else f.infEnc - 1, stOF ||| stNX)
      else (f.signPart neg + enc, if ix then (if f.tiny neg m e rm then stNX ||| stUF else stNX) else 0) := by
  have henc : (if r < 2 ^ f.fbits then r else s * 2 ^ f.fbits + r) = s * 2 ^ f.fbits + r := by
    split
    next h => rw [hsub h]; omega
    next => rfl
  unfold Fmt.round
  rw [if_neg hm, hs]
  dsimp only
  rw [hr, show (f.lsb + s - f.lsb).toNat = s by omega, henc]
  simp only [Bool.and_eq_true, decide_eq_true_eq, and_assoc, Fmt.signPart]

theorem Fmt.outcome_of_place {f : Fmt} {rm : BitVec 2} {ftz neg : Bool} {m s r : Nat} {e : Int} {ix : Bool} (hm : m ≠ 0)
    (hs : max (e + (Nat.log2 m : Int) - f.fbits) f.lsb = f.lsb + s) (hr : roundAt neg m e (f.lsb + s) rm = (r, ix))
    (hsub : r < 2 ^ f.fbits → s = 0) : f.Outcome rm ftz neg (s * 2 ^ f.fbits + r) (f.round rm ftz neg m e) := by
  rw [Fmt.round_of_place hm hs hr hsub]
  dsimp only
  split
  next h => exact .flushed _ h.1 (by rw [hsub h.2.2]; omega)
  next hflush =>
  split
  next h => simpa [Fmt.maxFin, h.1] using Fmt.Outcome.clamped h.1
  next hclamp =>
  split
  next h =>
    have hmax : f.maxFin = f.infEnc - 1 := if_neg h.1
    have hpos : 0 < f.infEnc := by have := f.two_pow_fbits_le_maxFin; have := Nat.two_pow_pos f.fbits; omega
    split
    next => exact .infinite _ h.1
    next hin => exact hmax ▸ .largest _ (by omega) (inward_of_not_toInf hin)
  next hover =>
    refine .finite _ ?_ fun hftz => ?_
    · unfold Fmt.maxFin
      split
      next h => exact Nat.le_of_not_lt fun hlt => hclamp ⟨h, hlt⟩
      next h => exact Nat.le_sub_one_of_lt (Nat.lt_of_not_le fun hle => hover ⟨h, hle⟩)
    · by_cases hr : r < 2 ^ f.fbits
      · rw [hsub hr]
        left
        simp [hftz, hr] at hflush
        omega
      · omega

/-- A nonzero magnitude lies between two neighbours of the format, however far that reaches, and RM takes it to one. -/
theorem Fmt.round_outcome {f : Fmt} (hf : f ≠ .f64) (rm : BitVec 2) (ftz neg : Bool) {m : Nat} {e : Int} (hm : m ≠ 0) (he : -800 ≤ e) :
    ∃ k j, f.size k ≤ m * unitAt e ∧ m * unitAt e < f.size (k + 1) ∧ RoundsTo rm neg f.size (m * unitAt e) k j ∧
      f.Outcome rm ftz neg j (f.round rm ftz neg m e) := by
  have hlsb := f.lsb_ge hf
  obtain ⟨s, hs⟩ : ∃ s : Nat, max (e + (Nat.log2 m : Int) - f.fbits) f.lsb = f.lsb + s :=
    ⟨(max (e + (Nat.log2 m : Int) - f.fbits) f.lsb - f.lsb).toNat, by omega⟩
  obtain ⟨k, hlo, hhi, hround⟩ := roundAt_roundsTo neg m rm he (q := f.lsb + s) (by omega)
  have hsplits := Fmt.splits_of_place hf hm he hs hlo hhi
  have hkj := hround.le
  have heven : s * 2 ^ f.fbits % 2 = 0 := by rw [Nat.mul_mod, f.even_two_pow_fbits, Nat.mul_zero, Nat.zero_mod]
  have htrans := hround.transport (V' := f.size) 1 (s * 2 ^ f.fbits) Nat.one_pos heven (by rw [hsplits.size hf, Nat.mul_one])
    (by rw [hsplits.size_succ hf, Nat.mul_one])
  rw [Nat.mul_one] at htrans
  exact ⟨_, _, by rwa [hsplits.size hf], by rwa [hsplits.size_succ hf], htrans,
    Fmt.outcome_of_place hm hs rfl fun h => hsplits.sub (by omega)⟩

/-- A magnitude is below the least normal number where its lower neighbour is subnormal. -/
theorem Fmt.lt_normal {f : Fmt} (hf : f ≠ .f64) {x k : Nat} (hhi : x < f.size (k + 1)) (hk : k < 2 ^ f.fbits) :
    x < 2 ^ (801 - f.bias).toNat := by
  have hnormal : f.size (2 ^ f.fbits) = 2 ^ (801 - f.bias).toNat := by
    have hmag : f.mag (2 ^ f.fbits) = 2 ^ f.fbits := by simpa using f.mag_shift (s := 0) (m := 2 ^ f.fbits) (by simp) (by rw [Nat.pow_succ]; omega)
    rw [Fmt.size, hmag, ← unitAt_add (by have := f.lsb_ge hf; omega), unitAt, Fmt.lsb]
    congr 1
    omega
  rw [← hnormal]
  exact hhi.trans_le (f.size_strictMono.monotone hk)

theorem Fmt.finite_le {f : Fmt} {n : Nat} {ftz : Bool} (h : (f.unpack n ftz).IsFinite) : n % f.signW ≤ f.maxFin := by
  obtain ⟨neg, m, e, h⟩ := h
  exact (Fmt.unpack_fin h).2.1

theorem Fmt.worth_signPart_add {f : Fmt} (hf : f ≠ .f64) {neg : Bool} {n : Nat} (hn : n < f.signW)
    (h : (f.unpack (f.signPart neg + n)).IsFinite) : f.worth (f.signPart neg + n) = signed neg (f.size n) := by
  rw [Fmt.worth_eq hf h, Fmt.sign_signPart_add hn, Fmt.signPart_add_mod hn]

theorem Fmt.natAbs_of_value {f : Fmt} (hf : f ≠ .f64) {v : Int} (h : ∃ n < 2 * f.signW, (f.unpack n).IsFinite ∧ f.worth n = v) :
    ∃ n ≤ f.maxFin, v.natAbs = f.size n := by
  obtain ⟨n, -, hfin, rfl⟩ := h
  exact ⟨n % f.signW, Fmt.finite_le hfin, by rw [Fmt.worth_eq hf hfin, natAbs_signed]⟩

/-- What comes out of the format is the exact value rounded once. -/
theorem Fmt.Outcome.rounded {f : Fmt} (hf : f ≠ .f64) {c : FCtl} {neg : Bool} {x k j : Nat} {r : Nat × Word}
    (h : f.Outcome c.rm c.ftz neg j r) (hlo : f.size k ≤ x) (hhi : x < f.size (k + 1)) (hround : RoundsTo c.rm neg f.size x k j) :
    f.Rounded c (signed neg x) r := by
  have hkj := hround.le
  have hjk := hround.le_succ
  have hmax := f.maxFin_lt
  have hpos := Nat.two_pow_pos f.fbits
  have hmaxpos := f.two_pow_fbits_le_maxFin
  cases h with
  | flushed st hftz hj =>
    refine ⟨Fmt.signPart_add_lt (by omega), fun hfin _ => ?_⟩
    rw [Fmt.worth_signPart_add hf (by omega) hfin]
    refine ⟨fun h => by simp [hftz] at h, fun _ _ => ?_⟩
    rw [natAbs_signed]
    exact Fmt.lt_normal hf hhi (by omega)
  | clamped h => exact ⟨Fmt.signPart_add_lt hmax, fun _ h => absurd h (show ¬ stFSAT &&& 0x400 = 0 by decide)⟩
  | infinite st h =>
    refine ⟨Fmt.signPart_add_lt f.infEnc_lt, fun hfin _ => ?_⟩
    have hle := Fmt.finite_le hfin
    rw [Fmt.signPart_add_mod f.infEnc_lt, Fmt.maxFin, if_neg h] at hle
    have : f.maxFin = f.infEnc - 1 := if_neg h
    omega
  | largest st hj hin =>
    refine ⟨Fmt.signPart_add_lt hmax, fun hfin _ => ?_⟩
    rw [Fmt.worth_signPart_add hf hmax hfin]
    refine ⟨fun _ => nextTo_of_inward hin ?_ fun v hv _ => ?_, fun _ hzero => ?_⟩
    · exact (f.size_strictMono.monotone (by omega)).trans hlo
    · obtain ⟨n, hn, hv⟩ := Fmt.natAbs_of_value hf hv
      exact hv ▸ f.size_strictMono.monotone hn
    · have hsize : f.size f.maxFin = 0 := by simpa using congrArg Int.natAbs hzero
      have := f.size_strictMono (show 0 < f.maxFin by omega)
      omega
  | finite st hj hftz =>
    refine ⟨Fmt.signPart_add_lt (by omega), fun hfin _ => ?_⟩
    rw [Fmt.worth_signPart_add hf (by omega) hfin]
    refine ⟨fun _ => hround.nextTo f.size_strictMono hlo hhi (fun v hv => ?_) fun heven => ?_, fun _ hzero => ?_⟩
    · obtain ⟨n, -, hv⟩ := Fmt.natAbs_of_value hf hv
      exact ⟨n, hv⟩
    · simp [Nat.add_mod, heven, Fmt.signPart_even]
    · have hsize : f.size j = 0 := by simpa using congrArg Int.natAbs hzero
      have hj : j = 0 := f.size_strictMono.injective (by rw [hsize, f.size_zero])
      rw [natAbs_signed]
      exact Fmt.lt_normal hf hhi (by omega)

theorem Fmt.rounded_round {f : Fmt} (hf : f ≠ .f64) (c : FCtl) (neg : Bool) (m : Nat) {e : Int} (he : -800 ≤ e) :
    f.Rounded c (signed neg (m * unitAt e)) (f.round c.rm c.ftz neg m e) := by
  by_cases hm : m = 0
  · have hzero : f.round c.rm c.ftz neg m e = (f.signPart neg + 0, 0) := if_pos hm
    have hout : f.Outcome c.rm c.ftz neg 0 (f.signPart neg + 0, 0) := .finite 0 (Nat.zero_le _) fun _ => .inl rfl
    rw [hzero]
    refine hout.rounded hf (k := 0) ?_ ?_ (.exact ?_)
    · simp
    · simpa [hm] using f.size_strictMono Nat.zero_lt_one
    · simp [hm]
  · obtain ⟨k, j, hlo, hhi, hround, hout⟩ := Fmt.round_outcome hf c.rm c.ftz neg hm he
    exact hout.rounded hf hlo hhi hround

theorem Fmt.rounded_put {f src : Fmt} (hf : f ≠ .f64) (c : FCtl) {v : FVal} (hv : v.From (-800)) :
    f.Rounded c v.exact (f.put src c v) := by
  obtain ⟨s, m, e, rfl, he⟩ := hv
  exact Fmt.rounded_round hf c s m he

/-! ## Exact operations -/

theorem FVal.From.mono {k l : Int} {v : FVal} (h : v.From k) (hlk : l ≤ k) : v.From l := by
  obtain ⟨s, m, e, rfl, he⟩ := h
  exact ⟨s, m, e, rfl, hlk.trans he⟩

theorem FVal.From.notNan {k : Int} {v : FVal} (h : v.From k) : v.isNan = false := by
  obtain ⟨s, m, e, rfl, -⟩ := h
  rfl

theorem FVal.From.negate {k : Int} {v : FVal} (h : v.From k) : v.negate.From k := by
  obtain ⟨s, m, e, rfl, he⟩ := h
  exact ⟨!s, m, e, rfl, he⟩

theorem FVal.From.exact_negate {k : Int} {v : FVal} (h : v.From k) : v.negate.exact = -v.exact := by
  obtain ⟨s, m, e, rfl, -⟩ := h
  cases s <;> simp [FVal.negate, FVal.exact]

theorem onGrid_eq (s : Bool) (m : Nat) (e q : Int) : onGrid s m e q = signed s (m * 2 ^ (e - q).toNat) := by
  cases s <;> simp [onGrid]

theorem onGrid_mul_unit (s : Bool) (m : Nat) {e q : Int} (hq : -800 ≤ q) (hqe : q ≤ e) :
    onGrid s m e q * unitAt q = signed s (m * unitAt e) := by
  rw [onGrid_eq, signed_mul, unitAt_eq_of_le hq hqe, Nat.mul_assoc]

/-- The exact sum is exact. -/
theorem rawAdd_exact (rm : BitVec 2) {a b : FVal} (ha : a.From (-800)) (hb : b.From (-800)) :
    ∃ v, rawAdd rm a b = (some v, 0) ∧ v.From (-800) ∧ v.exact = a.exact + b.exact := by
  obtain ⟨s1, m1, e1, rfl, he1⟩ := ha
  obtain ⟨s2, m2, e2, rfl, he2⟩ := hb
  refine ⟨_, rfl, ?_⟩
  have hq : -800 ≤ min e1 e2 := le_min he1 he2
  have hsum : (onGrid s1 m1 e1 (min e1 e2) + onGrid s2 m2 e2 (min e1 e2)) * unitAt (min e1 e2) =
      (FVal.fin s1 m1 e1).exact + (FVal.fin s2 m2 e2).exact := by
    rw [Int.add_mul, onGrid_mul_unit s1 m1 hq (min_le_left ..), onGrid_mul_unit s2 m2 hq (min_le_right ..)]
    rfl
  rw [← hsum]
  unfold addFin
  dsimp only
  generalize onGrid s1 m1 e1 (min e1 e2) + onGrid s2 m2 e2 (min e1 e2) = v
  split
  next h => exact ⟨⟨_, _, _, rfl, by decide⟩, by simp [FVal.exact, h]⟩
  next => exact ⟨⟨_, _, _, rfl, hq⟩, by rw [FVal.exact, ← signed_mul, signed_natAbs]⟩

/-- The exact product is exact. -/
theorem rawMul_exact {a b : FVal} (ha : a.From (-400)) (hb : b.From (-400)) :
    ∃ v, rawMul a b = (some v, 0) ∧ v.From (-800) ∧ v.exact = a.units * b.units := by
  obtain ⟨s1, m1, e1, rfl, he1⟩ := ha
  obtain ⟨s2, m2, e2, rfl, he2⟩ := hb
  refine ⟨_, rfl, ⟨_, _, _, rfl, by omega⟩, ?_⟩
  have hexp : (e1 + e2 + 800).toNat = (e1 + 400).toNat + (e2 + 400).toNat := by omega
  rw [FVal.units_fin, FVal.units_fin, FVal.exact, unitAt, hexp, Nat.pow_add]
  cases s1 <;> cases s2 <;> simp <;> ring

/-- a × b + c is exact before its one rounding. -/
theorem rawFma_exact (rm : BitVec 2) {a b d : FVal} (ha : a.From (-400)) (hb : b.From (-400)) (hd : d.From (-800)) :
    ∃ v, rawFma rm a b d = (some v, 0) ∧ v.From (-800) ∧ v.exact = a.units * b.units + d.exact := by
  obtain ⟨p, hmul, hp, hexact⟩ := rawMul_exact ha hb
  obtain ⟨v, hadd, hv, hsum⟩ := rawAdd_exact rm hp hd
  exact ⟨v, by rw [rawFma, hmul]; exact hadd, hv, by rw [hsum, hexact]⟩

/-- Operands that are no NaN count by the exact result alone. -/
theorem Fmt.result_of_notNan {f : Fmt} {c : FCtl} {vs : List FVal} {extra : Word} {raw : FRaw} (hvs : ∀ x ∈ vs, x.isNan = false) :
    f.result c vs extra raw = f.result c [] 0 raw := by
  have hnone : vs.find? FVal.isNan = none := List.find?_eq_none.mpr fun x hx => by simp [hvs x hx]
  simp [Fmt.result, hnone]

theorem Fmt.result_some {f : Fmt} {c : FCtl} {vs : List FVal} {extra : Word} {v : FVal} (hvs : ∀ x ∈ vs, x.isNan = false) :
    f.result c vs extra (some v, 0) = f.put f c v := by
  rw [Fmt.result_of_notNan hvs]
  simp [Fmt.result]

/-! ## One rounding of sums and products -/

section
variable {f : Fmt} (hf : f ≠ .f64) (c : FCtl) {a b d : Nat}
include hf

theorem Fmt.rounded_add (ha : (f.unpack a c.ftz).IsFinite) (hb : (f.unpack b c.ftz).IsFinite) :
    f.Rounded c (((f.unpack a c.ftz).units + (f.unpack b c.ftz).units) * 2 ^ 400) (f.add c a b) := by
  have ha := Fmt.unpack_from hf ha
  have hb := Fmt.unpack_from hf hb
  obtain ⟨v, hraw, hv, hexact⟩ := rawAdd_exact c.rm (ha.mono (by decide)) (hb.mono (by decide))
  rw [Int.add_mul, ha.units_mul, hb.units_mul, ← hexact, Fmt.add, hraw, Fmt.result_some (by simp [ha.notNan, hb.notNan])]
  exact Fmt.rounded_put hf c hv

theorem Fmt.rounded_sub (ha : (f.unpack a c.ftz).IsFinite) (hb : (f.unpack b c.ftz).IsFinite) :
    f.Rounded c (((f.unpack a c.ftz).units - (f.unpack b c.ftz).units) * 2 ^ 400) (f.sub c a b) := by
  have ha := Fmt.unpack_from hf ha
  have hb := Fmt.unpack_from hf hb
  obtain ⟨v, hraw, hv, hexact⟩ := rawAdd_exact c.rm (ha.mono (by decide)) (hb.negate.mono (by decide))
  rw [Int.sub_mul, ha.units_mul, hb.units_mul, Int.sub_eq_add_neg, ← hb.exact_negate, ← hexact, Fmt.sub, hraw,
    Fmt.result_some (by simp [ha.notNan, hb.notNan])]
  exact Fmt.rounded_put hf c hv

theorem Fmt.rounded_mul (ha : (f.unpack a c.ftz).IsFinite) (hb : (f.unpack b c.ftz).IsFinite) :
    f.Rounded c ((f.unpack a c.ftz).units * (f.unpack b c.ftz).units) (f.mul c a b) := by
  have ha := Fmt.unpack_from hf ha
  have hb := Fmt.unpack_from hf hb
  obtain ⟨v, hraw, hv, hexact⟩ := rawMul_exact ha hb
  rw [← hexact, Fmt.mul, hraw, Fmt.result_some (by simp [ha.notNan, hb.notNan])]
  exact Fmt.rounded_put hf c hv

theorem Fmt.rounded_fma (ha : (f.unpack a c.ftz).IsFinite) (hb : (f.unpack b c.ftz).IsFinite) (hd : (f.unpack d c.ftz).IsFinite) :
    f.Rounded c ((f.unpack a c.ftz).units * (f.unpack b c.ftz).units + (f.unpack d c.ftz).units * 2 ^ 400) (f.fma c a b d) := by
  have ha := Fmt.unpack_from hf ha
  have hb := Fmt.unpack_from hf hb
  have hd := Fmt.unpack_from hf hd
  obtain ⟨v, hraw, hv, hexact⟩ := rawFma_exact c.rm ha hb (hd.mono (by decide))
  rw [hd.units_mul, ← hexact, Fmt.fma, hraw, Fmt.result_some (by simp [ha.notNan, hb.notNan, hd.notNan])]
  exact Fmt.rounded_put hf c hv

/-! ## Conversions (15 R235, 05 R86) -/

theorem Fmt.rounded_convert {src : Fmt} (hsrc : src ≠ .f64) (ha : (src.unpack a c.ftz).IsFinite) :
    f.Rounded c ((src.unpack a c.ftz).units * 2 ^ 400) (f.convert src c a) := by
  have ha := Fmt.unpack_from hsrc ha
  have hquiet : snanNV [src.unpack a c.ftz] = 0 := by
    obtain ⟨s, m, e, h, -⟩ := ha
    rw [h]
    rfl
  rw [ha.units_mul, Fmt.convert, hquiet]
  simpa using Fmt.rounded_put hf c (ha.mono (by decide))

theorem Fmt.rounded_ofInt (v : Int) : f.Rounded c (v * 2 ^ 800) (f.ofInt c v) := by
  have hexact : signed (decide (v < 0)) (v.natAbs * unitAt 0) = v * 2 ^ 800 := by rw [← signed_mul, signed_natAbs, unitAt_zero]
  rw [← hexact]
  exact Fmt.rounded_round hf c _ _ (by decide)

end

theorem CType.fmt_ne_f64 {t : CType} {f : Fmt} (h : CType.fmt t = some f) : f ≠ .f64 := by
  rintro rfl
  cases t <;> simp [CType.fmt] at h

/-- The 64 bits that hold a result are enough. -/
theorem Fmt.Rounded.ofNat {f : Fmt} {c : FCtl} {x : Int} {r : Nat × Word} (h : f.Rounded c x r) (hf : f ≠ .f64) :
    f.Rounded c x ((BitVec.ofNat 64 r.1).toNat, r.2) := by
  have hlt : 2 * f.signW < 2 ^ 64 := by
    cases f with
    | f64 => exact absurd rfl hf
    | _ => decide
  rwa [BitVec.toNat_ofNat, Nat.mod_eq_of_lt (h.1.trans hlt)]

/-- A whole number in the range of its type reads as it was written. -/
theorem intSrc_intDst {t : CType} (ht : CType.fmt t = none) {v : Int} (hlo : (intRange t).1 ≤ v) (hhi : v ≤ (intRange t).2) :
    intSrc t (intDst t v) = v := by
  have hbyte : ∀ b : BitVec 8, ((b.signExtend 32).setWidth 64).setWidth 8 = b := by decide
  cases t <;> simp only [CType.fmt, reduceCtorEq] at ht <;> simp only [intRange, intSrc, intDst] at *
  case i8 => rw [hbyte, BitVec.toInt_ofInt_eq_self (by decide) hlo (by omega)]
  case i64 => exact BitVec.toInt_ofInt_eq_self (by decide) hlo (by omega)
  all_goals rw [BitVec.setWidth_setWidth_of_le _ (by decide), BitVec.setWidth_eq]
  case i32 => exact BitVec.toInt_ofInt_eq_self (by decide) hlo (by omega)
  case u32 => rw [BitVec.toNat_ofInt]; omega

/-- A whole number that NV does not mark is the rounded value, in its range. -/
theorem Fmt.toInt_of_clean {src : Fmt} {c : FCtl} {lo hi : Int} {x m : Nat} {neg : Bool} {e : Int}
    (hv : src.unpack x c.ftz = .fin neg m e) (hclean : (src.toInt c lo hi x).2 &&& 0x200 = 0) :
    (src.toInt c lo hi x).1 = signed neg (roundAt neg m e 0 c.rm).1 ∧ lo ≤ signed neg (roundAt neg m e 0 c.rm).1 ∧
      signed neg (roundAt neg m e 0 c.rm).1 ≤ hi := by
  have hnv : ¬ stNV &&& 0x200 = 0 := by decide
  have heq : src.toInt c lo hi x =
      if signed neg (roundAt neg m e 0 c.rm).1 < lo then (lo, stNV)
      else if hi < signed neg (roundAt neg m e 0 c.rm).1 then (hi, stNV)
      else (signed neg (roundAt neg m e 0 c.rm).1, if (roundAt neg m e 0 c.rm).2 then stNX else 0) := by
    rw [Fmt.toInt, hv]
    rfl
  rw [heq] at hclean ⊢
  split at hclean
  · exact absurd hclean hnv
  split at hclean
  · exact absurd hclean hnv
  next hlo hhi => exact ⟨by rw [if_neg hlo, if_neg hhi], Int.not_lt.mp hlo, Int.not_lt.mp hhi⟩

/-- A finite value that is not clamped becomes the whole number next to it. -/
theorem Fmt.toInt_nextTo {src : Fmt} (hsrc : src ≠ .f64) {c : FCtl} {lo hi : Int} {x : Nat} (hfin : (src.unpack x c.ftz).IsFinite)
    (hclean : (src.toInt c lo hi x).2 &&& 0x200 = 0) :
    lo ≤ (src.toInt c lo hi x).1 ∧ (src.toInt c lo hi x).1 ≤ hi ∧
      NextTo c.rm (fun v => ∃ n : Int, v = n * 2 ^ 800) ((src.toInt c lo hi x).1 % 2 == 0)
        ((src.unpack x c.ftz).units * 2 ^ 400) ((src.toInt c lo hi x).1 * 2 ^ 800) := by
  have hfrom := Fmt.unpack_from hsrc hfin
  rw [hfrom.units_mul]
  obtain ⟨s, m, e, hv, he⟩ := hfrom
  obtain ⟨hr, hlo, hhi⟩ := Fmt.toInt_of_clean hv hclean
  obtain ⟨k, hxlo, hxhi, hround⟩ := roundAt_roundsTo s m c.rm (show -800 ≤ e by omega) (q := 0) (by decide)
  rw [hr, hv, FVal.exact]
  refine ⟨hlo, hhi, ?_⟩
  rw [← unitAt_zero, signed_mul]
  refine hround.nextTo (V := (· * unitAt 0)) (fun _ _ h => Nat.mul_lt_mul_of_pos_right h (unitAt_pos 0)) hxlo hxhi ?_ fun heven => ?_
  · rintro v ⟨n, rfl⟩
    exact ⟨n.natAbs, by rw [Int.natAbs_mul, Int.natAbs_natCast]⟩
  · cases s <;> simp <;> omega

theorem fmtOf_ne_f64 (t : FType) : fmtOf t ≠ .f64 := by cases t <;> exact nofun

theorem fmtOf_ne_e4m3 (t : FType) : fmtOf t ≠ .e4m3 := by cases t <;> exact nofun

/-- One rounding of sums, products and conversions. -/
theorem finiteRounding : Claims.FiniteRounding := by
  refine ⟨fun t c a b d => ?_, fun dt st sat c x => ⟨fun d s hd hs hfin => ?_, fun d hd hs => ?_, fun s hd hs hfin hclean => ?_⟩⟩
  · intro f u ha hb
    have hf : f ≠ .f64 := fmtOf_ne_f64 t
    exact ⟨Fmt.rounded_add hf c ha hb, Fmt.rounded_sub hf c ha hb, Fmt.rounded_mul hf c ha hb, Fmt.rounded_fma hf c ha hb⟩
  · have hr := Fmt.rounded_convert (CType.fmt_ne_f64 hd) c (CType.fmt_ne_f64 hs) hfin
    simpa only [cvtElem, hd, hs] using hr.ofNat (CType.fmt_ne_f64 hd)
  · have hr := Fmt.rounded_ofInt (CType.fmt_ne_f64 hd) c (intSrc st x)
    simpa only [cvtElem, hd, hs] using hr.ofNat (CType.fmt_ne_f64 hd)
  · simp only [cvtElem, hd, hs] at hclean ⊢
    obtain ⟨hlo, hhi, hnext⟩ := Fmt.toInt_nextTo (CType.fmt_ne_f64 hs) hfin hclean
    rwa [intSrc_intDst hd hlo hhi]

end Sys2Proof.Machine
end

section
/-! PROOFS. The edges of floating-point arithmetic (05 R84, R85, 15 R228 to R230): NaN operands, invalid operations, signs, comparisons. -/
namespace Sys2Proof.Machine

/-! ## Signs of encodings -/

@[simp] theorem FVal.negate_negate (v : FVal) : v.negate.negate = v := by cases v <;> simp [FVal.negate]

@[simp] theorem FVal.isNan_negate (v : FVal) : v.negate.isNan = v.isNan := by cases v <;> rfl

theorem Fmt.unpack_signPart_add {f : Fmt} (neg : Bool) {n : Nat} (ftz : Bool) (hn : n < f.signW) :
    f.unpack (f.signPart neg + n) ftz = if neg then (f.unpack n ftz).negate else f.unpack n ftz := by
  cases neg
  · simp [Fmt.signPart]
  have hsign : (f.signW + n) / f.signW % 2 = 1 := by simp [f.signW_pos, Nat.div_eq_of_lt hn]
  have hex : (f.signW + n) / 2 ^ f.fbits % 2 ^ f.ebits = n / 2 ^ f.fbits % 2 ^ f.ebits := by
    rw [f.signW_eq, Nat.mul_add_div (Nat.two_pow_pos _), Nat.add_mod_left]
  have hfr : (f.signW + n) % 2 ^ f.fbits = n % 2 ^ f.fbits := by rw [f.signW_eq, Nat.mul_add_mod]
  simp only [Fmt.signPart, if_true, Fmt.unpack, hsign, hex, hfr, Nat.div_eq_of_lt hn]
  split_ifs <;> rfl

theorem Fmt.flip_eq {f : Fmt} {n : Nat} (hn : n < 2 * f.signW) :
    (n + f.signW) % (2 * f.signW) = f.signPart (!f.sign n) + n % f.signW := by
  have hlow := Nat.mod_lt n f.signW_pos
  have hsplit := Fmt.signPart_sign_add_mod hn
  cases hs : f.sign n <;> rw [hs] at hsplit <;> simp only [Fmt.signPart_true, Fmt.signPart_false, Bool.not_true, Bool.not_false] at *
  · rw [Nat.mod_eq_of_lt] <;> omega
  · rw [show n + f.signW = n % f.signW + 2 * f.signW by omega, Nat.add_mod_right, Nat.mod_eq_of_lt (by omega), Nat.zero_add]

/-- The encoding with its sign inverted stands for the value with its sign inverted. -/
theorem Fmt.unpack_flip {f : Fmt} {n : Nat} (ftz : Bool) (hn : n < 2 * f.signW) :
    f.unpack ((n + f.signW) % (2 * f.signW)) ftz = (f.unpack n ftz).negate := by
  have hlow := Nat.mod_lt n f.signW_pos
  conv_rhs => rw [← Fmt.signPart_sign_add_mod hn]
  rw [Fmt.flip_eq hn, Fmt.unpack_signPart_add _ _ hlow, Fmt.unpack_signPart_add _ _ hlow]
  cases f.sign n <;> simp

/-! ## Finite values encoded back -/

/-- FTZ changes which finite value a subnormal stands for, not which encodings are finite. -/
theorem Fmt.isFinite_unpack {f : Fmt} {n : Nat} {ftz : Bool} (h : (f.unpack n ftz).IsFinite) : (f.unpack n).IsFinite := by
  obtain ⟨neg, m, e, h⟩ := h
  unfold Fmt.unpack FVal.IsFinite at *
  dsimp only at *
  split_ifs at h ⊢ <;> simp_all

/-- The last place of a value of the format is its own. -/
theorem Fmt.Splits.place {f : Fmt} {n s m : Nat} (h : f.Splits n s m) (hm : m ≠ 0) :
    max (f.lsb + s + (Nat.log2 m : Int) - f.fbits) f.lsb = f.lsb + s := by
  have hhi : Nat.log2 m < f.fbits + 1 := (Nat.log2_lt hm).mpr h.lt
  by_cases hlt : m < 2 ^ f.fbits
  · have := h.sub hlt
    omega
  · have hlo : ¬ Nat.log2 m < f.fbits := fun hlo => hlt ((Nat.log2_lt hm).mp hlo)
    omega

theorem roundAt_self (neg : Bool) (m : Nat) (e : Int) (rm : BitVec 2) : roundAt neg m e e rm = (m, false) := by
  simp [roundAt]

/-- A finite value encodes back to itself, and raises nothing. -/
theorem Fmt.put_unpack {f : Fmt} {c : FCtl} {n : Nat} (hc : c.ftz = false) (hn : n < 2 * f.signW) (h : (f.unpack n).IsFinite) :
    f.put f c (f.unpack n) = (n, 0) := by
  obtain ⟨neg, m, e, h⟩ := h
  obtain ⟨rfl, hmax, ⟨hftz, -, -⟩ | ⟨s, rfl, hs⟩⟩ := Fmt.unpack_fin h
  · cases hftz
  rw [h, Fmt.put]
  have hback := Fmt.signPart_sign_add_mod hn
  by_cases hm : m = 0
  · have hzero : n % f.signW = 0 := by rw [hs.eq, hs.sub (hm ▸ Nat.two_pow_pos _), hm, Nat.zero_mul]
    rw [hzero, Nat.add_zero] at hback
    rw [Fmt.round, if_pos hm]
    exact congrArg (·, 0) hback
  · rw [Fmt.round_of_place hm (hs.place hm) (roundAt_self ..) hs.sub, ← hs.eq]
    dsimp only
    have hinf := f.two_pow_fbits_le_maxFin
    have hpos := Nat.two_pow_pos f.fbits
    rw [if_neg (by simp [hc]), if_neg, if_neg, hback]
    · rfl
    · rintro ⟨he, hle⟩
      rw [Fmt.maxFin, if_neg he] at *
      omega
    · rintro ⟨he, hlt⟩
      rw [Fmt.maxFin, if_pos he] at hmax
      omega

/-! ## NaN operands (05 R85) -/

/-- A NaN of a format with infinities, and the encoding it has. -/
theorem Fmt.unpack_nan {f : Fmt} (hf : f ≠ .e4m3) {n : Nat} {ftz neg q : Bool} {fr : Nat} (h : f.unpack n ftz = .nan neg fr q) :
    neg = f.sign n ∧ fr < 2 ^ f.fbits ∧ n % f.signW = f.infEnc + fr := by
  have hfr := Nat.mod_lt n (Nat.two_pow_pos f.fbits)
  rw [f.mod_signW]
  unfold Fmt.unpack at h
  dsimp only at h
  split at h
  next hnan => simp [hf] at hnan
  split at h
  next hex =>
    split at h
    · cases h
    · cases h
      simp only [Bool.and_eq_true, decide_eq_true_eq] at hex
      exact ⟨rfl, hfr, by rw [hex.2]; rfl⟩
  · split at h
    · split at h <;> cases h
    · cases h

/-- The quiet bit of a fraction set. -/
def quieted (p fr : Nat) : Nat := if fr / 2 ^ p % 2 = 1 then fr else fr + 2 ^ p

theorem quieted_lt {p fr : Nat} (hfr : fr < 2 ^ (p + 1)) : quieted p fr < 2 ^ (p + 1) := by
  have hp := Nat.two_pow_pos p
  unfold quieted
  rw [Nat.pow_succ] at *
  split
  · exact hfr
  next hbit =>
    have hlt : fr < 2 ^ p := Nat.lt_of_not_le fun hle => hbit (by rw [Nat.div_eq_of_lt_le (k := 1)] <;> omega)
    omega

theorem or_two_pow_eq_quieted {p fr : Nat} (hfr : fr < 2 ^ (p + 1)) : fr ||| 2 ^ p = quieted p fr := by
  rw [Nat.pow_succ] at hfr
  obtain hlt | hle := Nat.lt_or_ge fr (2 ^ p)
  · have hor := Nat.two_pow_add_eq_or_of_lt hlt 1
    rw [Nat.mul_one] at hor
    rw [quieted, Nat.div_eq_of_lt hlt, if_neg (by decide), Nat.or_comm, ← hor, Nat.add_comm]
  · obtain ⟨d, rfl⟩ := Nat.exists_eq_add_of_le hle
    have hor := Nat.two_pow_add_eq_or_of_lt (show d < 2 ^ p by omega) 1
    rw [Nat.mul_one] at hor
    have hbit : (2 ^ p + d) / 2 ^ p % 2 = 1 := by rw [Nat.div_eq_of_lt_le (k := 1)] <;> omega
    rw [quieted, if_pos hbit, hor, Nat.or_right_comm, Nat.or_self]

/-- The bits above the fraction stay. -/
theorem add_or_two_pow {p fr : Nat} (h : Nat) (hfr : fr < 2 ^ (p + 1)) :
    (2 ^ (p + 1) * h + fr) ||| 2 ^ p = 2 ^ (p + 1) * h + quieted p fr := by
  rw [Nat.two_pow_add_eq_or_of_lt hfr, Nat.or_assoc, or_two_pow_eq_quieted hfr, Nat.two_pow_add_eq_or_of_lt (quieted_lt hfr)]

/-- A NaN in its own format is made canonical, or quiet. -/
theorem Fmt.nanRes_unpack {f : Fmt} (hf : f ≠ .e4m3) (nanc : Bool) {n : Nat} {ftz neg q : Bool} {fr : Nat} (hn : n < 2 * f.signW)
    (h : f.unpack n ftz = .nan neg fr q) :
    f.nanRes f nanc neg fr = if nanc then f.canon else n ||| 2 ^ (f.fbits - 1) := by
  obtain ⟨rfl, hfr, hlow⟩ := Fmt.unpack_nan hf h
  obtain ⟨p, hp⟩ : ∃ p, f.fbits = p + 1 := by cases f <;> exact ⟨_, rfl⟩
  have hback := Fmt.signPart_sign_add_mod hn
  have hsign : ∃ k, f.signPart (f.sign n) = 2 ^ f.fbits * k := by
    cases f.sign n
    · exact ⟨0, rfl⟩
    · exact ⟨_, f.signW_eq⟩
  obtain ⟨k, hk⟩ := hsign
  have hcode : n = 2 ^ (p + 1) * (k + (2 ^ f.ebits - 1)) + fr := by
    rw [← hback, hlow, hk, Fmt.infEnc, hp, Nat.mul_add, Nat.mul_comm (2 ^ f.ebits - 1), Nat.add_assoc]
  rw [hp] at hfr
  rw [Fmt.nanRes, if_neg hf, if_neg hf, if_pos le_rfl, Nat.sub_self, Nat.pow_zero, Nat.mul_one]
  split
  · rfl
  · change f.signPart (f.sign n) + f.infEnc + quieted (f.fbits - 1) fr = _
    rw [hk, Fmt.infEnc, hp, Nat.add_sub_cancel, hcode, add_or_two_pow _ hfr, Nat.mul_add, Nat.mul_comm (2 ^ f.ebits - 1)]

theorem Fmt.result_nan {f : Fmt} (hf : f ≠ .e4m3) {c : FCtl} {n : Nat} {vs : List FVal} {raw : FRaw} (hn : n < 2 * f.signW)
    (h : (f.unpack n c.ftz).isNan = true) :
    f.result c (f.unpack n c.ftz :: vs) 0 raw =
      (if c.nanc then f.canon else n ||| 2 ^ (f.fbits - 1), snanNV (f.unpack n c.ftz :: vs)) := by
  cases hv : f.unpack n c.ftz with
  | nan neg fr q => simp [Fmt.result, List.find?, FVal.isNan, ← Fmt.nanRes_unpack hf c.nanc hn hv]
  | inf neg => simp [hv, FVal.isNan] at h
  | fin neg m e => simp [hv, FVal.isNan] at h

/-! ## Operands that are no NaN -/

theorem Fmt.result_congr {f : Fmt} {c : FCtl} {vs ws : List FVal} {raw : FRaw} (hvs : ∀ x ∈ vs, x.isNan = false)
    (hws : ∀ x ∈ ws, x.isNan = false) : f.result c vs 0 raw = f.result c ws 0 raw := by
  rw [Fmt.result_of_notNan hvs, Fmt.result_of_notNan hws]

theorem addFin_comm (rm : BitVec 2) (s1 : Bool) (m1 : Nat) (e1 : Int) (s2 : Bool) (m2 : Nat) (e2 : Int) :
    addFin rm s1 m1 e1 s2 m2 e2 = addFin rm s2 m2 e2 s1 m1 e1 := by
  have hsign : (if m1 = 0 && m2 = 0 && s1 == s2 then s1 else rm == 2) = if m2 = 0 && m1 = 0 && s2 == s1 then s2 else rm == 2 := by
    cases s1 <;> cases s2 <;> simp [and_comm]
  rw [addFin, addFin, min_comm e2 e1, Int.add_comm (onGrid s2 m2 e2 _), hsign]

theorem rawAdd_comm (rm : BitVec 2) {a b : FVal} (ha : a.isNan = false) (hb : b.isNan = false) : rawAdd rm a b = rawAdd rm b a := by
  cases a <;> cases b <;> simp_all [FVal.isNan, rawAdd]
  case inf.inf s t => cases s <;> cases t <;> rfl
  case fin.fin => exact addFin_comm ..

theorem rawMul_comm (a b : FVal) : rawMul a b = rawMul b a := by
  cases a <;> cases b <;> simp only [rawMul, Nat.mul_comm, Int.add_comm, bne_comm, Bool.or_comm]

theorem cmpVal_swap (a b : FVal) : cmpVal b a = (cmpVal a b).swap := by
  cases a <;> cases b <;> simp only [cmpVal, min_comm] <;> exact Std.OrientedCmp.eq_swap

section
variable {f : Fmt} (c : FCtl) {a b : Nat}

section
variable (ha : (f.unpack a c.ftz).isNan = false) (hb : (f.unpack b c.ftz).isNan = false)
include ha hb

theorem Fmt.add_comm_of_notNan : f.add c a b = f.add c b a := by
  rw [Fmt.add, Fmt.add, rawAdd_comm c.rm ha hb]
  exact Fmt.result_congr (by simp [ha, hb]) (by simp [ha, hb])

theorem Fmt.mul_comm_of_notNan : f.mul c a b = f.mul c b a := by
  rw [Fmt.mul, Fmt.mul, rawMul_comm]
  exact Fmt.result_congr (by simp [ha, hb]) (by simp [ha, hb])

theorem Fmt.sub_eq_add_flip (hlt : b < 2 * f.signW) : f.sub c a b = f.add c a ((b + f.signW) % (2 * f.signW)) := by
  rw [Fmt.sub, Fmt.add, Fmt.unpack_flip c.ftz hlt]
  exact Fmt.result_congr (by simp [ha, hb]) (by simp [ha, hb])

/-- One of below, equal and above holds; `FCMP` with GT is LT of the operands exchanged, and LE is LT or EQ. -/
theorem Fmt.cmp_total :
    ((f.cmp c.ftz .lt a b).1 || (f.cmp c.ftz .eq a b).1 || (f.cmp c.ftz .gt a b).1) = true ∧
      (f.cmp c.ftz .lt a b).1 = (f.cmp c.ftz .gt b a).1 ∧
      (f.cmp c.ftz .le a b).1 = ((f.cmp c.ftz .lt a b).1 || (f.cmp c.ftz .eq a b).1) := by
  simp only [Fmt.cmp, ha, hb, cmpVal_swap (f.unpack a c.ftz) (f.unpack b c.ftz)]
  cases cmpVal (f.unpack a c.ftz) (f.unpack b c.ftz) <;> decide
end

theorem Fmt.add_nan (hf : f ≠ .e4m3) (hlt : a < 2 * f.signW) (ha : (f.unpack a c.ftz).isNan = true) :
    f.add c a b = (if c.nanc then f.canon else a ||| 2 ^ (f.fbits - 1), snanNV [f.unpack a c.ftz, f.unpack b c.ftz]) :=
  Fmt.result_nan hf hlt ha

theorem Fmt.mul_nan (hf : f ≠ .e4m3) (hlt : a < 2 * f.signW) (ha : (f.unpack a c.ftz).isNan = true) :
    f.mul c a b = (if c.nanc then f.canon else a ||| 2 ^ (f.fbits - 1), snanNV [f.unpack a c.ftz, f.unpack b c.ftz]) :=
  Fmt.result_nan hf hlt ha

theorem Fmt.cmp_nan (ha : (f.unpack a c.ftz).isNan = true) :
    (f.cmp c.ftz .ne a b).1 = true ∧ (f.cmp c.ftz .nan a b).1 = true ∧ (f.cmp c.ftz .eq a b).1 = false ∧
      f.cmp c.ftz .lt a b = (false, 0x200) ∧ f.cmp c.ftz .le a b = (false, 0x200) := by
  simp [Fmt.cmp, ha, stNV]

/-- x - x is a zero, negative only when rounding down. -/
theorem Fmt.add_flip_self (hlt : a < 2 * f.signW) (ha : (f.unpack a c.ftz).IsFinite) :
    f.add c a ((a + f.signW) % (2 * f.signW)) = (if c.rm = 2 then f.signW else 0, 0) := by
  obtain ⟨neg, m, e, h⟩ := ha
  have hsum : onGrid neg m e e + onGrid (!neg) m e e = 0 := by cases neg <;> simp [onGrid]
  have hraw : rawAdd c.rm (.fin neg m e) (.fin (!neg) m e) = (some (.fin (c.rm == 2) 0 0), 0) := by
    simp [rawAdd, addFin, hsum]
  rw [Fmt.add, Fmt.unpack_flip c.ftz hlt, h, FVal.negate, hraw, Fmt.result_some (by simp [FVal.isNan])]
  simp [Fmt.put, Fmt.round]
end

/-! ## Infinities and zeros -/

section
variable (t : FType) (c : FCtl) (neg : Bool)

theorem Fmt.unpack_infinity : (fmtOf t).unpack ((fmtOf t).signPart neg + (fmtOf t).infEnc) c.ftz = .inf neg := by
  cases t <;> cases neg <;> cases c.ftz <;> decide

theorem Fmt.unpack_zero : ∃ e, (fmtOf t).unpack ((fmtOf t).signPart neg) c.ftz = .fin neg 0 e := by
  cases c.ftz
  · exact ⟨(fmtOf t).lsb, by cases t <;> cases neg <;> decide⟩
  · exact ⟨0, by cases t <;> cases neg <;> decide⟩

/-- An operation without a result gives the canonical NaN and NV. -/
theorem Fmt.result_invalid {f : Fmt} {vs : List FVal} (hvs : ∀ x ∈ vs, x.isNan = false) :
    f.result c vs 0 (none, 0) = (f.canon, 0x200) := by
  rw [Fmt.result_of_notNan hvs]
  rfl

theorem Fmt.add_infinities :
    (fmtOf t).add c ((fmtOf t).signPart neg + (fmtOf t).infEnc) ((fmtOf t).signPart (!neg) + (fmtOf t).infEnc) =
      ((fmtOf t).canon, 0x200) := by
  rw [Fmt.add, Fmt.unpack_infinity, Fmt.unpack_infinity]
  have hraw : rawAdd c.rm (.inf neg) (.inf !neg) = (none, 0) := by cases neg <;> rfl
  rw [hraw]
  exact Fmt.result_invalid c (by simp [FVal.isNan])

theorem Fmt.mul_infinity_zero :
    (fmtOf t).mul c ((fmtOf t).signPart neg + (fmtOf t).infEnc) 0 = ((fmtOf t).canon, 0x200) := by
  obtain ⟨e, hzero⟩ := Fmt.unpack_zero t c false
  change (fmtOf t).unpack 0 c.ftz = _ at hzero
  rw [Fmt.mul, Fmt.unpack_infinity, hzero]
  exact Fmt.result_invalid c (by simp [FVal.isNan])

theorem Fmt.sqrt_minus_infinity :
    (fmtOf t).fun1 c rawSqrt ((fmtOf t).signPart true + (fmtOf t).infEnc) = ((fmtOf t).canon, 0x200) := by
  rw [Fmt.fun1, Fmt.unpack_infinity]
  exact Fmt.result_invalid c (by simp [FVal.isNan])

theorem Fmt.rcp_zero :
    (fmtOf t).fun1 c rawRcp ((fmtOf t).signPart neg) = ((fmtOf t).signPart neg + (fmtOf t).infEnc, 0x100) := by
  obtain ⟨e, hzero⟩ := Fmt.unpack_zero t c neg
  have hraw : rawRcp (.fin neg 0 e) = (some (.inf neg), 0x100) := rfl
  rw [Fmt.fun1, hzero, hraw, Fmt.result_of_notNan (by simp [FVal.isNan])]
  simp [Fmt.result, Fmt.put, Fmt.infRes, fmtOf_ne_e4m3, Fmt.signPart]

end

/-- The edges of IEEE arithmetic in the lane formats. -/
theorem floatSpecialCases : Claims.FloatSpecialCases := by
  intro t c a b ha hb f va vb inf
  have hf := fmtOf_ne_e4m3 t
  refine ⟨fun hnan => ?_, fun hna hnb => ?_, fun n => ?_, fun n => ⟨?_, ?_⟩, fun n => ?_, fun neg m e hfin => ⟨?_, ?_⟩⟩
  · have hadd := Fmt.add_nan c (b := b) hf ha hnan
    have hmul := Fmt.mul_nan c (b := b) hf ha hnan
    refine ⟨congrArg Prod.fst hadd, congrArg Prod.fst (hmul.trans hadd.symm), ?_, Fmt.cmp_nan c hnan⟩
    rw [congrArg Prod.snd hadd]
    simp [snanNV, stNV, va, vb, f]
  · obtain ⟨htotal, hswap, hle⟩ := Fmt.cmp_total c hna hnb
    exact ⟨Fmt.add_comm_of_notNan c hna hnb, Fmt.mul_comm_of_notNan c hna hnb, htotal, hswap, hle,
      Fmt.sub_eq_add_flip c hna hnb hb⟩
  · exact Fmt.add_infinities t c n
  · exact Fmt.mul_infinity_zero t c n
  · exact Fmt.sqrt_minus_infinity t c
  · exact Fmt.rcp_zero t c n
  · exact Fmt.add_flip_self c ha ⟨neg, m, e, hfin⟩
  · exact Fmt.put_unpack rfl ha (Fmt.isFinite_unpack ⟨neg, m, e, hfin⟩)

/-- Settles O8: the edges by the exact operations on the values that encodings stand for; the rounding, since an exact magnitude lies between
two neighbours in the order of the encodings, of which RM takes one. -/
theorem floatEdges : Obligations.FloatEdges := ⟨floatSpecialCases, finiteRounding⟩

end Sys2Proof.Machine
end

section
/-! PROOFS. Every operation keeps the canonical form of the byte lists (log 2): global and host memory, scratchpads, snapshots and flash
pages with addresses rising and no zero listed, and accumulators in rising order. Here: the operations over memory, the objects of the state
and barriers (07 R99, R100, 08 R120 to R131). -/
namespace Sys2Proof.Machine

/-! ## The parts of the form -/

/-- The byte lists of a workgroup are canonical. -/
def Workgroup.Canonical (w : Workgroup) : Prop := w.sp.wf = true ∧ w.seq.acc.Pairwise fun a b => a.1 < b.1

namespace State.Canonical

variable {s t : State}

/-- A workgroup that the state holds is canonical. -/
theorem wg (h : s.Canonical) {w : Workgroup} (hw : w ∈ s.allWgs) : w.Canonical := ⟨h.sp w hw, h.acc w hw⟩

theorem focusWg (h : s.Canonical) : s.wg.Canonical := h.wg List.mem_cons_self

theorem of_parts (hmem : s.mem.wf = true) (hhmem : s.hmem.wf = true) (hwgs : ∀ w ∈ s.allWgs, w.Canonical)
    (hcores : ∀ c ∈ s.allCores, c.snap.wf = true) (hflash : ∀ p ∈ s.flash, p.2.wf = true) : s.Canonical :=
  ⟨hmem, hhmem, fun w hw => (hwgs w hw).1, hcores, hflash, fun w hw => (hwgs w hw).2⟩

/-- Global memory changed to a canonical one. -/
theorem setMem {m : Mem} (h : s.Canonical) (hm : m.wf = true) : ({ s with mem := m } : State).Canonical :=
  ⟨hm, h.hmem, h.sp, h.snap, h.flash, h.acc⟩

/-- Host memory changed to a canonical one. -/
theorem setHmem {m : Mem} (h : s.Canonical) (hm : m.wf = true) : ({ s with hmem := m } : State).Canonical :=
  ⟨h.mem, hm, h.sp, h.snap, h.flash, h.acc⟩

/-- Workgroups changed to canonical ones. -/
theorem setWgs {w : Workgroup} {ws : List Workgroup} (h : s.Canonical) (hw : ∀ x ∈ w :: ws, x.Canonical) :
    ({ s with wg := w, wgs := ws } : State).Canonical :=
  of_parts h.mem h.hmem hw h.snap h.flash

/-- The workgroup in the focus changed to a canonical one; the fields that keep no byte list do not count. -/
theorem setWg {g : Group} {w : Workgroup} {ln : Launch} {slot : Bool} {groups : List Group} {launches : List Launch} {fit : List FitEntry}
    {tree : List TreeRec} {jobs : List Job} {porters : List PorterReq} {resreqs : List ResReq} {ctxs : Vector Ctx 16} {funcs : List Func}
    {queues : List Queue} {nss : Vector Namespace 16} {dev : Dev} {turns : List Turn} {free : Nat} (h : s.Canonical) (hw : w.Canonical) :
    ({ s with
      g := g, wg := w, ln := ln, slot := slot, groups := groups, launches := launches, fit := fit, tree := tree, jobs := jobs
      porters := porters, resreqs := resreqs, ctxs := ctxs, funcs := funcs, queues := queues, nss := nss, dev := dev, turns := turns
      free := free } : State).Canonical :=
  of_parts h.mem h.hmem (List.forall_mem_cons.mpr ⟨hw, fun _ hx => h.wg (List.mem_cons_of_mem _ hx)⟩) h.snap h.flash

/-- The fields that keep no byte list changed. -/
theorem others {g : Group} {ln : Launch} {slot : Bool} {groups : List Group} {launches : List Launch} {fit : List FitEntry}
    {tree : List TreeRec} {jobs : List Job} {porters : List PorterReq} {resreqs : List ResReq} {ctxs : Vector Ctx 16} {funcs : List Func}
    {queues : List Queue} {nss : Vector Namespace 16} {dev : Dev} {turns : List Turn} {free : Nat} (h : s.Canonical) :
    ({ s with
      g := g, ln := ln, slot := slot, groups := groups, launches := launches, fit := fit, tree := tree, jobs := jobs, porters := porters
      resreqs := resreqs, ctxs := ctxs, funcs := funcs, queues := queues, nss := nss, dev := dev, turns := turns
      free := free } : State).Canonical :=
  h.setWg h.focusWg

/-- Cores changed to ones with canonical snapshots. -/
theorem setCores {c : Core} {cs : List Core} (h : s.Canonical) (hc : ∀ x ∈ c :: cs, x.snap.wf = true) :
    ({ s with core := c, cores := cs } : State).Canonical :=
  of_parts h.mem h.hmem (fun _ => h.wg) hc h.flash

/-- The core in the focus changed to one with a canonical snapshot. -/
theorem setCore {c : Core} (h : s.Canonical) (hc : c.snap.wf = true) : ({ s with core := c } : State).Canonical :=
  h.setCores (List.forall_mem_cons.mpr ⟨hc, fun _ hx => h.snap _ (List.mem_cons_of_mem _ hx)⟩)

theorem foldl {α : Type} {f : State → α → State} {xs : List α} (h : s.Canonical)
    (hf : ∀ (s : State) x, s.Canonical → (f s x).Canonical) : (xs.foldl f s).Canonical :=
  List.foldlRecOn xs f h fun s h x _ => hf s x h

theorem ite {c : Prop} [Decidable c] (hs : s.Canonical) (ht : t.Canonical) : (if c then s else t).Canonical := by
  split
  · exact hs
  · exact ht

/-! ## Objects of the state (07 R99, 08 R122) -/

theorem modGroup {w gid : Nat} {f : Group → Group} (h : s.Canonical) : (s.modGroup w gid f).Canonical :=
  .ite (h.others) (h.others)

theorem modGroups {p : Group → Bool} {f : Group → Group} (h : s.Canonical) : (s.modGroups p f).Canonical := h.others

theorem modLaunch {l : Nat} {f : Launch → Launch} (h : s.Canonical) : (s.modLaunch l f).Canonical :=
  .ite (h.others) (h.others)

theorem modWg {w : Nat} {f : Workgroup → Workgroup} (h : s.Canonical) (hf : ∀ x : Workgroup, x.Canonical → (f x).Canonical) :
    (s.modWg w f).Canonical := by
  refine .ite (h.setWg (hf _ h.focusWg)) (h.setWgs (List.forall_mem_cons.mpr ⟨h.focusWg, ?_⟩))
  intro x hx
  obtain ⟨y, hy, rfl⟩ := List.mem_map.mp hx
  have hcan : y.Canonical := h.wg (List.mem_cons_of_mem _ hy)
  split
  · exact hf _ hcan
  · exact hcan

theorem modCore {c : Nat} {f : Core → Core} (h : s.Canonical) (hf : ∀ k : Core, k.snap.wf = true → (f k).snap.wf = true) :
    (s.modCore c f).Canonical := by
  obtain ⟨hcore, hcores⟩ := List.forall_mem_cons.mp h.snap
  refine .ite (h.setCores (List.forall_mem_cons.mpr ⟨hf _ hcore, hcores⟩)) (h.setCores (List.forall_mem_cons.mpr ⟨hcore, ?_⟩))
  intro x hx
  obtain ⟨y, hy, rfl⟩ := List.mem_map.mp hx
  split
  · exact hf _ (hcores y hy)
  · exact hcores y hy

/-- The workgroup found under an id is canonical. -/
theorem findWg {w : Nat} {x : Workgroup} (h : s.Canonical) (hx : s.findWg w = some x) : x.Canonical :=
  h.wg (List.mem_of_find?_eq_some hx)

/-- The snapshot of the core found under an id is canonical. -/
theorem findCore {c : Nat} {k : Core} (h : s.Canonical) (hk : s.findCore c = some k) : k.snap.wf = true :=
  h.snap k (List.mem_of_find?_eq_some hk)

theorem focusOn {w gid : Nat} (h : s.Canonical) : (s.focusOn w gid).Canonical := by
  unfold State.focusOn
  split
  · exact h
  · split
    · next g x hg hx =>
      refine of_parts h.mem h.hmem (List.forall_mem_cons.mpr ⟨h.findWg hx, fun y hy => h.wg (List.mem_filter.mp hy).1⟩)
        (List.forall_mem_cons.mpr ⟨?_, fun y hy => h.snap y (List.mem_filter.mp hy).1⟩) h.flash
      cases hk : s.findCore x.coreId with
      | none => rfl
      | some k => exact h.findCore hk
    · exact h

theorem modCtx {b : Nat} {f : Ctx → Ctx} (h : s.Canonical) : (s.modCtx b f).Canonical := h.others

theorem modErr {b : Nat} {f : ErrRec → ErrRec} (h : s.Canonical) : (s.modErr b f).Canonical := h.modCtx

theorem modFit {d : Nat} {f : FitEntry → FitEntry} (h : s.Canonical) : (s.modFit d f).Canonical := h.others

theorem touch {da : Nat} {write : Bool} (h : s.Canonical) : (s.touch da write).Canonical := h.modFit

theorem modTree {i : Nat} {f : TreeRec → TreeRec} (h : s.Canonical) : (s.modTree i f).Canonical := h.others

theorem raiseTile {d : Nat} (h : s.Canonical) : (s.raiseTile d).Canonical := by
  unfold State.raiseTile
  split
  · exact h
  · exact .ite h (h.others)

/-! ## Batches, views and snapshots (08 R122 to R126) -/

/-- Bytes published keep memory canonical. -/
theorem batch {cells : List (Nat × Byte)} (h : s.Canonical) : (s.batch cells).Canonical :=
  foldl (h.setMem (Mem.wf_foldl_set _ h.mem)) fun _ _ h => h.touch.raiseTile

theorem storeByte {da : Nat} {b : Byte} (h : s.Canonical) : (s.storeByte da b).Canonical :=
  (h.setCore (c := (s.storeByte da b).core) (h.snap s.core List.mem_cons_self)).others

theorem storeBytes {da : Nat} {bs : List Byte} (h : s.Canonical) : (s.storeBytes da bs).Canonical :=
  foldl h.touch fun _ _ h => h.storeByte

theorem publish {w gid : Nat} (h : s.Canonical) : (s.publish w gid).Canonical := by
  unfold State.publish
  split
  · exact h
  · exact h.batch.modGroup

/-- A snapshot is a copy of memory. -/
theorem snapshot {c : Nat} (h : s.Canonical) : (s.snapshot c).Canonical := h.modCore fun _ _ => h.mem

theorem acquire {c scope : Nat} (h : s.Canonical) : (s.acquire c scope).Canonical := .ite h.snapshot h

theorem acquireBar {w : Workgroup} {off : Nat} {p : BitVec 16} {by_ : Option Nat} (h : s.Canonical) :
    (s.acquireBar w off p by_).Canonical := .ite h.snapshot h.acquire

end State.Canonical

/-! ## Workgroups: slots, scratchpad and barriers (07 R99, 08 R130 to R133) -/

namespace Workgroup.Canonical

variable {w : Workgroup}

theorem modSlot {n : Nat} {f : Slot → Slot} (h : w.Canonical) : (w.modSlot n f).Canonical := by
  rw [Workgroup.modSlot_frame]
  exact h

theorem store {d : Desc} {by_ off : Nat} {b : Byte} (h : w.Canonical) : (w.store d by_ off b).Canonical := by
  unfold Workgroup.store
  split
  · exact ⟨Mem.wf_set _ _ h.1, h.2⟩
  · exact h

theorem setBar {off : Nat} {b : Barrier} (h : w.Canonical) : (w.setBar off b).Canonical := ⟨Mem.wf_writeLE _ _ _ h.1, h.2⟩

theorem carry {off : Nat} {b : Barrier} {p : BitVec 16} {js : List Acquirers} (h : w.Canonical) : (w.carry off b p js).Canonical := h

theorem setJobBars {js : List (Nat × BitVec 16 × Acquirers)} (h : w.Canonical) : ({ w with jobBars := js } : Workgroup).Canonical := h

/-- An arrival that is not refused. -/
theorem arrive {x : Workgroup} {d : Desc} {off arrivals bytes : Nat} {ticket : BitVec 21} {job : Option Party} (h : w.Canonical)
    (hx : w.arrive d off ticket arrivals bytes job = .ok x) : x.Canonical := by
  simp only [Workgroup.arrive] at hx
  split at hx
  · cases hx
  · split at hx
    · cases hb : (w.softBar off).credit ticket arrivals bytes with
      | error c => rw [hb] at hx; cases hx
      | ok b => rw [hb] at hx; cases hx; exact h.setBar.carry
    · split at hx
      · cases hx
      · split at hx
        · cases hx
        · cases hx; exact h

theorem event (h : w.Canonical) : w.event.Canonical := h

theorem foldl {α : Type} {f : Workgroup → α → Workgroup} {xs : List α} (h : w.Canonical)
    (hf : ∀ (w : Workgroup) x, w.Canonical → (f w x).Canonical) : (xs.foldl f w).Canonical :=
  List.foldlRecOn xs f h fun w h x _ => hf w x h

end Workgroup.Canonical

namespace State.Canonical

variable {s : State}

theorem spStore {by_ w off : Nat} {bs : List Byte} (h : s.Canonical) : (s.spStore by_ w off bs).Canonical :=
  h.modWg fun _ hx => hx.foldl fun _ _ hx => hx.store

/-- Every workgroup of a list changed, one after the other. -/
theorem modWgs {f : Workgroup → Workgroup → Workgroup} {ws : List Workgroup} (h : s.Canonical)
    (hf : ∀ y x : Workgroup, x.Canonical → (f y x).Canonical) : (ws.foldl (fun s w => s.modWg w.id (f w)) s).Canonical :=
  foldl h fun _ _ h => h.modWg (hf _)

end State.Canonical

end Sys2Proof.Machine
end

section
/-! PROOFS. The canonical form through retirement, the end of groups and launches, and the taking of faults (01 R34 to R45,
17 R304, 24 R333). -/
namespace Sys2Proof.Machine

namespace State.Canonical

variable {s : State}

/-! ## Late faults and result cells (07 R116, 01 R34) -/

theorem latch {n : SReg} (h : s.Canonical) : (s.latch n).Canonical := ite (h.others) h

theorem writeS {n : SReg} {v : Word} (h : s.Canonical) : (s.writeS n v).Canonical := h.others

theorem writePair {n : SReg} {v : DWord} (h : s.Canonical) : (s.writePair n v).Canonical := h.writeS.writeS

theorem writeP {n : BitVec 3} {v : Word} (h : s.Canonical) : (s.writeP n v).Canonical := h.others

theorem writePLanes {n : BitVec 3} {mask v : Word} (h : s.Canonical) : (s.writePLanes n mask v).Canonical := h.others

theorem interrupt {fn vec : Nat} (h : s.Canonical) : (s.interrupt fn vec).Canonical := h.others

theorem late {lid : Nat} {f : LateFault} (h : s.Canonical) : (s.late lid f).Canonical := by
  unfold State.late
  split
  · exact h
  · refine ite h.modLaunch ?_
    split
    · exact h.modLaunch.batch.modLaunch
    · exact h.modLaunch

theorem checkEnd {lid : Nat} (h : s.Canonical) : (s.checkEnd lid).Canonical := by
  unfold State.checkEnd
  split
  · exact h
  · refine modWgs h fun _ x hx => ?_
    split
    · exact hx
    · exact hx

theorem writeCell {lid idx core gid value : Nat} (h : s.Canonical) : (s.writeCell lid idx core gid value).Canonical := by
  unfold State.writeCell
  split
  · exact h
  · dsimp only
    split
    · exact h.batch
    · exact h.late

theorem dropParked {lid : Nat} {deadlock : Bool} (h : s.Canonical) : (s.dropParked lid deadlock).Canonical :=
  modLaunch (modWgs (foldl h fun _ _ h => h.writeCell) fun _ _ hx => hx)

theorem checkDeadlock {lid : Nat} (h : s.Canonical) : (s.checkDeadlock lid).Canonical := by
  unfold State.checkDeadlock
  split
  · exact h
  · exact ite (modWgs h.dropParked.modLaunch fun _ _ hx => hx) h

/-! ## Retirement (01 R22, R34, R35, R42) -/

theorem modJob {id : Nat} {f : Job → Job} (h : s.Canonical) : (s.modJob id f).Canonical := h.others

theorem releaseSlot {w n : Nat} (h : s.Canonical) : (s.releaseSlot w n).Canonical := h.modWg fun _ hx => hx.modSlot

theorem sweepSlots {lid : Nat} (h : s.Canonical) : (s.sweepSlots lid).Canonical :=
  foldl h fun _ _ h => foldl h fun _ _ h => ite h.releaseSlot h

theorem dropJob {j : Job} (h : s.Canonical) : (s.dropJob j).Canonical :=
  checkDeadlock (checkEnd (sweepSlots (h.others)))

theorem seqEnd {w : Nat} (h : s.Canonical) : (s.seqEnd w).Canonical := by
  unfold State.seqEnd
  split
  · exact h
  · exact modWg (foldl h.batch fun _ _ h => h.dropJob) fun _ hx => hx

theorem wake {lid idx : Nat} (h : s.Canonical) : (s.wake lid idx).Canonical := by
  unfold State.wake
  split
  · exact h
  · exact modLaunch (modWgs h fun _ _ hx => .foldl hx fun _ _ hx => hx.event)

theorem retireBlock {lid idx core gid : Nat} {poison : Bool} {pstat value : Word} (h : s.Canonical) :
    (s.retireBlock lid idx core gid poison pstat value).Canonical := h.writeCell.modLaunch.wake

theorem retireHeld {w gid : Nat} {poison : Bool} {value : Word} (h : s.Canonical) : (s.retireHeld w gid poison value).Canonical := by
  unfold State.retireHeld
  split
  · exact ite h (checkDeadlock (checkEnd (ite h.retireBlock.modGroup.releaseSlot h.retireBlock.modGroup)))
  · exact h

theorem retireEnding {w gid : Nat} (h : s.Canonical) : (s.retireEnding w gid).Canonical := ite h.publish.retireHeld h

theorem retireParked {w r : Nat} (h : s.Canonical) : (s.retireParked w r).Canonical := by
  unfold State.retireParked
  split
  · exact h
  · split
    · exact h
    · refine checkDeadlock (checkEnd ?_)
      split
      · exact releaseSlot (modWg h.retireBlock fun _ hx => hx)
      · exact modWg h.retireBlock fun _ hx => hx

/-! ## Touch traps (01 R36, R37) -/

theorem fireTrap {w k : Nat} (h : s.Canonical) : (s.fireTrap w k).Canonical := h.modWg fun _ hx => hx.modSlot

theorem endTrap {t : TSlot} (h : s.Canonical) : (s.endTrap t).Canonical := by
  unfold State.endTrap
  split
  · exact h.modWg fun _ hx => hx.modSlot
  · exact h

theorem zeroResume {t : TSlot} (h : s.Canonical) : (s.zeroResume t).Canonical := by
  unfold State.zeroResume
  split
  · exact h
  · dsimp only
    split
    · exact modGroup (modWg h.endTrap fun _ hx => hx.modSlot)
    · exact modWg h.endTrap fun _ hx => hx.modSlot

theorem seqGoOn {w : Nat} {t : Option TSlot} (h : s.Canonical) : (s.seqGoOn w t).Canonical := by
  unfold State.seqGoOn
  split
  · exact h
  · refine modWg ?_ fun _ hx => hx
    split
    · exact h.modJob
    · exact h

theorem goOnAt {w : Nat} {t : TSlot} {seq : Bool} {job : Option Nat} (h : s.Canonical) : (s.goOnAt w t seq job).Canonical := by
  unfold State.goOnAt
  dsimp only
  split
  · exact modJob (ite h.seqGoOn h)
  · exact ite h.seqGoOn h

theorem resumeStoppers {t : TSlot} (h : s.Canonical) : (s.resumeStoppers t).Canonical := by
  unfold State.resumeStoppers
  exact modGroups (foldl h fun _ _ h => h.goOnAt)

/-! ## Groups and launches that end (14 R219, 17 R304) -/

theorem endGroup {w gid : Nat} (h : s.Canonical) : (s.endGroup w gid).Canonical := modGroup (modWg h.publish fun _ hx => hx)

theorem lateFault {x : Workgroup} {gid : Nat} {f : PendFault} (h : s.Canonical) : (s.lateFault x gid f).Canonical := by
  have hlate : (if f.logs then s.late x.lid (f.toLate x.coreId gid) else s).Canonical := ite h.late h
  unfold State.lateFault
  dsimp only
  split
  · exact hlate
  · split
    · exact hlate.zeroResume.modJob
    · exact hlate.dropJob

theorem endHandler {v : Saved} (h : s.Canonical) : (s.endHandler v).Canonical := by
  unfold State.endHandler
  cases v.tslot with
  | none =>
    dsimp only
    split
    · exact h.dropJob
    · exact h
  | some t =>
    dsimp only
    split
    · exact h.endTrap.dropJob
    · exact h.endTrap

theorem dropLandings {lid : Nat} (h : s.Canonical) : (s.dropLandings lid).Canonical :=
  ite h (foldl h fun _ _ h => h.dropJob)

theorem leaveGroup {w gid : Nat} (h : s.Canonical) : (s.leaveGroup w gid).Canonical := by
  unfold State.leaveGroup
  split
  · next g x _ _ =>
    have hlate : (g.faults.foldl (fun s f => s.lateFault x gid f) (s.retireEnding w gid)).Canonical :=
      foldl h.retireEnding fun _ _ h => h.lateFault
    refine dropLandings (endGroup (ite (seqEnd ?_) ?_))
    all_goals
      split
      · exact hlate.endHandler
      · exact hlate
  · exact h

theorem lateRest {w gid : Nat} (h : s.Canonical) : (s.lateRest w gid).Canonical := by
  unfold State.lateRest
  split
  · exact foldl h fun _ _ h => h.late
  · exact h

/-- A launch cancelled; the accumulators of its sequencers are emptied (17 R304). -/
theorem haltLaunch {lid : Nat} {dev : Bool} (h : s.Canonical) : (s.haltLaunch lid dev).Canonical := by
  unfold State.haltLaunch
  split
  · exact h
  · next l _ =>
    refine ite h (ite (modErr ?_) ?_)
    all_goals
      refine modWgs ?_ fun _ _ hx => ⟨hx.1, .nil⟩
      exact foldl (foldl (others (foldl h.modLaunch fun _ _ h => h.batch)) fun _ _ h => h.retireEnding) fun _ _ h => h.lateRest.endGroup

/-! ## Faults (24 R332 to R337) -/

theorem metFrame {b va : Nat} {code : BitVec 8} (h : s.Canonical) : (s.metFrame b va code).Canonical := by
  unfold State.metFrame
  split
  · split
    · exact h.modFit
    · exact h
  · exact h

theorem integrityHalt {lid : Nat} (h : s.Canonical) : (s.integrityHalt lid).Canonical := by
  unfold State.integrityHalt
  split
  · exact h.haltLaunch.interrupt
  · exact h

/-- A fault taken, whether it halts the gang or enters the handler. -/
theorem takeFault {t : Trap} (h : s.Canonical) : (s.takeFault t).Canonical :=
  ite h.metFrame.integrityHalt (ite h.metFrame.modErr.haltLaunch (h.metFrame.others))

theorem scalarFault {code : BitVec 8} {detail : Word} {va : Nat} (h : s.Canonical) : (s.scalarFault code detail va).Canonical := h.takeFault

theorem imprecise {w gid : Nat} {f : PendFault} (h : s.Canonical) : (s.imprecise w gid f).Canonical := by
  unfold State.imprecise
  split
  · exact h
  · exact ite h.modGroup h.late

theorem deliverPending {tepc : Nat} (h : s.Canonical) : (s.deliverPending tepc).Canonical := by
  unfold State.deliverPending
  split
  · exact h
  · exact ite h (takeFault (h.others))

theorem acceptOwn {w : Workgroup} {kind : BitVec 8} {r : Nat} {reads writes : List (Nat × Nat × Nat)} (h : s.Canonical) :
    (s.acceptOwn w kind r reads writes).Canonical := h.others

end State.Canonical

end Sys2Proof.Machine
end

section
/-! PROOFS. The canonical form through the scalar and lane streams, the porters, the containment tree and barriers: the frames of the words,
and the words that do more than write registers (12 R176, R181, 15 R227, 16 R253 to R271). -/
namespace Sys2Proof.Machine

/-! ## What an outcome holds -/

/-- The next state of an outcome, if it has one, is canonical. -/
def Kept : Res → Prop
  | .next t => t.Canonical
  | _ => True

/-- What a word gives, if it does not fault, has a property. -/
def OkHas {ε α : Type} (P : α → Prop) : Except ε α → Prop
  | .ok a => P a
  | .error _ => True

/-- What a word gives, if it neither waits nor faults, is canonical. -/
def TryKept : Option (Except SFault State) → Prop
  | some r => OkHas State.Canonical r
  | none => True

/-- The state in which a lane memory word is done is canonical. -/
def MemOut.Canonical : MemOut → Prop
  | .done t _ _ => t.Canonical
  | _ => True

theorem OkHas.map {ε α β : Type} {P : α → Prop} {Q : β → Prop} {f : α → β} {x : Except ε α} (hx : OkHas P x)
    (hf : ∀ a, P a → Q (f a)) : OkHas Q (x.map f) := by
  cases x with
  | ok a => exact hf a hx
  | error e => trivial

theorem OkHas.ok {ε α : Type} {P : α → Prop} {x : Except ε α} {a : α} (hx : OkHas P x) (h : x = .ok a) : P a := by
  subst h
  exact hx

theorem Kept.ite {c : Prop} [Decidable c] {a b : Res} (ha : Kept a) (hb : Kept b) : Kept (if c then a else b) := by
  split
  · exact ha
  · exact hb

theorem OkHas.ite {ε α : Type} {P : α → Prop} {c : Prop} [Decidable c] {a b : Except ε α} (ha : OkHas P a) (hb : OkHas P b) :
    OkHas P (if c then a else b) := by
  split
  · exact ha
  · exact hb

variable {s : State}

/-! ## The scalar stream (12 R176, 14 R198, R205, R207) -/

namespace State.Canonical

theorem finish {t : State} (h : s.Canonical) (ht : t.Canonical) : (s.finish t).Canonical := ite h.scalarFault (ht.others)

theorem jump {target : Int} (h : s.Canonical) : OkHas State.Canonical (s.jump target) := .ite trivial (h.others)

theorem scalarWait (h : s.Canonical) : s.scalarWait.Canonical :=
  ite h (ite (h.others) (ite h.deliverPending (ite (h.others) h)))

end State.Canonical

theorem kept_scalarWord {drains : Bool} {regs : List SReg} {eff : State → Except SFault State} (h : s.Canonical)
    (he : OkHas State.Canonical (eff s)) : Kept (scalarWord s drains regs eff) := by
  unfold scalarWord
  split
  · split
    · exact h.scalarFault
    · next heq => exact h.finish (he.ok heq)
  · exact h.scalarWait

theorem kept_scalarJump {drains stopping : Bool} {regs : List SReg} {eff : State → Except SFault State} (h : s.Canonical)
    (he : OkHas State.Canonical (eff s)) : Kept (scalarJump s drains stopping regs eff) := by
  unfold scalarJump
  split
  · split
    · exact h.scalarFault
    · next heq => exact he.ok heq
  · exact h.scalarWait

theorem kept_scalarTry {eff : State → Option (Except SFault State)} (h : s.Canonical) (he : TryKept (eff s)) :
    Kept (scalarTry s eff) := by
  unfold scalarTry
  split
  · cases hr : eff s with
    | none => exact h
    | some r =>
      rw [hr] at he
      cases r with
      | error f => exact h.scalarFault
      | ok t => exact h.finish he
  · exact h.scalarWait

theorem kept_alu {d a b : SReg} {f : Word → Word → Word} (h : s.Canonical) : Kept (alu s d a b f) :=
  kept_scalarWord h h.latch.latch.writeS

theorem kept_alu64 {d a b : SReg} {f : DWord → DWord → DWord} (h : s.Canonical) : Kept (alu64 s d a b f) :=
  kept_scalarWord h h.latch.latch.writePair

theorem kept_aluImm {d a : SReg} {f : Word → Word} (h : s.Canonical) : Kept (aluImm s d a f) := kept_scalarWord h h.latch.writeS

theorem kept_slit {d : SReg} {i : BitVec 12} (h : s.Canonical) : Kept (execSlit d i s) := kept_scalarWord h (.ite trivial h.writeS)

theorem kept_slitB64 {d : SReg} {i : BitVec 12} (h : s.Canonical) : Kept (execSlitB64 d i s) :=
  kept_scalarWord h (.ite trivial (.ite trivial h.writePair))

theorem kept_uniform {a : SReg} {w : BitVec 2} {t pk : BitVec 3} {re : Bool} {off : BitVec 5} {write : Bool} {miss : State → State}
    {hit : State → Nat → State} (h : s.Canonical) (hmiss : ∀ s : State, s.Canonical → (miss s).Canonical)
    (hhit : ∀ (s : State) da, s.Canonical → (hit s da).Canonical) : Kept (uniform s a w t re pk off write miss hit) := by
  refine .ite h.scalarWait (kept_scalarWord h ?_)
  dsimp only
  split
  · trivial
  · exact .ite (hmiss _ h.latch).writeP trivial
  · exact State.Canonical.ite (hhit _ _ h.latch).writeP (hhit _ _ h.latch)

theorem kept_sld {d a : SReg} {w : BitVec 2} {t pk : BitVec 3} {re : Bool} {off : BitVec 5} (h : s.Canonical) :
    Kept (execSld d a w t re pk off s) :=
  kept_uniform h (fun _ h => .ite h.writePair h.writeS) fun _ _ h => .ite h.touch.writePair h.touch.writeS

theorem kept_sst {d a : SReg} {w : BitVec 2} {t pk : BitVec 3} {re : Bool} {off : BitVec 5} (h : s.Canonical) :
    Kept (execSst d a w t re pk off s) :=
  kept_uniform h (fun _ h => h.latch) fun _ _ h => h.latch.storeBytes

theorem State.Canonical.latches {regs : List SReg} (h : s.Canonical) : (regs.foldl State.latch s).Canonical :=
  h.foldl fun _ _ h => h.latch

theorem kept_branch {drains : Bool} {regs : List SReg} {taken : State → Bool} {i : BitVec 20} (h : s.Canonical) :
    Kept (branch s drains regs taken i) :=
  .ite (kept_scalarJump h (State.Canonical.jump (h.latches.others))) (kept_scalarWord h h.latches)

theorem kept_call {l : SReg} {i : BitVec 20} (h : s.Canonical) : Kept (execCall l i s) :=
  kept_scalarJump h (State.Canonical.jump (.writeS (h.others)))

theorem kept_jr {a : SReg} (h : s.Canonical) : Kept (execJr a s) :=
  kept_scalarJump h (.ite trivial (State.Canonical.jump (h.latch.others)))

theorem kept_pool {i : BitVec 20} (h : s.Canonical) : Kept (execPool i s) := kept_scalarJump h h.jump

theorem kept_loop {c : SReg} {n : BitVec 5} (h : s.Canonical) : Kept (execLoop c n s) := by
  refine kept_scalarJump h ?_
  dsimp only
  split
  · trivial
  · split
    · trivial
    · exact .ite h.latch.jump (h.latch.others)

theorem kept_linc {w : BitVec 5} {f : BitVec 2} {st : BitVec 12} (h : s.Canonical) : Kept (execLinc w f st s) :=
  kept_scalarJump h trivial

theorem kept_enqueue {a : SReg} {idx : Nat} (h : s.Canonical) : Kept (execEnq.enqueue a s idx) :=
  .ite (.ite h.scalarFault (h.finish (h.latch.others))) h.scalarWait

theorem kept_enq {a : SReg} {i : BitVec 20} (h : s.Canonical) : Kept (execEnq a i s) := by
  refine .ite h ?_
  split
  · exact .ite (.ite h (.ite h.scalarFault (h.others))) (kept_enqueue h)
  · exact kept_enqueue h

theorem kept_tmap {t : BitVec 3} {a b : SReg} (h : s.Canonical) : Kept (execTmap t a b s) := kept_scalarWord h (h.latch.latch.others)

theorem kept_trel {t : BitVec 3} (h : s.Canonical) : Kept (execTrel t s) := kept_scalarWord h (h.others)

theorem kept_nop (h : s.Canonical) : Kept (execNop s) := kept_scalarWord h h

theorem kept_endg (h : s.Canonical) : Kept (execEndg s) := kept_scalarJump h h.leaveGroup

/-! ## Lane words (15 R222 to R227, R246 to R252) -/

namespace State.Canonical

theorem modPath {f : Path → Path} (h : s.Canonical) : (s.modPath f).Canonical := h.others

theorem bindReg {k : Nat} {lanes : Word} (h : s.Canonical) : (s.bindReg k lanes).Canonical := ite (h.others) h

theorem leave {es : List WinEntry} (h : s.Canonical) : (s.leave es).Canonical := foldl h fun _ _ h => h.bindReg

theorem floatWait {n : Nat} (h : s.Canonical) : (s.floatWait n).Canonical := modPath (h.others)

theorem floatDone {p : Path} (h : s.Canonical) : (s.floatDone p).Canonical := ite (h.others) h

theorem laneFault {code : BitVec 8} {lanes detail : Word} {va : Nat} {tslot : Option TSlot} (h : s.Canonical) :
    (s.laneFault code lanes detail va tslot).Canonical := by
  unfold State.laneFault
  split
  · exact h.takeFault
  · exact h

theorem missWait (h : s.Canonical) : s.missWait.Canonical := by
  unfold State.missWait
  split
  · exact ite h (h.others)
  · exact h

theorem laneDone {e : WinEntry} (h : s.Canonical) : (s.laneDone e).Canonical := by
  unfold State.laneDone
  split
  · split
    · refine ite h.leave.modPath ?_
      dsimp only
      split
      · exact h.leave.others
      · exact h.leave
    · exact h.others
  · exact h

theorem putRes {x : Opnd} {mask : Word} {r : LaneRes} (h : s.Canonical) : (s.putRes x mask r).Canonical := by
  have hdst : ({ s with g := (s.g.raise r.sticky).writeDst x mask r.out } : State).Canonical := h.others
  unfold State.putRes
  dsimp only
  cases r.pred with
  | none =>
    dsimp only
    split
    · exact ite hdst hdst.writeS
    · exact hdst
  | some pv =>
    dsimp only
    split
    · exact ite hdst.writePLanes hdst.writePLanes.writeS
    · exact hdst.writePLanes

end State.Canonical

theorem kept_laneInstr {o : LaneOps} {nout : Nat} {srcs : Word → List Src} {pre : RunUnit → Option (BitVec 8)}
    {f : RunUnit → Word → List SrcVal → LaneRes} (h : s.Canonical) : Kept (laneInstr s o nout srcs pre f) := by
  unfold laneInstr
  split
  · exact h
  · dsimp only
    split
    · exact h.laneFault
    · refine .ite h.laneFault (.ite h.missWait (.ite h.laneFault (.ite h.laneFault (.ite h.laneFault (.ite ?_ h.floatWait)))))
      exact .floatDone (.laneDone (.putRes (h.others)))

theorem kept_unitStart (h : s.Canonical) : Kept (execUnitStart s) := by
  refine .ite ?_ h
  split
  · exact h.others
  · exact h

theorem State.Canonical.boundary {t : State} (h : s.Canonical) (ht : s.boundary = some t) : t.Canonical := by
  unfold State.boundary at ht
  split at ht
  · cases ht
  · split at ht
    · cases ht; exact h.others
    · split at ht
      · cases ht; exact h.deliverPending
      · cases ht

theorem State.Canonical.voidWindow (h : s.Canonical) : s.voidWindow.Canonical := by
  unfold State.voidWindow
  split
  · exact h.leave.modPath
  · exact h

theorem kept_clauseHeader {hd : ClauseHdr} (h : s.Canonical) : Kept (execClauseHeader hd s) := by
  unfold execClauseHeader
  split
  · exact h
  · split
    · exact h.laneFault
    · next ht => exact h.boundary ‹_›
    · exact .ite (.floatDone (h.leave.others)) h.floatWait
    · have hwin : (if hd.safe then s.voidWindow else s).Canonical := .ite h.voidWindow h
      exact .ite (State.Canonical.ite (hwin.others) hwin) (.ite hwin hwin.modPath)

theorem kept_laneCtl {o : LaneOps} {check : RunUnit → Path → ClauseSt → Word → Option (BitVec 8 × Word)}
    {ends : RunUnit → Path → ClauseSt → Word → Bool} {eff : State → RunUnit → Path → ClauseSt → Word → State}
    (h : s.Canonical)
    (he : ∀ (s : State) r p c mask, s.Canonical → (eff s r p c mask).Canonical) : Kept (laneCtl s o check ends eff) := by
  unfold laneCtl
  split
  · exact h
  · dsimp only
    split
    · exact h.laneFault
    · exact .ite (.floatDone (he _ _ _ _ _ h.leave)) h.floatWait

theorem kept_lbr {o : LaneOps} (h : s.Canonical) : Kept (execLbr o s) :=
  kept_laneCtl h fun _ _ _ _ _ h => .ite (h.others) (.ite (h.others) (h.others))

theorem kept_ljoin {o : LaneOps} (h : s.Canonical) : Kept (execLjoin o s) := kept_laneCtl h fun _ _ _ _ _ h => h.others

theorem kept_lend {o : LaneOps} (h : s.Canonical) : Kept (execLend o s) := kept_laneCtl h fun _ _ _ _ _ h => h.others

theorem kept_setLen {o : LaneOps} {len : Group → RunUnit → Nat} (h : s.Canonical) : Kept (setLen s o len) := by
  unfold setLen
  exact kept_laneCtl h fun _ _ _ _ _ h => .laneDone (h.others)

/-! ## Lane memory (16 R253 to R270) -/

theorem State.Canonical.trapFires {t : Option TSlot} (h : s.Canonical) : (s.trapFires t).Canonical := by
  cases t with
  | none => exact h
  | some t => exact h.fireTrap

theorem State.Canonical.residency {o : LaneOps} {absent : Word} (h : s.Canonical) : (s.residency o absent).Canonical :=
  ite h.writePLanes h

theorem kept_laneMem {o : LaneOps} {ndst : Nat} {srcs : List Src} {f : RunUnit → Path → Word → List SrcVal → State → MemOut}
    (h : s.Canonical) (hf : ∀ r p mask vs (t : State), t.Canonical → (f r p mask vs t).Canonical) :
    Kept (laneMem s o ndst srcs f) := by
  unfold laneMem
  split
  · exact h
  · next r p c _ =>
    refine .ite h.laneFault (.ite h.missWait (.ite h.laneFault (.ite h.laneFault (.ite h.laneFault ?_))))
    split
    · exact h.trapFires.laneFault
    · exact h
    · exact h.modPath
    · next t e now heq =>
      have hdone : (MemOut.done t e now).Canonical := by
        rw [← heq]
        exact hf _ _ _ _ _ (h.others)
      exact .ite (.floatDone (.laneDone (.leave hdone))) h.floatWait

/-- The check of the lanes' addresses is no end that changes the state. -/
theorem MemOut.canonical_of_laneFails {mask : Word} {f : Nat → Option (BitVec 8 × Nat)} {m : MemOut} (h : laneFails mask f = some m) :
    m.Canonical := by
  unfold laneFails at h
  dsimp only at h
  split at h
  · cases h
  · split at h
    · cases h; trivial
    · cases h

theorem MemOut.canonical_of_laneSpRead {o : LaneOps} {vs : List SrcVal} {n : Nat} {zeros : List (Nat × Nat)} {mask : Word} {m : MemOut}
    (h : laneSpRead s o vs n zeros mask = some m) : m.Canonical := by
  unfold laneSpRead at h
  split at h
  · next he => cases h; exact MemOut.canonical_of_laneFails he
  · dsimp only at h
    split at h
    · cases h; trivial
    · split at h
      · cases h
      · cases h; trivial

theorem MemOut.canonical_ite {c : Prop} [Decidable c] {a b : MemOut} (ha : a.Canonical) (hb : b.Canonical) :
    (if c then a else b).Canonical := by
  split
  · exact ha
  · exact hb

theorem State.Canonical.issue {o : LaneOps} {p : Path} {n : Nat} {out none_ ready : Word} {vals : List Lanes} {acq : Option Nat} {id : Nat}
    (h : s.Canonical) : (s.issue o p n out none_ ready vals acq id).Canonical := by
  refine MemOut.canonical_ite ?_ (h.others)
  cases acq with
  | none => exact h.others
  | some sc => exact acquire (h.others)

theorem kept_ldG {o : LaneOps} {z : MSize} (h : s.Canonical) : Kept (execLdG o z s) := by
  refine kept_laneMem h fun r p mask vs t ht => ?_
  dsimp only
  split
  · next he => exact MemOut.canonical_of_laneFails he
  · refine MemOut.canonical_ite trivial (State.Canonical.issue (.residency (ht.foldl fun t l ht => ?_)))
    split
    · exact ht.touch
    · exact ht

theorem kept_stG {o : LaneOps} {z : MSize} (h : s.Canonical) : Kept (execStG o z s) := by
  refine kept_laneMem h fun r p mask vs t ht => ?_
  dsimp only
  split
  · next he => exact MemOut.canonical_of_laneFails he
  · refine State.Canonical.residency (ht.foldl fun t l ht => ?_)
    split
    · exact ht.storeBytes
    · exact ht

theorem kept_ldL {o : LaneOps} {z : MSize} (h : s.Canonical) : Kept (execLdL o z s) := by
  refine kept_laneMem h fun r p mask vs t ht => ?_
  split
  · next he => exact MemOut.canonical_of_laneSpRead he
  · exact MemOut.canonical_ite trivial ht.issue

theorem kept_stL {o : LaneOps} {z : MSize} (h : s.Canonical) : Kept (execStL o z s) := by
  refine kept_laneMem h fun r p mask vs t ht => ?_
  split
  · next he => exact MemOut.canonical_of_laneFails he
  · refine ht.foldl fun t l ht => ?_
    split
    · exact ht.spStore
    · exact ht

theorem kept_returning {o : LaneOps} {op : PorterOp} {srcs : List Src} {size n : Nat} {write : Bool} (h : s.Canonical) :
    Kept (returning s o op srcs size n write) := by
  refine kept_laneMem h fun r p mask vs t ht => ?_
  dsimp only
  split
  · next he => exact MemOut.canonical_of_laneFails he
  · exact MemOut.canonical_ite trivial (State.Canonical.issue (.others (.residency (.ite ht.publish ht))))

theorem kept_atomL {o : LaneOps} {f : AOp} (h : s.Canonical) : Kept (execAtomL o f s) := by
  refine kept_laneMem h fun r p mask vs t ht => ?_
  dsimp only
  split
  · next he => exact MemOut.canonical_of_laneSpRead he
  · refine MemOut.canonical_ite trivial (State.Canonical.issue ?_)
    refine List.foldlRecOn (motive := fun q : State × List (Nat × Nat) => q.1.Canonical) _ _ ht fun q hq l _ => ?_
    split
    · dsimp only
      split
      · exact hq.spStore
      · exact hq
    · exact hq

theorem kept_reduction {o : LaneOps} {op : PorterOp} {nb size : Nat} {merge : Bool} (h : s.Canonical) :
    Kept (reduction s o op nb size merge) := by
  refine kept_laneMem h fun r p mask vs t ht => ?_
  dsimp only
  split
  · next he => exact MemOut.canonical_of_laneFails he
  · exact MemOut.canonical_ite trivial (State.Canonical.others (.ite ht.publish ht))

theorem kept_resideLane {o : LaneOps} (h : s.Canonical) : Kept (execResideLane o s) := by
  refine kept_laneMem h fun r p mask vs t ht => ?_
  dsimp only
  split
  · next he => exact MemOut.canonical_of_laneFails he
  · refine MemOut.canonical_ite (ht.others) (MemOut.canonical_ite trivial (State.Canonical.issue ?_))
    exact ht.others

theorem kept_wait {o : LaneOps} (h : s.Canonical) : Kept (execWait o s) := by
  unfold execWait
  split
  · exact h
  · refine kept_laneMem h fun r p mask vs t ht => MemOut.canonical_ite ht ?_
    split
    · trivial
    · split
      · trivial
      · exact MemOut.canonical_ite trivial (MemOut.canonical_ite ht.acquireBar (MemOut.canonical_ite ht.modPath trivial))

end Sys2Proof.Machine
end

section
/-! PROOFS. The canonical form through the porters, the containment tree, barriers, phases and residency requests (07 R111 to R115, 08 R125
to R134, 10 R143 to R154). -/
namespace Sys2Proof.Machine

variable {s : State}

/-! ## Replies and porters (03 R63, R68, R74, 07 R113, R115) -/

theorem kept_replyArrival {k : Nat} {lanes : Word} (h : s.Canonical) : Kept (execReplyArrival k lanes s) := by
  unfold execReplyArrival
  split
  · exact h
  · refine .ite h ?_
    dsimp only
    split
    · exact State.Canonical.ite (.acquire h.others) h.others
    · exact h.others

namespace State.Canonical

theorem reply {q : PorterReq} {lane v : Nat} (h : s.Canonical) : (s.reply q lane v).Canonical := by
  unfold State.reply
  split
  · exact h
  · exact h.modGroup

theorem noReply {q : PorterReq} {lane : Nat} (h : s.Canonical) : (s.noReply q lane).Canonical := by
  unfold State.noReply
  split
  · exact h
  · exact h.modGroup

theorem update {da n v : Nat} (h : s.Canonical) : (s.update da n v).Canonical := h.batch

theorem perform {q : PorterReq} {x : PorterLane} {da : Nat} (h : s.Canonical) : (s.perform q x da).Canonical := by
  have hatom : ∀ op, (match AOp.ofCode op with
      | none => s
      | some f => (match atomNat f (s.mem.readLE da (atomBytes f)) x.b.toNat x.c.toNat with
          | some v => s.update da (atomBytes f) v
          | none => s.touch da false).reply q x.lane (s.mem.readLE da (atomBytes f))).Canonical := by
    intro op
    split
    · exact h
    · refine reply ?_
      split
      · exact h.update
      · exact h.touch
  unfold State.perform
  split
  · exact hatom _
  · exact hatom _
  · exact modGroup h.update
  · exact h.update
  · split
    · exact h.update
    · exact h
  · exact reply (ite h.update h.touch)

theorem handOver {q : PorterReq} {lane : Nat} {p : MergePart} (h : s.Canonical) : (s.handOver q lane p).Canonical := h.others

theorem failLane {l : Launch} {q : PorterReq} {x : PorterLane} {r : Reach} (h : s.Canonical) : (s.failLane l q x r).Canonical := by
  unfold State.failLane
  split
  · exact ite h.metFrame.noReply.integrityHalt h.metFrame.noReply
  · exact h.noReply

theorem performLane {l : Launch} {q : PorterReq} {x : PorterLane} (h : s.Canonical) : (s.performLane l q x).1.Canonical := by
  unfold State.performLane
  split
  · exact h
  · split
    · exact h.touch.handOver
    · exact h.failLane.handOver
  · split
    · exact h.perform
    · exact h.failLane

theorem reductionFault {q : PorterReq} (h : s.Canonical) : (s.reductionFault q).Canonical := by
  unfold State.reductionFault
  split
  · exact h
  · exact ite h h.imprecise

theorem porterNext {q : PorterReq} (h : s.Canonical) : (s.porterNext q).Canonical := ite (reductionFault h.others) h.others

theorem porterStep {q : PorterReq} (h : s.Canonical) : (s.porterStep q).Canonical := by
  unfold State.porterStep
  split
  · exact ite h h.performLane.porterNext
  · exact h.porterNext

theorem meetPorters {lids : List Nat} {fuel : Nat} (h : s.Canonical) : (State.meetPorters lids fuel s).Canonical := by
  induction fuel generalizing s with
  | zero => exact h
  | succ fuel ih =>
    rw [State.meetPorters]
    split
    · exact h
    · exact ih h.porterStep

theorem moveOut {c w gid : Nat} {area : List Nat} (h : s.Canonical) : (s.moveOut c area w gid).Canonical := by
  refine foldl h fun s n h => ?_
  split
  · exact h
  · split
    · refine ite ?_ h
      dsimp only
      split
      · exact h.modGroup
      · exact h
    · exact h

end State.Canonical

theorem kept_porterPerform {hall : Nat} (h : s.Canonical) : Kept (execPorterPerform hall s) := by
  unfold execPorterPerform
  split
  · exact h
  · exact h.porterStep

theorem kept_floatGrant (h : s.Canonical) : Kept (execFloatGrant s) := by
  unfold execFloatGrant
  dsimp only
  split
  · exact h
  · refine .ite h.modGroup ?_
    split
    · exact h
    · exact .ite h.modGroup h

theorem kept_spillReload (h : s.Canonical) : Kept (execSpillReload s) :=
  .ite (State.Canonical.others (.foldl h fun _ _ h => h.others)) h

theorem kept_compaction {lid : Nat} (h : s.Canonical) : Kept (execCompaction lid s) := by
  unfold execCompaction
  split
  · exact h
  · refine .ite ?_ h
    split
    · exact h
    · exact h.foldl fun _ _ h => h.moveOut

/-! ## The containment tree (10 R145 to R154) -/

namespace State.Canonical

theorem bump {hd : Word} {n : Nat} (h : s.Canonical) : (s.bump hd n).Canonical := by
  unfold State.bump
  split
  · exact h.modTree
  · exact h

theorem push {hd : Word} (h : s.Canonical) : (s.push hd).Canonical := by
  unfold State.push
  split
  · exact h
  · exact ite h h.bump.modTree

theorem pushUp {hd : Word} (h : s.Canonical) : (s.pushUp hd).Canonical :=
  foldl (foldl h fun _ _ h => foldl h fun _ _ h => h.push) fun _ _ h => h.push

theorem drainTree {b : Nat} (h : s.Canonical) : (s.drainTree b).Canonical := foldl h fun _ _ h => foldl h fun _ _ h => h.push

theorem shapeTree (h : s.Canonical) : s.shapeTree.Canonical := h.others

theorem newRecord {b : Nat} {parent : Word} {kind : TreeKind} (h : s.Canonical) : (s.newRecord b parent kind).1.Canonical := h.others

theorem takeRecords {b : Nat} {rs : List TreeRec} (h : s.Canonical) : (s.takeRecords b rs).Canonical := shapeTree h.others

theorem enrollNode {parent : Word} (h : s.Canonical) : OkHas (fun r : State × Word => r.1.Canonical) (s.enrollNode parent) := by
  unfold State.enrollNode
  split
  · trivial
  · exact .ite trivial h.newRecord.bump.shapeTree

theorem enrollRegion {parent : Word} {va len : Nat} (h : s.Canonical) :
    OkHas (fun r : State × Word => r.1.Canonical) (s.enrollRegion parent va len) := by
  refine .ite trivial ?_
  split
  · trivial
  · split
    · trivial
    · exact h
    · refine .ite trivial (shapeTree (bump ?_))
      exact List.foldlRecOn (motive := fun q : State × Word => q.1.Canonical) _ _ h fun q hq d _ => hq.newRecord.modFit

theorem withdraw {m : TreeRec} (h : s.Canonical) : OkHas State.Canonical (s.withdraw m) :=
  .ite trivial (shapeTree (modTree (others h.push.bump)))

theorem reparentTo {m p : TreeRec} (h : s.Canonical) : OkHas State.Canonical (s.reparentTo m p) :=
  .ite trivial (.ite trivial (.ite trivial h.pushUp.bump.bump.modTree.shapeTree))

end State.Canonical

theorem kept_enroll {d a : SReg} (h : s.Canonical) : Kept (execEnroll d a s) :=
  kept_scalarTry h (h.enrollNode.map fun _ h => h.latch.writeS)

theorem kept_enrollR {d a b : SReg} (h : s.Canonical) : Kept (execEnrollR d a b s) :=
  kept_scalarTry h (h.enrollRegion.map fun _ h => h.latch.latch.writeS)

theorem kept_reparent {a b : SReg} (h : s.Canonical) : Kept (execReparent a b s) := by
  refine kept_scalarTry h ?_
  dsimp only [TryKept]
  split
  · trivial
  · refine .ite h.latch.latch.withdraw ?_
    split
    · trivial
    · exact h.latch.latch.reparentTo

theorem kept_cread {d a : SReg} (h : s.Canonical) : Kept (execCread d a s) := by
  refine kept_scalarTry h ?_
  dsimp only [TryKept]
  split
  · trivial
  · exact h.latch.writePair

theorem kept_settle {d a b : SReg} (h : s.Canonical) : Kept (execSettle d a b s) := by
  refine kept_scalarTry h ?_
  dsimp only
  split
  · trivial
  · split
    · trivial
    · split
      · trivial
      · exact State.Canonical.writeS (.setWg h.latch.latch h.latch.latch.focusWg)

theorem kept_settleComplete (h : s.Canonical) : Kept (execSettleComplete s) := by
  unfold execSettleComplete
  split
  · exact h
  · have hdrain : ∀ xs b, (({ s with wg := { s.wg with settles := xs } } : State).drainTree b).Canonical :=
      fun _ _ => .drainTree (h.setWg h.focusWg)
    dsimp only
    split
    · next hw => exact (hdrain _ _).setWg ((hdrain _ _).focusWg.arrive hw)
    · exact (hdrain _ _).imprecise

theorem kept_rollup {index : Nat} (h : s.Canonical) : Kept (execRollup index s) := by
  unfold execRollup
  split
  · exact State.Canonical.ite h h.push
  · exact h

/-! ## Barriers, phases and residency requests (08 R125 to R134, 16 R264 to R271) -/

theorem kept_binit {d a : SReg} (h : s.Canonical) : Kept (execBinit d a s) := by
  refine kept_scalarTry h ?_
  dsimp only [TryKept]
  refine .ite trivial (.ite trivial (.ite trivial (.ite trivial ?_)))
  refine State.Canonical.ite (.setWg h.latch.latch ?_) h.latch.latch
  exact h.latch.latch.focusWg.setBar.setJobBars

theorem kept_arriveWord {a b : SReg} {rel : Bool} (h : s.Canonical) : Kept (arriveWord s a b rel) := by
  refine kept_scalarTry h ?_
  dsimp only
  split
  · trivial
  · split
    · trivial
    · next hx =>
      split
      · trivial
      · next hx' =>
        split
        · trivial
        · exact State.Canonical.modWg (.ite h.latch.latch.publish h.latch.latch) fun _ _ => (h.findWg hx).arrive hx'

theorem kept_phase {sc : BitVec 3} (h : s.Canonical) : Kept (execPhase sc s) := by
  refine kept_scalarTry h ?_
  split
  · exact h.publish.acquire
  · trivial

theorem kept_fenceSc (h : s.Canonical) : Kept (execFenceSc s) := by
  unfold execFenceSc
  split
  · exact .ite (h.finish (.acquire h.others)) h
  · exact .ite (.ite h.publish.others h) h.scalarWait

theorem State.Canonical.reqDone {q : ResReq} {st : ResStatus} (h : s.Canonical) : (s.reqDone q st).Canonical := by
  have hgroup : ∀ rs f, (({ s with resreqs := rs } : State).modGroup q.wgId q.gid f).Canonical := fun _ _ => modGroup h.others
  unfold State.reqDone
  dsimp only
  split
  · next hx _ =>
    split
    · next hx' => exact (hgroup _ _).modWg fun _ _ => ((hgroup _ _).findWg hx).arrive hx'
    · exact (hgroup _ _).imprecise
  · exact hgroup _ _

theorem kept_resideWord {a b : SReg} {bar : Option SReg} (h : s.Canonical) : Kept (resideWord s a b bar) := by
  refine kept_scalarTry h ?_
  dsimp only [TryKept]
  split
  · trivial
  · exact State.Canonical.ite (.reqDone (.others h.latch.latch.latches)) (.others h.latch.latch.latches)

end Sys2Proof.Machine
end

section
/-! PROOFS. The canonical form through the page dispenser and engine jobs (01 R19 to R42, 16 R272 to R277, 28 R376). -/
namespace Sys2Proof.Machine

variable {s : State}

/-! ## Assignment, sensing and landing (01 R19 to R27) -/

namespace Workgroup.Canonical

variable {w : Workgroup}

theorem give {l : Launch} {lpn : Option Nat} (h : w.Canonical) : (w.give l lpn).Canonical := by
  unfold Workgroup.give
  split
  · split
    · exact h.modSlot
    · exact h
  · exact h

theorem landed {n : Nat} (h : w.Canonical) : (w.landed n).Canonical := by
  unfold Workgroup.landed
  dsimp only
  split
  · exact h.modSlot.modSlot
  · exact h.modSlot.modSlot

end Workgroup.Canonical

namespace State.Canonical

theorem devTouch {l : Launch} {va : Nat} (h : s.Canonical) : (s.devTouch l va).Canonical := by
  rw [State.devTouch_frame]
  exact h.others

theorem readEntry {l : Launch} (h : s.Canonical) : (s.readEntry l).Canonical := by
  obtain ⟨f, hf⟩ := s.readEntry_frame l
  rw [hf]
  exact h.others

theorem assign {l : Launch} {w : Workgroup} {lpn : Option Nat} (h : s.Canonical) : (s.assign l w lpn).Canonical := by
  have hgive : (s.modWg w.id fun w => w.give l lpn).Canonical := h.modWg fun _ hx => hx.give
  unfold State.assign
  dsimp only
  split
  · exact hgive.acceptOwn
  · exact hgive

end State.Canonical

theorem kept_entryAssignment (h : s.Canonical) : Kept (execEntryAssignment s) := by
  refine .ite ?_ h
  split
  · exact h
  · split
    · exact h
    · exact State.Canonical.checkEnd (.modLaunch h.readEntry.assign)

theorem kept_flashSense {slot : Nat} {ok : Bool} (h : s.Canonical) : Kept (execFlashSense slot ok s) := by
  unfold execFlashSense
  dsimp only
  split
  · exact h
  · have hslot : ∀ f, ({ s with wg := s.wg.modSlot slot f } : State).Canonical := fun _ => h.setWg h.focusWg.modSlot
    exact .ite (State.Canonical.ite (hslot _).modJob (hslot _)) h

theorem kept_landingCredit {slot n : Nat} (h : s.Canonical) : Kept (execLandingCredit slot n s) := by
  unfold execLandingCredit
  dsimp only
  split
  · exact h
  · refine .ite (.ite h.haltLaunch ?_) h
    have htouch : ∀ c base, (if c = true then s.devTouch s.ln base else s).Canonical := fun _ _ => .ite h.devTouch h
    have hland : ∀ c base (cells : List (Nat × Byte)) f,
        (({ (if c = true then s.devTouch s.ln base else s).wg with
          sp := cells.foldl (fun (m : Mem) c => m.set c.1 c.2) (if c = true then s.devTouch s.ln base else s).wg.sp } : Workgroup).modSlot
            slot f).Canonical := fun c base _ _ =>
      Workgroup.Canonical.modSlot ⟨Mem.wf_foldl_set _ (htouch c base).focusWg.1, (htouch c base).focusWg.2⟩
    exact .ite (State.Canonical.dropJob (.setWg (htouch _ _) (hland _ _ _ _).landed)) (.modJob (.setWg (htouch _ _) (hland _ _ _ _)))

/-! ## Blocks handed out, parked and retired (01 R28 to R42) -/

namespace State.Canonical

theorem resumeBlock {r : Nat} {p : Parked} (h : s.Canonical) : (s.resumeBlock r p).Canonical := by
  have hbound : ∀ g ps, ((List.range 128).foldl (fun s n => s.bindReg n 0xFFFFFFFF)
      ({ s with g := g, wg := { s.wg with parked := ps } } : State)).Canonical := fun _ _ =>
    foldl (setWg h h.focusWg) fun _ _ h => h.bindReg
  unfold State.resumeBlock
  dsimp only
  refine checkEnd (acquire ?_)
  split
  · exact setWg (hbound _ _) (hbound _ _).focusWg.modSlot
  · exact hbound _ _

theorem outcome {d : SReg} {code v : Nat} (h : s.Canonical) : (s.outcome d code v).Canonical := h.writeS.writeS

theorem takeOffer {d : SReg} {x : Offer} (h : s.Canonical) : (s.takeOffer d x).Canonical := by
  have hoff : ∀ os, ({ s with wg := { s.wg with offers := os } } : State).Canonical := fun _ => h.setWg h.focusWg
  cases x with
  | slot n => exact checkEnd (outcome (setWg (hoff _) (hoff _).focusWg.modSlot))
  | bad i => exact checkEnd (outcome (others (hoff _)))

theorem takeParked {r : Nat} {p : Parked} (h : s.Canonical) : (s.takeParked r p).Canonical := setWg h h.focusWg

theorem park {r j : Nat} (h : s.Canonical) : (s.park r j).Canonical := by
  have hpark : ∀ (w : Workgroup) g, w.Canonical → ({ s with wg := w, g := g } : State).Canonical := fun _ _ hw => setWg h hw
  have hset : ∀ ps, ({ s.wg with parked := ps } : Workgroup).Canonical := fun _ => h.focusWg
  unfold State.park
  dsimp only
  cases (s.parkRecord j).slot with
  | none => exact hpark _ _ (hset _)
  | some n => exact ite (acceptOwn (hpark _ _ (hset _).modSlot)) (hpark _ _ (hset _).modSlot)

end State.Canonical

theorem kept_pget {d : SReg} (h : s.Canonical) : Kept (execPget d s) := by
  refine .ite h.scalarWait (.ite h.scalarFault ?_)
  split
  · exact .ite (State.Canonical.others (.resumeBlock h.others)) (State.Canonical.takeParked h.others)
  · split
    · exact h.takeOffer.scalarFault
    · exact h.finish h.takeOffer
    · split
      · exact h.finish (.checkEnd (.outcome (.setWg h h.focusWg)))
      · exact .ite (h.finish h.outcome) (h.finish h.outcome)

theorem kept_pyield {a : SReg} (h : s.Canonical) : Kept (execPyield a s) := by
  refine kept_scalarTry h ?_
  dsimp only
  split
  · trivial
  · refine OkHas.ite trivial (.ite trivial (.ite h.latch (.ite trivial (.ite trivial ?_))))
    split
    · trivial
    · exact h.latch.park.checkDeadlock.checkEnd

theorem kept_pretire {a : SReg} (h : s.Canonical) : Kept (execPretire a s) := by
  refine kept_scalarTry h ?_
  split
  · trivial
  · split
    · trivial
    · exact h.latch.publish.retireHeld

theorem kept_copyOut {r : Nat} (h : s.Canonical) : Kept (execCopyOut r s) := by
  unfold execCopyOut
  split
  · exact h
  · split
    · exact h
    · refine .ite h ?_
      split
      · exact h.haltLaunch
      · refine State.Canonical.dropJob (.setWg h.batch ?_)
        split
        · exact h.batch.focusWg.modSlot
        · exact h.batch.focusWg.modSlot

theorem kept_relanding {r : Nat} (h : s.Canonical) : Kept (execRelanding r s) := by
  unfold execRelanding
  split
  · exact .ite (State.Canonical.acceptOwn (.setWg h h.focusWg.modSlot)) h
  · exact h

/-! ## Jobs accepted and started (16 R272 to R276, 08 R135) -/

namespace State.Canonical

theorem claim {j : Job} (h : s.Canonical) : (s.claim j).1.Canonical := by
  unfold State.claim
  split
  · exact h
  · split
    · exact h
    · exact others h.modCtx

theorem offerCard {p : BitVec 3} {va : Nat} (h : s.Canonical) : OkHas State.Canonical (s.offerCard p va) := by
  refine .ite trivial ?_
  split
  · trivial
  · trivial
  · split
    · trivial
    · exact .ite h.touch.writeP (writeP (others h.touch.claim))

theorem askFor {j : Job} {frames : List Nat} (h : s.Canonical) : (s.askFor j frames).Canonical := ite h h.others

end State.Canonical

theorem kept_job {p : BitVec 3} {a : SReg} (h : s.Canonical) : Kept (execJob p a s) := by
  refine .ite h.scalarWait (.ite h ?_)
  dsimp only
  split
  · exact h.publish.scalarFault
  · next hu => exact h.finish (h.publish.offerCard.ok hu).latch

theorem kept_jobStart {j : Nat} (h : s.Canonical) : Kept (execJobStart j s) := by
  unfold execJobStart
  split
  · exact h
  · split
    · exact h
    · refine .ite ?_ h
      split
      · exact h.modJob
      · exact h.askFor

/-! ## Steps of jobs (16 R275, 24 R331) -/

namespace State.Canonical

theorem jobFault {j : Job} {code : BitVec 8} {va : Nat} {tslot : Option TSlot} (h : s.Canonical) :
    (s.jobFault j code va tslot).Canonical := by
  have hgo : ∀ t : State, t.Canonical → (if code = 0x14 then t.integrityHalt j.lid
      else match t.ended j.wgId j.gid, t.findWg j.wgId with
        | true, some x => t.lateFault x j.gid ⟨code, 3, 0, BitVec.ofNat 56 va, 0, some j.id, tslot, tslot.isSome, 1, j.blkidx⟩
        | true, none => t.dropJob j
        | false, _ => (t.modJob j.id fun k => { k with st := .stopped }).modGroup j.wgId j.gid fun g => { g with
            faults := g.faults ++ [⟨code, 3, 0, BitVec.ofNat 56 va, 0, some j.id, tslot, tslot.isSome, 1, j.blkidx⟩] }).Canonical := by
    intro t ht
    refine ite ht.integrityHalt ?_
    split
    · exact ht.lateFault
    · exact ht.dropJob
    · exact ht.modJob.modGroup
  unfold State.jobFault
  split
  · exact hgo _ h.metFrame
  · exact hgo _ h

theorem jobTouch {j : Job} {w k va : Nat} (h : s.Canonical) : (s.jobTouch j w k va).Canonical := h.fireTrap.jobFault

theorem spPieces {j : Job} {d : Desc} {ps : List (Nat × Nat × Nat × Nat)} {bs : List Byte} (h : s.Canonical) :
    (s.spPieces j d ps bs).Canonical := by
  induction ps generalizing s bs with
  | nil => exact h
  | cons p ps ih => exact ih (h.modWg fun _ hx => hx.foldl fun _ _ hx => hx.store)

theorem stepWrites {j : Job} {d : Desc} {bs : List Byte} {last : Bool} (h : s.Canonical) : (s.stepWrites j d bs last).Canonical :=
  modJob (ite h.spPieces h)

theorem readFrames {j : Job} {rs : List (Nat × Nat × Nat)} (h : s.Canonical) : (s.readFrames j rs).Canonical :=
  foldl h fun _ _ h => ite h.touch h

/-- A page programmed is written from nothing (26 R366). -/
theorem program {ns lpn : Nat} {bs : List Byte} (h : s.Canonical) : (s.program ns lpn bs).Canonical := by
  refine ⟨h.mem, h.hmem, h.sp, h.snap, fun p hp => ?_, h.acc⟩
  rcases List.mem_append.mp hp with hp | hp
  · exact h.flash p (List.mem_filter.mp hp).1
  · rw [List.mem_singleton.mp hp]
    exact Mem.wf_write _ _ rfl

end State.Canonical

theorem kept_jobStep {id : Nat} {kind : BitVec 8} {size : Job → Nat} {reads : Job → Nat → List (Nat × Nat × Nat)}
    {eff : State → Job → Launch → Nat → State} (h : s.Canonical)
    (he : ∀ (s : State) j l n, s.Canonical → (eff s j l n).Canonical) :
    Kept (jobStep s id kind size reads eff) := by
  unfold jobStep
  split
  · exact h
  · split
    · exact h
    · refine .ite ?_ h
      dsimp only
      split
      · exact he _ _ _ _ h.readFrames
      · exact h
      · exact h.jobFault
      · exact h.jobTouch
      · exact h.modJob

theorem kept_copy {j : Nat} (h : s.Canonical) : Kept (execCopy j s) := kept_jobStep h fun _ _ _ _ h => h.stepWrites

theorem kept_gather {j : Nat} (h : s.Canonical) : Kept (execGather j s) := kept_jobStep h fun _ _ _ _ h => h.stepWrites.modJob

theorem kept_fill {j : Nat} (h : s.Canonical) : Kept (execFill j s) := kept_jobStep h fun _ _ _ _ h => h.stepWrites

theorem kept_flashRead {j : Nat} {ok : Bool} (h : s.Canonical) : Kept (execFlashRead j ok s) :=
  kept_jobStep h fun _ _ _ _ h => .ite h.stepWrites.modJob h.stepWrites

theorem kept_flashWrite {j : Nat} (h : s.Canonical) : Kept (execFlashWrite j s) :=
  kept_jobStep h fun _ _ _ _ h => h.program.stepWrites

theorem kept_cipherIn {j : Nat} (h : s.Canonical) : Kept (execCipherIn j s) := by
  refine kept_jobStep h fun _ _ _ _ h => .ite h.dropJob ?_
  dsimp only
  split
  · exact h.stepWrites
  · exact h.modJob.modErr

theorem kept_send {j : Nat} (h : s.Canonical) : Kept (execSend j s) := kept_jobStep h fun _ _ _ _ h => h.stepWrites

theorem kept_fetch {j : Nat} (h : s.Canonical) : Kept (execFetch j s) := by
  unfold execFetch
  split
  · exact h
  · exact .ite h (kept_jobStep h fun _ _ _ _ h => .modJob (.ite h.spPieces h))

/-! ## Completion and transfers (16 R277, 28 R376) -/

namespace State.Canonical

theorem jobCredit {j : Job} {l : Launch} {bytes : Nat} (h : s.Canonical) : (s.jobCredit j l bytes).Canonical := by
  unfold State.jobCredit
  split
  · exact h
  · next own hown =>
    dsimp only
    split
    · exact h.imprecise
    · next x hx =>
      have hxc : x.Canonical := by
        split at hx
        · exact h.wg (List.mem_of_find?_eq_some hx)
        · cases hx; exact h.findWg hown
      split
      · next hx' => exact h.modWg fun _ _ => hxc.arrive hx'
      · exact h.imprecise

theorem jobStatus {j : Job} {l : Launch} (h : s.Canonical) : (s.jobStatus j l).Canonical :=
  ite h (modWg h fun _ hx => hx.foldl fun _ _ hx => hx.store)

theorem incoming {x : Transfer} {ok : Bool} (h : s.Canonical) : (s.incoming x ok).Canonical := by
  have hdone : ({ s with dev := { s.dev with transfers := s.dev.transfers.filter fun y => y.id != x.id } } : State).Canonical := h.others
  unfold State.incoming
  dsimp only
  split
  · exact hdone
  · split
    · exact hdone
    · exact ite h (ite hdone (ite hdone.batch (foldl hdone fun _ _ h => h.touch)))

end State.Canonical

theorem kept_jobComplete {j : Nat} (h : s.Canonical) : Kept (execJobComplete j s) := by
  unfold execJobComplete
  split
  · exact h
  · split
    · exact h
    · exact .ite (State.Canonical.dropJob (.ite h.batch.jobStatus.jobCredit h.batch.jobStatus)) h

theorem kept_peerTransfer {j : Nat} {ok : Bool} {data : List Byte} (h : s.Canonical) : Kept (execPeerTransfer j ok data s) := by
  unfold execPeerTransfer
  split
  · exact .ite h.modJob h
  · split
    · exact h.incoming
    · exact h

end Sys2Proof.Machine
end

section
/-! PROOFS. The canonical form through the Stairwell and the matrix engine (07 R109 to R117, 11 R160 to R173, 17 R284 to R299). -/
namespace Sys2Proof.Machine

variable {s : State}

/-! ## Frames moved (07 R109, R111, R112, R117) -/

namespace State.Canonical

theorem vacate {t : Tier} {loc : Nat} (h : s.Canonical) : (s.vacate t loc).Canonical := h.others

theorem fall {e : FitEntry} (h : s.Canonical) : (s.fall e).Canonical := by
  refine ite (ite h.vacate.modFit h.vacate.modFit) ?_
  split
  · exact h.vacate.modFit
  · exact h.vacate.modFit

theorem makeRoom {keep : List Nat} (h : s.Canonical) : (s.makeRoom keep).Canonical := by
  unfold State.makeRoom
  dsimp only
  split
  · exact h
  · exact h.fall

theorem bringUp {keep : List Nat} {d : Nat} (h : s.Canonical) : (s.bringUp keep d).Canonical := by
  have hroom : (if (s.freeIn .a).isSome then s else s.makeRoom keep).Canonical := ite h h.makeRoom
  unfold State.bringUp
  dsimp only
  split
  · exact hroom.vacate.modFit
  · exact hroom

theorem lift {q : ResReq} (h : s.Canonical) : (s.lift q).Canonical := foldl h fun _ _ h => h.bringUp

theorem poisonFrame {e : FitEntry} {f : FitEntry → FitEntry} (h : s.Canonical) : (s.poisonFrame e f).Canonical := by
  unfold State.poisonFrame
  exact h.modFit.raiseTile.modErr

theorem tenantInterrupt {b : Nat} (h : s.Canonical) : (s.tenantInterrupt b).Canonical := h.others

end State.Canonical

theorem kept_resideComplete {id : Nat} (h : s.Canonical) : Kept (execResideComplete id s) := by
  unfold execResideComplete
  split
  · exact h
  · exact .ite h.reqDone (.ite h.reqDone (.ite h.reqDone (.ite h (State.Canonical.ite h.lift h.lift.reqDone))))

theorem kept_frameMigration {d : Nat} {tier : Tier} {loc : BitVec 48} (h : s.Canonical) : Kept (execFrameMigration d tier loc s) := by
  unfold execFrameMigration
  split
  · exact h
  · refine .ite h ?_
    cases tier with
    | a => exact .ite h.vacate.modFit h
    | b => exact .ite h h.vacate.modFit
    | backing => exact .ite h h.vacate.modFit
    | c => exact h

theorem kept_frameEviction {d : Nat} {loc : BitVec 48} (h : s.Canonical) : Kept (execFrameEviction d loc s) := by
  unfold execFrameEviction
  split
  · exact h
  · exact .ite h h.modFit

theorem kept_frameReturn {d : Nat} {tagOk : Bool} (h : s.Canonical) : Kept (execFrameReturn d tagOk s) := by
  unfold execFrameReturn
  split
  · exact h
  · have hroom : (if (s.freeIn .a).isSome then s else s.makeRoom [d]).Canonical := .ite h h.makeRoom
    refine .ite h ?_
    dsimp only
    split
    · exact hroom
    · refine .ite hroom.vacate.modFit ?_
      exact State.Canonical.foldl (.foldl hroom.vacate.poisonFrame.modErr.tenantInterrupt fun _ _ h => h.reqDone) fun _ _ h => h.haltLaunch

/-! ## Words of the matrix stream (17 R284 to R290) -/

namespace State.Canonical

/-- The sequencer changed, its accumulators in rising order. -/
theorem modAcc {f : Seq → Seq} (h : s.Canonical) (hf : (f s.wg.seq).acc.Pairwise fun a b => a.1 < b.1) : (s.modSeq f).Canonical :=
  h.setWg ⟨h.focusWg.1, hf⟩

/-- The sequencer changed, and not its accumulators. -/
theorem modSeq {f : Seq → Seq} (h : s.Canonical) (hf : ∀ q, (f q).acc = q.acc) : (s.modSeq f).Canonical :=
  h.modAcc (hf s.wg.seq ▸ h.focusWg.2)

theorem matrixFault {code : BitVec 8} {va : Nat} {sp : Bool} {tslot : Option TSlot} (h : s.Canonical) :
    (s.matrixFault code va sp tslot).Canonical := by
  unfold State.matrixFault
  cases tslot with
  | none =>
    exact ite h.metFrame.integrityHalt (ite h.metFrame.late.seqEnd (modGroup (modSeq h.metFrame fun _ => rfl)))
  | some t =>
    exact ite h.metFrame.fireTrap.integrityHalt
      (ite h.metFrame.fireTrap.endTrap.late.seqEnd (modGroup (modSeq h.metFrame.fireTrap fun _ => rfl)))

theorem seqStall {w k : Nat} (h : s.Canonical) : (s.seqStall w k).Canonical := by
  refine h.modSeq fun q => ?_
  split
  · rfl
  · rfl

end State.Canonical

theorem kept_matrixWord {eff : State → Except MStop State} (h : s.Canonical) (he : OkHas State.Canonical (eff s)) :
    Kept (matrixWord s eff) := by
  refine .ite h (.ite h.matrixFault ?_)
  split
  · exact h.matrixFault
  · exact h.matrixFault
  · exact h.seqStall
  · exact h
  · next heq => exact (he.ok heq).modSeq fun _ => rfl

theorem kept_mnop (h : s.Canonical) : Kept (execMnop s) := kept_matrixWord h h

theorem kept_mli {q : BitVec 2} {a : BitVec 4} {i : BitVec 16} (h : s.Canonical) : Kept (execMli q a i s) :=
  kept_matrixWord h (h.modSeq fun _ => rfl)

theorem kept_mmov {a b : BitVec 4} (h : s.Canonical) : Kept (execMmov a b s) := kept_matrixWord h (h.modSeq fun _ => rfl)

theorem kept_madd {a b : BitVec 4} {i : BitVec 16} (h : s.Canonical) : Kept (execMadd a b i s) := kept_matrixWord h (h.modSeq fun _ => rfl)

theorem kept_mld {a : BitVec 4} {i : BitVec 16} (h : s.Canonical) : Kept (execMld a i s) := by
  refine kept_matrixWord h (.ite trivial ?_)
  split
  · trivial
  · exact h.modSeq fun _ => rfl

theorem kept_mres {a x : BitVec 4} (h : s.Canonical) : Kept (execMres a x s) :=
  kept_matrixWord h (.ite trivial (h.modSeq fun _ => rfl))

theorem kept_mrel {x : BitVec 4} (h : s.Canonical) : Kept (execMrel x s) := kept_matrixWord h (.ite trivial (h.modSeq fun _ => rfl))

theorem kept_mmod {a : BitVec 4} (h : s.Canonical) : Kept (execMmod a s) := kept_matrixWord h (.ite (h.modSeq fun _ => rfl) trivial)

/-! ## Accumulators (11 R165 to R167) -/

/-- A list of accumulators whose numbers rise, from some number on. -/
def RisesFrom (n : Nat) (m : List (Nat × DWord)) : Prop := (m.Pairwise fun a b => a.1 < b.1) ∧ ∀ c ∈ m, n ≤ c.1

theorem risesFrom_cons {n : Nat} {c : Nat × DWord} {m : List (Nat × DWord)} :
    RisesFrom n (c :: m) ↔ n ≤ c.1 ∧ RisesFrom (c.1 + 1) m := by
  simp only [RisesFrom, List.pairwise_cons, List.forall_mem_cons, Nat.succ_le_iff]
  constructor
  · rintro ⟨⟨hlt, hm⟩, hc, -⟩
    exact ⟨hc, hm, hlt⟩
  · rintro ⟨hc, hm, hlt⟩
    exact ⟨⟨hlt, hm⟩, hc, fun d hd => hc.trans (hlt d hd).le⟩

theorem RisesFrom.mono {k n : Nat} {m : List (Nat × DWord)} (h : RisesFrom n m) (hk : k ≤ n) : RisesFrom k m :=
  ⟨h.1, fun c hc => hk.trans (h.2 c hc)⟩

/-- An accumulator set keeps the order. -/
theorem RisesFrom.accSet {n a : Nat} {m : List (Nat × DWord)} {v : DWord} (h : RisesFrom n m) (ha : n ≤ a) :
    RisesFrom n (accSet m a v) := by
  induction m generalizing n with
  | nil =>
    unfold Machine.accSet
    split
    · exact h
    · exact risesFrom_cons.mpr ⟨ha, .nil, by simp⟩
  | cons c m ih =>
    obtain ⟨hc, hm⟩ := risesFrom_cons.mp h
    unfold Machine.accSet
    split
    · next hlt =>
      split
      · exact h
      · exact risesFrom_cons.mpr ⟨ha, risesFrom_cons.mpr ⟨hlt, hm⟩⟩
    · split
      · next heq =>
        split
        · exact hm.mono (by omega)
        · exact risesFrom_cons.mpr ⟨ha, heq ▸ hm⟩
      · exact risesFrom_cons.mpr ⟨hc, ih hm (by omega)⟩

theorem pairwise_accSet {a : Nat} {m : List (Nat × DWord)} {v : DWord} (h : m.Pairwise fun a b => a.1 < b.1) :
    (accSet m a v).Pairwise fun a b => a.1 < b.1 :=
  (RisesFrom.accSet (n := 0) ⟨h, fun _ _ => Nat.zero_le _⟩ (Nat.zero_le _)).1

/-- So does setting several, block by block. -/
theorem pairwise_foldl {α : Type} {f : List (Nat × DWord) → α → List (Nat × DWord)} {xs : List α} {m : List (Nat × DWord)}
    (h : m.Pairwise fun a b => a.1 < b.1)
    (hf : ∀ (m : List (Nat × DWord)) x, (m.Pairwise fun a b => a.1 < b.1) → (f m x).Pairwise fun a b => a.1 < b.1) :
    (xs.foldl f m).Pairwise fun a b => a.1 < b.1 :=
  List.foldlRecOn xs f h fun m h x _ => hf m x h

theorem State.Canonical.applyStep {start : Mem} {o : MmaOp} {rb ks : Nat} (h : s.Canonical) :
    (s.applyStep start o rb ks).Pairwise fun a b => a.1 < b.1 :=
  pairwise_foldl h.focusWg.2 fun _ _ hm => pairwise_foldl hm fun _ _ hm => pairwise_accSet hm

theorem kept_mzero {k : BitVec 4} {tr : BitVec 3} {tc : BitVec 4} {cb : BitVec 7} (h : s.Canonical) : Kept (execMzero k tr tc cb s) := by
  refine kept_matrixWord h ?_
  dsimp only
  split
  · trivial
  · have hacc := fun (t : Tile) =>
      pairwise_foldl (xs := List.range t.rown) h.focusWg.2 fun m i hm =>
        pairwise_foldl (xs := List.range t.coln) hm fun m j hm => pairwise_accSet (a := t.cbase + i * t.tc + j) (v := 0) hm
    refine h.modAcc ?_
    split
    · exact hacc _
    · exact hacc _

/-! ## Words that run as jobs (11 R171, R172, 17 R299) -/

namespace State.Canonical

theorem acceptWord {reads writes : List (Nat × Nat × Nat)} (h : s.Canonical) : (s.acceptWord reads writes).Canonical := by
  unfold State.acceptWord
  exact modSeq h.others fun _ => rfl

theorem beginWord {j : Job} (h : s.Canonical) : (s.beginWord j).Canonical := by
  refine ite h ?_
  split
  · exact h.modJob
  · exact h.askFor

theorem endWord (h : s.Canonical) : s.endWord.Canonical := by
  unfold State.endWord
  split
  · exact h.dropJob.modSeq fun _ => rfl
  · exact h.modSeq fun _ => rfl

theorem stopWord {p : Word} (h : s.Canonical) : (s.stopWord p).Canonical := by
  unfold State.stopWord
  split
  · exact modSeq h.modJob fun _ => rfl
  · exact h.modSeq fun _ => rfl

theorem meetStop {j : Job} {p : Word} {e : MStop} (h : s.Canonical) : (s.meetStop j p e).Canonical := by
  unfold State.meetStop
  split
  · exact h.stopWord.matrixFault
  · exact h.stopWord.matrixFault
  · exact h.seqStall
  · split
    · exact h
    · exact h.askFor

theorem touchFetch {f : Fetch} (h : s.Canonical) : (s.touchFetch f).Canonical := by
  refine ite h (foldl h fun s p h => ?_)
  split
  · exact h.touch
  · exact h

/-- A K-step of a product (11 R167). -/
theorem kStep {o : MmaOp} {j : Job} (h : s.Canonical) : (s.kStep o j).Canonical := by
  unfold State.kStep
  dsimp only
  split
  · exact h.meetStop
  · refine ite h ?_
    have hcore : ({ s with core := { s.core with kLast := s.wg.id } } : State).Canonical := h.setCore (h.snap s.core List.mem_cons_self)
    have hread : ∀ fs : List Fetch, (fs.foldl State.touchFetch { s with core := { s.core with kLast := s.wg.id } }).Canonical :=
      fun _ => foldl hcore fun _ _ h => h.touchFetch
    have hstep : ∀ (fs : List Fetch) us t, ((fs.foldl State.touchFetch { s with core := { s.core with kLast := s.wg.id } }).modSeq fun q =>
        { q with
          acc := ({ s with core := { s.core with kLast := s.wg.id } } : State).applyStep j.startMem o s.wg.seq.stepAt.1 s.wg.seq.stepAt.2
          zeros := [] }.tag us t).Canonical := fun fs us t => (hread fs).modAcc hcore.applyStep
    exact ite (modSeq (hstep _ _ _) fun _ => rfl) (ite (modSeq (hstep _ _ _) fun _ => rfl) (hstep _ _ _).endWord)

end State.Canonical

theorem kept_jobWord {α : Type} {check : State → Except (BitVec 8) α} {empty : α → Bool}
    {ranges : State → α → List (Nat × Nat × Nat) × List (Nat × Nat × Nat)} {go : State → α → Job → State} (h : s.Canonical)
    (hgo : ∀ (s : State) o j, s.Canonical → (go s o j).Canonical) : Kept (jobWord s check empty ranges go) := by
  refine .ite h (.ite h.matrixFault ?_)
  split
  · exact h.matrixFault
  · refine .ite h.endWord ?_
    split
    · exact h.acceptWord
    · exact State.Canonical.ite (hgo _ _ _ h) h.beginWord

theorem kept_mma {m : MMode} {a b k : BitVec 4} {tr : BitVec 3} {tc : BitVec 4} {cb : BitVec 7} (h : s.Canonical) :
    Kept (execMma m a b k tr tc cb s) := kept_jobWord h fun _ _ _ h => h.kStep

theorem kept_mmaKStep (h : s.Canonical) : Kept (execMmaKStep s) := by
  unfold execMmaKStep
  split
  · refine .ite ?_ h
    split
    · exact h.kStep
    · exact h.matrixFault
  · exact h

/-! ## The matrix store (11 R170, 17 R295) -/

namespace State.Canonical

theorem writeRow {f : Fetch} {bs : List Byte} (h : s.Canonical) : (s.writeRow f bs).Canonical := by
  refine ite (foldl h fun s i h => ?_) (modSeq h fun _ => rfl)
  split
  · exact h.spStore
  · exact h

theorem seqArrive {n bytes : Nat} (h : s.Canonical) : OkHas State.Canonical (s.seqArrive n bytes) := by
  unfold State.seqArrive
  dsimp only
  split
  · trivial
  · next hw => exact h.setWg (h.focusWg.arrive hw)

theorem storeTail {o : MstOp} (h : s.Canonical) : (s.storeTail o).Canonical := by
  have hrows : ∀ w gid f (g : Seq → Word), (((s.batch s.wg.seq.pend).modGroup w gid f).modSeq fun q =>
      { q with pend := [], sticky := 0, stored := true, mprog := g q }).Canonical :=
    fun _ _ _ _ => modSeq h.batch.modGroup fun _ => rfl
  unfold State.storeTail
  dsimp only
  split
  · exact (hrows _ _ _ _).endWord
  · split
    · next ht => exact ((hrows _ _ _ _).seqArrive.ok ht).endWord
    · exact (hrows _ _ _ _).stopWord.matrixFault
    · exact hrows _ _ _ _

theorem storeStep {o : MstOp} {j : Job} (h : s.Canonical) : (s.storeStep o j).Canonical := by
  refine ite h.storeTail ?_
  split
  · exact h.meetStop
  · exact ite (modSeq h.writeRow fun _ => rfl) (storeTail (modSeq h.writeRow fun _ => rfl))

end State.Canonical

theorem kept_mst {f : SFmt} {cr : Bool} {a k x : BitVec 4} {tr : BitVec 3} {tc : BitVec 4} {cb : BitVec 7} {bar : BitVec 4}
    (h : s.Canonical) : Kept (execMst f cr a k x tr tc cb bar s) := kept_jobWord h fun _ _ _ h => h.storeStep

theorem kept_mstRow (h : s.Canonical) : Kept (execMstRow s) := by
  unfold execMstRow
  split
  · refine .ite ?_ h
    split
    · exact h.storeStep
    · exact h.matrixFault
  · exact h

/-! ## Barriers, steering and the end of a stream (17 R286, R287, R296 to R298) -/

theorem kept_mwait {bar x : BitVec 4} {i : BitVec 16} (h : s.Canonical) : Kept (execMwait bar x i s) := by
  refine kept_matrixWord h ?_
  dsimp only
  split
  · trivial
  · generalize Barrier.passed _ _ = b
    cases b
    · trivial
    · exact h.acquireBar

theorem kept_marv {bar : BitVec 4} (h : s.Canonical) : Kept (execMarv bar s) := kept_matrixWord h h.seqArrive

theorem kept_mend {bar : BitVec 4} (h : s.Canonical) : Kept (execMend bar s) := by
  refine .ite h ?_
  split
  · exact h.matrixFault
  · exact h
  · next ht => exact (h.seqArrive.ok ht).modSeq fun _ => rfl

theorem kept_matrixJump {target : Int} {eff : Seq → Seq} (h : s.Canonical) (he : ∀ q, (eff q).acc = q.acc) :
    Kept (matrixJump s target eff) :=
  .ite h (.ite h.matrixFault (h.modSeq he))

theorem kept_mbr {i : BitVec 16} (h : s.Canonical) : Kept (execMbr i s) := kept_matrixJump h fun _ => rfl

theorem kept_mloop {x : BitVec 4} {i : BitVec 16} (h : s.Canonical) : Kept (execMloop x i s) :=
  .ite (kept_matrixJump h fun _ => rfl) (kept_matrixJump h fun _ => rfl)

theorem kept_mstart {a : SReg} {i : BitVec 20} (h : s.Canonical) : Kept (execMstart a i s) := by
  refine kept_scalarWord h (OkHas.ite trivial (.ite trivial (.ite trivial ?_)))
  exact h.latch.modSeq fun _ => rfl

namespace State.Canonical

theorem endStream (h : s.Canonical) : s.endStream.Canonical := ite h (seqEnd (modGroups (foldl h fun _ _ h => h.endTrap)))

theorem seqPreempt {w : Nat} (h : s.Canonical) : (s.seqPreempt w).Canonical := by
  unfold State.seqPreempt
  split
  · exact h
  · split
    · exact h
    · split
      · exact modWg h.dropJob fun _ hx => hx
      · exact modWg h.modJob fun _ hx => hx

end State.Canonical

end Sys2Proof.Machine
end

section
/-! PROOFS. The canonical form through the system words, page tables and frames, queues and the journal (17 R300 to R304, 07 R104, R108, 23
R309 to R317). -/
namespace Sys2Proof.Machine

variable {s : State}

theorem OkHas.map_all {ε α β : Type} {P : β → Prop} {f : α → β} {x : Except ε α} (hf : ∀ a, P (f a)) : OkHas P (x.map f) := by
  cases x with
  | ok a => exact hf a
  | error e => trivial

/-! ## System words (17 R300 to R304) -/

theorem kept_trap {i : BitVec 20} (h : s.Canonical) : Kept (execTrap i s) := .ite h.takeFault h.scalarWait

theorem kept_halt (h : s.Canonical) : Kept (execHalt s) := .ite h.haltLaunch h.scalarWait

namespace State.Canonical

theorem resumeStopper {v : Saved} (h : s.Canonical) : (s.resumeStopper v).Canonical := by
  have hseq : (if v.seq then s.seqGoOn s.wg.id v.tslot else s).Canonical := ite h.seqGoOn h
  unfold State.resumeStopper
  dsimp only
  split
  · exact hseq.modJob
  · exact hseq

theorem resumeAt {v : Saved} {pc : Option Nat} (h : s.Canonical) : (s.resumeAt v pc).Canonical := h.resumeStopper.others

theorem setZr (h : s.Canonical) : s.setZr.Canonical := ite (h.setWg h.focusWg.modSlot) h

theorem poisonHeld {w gid : Nat} (h : s.Canonical) : (s.poisonHeld w gid).Canonical := by
  unfold State.poisonHeld
  split
  · exact h
  · exact retireHeld (publish (ite h.resumeStoppers.endTrap h))

theorem poisonTrap {t : TSlot} (h : s.Canonical) : (s.poisonTrap t).1.Canonical := by
  unfold State.poisonTrap
  split
  · exact h
  · split
    · dsimp only
      split
      · exact h.poisonHeld
      · exact h.poisonHeld.modGroup
    · exact h.endTrap.retireParked
    · exact h

theorem reenter {t : State} (ht : t.Canonical) : OkHas State.Canonical (s.reenter t) :=
  .map_all fun _ => ht.others

end State.Canonical

theorem kept_hretWord {poisons : Bool} {eff : State → Saved → Option (Except SFault State)} (h : s.Canonical)
    (he : ∀ v, TryKept (eff s v)) : Kept (hretWord s poisons eff) := by
  refine .ite h.scalarWait ?_
  split
  · exact h.scalarFault
  · next v _ =>
    refine .ite h.scalarFault ?_
    have hv := he v
    split
    · exact h
    · exact h.scalarFault
    · next heq =>
      rw [heq] at hv
      exact hv

theorem kept_hret (h : s.Canonical) : Kept (execHret s) := by
  refine kept_hretWord h fun v => ?_
  refine OkHas.ite ?_ (.ite ?_ h.resumeAt)
  · exact .map_all fun _ => h.resumeAt
  · exact .map_all fun _ => h.resumeAt

theorem kept_hretPoison (h : s.Canonical) : Kept (execHretPoison s) := by
  refine kept_hretWord h fun v => ?_
  dsimp only
  split
  · trivial
  · have hpub : (s.publish s.wg.id s.g.gid).Canonical := h.publish
    refine OkHas.ite ?_ (State.Canonical.reenter (.ite hpub hpub.poisonHeld))
    split
    · exact hpub.resumeAt
    · exact .ite (State.Canonical.reenter hpub.resumeStopper.poisonTrap) hpub.resumeStopper.poisonTrap.resumeAt

theorem kept_hretZero (h : s.Canonical) : Kept (execHretZero s) := by
  refine kept_hretWord h fun v => ?_
  refine OkHas.ite ?_ ?_
  · split
    · exact h.zeroResume.resumeAt
    · exact h.resumeAt
  · exact .map_all fun _ => .others (.resumeAt (.ite h h.setZr))

theorem kept_srr {d : SReg} {n : BitVec 12} (h : s.Canonical) : Kept (execSrr d n s) :=
  .ite h.scalarWait (kept_scalarWord h h.writeS)

theorem State.Canonical.sysWrite {n : Nat} {v : Word} (h : s.Canonical) : OkHas State.Canonical (s.sysWrite n v) := by
  unfold State.sysWrite
  split
  · exact h.others
  · exact h.others
  · exact h.others
  · exact h.others
  · exact State.Canonical.ite h.endStream h
  · exact State.Canonical.ite h.others h
  · exact .ite trivial (.ite trivial h.others)
  · trivial

theorem kept_srw {a : SReg} {n : BitVec 12} (h : s.Canonical) : Kept (execSrw a n s) :=
  kept_scalarWord h (h.sysWrite.map fun _ h => h.latch)

/-! ## Frames and page tables (07 R104, R108, 23 R315) -/

namespace State.Canonical

theorem addFrame {e : FitEntry} (h : s.Canonical) : (s.addFrame e).Canonical := h.vacate.others

/-- Every core changed, each with a canonical snapshot. -/
theorem mapCores {f : Core → Core} (h : s.Canonical) (hf : ∀ k : Core, k.snap.wf = true → (f k).snap.wf = true) :
    ({ s with core := f s.core, cores := s.cores.map f } : State).Canonical := by
  obtain ⟨hcore, hcores⟩ := List.forall_mem_cons.mp h.snap
  refine h.setCores (List.forall_mem_cons.mpr ⟨hf _ hcore, fun x hx => ?_⟩)
  obtain ⟨y, hy, rfl⟩ := List.mem_map.mp hx
  exact hf _ (hcores y hy)

theorem scrubFrame {d : Nat} (h : s.Canonical) : (s.scrubFrame d).Canonical :=
  others (mapCores (f := fun c => c.scrub d) (h.setMem (Mem.wf_clear _ _ h.mem)) fun _ hk => Mem.wf_clear _ _ hk)

theorem newFrame {t d : Nat} {prot table : Bool} {u : State} (h : s.Canonical) (hu : s.newFrame t prot table = some (u, d)) :
    u.Canonical := by
  unfold State.newFrame at hu
  split at hu
  · cases hu
    exact h.addFrame.scrubFrame
  · cases hu

/-- Bytes written to memory and to every snapshot. -/
theorem writeAll {a : Nat} {bs : List Byte} (h : s.Canonical) : ({ s with
    mem := s.mem.write a bs
    core := { s.core with snap := s.core.snap.write a bs }
    cores := s.cores.map fun c => { c with snap := c.snap.write a bs } } : State).Canonical :=
  mapCores (f := fun c => { c with snap := c.snap.write a bs }) (h.setMem (Mem.wf_write _ _ h.mem)) fun _ hk => Mem.wf_write _ _ hk

theorem hostFrame {t addr d : Nat} {u : State} (h : s.Canonical) (hu : s.hostFrame t addr = some (u, d)) : u.Canonical := by
  unfold State.hostFrame at hu
  split at hu
  · cases hu
  · simp only [Option.some.injEq, Prod.mk.injEq] at hu
    obtain ⟨rfl, -⟩ := hu
    exact (scrubFrame h.others).writeAll

theorem dropFrame {d : Nat} (h : s.Canonical) : (s.dropFrame d).Canonical := by
  unfold State.dropFrame
  split
  · exact h
  · exact others (scrubFrame (ite (h.setHmem (Mem.wf_write _ _ h.hmem)) h))

theorem hostSet {a : Nat} {b : Byte} (h : s.Canonical) : (s.hostSet a b).Canonical := by
  refine setMem (h.setHmem (Mem.wf_set _ _ h.hmem)) ?_
  exact List.foldlRecOn (motive := fun m => Mem.wf m = true) _ _ h.mem fun _ hm _ _ => Mem.wf_set _ _ hm

theorem hostWrite {a : Nat} {bs : List Byte} (h : s.Canonical) : (s.hostWrite a bs).Canonical := foldl h fun _ _ h => h.hostSet

theorem hostStore {a : Nat} {bs : List Byte} (h : s.Canonical) : (s.hostStore a bs).Canonical := h.hostWrite.others

theorem writePte {a v : Nat} (h : s.Canonical) : (s.writePte a v).Canonical := h.setMem (Mem.wf_writeLE _ _ _ h.mem)

theorem nextTable {t tbl level va d : Nat} {u : State} (h : s.Canonical) (hu : s.nextTable t tbl level va = some (u, d)) :
    u.Canonical := by
  unfold State.nextTable at hu
  dsimp only at hu
  split at hu
  · cases hu
    exact h
  · obtain ⟨⟨w, e⟩, hw, heq⟩ := Option.map_eq_some_iff.mp hu
    cases heq
    exact (h.newFrame hw).writePte

theorem mapPage {t va dfn : Nat} {wr x : Bool} {u : State} (h : s.Canonical) (hu : s.mapPage t va dfn wr x = some u) :
    u.Canonical := by
  unfold State.mapPage at hu
  split at hu
  · cases hu
  · next h1 =>
    split at hu
    · cases hu
    · next h2 =>
      cases hu
      exact ((h.nextTable h1).nextTable h2).writePte

theorem tinval {t va len : Nat} (h : s.Canonical) : (s.tinval t va len).Canonical :=
  foldl h.modGroups fun _ _ h => h.modWg fun _ hx => hx

end State.Canonical

/-! ## Queues and the journal (23 R309 to R317) -/

namespace State.Canonical

theorem modFunc {fn : Nat} {f : Func → Func} (h : s.Canonical) : (s.modFunc fn f).Canonical := h.others

theorem modQueue {t q : Nat} {f : Queue → Queue} (h : s.Canonical) : (s.modQueue t q f).Canonical := h.others

theorem append {e : JEntry} (h : s.Canonical) : (s.append e).Canonical := h.others

theorem settleQueue {t q : Nat} (h : s.Canonical) : (s.settleQueue t q).Canonical := by
  unfold State.settleQueue
  split
  · exact ite h.modQueue h
  · exact h

theorem completeCmd {c : CmdRef} {cs : BitVec 8} {lid grid late : Nat} (h : s.Canonical) : (s.completeCmd c cs lid grid late).Canonical :=
  h.append.settleQueue

theorem writeRecord {r : BitVec 256 × CmdRef} (h : s.Canonical) : (s.writeRecord r).Canonical := by
  unfold State.writeRecord
  split
  · exact h
  · dsimp only
    split
    · exact ite h.hostWrite.interrupt h
    · split
      · exact h.batch.interrupt
      · exact h.batch.interrupt
      · exact h

theorem mirrorNext (h : s.Canonical) : s.mirrorNext.Canonical := by
  unfold State.mirrorNext
  split
  · exact h
  · dsimp only
    split
    · exact writeRecord h.others
    · exact h.others

theorem acceptCmd {c : CmdRef} {fn : Nat} {ws : List DWord} (h : s.Canonical) : (s.acceptCmd c fn ws).Canonical := h.append.modQueue

theorem readRing {x : Queue} (h : s.Canonical) : (s.readRing x).Canonical := by
  unfold State.readRing
  split
  · exact ite h.modQueue h
  · exact h.acceptCmd.modQueue.hostWrite

theorem popCmd {c : CmdRef} (h : s.Canonical) : (s.popCmd c).Canonical := h.modQueue

theorem queueTurn {t q : Nat} (h : s.Canonical) : (s.queueTurn t q).1.Canonical := by
  unfold State.queueTurn
  split
  · exact h
  · split
    · exact h
    · split
      · exact h.readRing
      · split
        · exact h
        · split
          · exact h.popCmd.completeCmd
          · exact h.popCmd.completeCmd

theorem dropNotify {fn q : Nat} (h : s.Canonical) : (s.dropNotify fn q).Canonical := h.append

theorem takeNotify {fn q : Nat} {v : DWord} (h : s.Canonical) : (s.takeNotify fn q v).Canonical := by
  unfold State.takeNotify
  split
  · exact h
  · exact ite h.modQueue h.dropNotify

theorem notify {fn q : Nat} {v : DWord} (h : s.Canonical) : (s.notify fn q v).Canonical := by
  unfold State.notify
  split
  · exact ite h.dropNotify h.takeNotify
  · exact h

end State.Canonical

/-- The state in which a command waits or is done is canonical. -/
def CmdOut.Canonical : CmdOut → Prop
  | .wait t => t.Canonical
  | .done t _ => t.Canonical

theorem CmdOut.canonical_ite {c : Prop} [Decidable c] {a b : CmdOut} (ha : a.Canonical) (hb : b.Canonical) :
    (if c then a else b).Canonical := by
  split
  · exact ha
  · exact hb

theorem kept_cmdWord {c : CmdRef} {eff : State → CmdOut} (h : s.Canonical) (he : (eff s).Canonical) : Kept (cmdWord s c eff) := by
  unfold cmdWord
  split
  · exact h
  · split
    · exact h
    · refine .ite ?_ h
      cases hr : eff s with
      | wait t =>
        rw [hr] at he
        exact he
      | done t cs =>
        rw [hr] at he
        exact State.Canonical.completeCmd (.popCmd he)

theorem kept_journalMirrorComplete (h : s.Canonical) : Kept (execJournalMirrorComplete s) := h.mirrorNext

theorem kept_notify {fn q : Nat} {v : DWord} (h : s.Canonical) : Kept (execNotify fn q v s) := by
  unfold execNotify
  split
  · exact .ite h.dropNotify (.ite h (.ite h.modFunc h.notify))
  · exact h

theorem kept_queueEnable {fn q : Nat} (h : s.Canonical) : Kept (execQueueEnable fn q s) := by
  unfold execQueueEnable
  split
  · exact h
  · exact .ite h h.modQueue.hostWrite

theorem kept_queueDisable {fn q : Nat} (h : s.Canonical) : Kept (execQueueDisable fn q s) := by
  unfold execQueueDisable
  split
  · exact h
  · exact .ite h.modQueue.settleQueue h

end Sys2Proof.Machine
end

section
/-! PROOFS. The canonical form through launches, commands, and the switches of tenants (23 R313 to R329, 24 R339 to R345). -/
namespace Sys2Proof.Machine

variable {s : State}

/-! ## Acceptance (23 R318) -/

namespace State.Canonical

theorem touchSpan {t va n : Nat} (h : s.Canonical) : (s.touchSpan t va n).Canonical := by
  refine foldl h fun s p h => ?_
  split
  · exact h.touch
  · exact h

theorem askAs {gid lid : Nat} {frames : List Nat} (h : s.Canonical) : (s.askAs gid lid frames).Canonical := ite h h.others

theorem hostAsk {lid : Nat} {frames : List Nat} (h : s.Canonical) : (s.hostAsk lid frames).Canonical := h.askAs

theorem measureCode {t : Nat} {secs : List (List Byte)} (h : s.Canonical) : (s.measureCode t secs).Canonical := h.modCtx

theorem touchLaunch {t va : Nat} {d : Desc} (h : s.Canonical) : (s.touchLaunch t va d).Canonical := foldl h fun _ _ h => h.touchSpan

theorem cancelCmd {k : Cmd} (h : s.Canonical) : (s.cancelCmd k).Canonical := h.modQueue.completeCmd

theorem abortLaunch {k : Cmd} (h : s.Canonical) : (s.abortLaunch k).Canonical := h.modErr.cancelCmd

end State.Canonical

theorem kept_launch {c : CmdRef} {va : DWord} (h : s.Canonical) : Kept (execLaunch c va s) := by
  unfold execLaunch
  split
  · exact h
  · split
    · exact h
    · refine .ite h (.ite h.abortLaunch ?_)
      dsimp only
      split
      · exact h.hostAsk
      · exact h.popCmd.completeCmd
      · exact State.Canonical.askAs (.others (.modQueue (.popCmd (.measureCode (.touchLaunch h)))))

/-! ## The end of a launch (01 R44 to R47, 26 R354) -/

namespace State.Canonical

theorem zeroOwned {ticket : BitVec 21} (h : s.Canonical) : (s.zeroOwned ticket).Canonical :=
  foldl h fun _ _ h => h.scrubFrame.touch.raiseTile.modFit

theorem dropGang {lid : Nat} (h : s.Canonical) : (s.dropGang lid).Canonical := by
  refine of_parts h.mem h.hmem (List.forall_mem_cons.mpr ⟨?_, fun w hw => h.wg (List.mem_cons_of_mem _ (List.mem_filter.mp hw).1)⟩)
    (h.mapCores (f := fun k => Core.disown k ((s.launchWgs lid).map Workgroup.id)) fun _ hk => hk).snap h.flash
  show Workgroup.Canonical (if _ then _ else _)
  split
  · exact ⟨rfl, .nil⟩
  · exact h.focusWg

theorem tenantOut {t : Nat} (h : s.Canonical) : (s.tenantOut t).Canonical := h.modCtx.others

theorem tenantLeaves {t : Nat} (h : s.Canonical) : (s.tenantLeaves t).Canonical := ite h h.tenantOut

theorem tenantsLeave (h : s.Canonical) : s.tenantsLeave.Canonical := foldl h fun _ _ h => h.tenantLeaves

theorem restPower (h : s.Canonical) : s.restPower.Canonical := h.others

theorem endLaunch {lid : Nat} {rejected : Bool} (h : s.Canonical) : (s.endLaunch lid rejected).Canonical := by
  unfold State.endLaunch
  lift_lets
  extract_lets t
  have ht : t.Canonical := by
    unfold t
    split
    · exact ite h.modLaunch (ite h h.dropParked)
    · exact h
  clear_value t
  split
  · exact ht
  · next l _ =>
    have hgone : ∀ f q g, (((((t.zeroOwned l.ticket).dropGang lid).modLaunch lid f).modQueue l.cmd.tenant q g)).Canonical :=
      fun _ _ _ => ht.zeroOwned.dropGang.modLaunch.modQueue
    exact tenantsLeave (restPower (ite (hgone _ _ _) (ite (hgone _ _ _).completeCmd (hgone _ _ _).completeCmd)))

theorem cancelLaunch {lid : Nat} {dev : Bool} (h : s.Canonical) : (s.cancelLaunch lid dev).Canonical := by
  unfold State.cancelLaunch
  split
  · exact h
  · exact ite h.haltLaunch.endLaunch h.haltLaunch

end State.Canonical

theorem kept_launchEnd (h : s.Canonical) : Kept (execLaunchEnd s) := .ite h.endLaunch h

theorem kept_cancel {c : CmdRef} {lid : Word} (h : s.Canonical) : Kept (execCancel c lid s) := by
  refine kept_cmdWord h ?_
  split
  · exact CmdOut.canonical_ite h.cancelLaunch h
  · split
    · exact h.cancelCmd
    · exact h

/-! ## Admission (23 R324, R325) -/

namespace State.Canonical

theorem seeHost {c id : Nat} (h : s.Canonical) : (s.seeHost c id).Canonical := h.modCore fun _ hk => hk

theorem startWg {l : Launch} {id k core age : Nat} (h : s.Canonical) : (s.startWg l id k core age).Canonical := by
  have hmore : ∀ gs, ({ s with wgs := s.wgs ++ [Workgroup.start l id k core], groups := gs } : State).Canonical := fun gs =>
    others (s := { s with wg := s.wg, wgs := s.wgs ++ [Workgroup.start l id k core] }) (h.setWgs fun w hw => by
      rw [← List.cons_append, List.mem_append, List.mem_singleton] at hw
      rcases hw with hw | rfl
      · exact h.wg hw
      · exact ⟨rfl, .nil⟩)
  exact ite (hmore _).seeHost (hmore _).snapshot

theorem tenantBack {t : Nat} (h : s.Canonical) : (s.tenantBack t).Canonical := askAs (askAs h.modCtx.others)

theorem startLaunch {l : Launch} {cs : List Nat} (h : s.Canonical) : (s.startLaunch l cs).Canonical :=
  restPower (modQueue (modLaunch (foldl (ite h h.tenantBack) fun _ _ h => h.startWg)))

end State.Canonical

theorem kept_admission {lid : Nat} (h : s.Canonical) : Kept (execAdmission lid s) := by
  unfold execAdmission
  split
  · exact h
  · refine .ite (.ite ?_ h.modCtx) h
    split
    · exact h.modCtx
    · exact .ite h.modCtx.startLaunch h.modCtx.endLaunch

/-! ## The other commands (23 R313, R315, R327, R328) -/

theorem kept_tinval {c : CmdRef} {va len : DWord} (h : s.Canonical) : Kept (execTinval c va len s) := kept_cmdWord h h.tinval

theorem kept_drain {c : CmdRef} (h : s.Canonical) : Kept (execDrain c s) := kept_cmdWord h (CmdOut.canonical_ite h h)

namespace State.Canonical

variable {u : State}

theorem frameFor {t o d w4 : Nat} {f : MapFlags} (h : s.Canonical) (hu : s.frameFor t o f w4 = some (u, d)) : u.Canonical := by
  unfold State.frameFor at hu
  split at hu
  · obtain ⟨w, -, heq⟩ := Option.map_eq_some_iff.mp hu
    cases heq
    exact h
  · split at hu
    · exact h.hostFrame hu
    · exact h.newFrame hu

theorem mapOne {t va o w4 : Nat} {f : MapFlags} (h : s.Canonical) (hu : s.mapOne t va o f w4 = some u) : u.Canonical := by
  unfold State.mapOne at hu
  split at hu
  · cases hu
    exact h.writePte
  · split at hu
    · next hf => exact (h.frameFor hf).mapPage hu
    · cases hu

theorem mapAll {t va w4 : Nat} {f : MapFlags} {os : List Nat} (h : s.Canonical) (hu : s.mapAll t va f w4 os = some u) :
    u.Canonical := by
  induction os generalizing s with
  | nil =>
    cases hu
    exact h
  | cons o os ih =>
    unfold State.mapAll at hu
    split at hu
    · next ho => exact ih (h.mapOne ho) hu
    · cases hu

theorem untile {d : Nat} (h : s.Canonical) : (s.untile d).Canonical := by
  unfold State.untile
  split
  · exact h
  · split
    · split
      · next hw => exact h.withdraw.ok hw
      · exact h
    · exact h

theorem unmapOne {t va : Nat} (h : s.Canonical) : (s.unmapOne t va).Canonical := by
  unfold State.unmapOne
  split
  · exact ite h.writePte h.writePte.untile.dropFrame
  · exact h

end State.Canonical

theorem kept_map {c : CmdRef} {va len flags w4 : DWord} (h : s.Canonical) : Kept (execMap c va len flags w4 s) := by
  refine kept_cmdWord h (CmdOut.canonical_ite h (CmdOut.canonical_ite h (CmdOut.canonical_ite h ?_)))
  split
  · next hm => exact (h.mapAll hm).tinval
  · exact h

theorem kept_unmap {c : CmdRef} {va len : DWord} (h : s.Canonical) : Kept (execUnmap c va len s) :=
  kept_cmdWord h (CmdOut.canonical_ite h (CmdOut.canonical_ite h (State.Canonical.tinval (.foldl h fun _ _ h => h.unmapOne))))

theorem kept_arm {c : CmdRef} {va : DWord} (h : s.Canonical) : Kept (execArm c va s) := by
  refine kept_cmdWord h (CmdOut.canonical_ite h ?_)
  split
  · exact h
  · exact h.hostAsk
  · dsimp only
    split
    · exact h.touchSpan
    · exact CmdOut.canonical_ite h.touchSpan h.touchSpan.others

theorem State.Canonical.disarm {t num : Nat} (h : s.Canonical) : (s.disarm t num).Canonical := h.others

theorem kept_disarm {c : CmdRef} {num : BitVec 13} (h : s.Canonical) : Kept (execDisarm c num s) := kept_cmdWord h h.disarm

theorem State.Canonical.advance {p : Timer} {skipped : Bool} (h : s.Canonical) : (s.advance p skipped).Canonical := by
  unfold State.advance
  lift_lets
  extract_lets m miss t
  have ht : t.Canonical := by
    unfold t
    split
    · exact h.batch
    · exact h
  exact ite ht.disarm ht.others

theorem State.Canonical.skipRelease {p : Timer} (h : s.Canonical) : (s.skipRelease p).Canonical := h.append.advance

theorem kept_timerRelease {tenant num : Nat} (h : s.Canonical) : Kept (execTimerRelease tenant num s) := by
  unfold execTimerRelease
  split
  · exact h
  · refine .ite h ?_
    split
    · exact h.skipRelease
    · refine .ite h.skipRelease ?_
      split
      · exact h.skipRelease
      · exact h.hostAsk
      · exact .ite h.skipRelease (State.Canonical.advance h.touchSpan.append.acceptCmd)

/-! ## Time, slices and stops (08 R134, 23 R319 to R322, 24 R339, R340) -/

theorem kept_heartbeatTick (h : s.Canonical) : Kept (execHeartbeatTick s) := .ite h h.others

theorem kept_periodBoundary (h : s.Canonical) : Kept (execPeriodBoundary s) := .ite h h.others

theorem kept_sliceStart (h : s.Canonical) : Kept (execSliceStart s) := by
  refine .ite h (State.Canonical.tenantsLeave (.foldl h.others fun _ _ h => ?_))
  split
  · exact h.modCtx
  · exact h

namespace State.Canonical

theorem stopWg {w : Workgroup} {t : Nat} (h : s.Canonical) : (s.stopWg w t).Canonical :=
  modCore (seqPreempt (modWg h.modGroups fun _ hx => hx)) fun _ hk => hk

theorem stopGangs {p : Launch → Bool} (h : s.Canonical) : (s.stopGangs p).Canonical := foldl h fun _ _ h => h.stopWg

theorem haltCore {c : Nat} (h : s.Canonical) : (s.haltCore c).Canonical := h.modCore fun _ hk => hk

end State.Canonical

theorem kept_stopRequest {hall : Nat} (h : s.Canonical) : Kept (execStopRequest hall s) := h.stopGangs

theorem kept_coreHalt {core : Nat} (h : s.Canonical) : Kept (execCoreHalt core s) := by
  unfold execCoreHalt
  split
  · exact h
  · exact .ite h.haltCore h

theorem kept_stopTimeout {core : Nat} (h : s.Canonical) : Kept (execStopTimeout core s) := by
  unfold execStopTimeout
  split
  · exact h
  · refine .ite (State.Canonical.haltCore (.foldl h fun _ _ h => ?_)) h
    split
    · exact h.modErr.haltLaunch
    · exact h

/-! ## The exchange (24 R341 to R344, 08 R133) -/

theorem Workgroup.Canonical.applyLog {w : Workgroup} (h : w.Canonical) : w.applyLog.Canonical := by
  have hlog : (w.arrLog.foldl (fun (w : Workgroup) a =>
      let b := w.softBar a.off
      match b.credit b.ticket a.arrivals a.bytes with
      | .ok b' => (w.setBar a.off b').carry a.off b' (b.phase + 1) a.jobs
      | .error _ => w) w).Canonical := by
    refine h.foldl fun w a h => ?_
    dsimp only
    split
    · exact h.setBar.carry
    · exact h
  exact hlog

namespace State.Canonical

theorem switchOut {ws : List Workgroup} (h : s.Canonical) : (s.switchOut ws).Canonical :=
  foldl h.modGroups fun _ _ h => h.modWg fun _ hx => hx

theorem rebind {c w gid : Nat} (h : s.Canonical) : (s.rebind c w gid).Canonical := by
  refine foldl h fun _ _ h => ?_
  split
  · exact ite h.modGroup h
  · exact h

theorem restartWg {w : Nat} (h : s.Canonical) : (s.restartWg w).Canonical := by
  unfold State.restartWg
  exact modGroups (modWg h fun _ hx => hx)

theorem switchIn {ws : List Workgroup} (h : s.Canonical) : (s.switchIn ws).Canonical := by
  refine foldl (foldl h fun _ _ h => h.modWg fun _ hx => ?_) fun _ _ h => restartWg (foldl h fun _ _ h => h.rebind)
  exact Workgroup.Canonical.applyLog hx

theorem place {ws : List Workgroup} {p : Place} (h : s.Canonical) :
    (ws.foldl (fun s w => s.modWg w.id fun w => { w with place := p }) s).Canonical := foldl h fun _ _ h => h.modWg fun _ hx => hx

theorem saveImages {core : Nat} (h : s.Canonical) : (s.saveImages core).Canonical :=
  modCore (foldl h fun _ _ h => h.modWg fun _ hx => hx) fun _ hk => hk

end State.Canonical

theorem kept_shadowExchange {core : Nat} (h : s.Canonical) : Kept (execShadowExchange core s) := by
  unfold execShadowExchange
  split
  · exact h
  · extract_lets _ _ _ _ _ _ _ _ _ _ _ _ s5 s6
    refine .ite h ?_
    have h5 : s5.Canonical := State.Canonical.modCore (.foldl (.switchIn (.switchOut (.place h))) fun _ _ h => h.restartWg) fun _ hk => hk
    have h6 : s6.Canonical := by
      unfold s6
      split
      · exact h5.tenantLeaves
      · exact h5
    clear_value *
    refine State.Canonical.restPower (.tenantsLeave ?_)
    split
    · exact .ite h6 h6.tenantBack
    · exact h6

theorem kept_imageSave {core : Nat} (h : s.Canonical) : Kept (execImageSave core s) := h.saveImages

theorem kept_imageStage {core tenant : Nat} (h : s.Canonical) : Kept (execImageStage core tenant s) := by
  unfold execImageStage
  split
  · exact h
  · exact .ite h (State.Canonical.modCore h.place fun _ hk => hk)

/-! ## Revocation and interrupts (23 R323, R329, 24 R345) -/

theorem kept_hallRevocation {hall : Nat} (h : s.Canonical) : Kept (execHallRevocation hall s) := by
  unfold execHallRevocation
  split
  · split
    · exact State.Canonical.tenantsLeave (.stopGangs h.others)
    · exact h
  · exact h

theorem kept_hallScrub {hall : Nat} (h : s.Canonical) : Kept (execHallScrub hall s) := by
  unfold execHallScrub
  split
  · exact .ite h (State.Canonical.tenantsLeave (.others (.foldl h fun _ _ h => h.modCore fun _ hk => hk)))
  · exact h

theorem kept_interruptDelivery {fn : Nat} (h : s.Canonical) : Kept (execInterruptDelivery fn s) := by
  unfold execInterruptDelivery
  split
  · exact h
  · split
    · exact h
    · exact .ite h.modFunc (.ite h (.ite h.modFunc h.modFunc.others))

end Sys2Proof.Machine
end

section
/-! PROOFS. The canonical form through contexts and namespaces, the registers, trust, the management cores, power and service, and the fetch
(23 R314, R330, 25, 26, 28). -/
namespace Sys2Proof.Machine

variable {s : State}

/-! ## Teardown, contexts and namespaces (23 R314, R330, 26 R367, 28 R378) -/

namespace State.Canonical

/-- Flash pages taken away. -/
theorem filterFlash {p : (Nat × Nat) × Mem → Bool} {dev : Dev} {nss : Vector Namespace 16} {funcs : List Func} (h : s.Canonical) :
    ({ s with flash := s.flash.filter p, dev := dev, nss := nss, funcs := funcs } : State).Canonical :=
  of_parts h.mem h.hmem (fun _ => h.wg) h.snap fun x hx => h.flash x (List.mem_filter.mp hx).1

theorem tearLaunches {lids : List Nat} (h : s.Canonical) : (s.tearLaunches lids).Canonical :=
  foldl (meetPorters (foldl h fun _ _ h => h.haltLaunch)) fun _ _ h => h.endLaunch

theorem freeTree {t : Nat} (h : s.Canonical) : (s.freeTree t).Canonical := h.others

/-- Shadow images of a tenant taken away. -/
theorem dropShadows {t : Nat} (h : s.Canonical) : ({ s with
    core := if s.core.shadow = some t then { s.core with shadow := none, excess := 0 } else s.core
    cores := s.cores.map fun k => if k.shadow = some t then { k with shadow := none, excess := 0 } else k } : State).Canonical := by
  refine mapCores (f := fun k => if k.shadow = some t then { k with shadow := none, excess := 0 } else k) h fun k hk => ?_
  split
  · exact hk
  · exact hk

theorem teardown {t : Nat} (h : s.Canonical) : (s.teardown t).Canonical := by
  unfold State.teardown
  extract_lets _ _ _ _ s1 s2 _ s3
  have h1 : s1.Canonical := modCtx (others (foldl h.tearLaunches fun _ _ h => h.abortLaunch))
  have h2 : s2.Canonical := foldl h1 fun _ _ h => h.dropFrame
  have h3 : s3.Canonical := ite h2.scrubFrame.scrubFrame h2
  exact h3.freeTree.dropShadows

theorem abortCmd {c : CmdRef} {fn lid : Nat} (h : s.Canonical) : (s.abortCmd c fn lid).Canonical := h.append

theorem abortQueue {x : Queue} (h : s.Canonical) : (s.abortQueue x).Canonical := modQueue (foldl h fun _ _ h => h.abortCmd)

theorem ctxResult {t : Nat} {r : BitVec 8} (h : s.Canonical) : (s.ctxResult t r).Canonical := h.modCtx

theorem newRoot {t d : Nat} {u : State} (h : s.Canonical) (hu : s.newRoot t = some (u, d)) : u.Canonical := by
  unfold State.newRoot at hu
  split at hu
  · dsimp only at hu
    split at hu
    · cases hu
      exact h.addFrame.addFrame.scrubFrame.scrubFrame
    · cases hu
  · cases hu

theorem createCtx {t : Nat} (h : s.Canonical) : OkHas State.Canonical (s.createCtx t) := by
  refine .ite trivial (.ite trivial (.ite trivial ?_))
  split
  · trivial
  · next hr => exact modCtx (others (h.newRoot hr))

theorem modNs {n : Nat} {f : Namespace → Namespace} (h : s.Canonical) : (s.modNs n f).Canonical := h.others

theorem holdKey {n owner : Nat} {slot : Option Nat} {key : BitVec 256} (h : s.Canonical) : (s.holdKey n owner slot key).Canonical := by
  unfold State.holdKey
  dsimp only
  split
  · exact h.modCtx
  · exact h.others

theorem dropKey {n : Nat} (h : s.Canonical) : (s.dropKey n).Canonical := by
  unfold State.dropKey
  split
  · exact h.modCtx
  · exact h.others

end State.Canonical

theorem kept_contextCreate {t : Nat} (h : s.Canonical) : Kept (execContextCreate t s) := by
  refine .ite h ?_
  split
  · next hc => exact h.createCtx.ok hc
  · exact h.ctxResult

theorem kept_contextDelete {t : Nat} (h : s.Canonical) : Kept (execContextDelete t s) := by
  refine .ite h (.ite h.ctxResult ?_)
  refine State.Canonical.filterFlash ?_
  exact .ite (.append (.modCtx (.foldl h.teardown.dropFrame.dropFrame fun _ _ h => h.abortQueue)))
    (.modCtx (.foldl h.teardown.dropFrame.dropFrame fun _ _ h => h.abortQueue))

theorem kept_namespaceCreate {n : Nat} (h : s.Canonical) : Kept (execNamespaceCreate n s) :=
  .ite h (.ite h.modNs (.ite h.modNs (State.Canonical.modNs (.holdKey h.others))))

theorem kept_namespaceDelete {n : Nat} (h : s.Canonical) : Kept (execNamespaceDelete n s) :=
  .ite h (.ite h.modNs (.ite h.modNs (State.Canonical.modNs (.filterFlash h.dropKey))))

theorem kept_functionLevelReset {fn : Nat} (h : s.Canonical) : Kept (execFunctionLevelReset fn s) := by
  unfold execFunctionLevelReset
  split
  · exact h
  · refine State.Canonical.foldl (.modFunc (.append (.others (.foldl (.foldl h ?_) ?_)))) fun _ _ h => h.modLaunch.cancelLaunch
    · exact fun _ _ h => h.abortCmd
    · exact fun _ _ h => h.abortQueue

/-! ## Registers (26 R361, R362, 28 R370) -/

namespace State.Canonical

theorem toError {fn : Nat} {cause : BitVec 4} (h : s.Canonical) : (s.toError fn cause).Canonical :=
  foldl (foldl h.modFunc fun _ _ h => h.cancelLaunch) fun _ _ h => h.abortLaunch

theorem lockedWrite {fn : Nat} {same : Bool} {eff : State → State} (h : s.Canonical) (he : (eff s).Canonical) :
    (s.lockedWrite fn same eff).Canonical := by
  unfold State.lockedWrite
  split
  · exact h
  · exact ite h (ite h.toError he)

theorem queueWrite {fn : Nat} {x : Queue} {off : Nat} {v : DWord} (h : s.Canonical) : (s.queueWrite fn x off v).Canonical := by
  unfold State.queueWrite
  dsimp only
  split
  · exact h.lockedWrite h.modQueue
  · exact ite h (h.lockedWrite h.modQueue)
  · exact h.lockedWrite h.modQueue
  · exact h.lockedWrite h.modQueue
  · exact h

theorem pfWrite {off : Nat} {v : DWord} (h : s.Canonical) : (s.pfWrite off v).Canonical :=
  ite h.modErr (ite h.others (ite h.modCtx (ite h.modNs h)))

end State.Canonical

theorem kept_configWrite {fn reg : Nat} {v : DWord} (h : s.Canonical) : Kept (execConfigWrite fn reg v s) := h.lockedWrite h.modFunc

theorem kept_registerWrite {fn off : Nat} {v : DWord} (h : s.Canonical) : Kept (execRegisterWrite fn off v s) := by
  unfold execRegisterWrite
  split
  · exact h
  · refine .ite ?_ (.ite h.pfWrite (.ite h.modErr h))
    split
    · exact h.queueWrite
    · exact h

theorem kept_pwrlimWrite {v : Word} (h : s.Canonical) : Kept (execPwrlimWrite v s) := .ite h h.others

/-! ## Trust (26 R355 to R363, R367) -/

namespace State.Canonical

theorem tdispMsg {fn : Nat} {eff : Func → State} (h : s.Canonical) (he : ∀ f, (eff f).Canonical) : (s.tdispMsg fn eff).Canonical := by
  unfold State.tdispMsg
  split
  · exact ite h (he _)
  · exact h

theorem respond {r : Reply} (h : s.Canonical) : (s.respond r).Canonical := h.others

theorem countReq {session : Nat} (h : s.Canonical) : (s.countReq session).Canonical := h.others

theorem vaultReq {session slot : Nat} {eff : Nat → Session → Option VaultKey → Option State} (h : s.Canonical)
    (he : ∀ t x k u, eff t x k = some u → u.Canonical) : (s.vaultReq session slot eff).Canonical := by
  unfold State.vaultReq
  split
  · exact h
  · split
    · next hu =>
      obtain ⟨f, -, hf⟩ := Option.bind_eq_some_iff.mp hu
      dsimp only at hf
      split at hf
      · exact (he _ _ _ _ hf).countReq.respond
      · cases hf
    · exact h.countReq.respond

theorem getVersions {fn : Nat} (h : s.Canonical) : (s.getVersions fn).Canonical := ite h (respond h.others)

theorem answer {fn index : Nat} {bs : List Byte} (h : s.Canonical) : (s.answer fn index bs).Canonical := h.respond

theorem enumerate (h : s.Canonical) : s.enumerate.Canonical := h.others

theorem bringUpEnd (h : s.Canonical) : s.bringUpEnd.Canonical := others (enumerate (append h.others))

end State.Canonical

theorem kept_lockInterfaceRequest {fn : Nat} (h : s.Canonical) : Kept (execLockInterfaceRequest fn s) :=
  h.tdispMsg fun _ => .ite h.modFunc h

theorem kept_startInterfaceRequest {fn : Nat} (h : s.Canonical) : Kept (execStartInterfaceRequest fn s) :=
  h.tdispMsg fun _ => .ite h.modFunc h.respond

theorem kept_stopInterfaceRequest {fn : Nat} (h : s.Canonical) : Kept (execStopInterfaceRequest fn s) :=
  h.tdispMsg fun _ => .modFunc (.ite h.teardown.append h)

theorem kept_ideStreamEstablish {fn : Nat} (h : s.Canonical) : Kept (execIdeStreamEstablish fn s) := by
  unfold execIdeStreamEstablish
  split
  · exact h.modFunc
  · exact h

theorem kept_ideLoss {fn : Nat} (h : s.Canonical) : Kept (execIdeLoss fn s) := by
  unfold execIdeLoss
  split
  · exact h
  · exact .ite (State.Canonical.ite h.modFunc h.modFunc.toError) h

theorem kept_firmwareInterfaceError {fn : Nat} (h : s.Canonical) : Kept (execFirmwareInterfaceError fn s) := h.tdispMsg fun _ => h.toError

theorem kept_keyImport {session slot : Nat} {use : KeyUse} {ex : Bool} {key : BitVec 256} (h : s.Canonical) :
    Kept (execKeyImport session slot use ex key s) := h.vaultReq fun _ _ _ _ hu => Option.some.inj hu ▸ h.modCtx

theorem kept_keyWrappedImport {session slot : Nat} {blob : List Byte} (h : s.Canonical) :
    Kept (execKeyWrappedImport session slot blob s) := by
  refine h.vaultReq fun _ _ _ _ hu => ?_
  obtain ⟨k, -, rfl⟩ := Option.map_eq_some_iff.mp hu
  exact h.modCtx

theorem kept_keyExport {session slot : Nat} (h : s.Canonical) : Kept (execKeyExport session slot s) := by
  refine h.vaultReq fun _ _ _ _ hu => ?_
  obtain ⟨k, -, hk⟩ := Option.bind_eq_some_iff.mp hu
  split at hk
  · cases hk
    exact h.others
  · cases hk

theorem kept_keyDelete {session slot : Nat} (h : s.Canonical) : Kept (execKeyDelete session slot s) :=
  h.vaultReq fun _ _ _ _ hu => Option.some.inj hu ▸ h.modCtx

theorem kept_streamOpen {session stream slot : Nat} {fixed : Word} (h : s.Canonical) : Kept (execStreamOpen session stream slot fixed s) := by
  refine h.vaultReq fun _ _ _ _ hu => ?_
  split at hu
  · cases hu
    exact h.modCtx
  · cases hu

theorem kept_getMeasurements {fn index : Nat} (h : s.Canonical) : Kept (execGetMeasurements fn index s) := by
  unfold execGetMeasurements
  split
  · exact h
  · split
    · exact State.Canonical.answer h.others
    · exact h.answer

theorem kept_keyExchange {fn id : Nat} {version : Byte} {key : List Byte} (h : s.Canonical) : Kept (execKeyExchange fn id version key s) :=
  .ite h (.ite h.respond (.ite h.respond (State.Canonical.respond h.others)))

theorem kept_spdmSessionEnd {id : Nat} (h : s.Canonical) : Kept (execSpdmSessionEnd id s) := h.others

theorem kept_bootStage {key sig image : List Byte} (h : s.Canonical) : Kept (execBootStage key sig image s) :=
  .ite h (.ite h.others (.ite h.enumerate.others (State.Canonical.ite (.bringUpEnd h.others) h.others)))

/-! ## Management cores (28 R374, 26 R353) -/

namespace State.Canonical

theorem modMgmt {k : Nat} {f : Mgmt → Mgmt} (h : s.Canonical) : (s.modMgmt k f).Canonical := h.others

theorem mgmtPut {addr : Nat} {bs : List Byte} {u : State} (h : s.Canonical) (hu : s.mgmtPut addr bs = some u) : u.Canonical := by
  unfold State.mgmtPut at hu
  dsimp only at hu
  split at hu
  · cases hu
    exact h.batch
  · split at hu
    · cases hu
      exact h.modCtx
    · cases hu

theorem mgmtTouch {addr n : Nat} (h : s.Canonical) : (s.mgmtTouch addr n).Canonical := ite h.others h

theorem monitor {k d : Nat} (h : s.Canonical) : (s.monitor k d).Canonical := h.others

theorem mgmtLoad {k addr n : Nat} (h : s.Canonical) : OkHas (fun r : State × Nat => r.1.Canonical) (s.mgmtLoad k addr n) := by
  refine .ite trivial ?_
  split
  · exact h.monitor
  · exact h.mgmtTouch
  · trivial

theorem breakResv {addr n : Nat} (h : s.Canonical) : (s.breakResv addr n).Canonical := h.others

theorem mgmtStore {k addr n : Nat} {v : DWord} (h : s.Canonical) : OkHas State.Canonical (s.mgmtStore k addr n v) := by
  refine .ite trivial ?_
  split
  · exact h.monitor
  · next hu => exact h.breakResv.mgmtPut hu
  · trivial

theorem mgmtTrap {k cause : Nat} {tval : DWord} (h : s.Canonical) : (s.mgmtTrap k cause tval).Canonical := h.modMgmt

theorem mgmtDo {k len : Nat} {o : RvOut} (h : s.Canonical) : (s.mgmtDo k len o).Canonical := by
  cases o with
  | next m =>
    unfold State.mgmtDo
    exact h.modMgmt
  | trap c v => exact h.mgmtTrap
  | load rd addr n signed =>
    unfold State.mgmtDo
    dsimp only
    split
    · next hl => exact modMgmt (h.mgmtLoad.ok hl)
    · exact h.mgmtTrap
  | store addr n v =>
    unfold State.mgmtDo
    dsimp only
    split
    · next hl => exact modMgmt (h.mgmtStore.ok hl)
    · exact h.mgmtTrap
  | lr rd addr n =>
    unfold State.mgmtDo
    dsimp only
    split
    · next hl => exact modMgmt (modMgmt (h.mgmtLoad.ok hl))
    · exact h.mgmtTrap
  | sc rd addr n v =>
    refine ite ?_ h.modMgmt.modMgmt
    split
    · next hl => exact modMgmt (h.modMgmt.mgmtStore.ok hl)
    · exact h.modMgmt.mgmtTrap
  | amo f5 rd addr n v =>
    unfold State.mgmtDo
    dsimp only
    split
    · exact ite h.monitor.modMgmt h.mgmtTrap
    · exact h.mgmtTrap
    · split
      · next hl => exact modMgmt (h.mgmtStore.ok hl)
      · exact h.mgmtTrap

theorem mgmtStep {k : Nat} {insn : Word} (h : s.Canonical) : (s.mgmtStep k insn).Canonical := by
  refine ite h.mgmtTrap ?_
  split
  · exact h.mgmtDo
  · exact h.mgmtTrap

end State.Canonical

/-! ## Power (28 R373, R381, R382) -/

/-- The reset state, its host memory as given. -/
theorem State.canonical_reset {m : Mem} {ts : List Turn} {n : Nat} {d : Dev} (hm : m.wf = true) :
    ({ State.reset with hmem := m, turns := ts, free := n, dev := d } : State).Canonical := by
  refine State.Canonical.of_parts rfl hm (fun w hw => ?_) (fun c hc => ?_) fun p hp => ?_
  · cases List.mem_singleton.mp hw
    exact ⟨rfl, .nil⟩
  · rcases List.mem_cons.mp hc with rfl | hc
    · rfl
    · obtain ⟨k, -, rfl⟩ := List.mem_map.mp hc
      rfl
  · cases hp

theorem State.Canonical.hostMem (h : s.Canonical) : s.hostMem.wf = true :=
  List.foldlRecOn (motive := fun m => Mem.wf m = true) _ _ h.hmem fun _ hm _ _ => Mem.wf_write _ _ hm

theorem kept_powerLoss (h : s.Canonical) : Kept (execPowerLoss s) := State.canonical_reset h.hostMem

theorem kept_powerGood (h : s.Canonical) : Kept (execPowerGood s) := .ite h (State.canonical_reset h.hostMem)

theorem kept_powerCap (h : s.Canonical) : Kept (execPowerCap s) := .ite h.others h

theorem kept_demandWithinWatts (h : s.Canonical) : Kept (execDemandWithinWatts s) := .ite (State.Canonical.restPower h.others) h

theorem kept_d3hotEntry (h : s.Canonical) : Kept (execD3hotEntry s) := .ite h (State.Canonical.others (.foldl h fun _ _ h => h.mirrorNext))

theorem kept_d3hotExit (h : s.Canonical) : Kept (execD3hotExit s) := .ite (State.Canonical.restPower h.others) h

theorem kept_sriovEnable {n : Nat} (h : s.Canonical) : Kept (execSriovEnable n s) := .ite h.others h

/-! ## Migration (28 R375, 10 R156) -/

theorem kept_vfPause {fn : Nat} (h : s.Canonical) : Kept (execVfPause fn s) := by
  unfold execVfPause
  split
  · exact h
  · exact .ite h h.modFunc.stopGangs

theorem kept_vfUnpause {fn : Nat} (h : s.Canonical) : Kept (execVfUnpause fn s) := by
  unfold execVfUnpause
  split
  · exact h
  · exact .ite (State.Canonical.foldl h.modFunc fun _ _ h => h.notify) h

theorem kept_migrationSnapshot {t : Nat} (h : s.Canonical) : Kept (execMigrationSnapshot t s) := .ite h.drainTree.modCtx h

namespace State.Canonical

theorem migrate {t : Nat} {attested : Bool} (h : s.Canonical) : (s.migrate t attested).Canonical := ite h.drainTree.modCtx h

/-- An optional state folded over a list: where there is one, it is canonical. -/
theorem foldlBind {α : Type} {f : State → α → Option State} {xs : List α} {o : Option State} {u : State}
    (ho : ∀ t, o = some t → t.Canonical) (hf : ∀ (t : State) x v, t.Canonical → f t x = some v → v.Canonical)
    (hu : xs.foldl (fun o x => o.bind fun t => f t x) o = some u) : u.Canonical := by
  induction xs generalizing o with
  | nil => exact ho u hu
  | cons x xs ih =>
    refine ih (fun v hv => ?_) hu
    obtain ⟨t, ht, htv⟩ := Option.bind_eq_some_iff.mp hv
    exact hf t x v (ho t ht) htv

theorem takeFrame {t : Nat} {f : MovedFrame} {u : State} (h : s.Canonical) (hu : s.takeFrame t f = some u) : u.Canonical := by
  unfold State.takeFrame at hu
  split at hu
  · cases hu
  · next hn =>
    have hnew := h.newFrame hn
    refine foldlBind (fun v hv => ?_) (fun _ _ _ h hv => h.mapPage hv) hu
    cases hv
    exact modFit (hnew.setMem (Mem.wf_write _ _ hnew.mem))

theorem receive {t fn : Nat} {m : Moved} (h : s.Canonical) : (s.receive t fn m).Canonical := by
  unfold State.receive
  dsimp only
  split
  · next hc =>
    refine ite h ?_
    split
    · exact h
    · next hu =>
      refine modFunc (takeRecords (foldlBind (fun v hv => ?_) (fun _ _ _ h hv => h.takeFrame hv) hu))
      cases hv
      exact (createCtx h.modCtx).ok hc
  · exact h

/-! ## Spares and soft errors (28 R376 to R380, 24 R346 to R348) -/

theorem logSpare {p : Part} {unit : BitVec 24} {left : Word} (h : s.Canonical) : (s.logSpare p unit left).Canonical := h.append.others

theorem dieSpent {die : Nat} (h : s.Canonical) : (s.dieSpent die).Canonical := ite h.others h.others

theorem setWear {p : Part} {unit : BitVec 24} {n : Nat} (h : s.Canonical) : (s.setWear p unit n).Canonical := h.others

theorem wear {p : Part} {unit : BitVec 24} (h : s.Canonical) : (s.wear p unit).Canonical := h.setWear

theorem corrected {array : Nat} (h : s.Canonical) : (s.corrected array).Canonical := h.others

theorem charge {t : Nat} (h : s.Canonical) : (s.charge t).Canonical := h.modErr

end State.Canonical

theorem kept_spareSubstitution {part : Part} {unit : BitVec 24} {left : Word} (h : s.Canonical) :
    Kept (execSpareSubstitution part unit left s) := by
  refine .ite h ?_
  cases part with
  | core => exact .ite (State.Canonical.logSpare (.setWear h.others)) h
  | hbmRow => exact h.setWear.logSpare
  | hbmChannel => exact State.Canonical.ite h.setWear.logSpare h
  | flashBlock => exact State.Canonical.ite h.setWear.logSpare.dieSpent h.setWear.logSpare
  | lane => exact h.setWear.logSpare
  | ldpc => exact h.setWear.logSpare

theorem kept_softErrorCorrected {array : Nat} {unit : BitVec 24} (h : s.Canonical) : Kept (execSoftErrorCorrected array unit s) :=
  State.Canonical.foldl h.corrected fun _ _ h => h.wear

theorem kept_uncorrectableEcc {site : EccSite} (h : s.Canonical) : Kept (execUncorrectableEcc site s) := by
  cases site with
  | cleanLine t => exact h.charge.corrected
  | operandBuffer t => exact h.charge.corrected
  | table => exact h.corrected
  | frame d =>
    unfold execUncorrectableEcc
    dsimp only
    split
    · exact h
    · exact .ite h.corrected (.ite h h.poisonFrame.charge)
  | workgroup w =>
    unfold execUncorrectableEcc
    dsimp only
    split
    · exact h
    · exact h.charge.haltLaunch

theorem kept_cxlDeviceLoss {lo hi : BitVec 48} (h : s.Canonical) : Kept (execCxlDeviceLoss lo hi s) :=
  State.Canonical.foldl h.others fun _ _ h => h.poisonFrame

theorem kept_belrikLinkLoss {port : Nat} (h : s.Canonical) : Kept (execBelrikLinkLoss port s) := .ite h.others h.others

/-! ## Host and firmware, and the turn that is taken up (log 1) -/

namespace State.Canonical

theorem hostAct {a : HostAct} (h : s.Canonical) : (s.hostAct a).Canonical := by
  unfold State.hostAct
  cases a with
  | write addr bs => exact h.hostStore
  | bindFunc fn t => exact ite h.modFunc h
  | bindQueue t q fn => exact ite h (ite h.modQueue h.others)
  | partition p gs ms => exact ite h.others h
  | plugin t image => exact h.modCtx
  | peer d t loc => exact h.others
  | clearDebt t => exact h.modCtx
  | transfer x => exact h.others
  | cxl port frames => exact ite h h.others
  | migrate t ok => exact h.migrate
  | receive t fn m => exact h.receive
  | mgmt k w => exact h.mgmtStep
  | policy t bs => exact h.modCtx
  | wear p unit => exact h.wear
  | spdmVersions fn => exact h.getVersions
  | spdmCertificates fn => exact ite h h.respond
  | table es => exact h.others

theorem takeTurn (h : s.Canonical) : s.takeTurn.Canonical := ite h.others (focusOn h.others)

theorem fetchOrFault (h : s.Canonical) : s.fetchOrFault.1.Canonical := by
  unfold State.fetchOrFault
  split
  · exact h
  · exact ite h.scalarFault h.scalarWait

theorem laneOrFault (h : s.Canonical) : s.laneOrFault.1.Canonical := by
  unfold State.laneOrFault
  split
  · exact h
  · dsimp only
    split
    · exact ite h.laneFault h
    · exact h
    · exact ite h.laneFault h

theorem matrixOrFault (h : s.Canonical) : s.matrixOrFault.1.Canonical := by
  unfold State.matrixOrFault
  split
  · exact h
  · split
    · dsimp only
      exact h.matrixFault
    · exact h
    · dsimp only
      exact h.matrixFault

theorem fetch {op : TurnOp} (h : s.Canonical) : (s.fetch op).1.Canonical := by
  cases op with
  | scalar => exact h.fetchOrFault
  | lane b => exact laneOrFault h.others
  | matrix => exact h.matrixOrFault
  | event i => exact h
  | command t q => exact h.queueTurn
  | host a => exact h.hostAct

end State.Canonical

end Sys2Proof.Machine
end

section
/-! PROOFS. Every instruction and every step keep the canonical form of the byte lists (log 2). -/
namespace Sys2Proof.Machine

variable {s : State} {o : LaneOps}

/-! ## Lane words that write registers or predicates (15 R227 to R245) -/

theorem kept_lane32 {srcs : List Src} {f : Nat → List SrcVal → Word} (h : s.Canonical) : Kept (lane32 s o srcs f) := kept_laneInstr h

theorem kept_lane32s {srcs : List Src} {f : RunUnit → Nat → List SrcVal → Word × Word} (h : s.Canonical) :
    Kept (lane32s s o srcs f) := kept_laneInstr h

theorem kept_lanePred {srcs : List Src} {f : RunUnit → Nat → List SrcVal → Bool × Word} (h : s.Canonical) :
    Kept (lanePred s o srcs f) := kept_laneInstr h

theorem kept_laneOfPred {f : RunUnit → Nat → Word} (h : s.Canonical) : Kept (laneOfPred s o f) := kept_laneInstr h

theorem kept_votePred {f : Word → Word → Bool} (h : s.Canonical) : Kept (votePred s o f) := kept_laneInstr h

theorem kept_int1 {f : Word → Word} (h : s.Canonical) : Kept (int1 s o f) := kept_lane32 h

theorem kept_int2 {f : Word → Word → Word} (h : s.Canonical) : Kept (int2 s o f) := kept_lane32 h

theorem kept_int64 {f : DWord → DWord → DWord × Word} (h : s.Canonical) : Kept (int64 s o f) := kept_laneInstr h

theorem kept_float1 {t : FType} {x2 : Bool} {f : FCtl → Nat → Nat × Word} (h : s.Canonical) : Kept (float1 s o t x2 f) := kept_lane32s h

theorem kept_float2 {t : FType} {x2 : Bool} {f : FCtl → Nat → Nat → Nat × Word} (h : s.Canonical) : Kept (float2 s o t x2 f) :=
  kept_lane32s h

theorem kept_unpack8 {k : Nat} (h : s.Canonical) : Kept (unpack8 s o k) := kept_laneInstr h

theorem kept_mod2 {f : Int → Int → Int} (h : s.Canonical) : Kept (mod2 s o f) := kept_laneInstr h

theorem kept_butterfly {f : Int → Int → Int → Int} (h : s.Canonical) : Kept (butterfly s o f) := kept_laneInstr h

theorem kept_bcast (h : s.Canonical) : Kept (execBcast o s) := by
  unfold execBcast
  exact kept_laneInstr h

/-! ## Every instruction, and the step (log 1) -/

/-- What an instruction comes to is canonical: a case for each. -/
theorem kept_exec {i : Instr} (h : s.Canonical) : Kept (exec i s) := by
  unfold exec
  cases i with
  | sadd | ssub | smul | smulhu | smulhs | sand | sor | sxor | sshl | sshr | ssra | smin | smax | sminu | smaxu | ssel
    | sset => exact kept_alu h
  | sadd64 | ssub64 | smul64 => exact kept_alu64 h
  | sclz | spopc | saddi | sandi | sori | sxori | sshli | sshri | ssrai => exact kept_aluImm h
  | sset64 => exact kept_scalarWord h h.latch.latch.writeS
  | slit => exact kept_slit h
  | slitB64 => exact kept_slitB64 h
  | sld => exact kept_sld h
  | sst => exact kept_sst h
  | br | beqz | bnez | bltz | bgez | bpany | bpall | bpnone => exact kept_branch h
  | call => exact kept_call h
  | jr => exact kept_jr h
  | loop => exact kept_loop h
  | linc => exact kept_linc h
  | enq => exact kept_enq h
  | tmap => exact kept_tmap h
  | trel => exact kept_trel h
  | nop => exact kept_nop h
  | endg => exact kept_endg h
  | pget => exact kept_pget h
  | pyield => exact kept_pyield h
  | pretire => exact kept_pretire h
  | binit => exact kept_binit h
  | arrive | arriveRel => exact kept_arriveWord h
  | phase => exact kept_phase h
  | fenceSc => exact kept_fenceSc h
  | job => exact kept_job h
  | reside | resideB => exact kept_resideWord h
  | enroll => exact kept_enroll h
  | enrollR => exact kept_enrollR h
  | settle => exact kept_settle h
  | reparent => exact kept_reparent h
  | cread => exact kept_cread h
  | trap => exact kept_trap h
  | hret => exact kept_hret h
  | hretPoison => exact kept_hretPoison h
  | hretZero => exact kept_hretZero h
  | srr => exact kept_srr h
  | srw => exact kept_srw h
  | halt => exact kept_halt h
  | mstart => exact kept_mstart h
  | pool => exact kept_pool h
  | mstatEnd => exact h.endStream
  | clauseHeader => exact kept_clauseHeader h
  | fadd | fsub | fmul | fmin | fmax => exact kept_float2 h
  | ffma | iadd | isub | idot4 => exact kept_lane32s h
  | fabs | fneg | frcp | frsq | fsqrt | fex2 | flg2 => exact kept_float1 h
  | fcmp | icmp | plop | pmov | pmovNz => exact kept_lanePred h
  | fclass | imad | movi => exact kept_lane32 h
  | imul | imulh | iand | ior | ixor | ishl | ishr | isra | imin | imax => exact kept_int2 h
  | inot | ipopc | iclz => exact kept_int1 h
  | iadd64 | isub64 | imul64 => exact kept_int64 h
  | cvt | f8pack | i4unpk | mov | sel | shfl | rfl | voteBal | lnop => exact kept_laneInstr h
  | f8unpkLo | f8unpkHi => exact kept_unpack8 h
  | modadd | modsub | modmul => exact kept_mod2 h
  | nttbfAdd | nttbfSub | nttbiAdd | nttbiSub => exact kept_butterfly h
  | prd | prdMask => exact kept_laneOfPred h
  | bcast => exact kept_bcast h
  | voteAny | voteAll => exact kept_votePred h
  | lbr => exact kept_lbr h
  | ljoin => exact kept_ljoin h
  | lend => exact kept_lend h
  | xset | xsetS | xrst => exact kept_setLen h
  | ldG => exact kept_ldG h
  | stG => exact kept_stG h
  | ldL => exact kept_ldL h
  | stL => exact kept_stL h
  | atomG | xcvt | xcvtClr => exact kept_returning h
  | atomL => exact kept_atomL h
  | redG | redf | redx | xmerge => exact kept_reduction h
  | resideLane => exact kept_resideLane h
  | wait => exact kept_wait h
  | mnop => exact kept_mnop h
  | mli => exact kept_mli h
  | mmov => exact kept_mmov h
  | madd => exact kept_madd h
  | mld => exact kept_mld h
  | mres => exact kept_mres h
  | mrel => exact kept_mrel h
  | mmod => exact kept_mmod h
  | mma => exact kept_mma h
  | mzero => exact kept_mzero h
  | mst => exact kept_mst h
  | mwait => exact kept_mwait h
  | marv => exact kept_marv h
  | mend => exact kept_mend h
  | mbr => exact kept_mbr h
  | mloop => exact kept_mloop h
  | mmaKStep => exact kept_mmaKStep h
  | mstRow => exact kept_mstRow h
  | unitStart => exact kept_unitStart h
  | replyArrival => exact kept_replyArrival h
  | porterPerform => exact kept_porterPerform h
  | floatGrant => exact kept_floatGrant h
  | spillReload => exact kept_spillReload h
  | compaction => exact kept_compaction h
  | entryAssignment => exact kept_entryAssignment h
  | flashSense => exact kept_flashSense h
  | landingCredit => exact kept_landingCredit h
  | copyOut => exact kept_copyOut h
  | relanding => exact kept_relanding h
  | launchEnd => exact kept_launchEnd h
  | jobStart => exact kept_jobStart h
  | copy => exact kept_copy h
  | gather => exact kept_gather h
  | fill => exact kept_fill h
  | flashRead => exact kept_flashRead h
  | flashWrite => exact kept_flashWrite h
  | cipherIn => exact kept_cipherIn h
  | send => exact kept_send h
  | fetch => exact kept_fetch h
  | jobComplete => exact kept_jobComplete h
  | peerTransfer => exact kept_peerTransfer h
  | rollup => exact kept_rollup h
  | settleComplete => exact kept_settleComplete h
  | resideComplete => exact kept_resideComplete h
  | frameMigration => exact kept_frameMigration h
  | frameEviction => exact kept_frameEviction h
  | frameReturn => exact kept_frameReturn h
  | heartbeatTick => exact kept_heartbeatTick h
  | timerRelease => exact kept_timerRelease h
  | periodBoundary => exact kept_periodBoundary h
  | sliceStart => exact kept_sliceStart h
  | stopRequest => exact kept_stopRequest h
  | coreHalt => exact kept_coreHalt h
  | stopTimeout => exact kept_stopTimeout h
  | shadowExchange => exact kept_shadowExchange h
  | imageSave => exact kept_imageSave h
  | imageStage => exact kept_imageStage h
  | hallRevocation => exact kept_hallRevocation h
  | hallScrub => exact kept_hallScrub h
  | admission => exact kept_admission h
  | interruptDelivery => exact kept_interruptDelivery h
  | launch => exact kept_launch h
  | tinval => exact kept_tinval h
  | cancel => exact kept_cancel h
  | arm => exact kept_arm h
  | disarm => exact kept_disarm h
  | drain => exact kept_drain h
  | map => exact kept_map h
  | unmap => exact kept_unmap h
  | notify => exact kept_notify h
  | queueEnable => exact kept_queueEnable h
  | queueDisable => exact kept_queueDisable h
  | contextCreate => exact kept_contextCreate h
  | contextDelete => exact kept_contextDelete h
  | namespaceCreate => exact kept_namespaceCreate h
  | namespaceDelete => exact kept_namespaceDelete h
  | pwrlimWrite => exact kept_pwrlimWrite h
  | registerWrite => exact kept_registerWrite h
  | functionLevelReset => exact kept_functionLevelReset h
  | configWrite => exact kept_configWrite h
  | lockInterfaceRequest => exact kept_lockInterfaceRequest h
  | startInterfaceRequest => exact kept_startInterfaceRequest h
  | stopInterfaceRequest => exact kept_stopInterfaceRequest h
  | ideLoss => exact kept_ideLoss h
  | keyImport => exact kept_keyImport h
  | keyWrappedImport => exact kept_keyWrappedImport h
  | keyExport => exact kept_keyExport h
  | keyDelete => exact kept_keyDelete h
  | streamOpen => exact kept_streamOpen h
  | getMeasurements => exact kept_getMeasurements h
  | keyExchange => exact kept_keyExchange h
  | bootStage => exact kept_bootStage h
  | powerGood => exact kept_powerGood h
  | powerCap => exact kept_powerCap h
  | d3hotEntry => exact kept_d3hotEntry h
  | sriovEnable => exact kept_sriovEnable h
  | vfPause => exact kept_vfPause h
  | spareSubstitution => exact kept_spareSubstitution h
  | softErrorCorrected => exact kept_softErrorCorrected h
  | uncorrectableEcc => exact kept_uncorrectableEcc h
  | cxlDeviceLoss => exact kept_cxlDeviceLoss h
  | powerLoss => exact kept_powerLoss h
  | d3hotExit => exact kept_d3hotExit h
  | demandWithinWatts => exact kept_demandWithinWatts h
  | vfUnpause => exact kept_vfUnpause h
  | migrationSnapshot => exact kept_migrationSnapshot h
  | ideStreamEstablish => exact kept_ideStreamEstablish h
  | firmwareInterfaceError => exact kept_firmwareInterfaceError h
  | spdmSessionEnd => exact kept_spdmSessionEnd h
  | belrikLinkLoss => exact kept_belrikLinkLoss h
  | journalMirrorComplete => exact kept_journalMirrorComplete h

theorem kept_runTurn {op : TurnOp} (h : s.Canonical) : Kept (runTurn s op) := by
  have hf : (s.fetch op).1.Canonical := h.fetch
  unfold runTurn
  split
  · next heq =>
    rw [heq] at hf
    exact kept_exec hf
  · next heq =>
    rw [heq] at hf
    exact hf

theorem kept_step (h : s.Canonical) : Kept (step s) := .ite trivial (.ite (kept_runTurn h.takeTurn) h.takeTurn)

/-- Settles O22: the turn taken up, what it fetches and what it runs each keep the form. -/
theorem canonicalKept : Obligations.CanonicalKept := by
  intro s t h hstep
  have hkept := kept_step h
  rw [hstep] at hkept
  exact hkept

end Sys2Proof.Machine
end

section
/-! PROOFS. What a porter does with the last lane of a request (07 R113, R115, 16 R258 to R263). -/
namespace Sys2Proof.Machine

variable {s t : State} {q : PorterReq} {x : PorterLane} {l : Launch} {da : Nat}

/-! ## Memory, replies and requests of one lane performed -/

/-- An update of a frame's size at most reads as it was stored. -/
theorem State.update_bytes {n v : Nat} (h : s.mem.wf = true) (hn : n ≤ 0x10000) : (s.update da n v).mem.bytes da n = leBytes n v := by
  have hb := State.batch_bytes (da := da) (bs := leBytes n v) h (by rwa [leBytes_length])
  rwa [leBytes_length] at hb

theorem State.update_other {n v a : Nat} (h : s.mem.wf = true) (ha : ¬ s.Shows da n a) :
    (s.update da n v).mem.get a = s.mem.get a :=
  State.batch_other h (by rwa [leBytes_length])

theorem State.update_g (n v : Nat) : (s.update da n v).g = s.g := by
  obtain ⟨m, f, tr, fr, h, -⟩ := s.batch_frame (cellsAt da (leBytes n v))
  exact (congrArg State.g h :)

theorem State.update_porters (n v : Nat) : (s.update da n v).porters = s.porters := by
  obtain ⟨m, f, tr, fr, h, -⟩ := s.batch_frame (cellsAt da (leBytes n v))
  exact (congrArg State.porters h :)

theorem State.modGroup_mem (w gid : Nat) (f : Group → Group) : (s.modGroup w gid f).mem = s.mem := by
  unfold State.modGroup
  split <;> rfl

theorem State.modGroup_porters (w gid : Nat) (f : Group → Group) : (s.modGroup w gid f).porters = s.porters := by
  unfold State.modGroup
  split <;> rfl

theorem State.modGroup_focus {w gid : Nat} (f : Group → Group) (hw : w = s.g.wgId) (hg : gid = s.g.gid) :
    s.modGroup w gid f = { s with g := f s.g } := by
  subst hw hg
  simp [State.modGroup, State.focused]

theorem State.reply_mem (lane v : Nat) : (s.reply q lane v).mem = s.mem := by
  unfold State.reply
  split
  · rfl
  · exact State.modGroup_mem _ _ _

theorem State.reply_porters (lane v : Nat) : (s.reply q lane v).porters = s.porters := by
  unfold State.reply
  split
  · rfl
  · exact State.modGroup_porters _ _ _

/-- No operation of a porter stores more than a frame. -/
theorem PorterOp.stores_le {m : Mem} {op : PorterOp} {n v : Nat} (h : op.stores m x da = some (n, v)) : n ≤ 0x10000 := by
  have hatom : ∀ f, atomBytes f ≤ 0x10000 := fun f => by
    unfold atomBytes
    split <;> omega
  have hcode : ∀ c : BitVec 4, ((AOp.ofCode c).bind fun f =>
      (atomNat f (m.readLE da (atomBytes f)) x.b.toNat x.c.toNat).map fun v => (atomBytes f, v)) = some (n, v) → n ≤ 0x10000 := by
    intro c h
    obtain ⟨f, -, hf⟩ := Option.bind_eq_some_iff.mp h
    obtain ⟨w, -, hw⟩ := Option.map_eq_some_iff.mp hf
    cases hw
    exact hatom f
  cases op with
  | atom c => exact hcode c h
  | red c => exact hcode c h
  | redf fc =>
    cases h
    omega
  | redx ty =>
    cases h
    omega
  | xmerge =>
    simp only [PorterOp.stores] at h
    split at h
    · cases h
      omega
    · cases h
  | xcvt clr =>
    simp only [PorterOp.stores] at h
    split at h
    · cases h
      omega
    · cases h

/-- An atomic, or a reduction of its operations: the update where it stores, then the reply. -/
theorem State.perform_atomic {c : BitVec 4} {f : AOp} (hop : q.op = .atom c ∨ q.op = .red c) (hf : AOp.ofCode c = some f) :
    s.perform q x da = State.reply (match atomNat f (s.mem.readLE da (atomBytes f)) x.b.toNat x.c.toNat with
      | some v => s.update da (atomBytes f) v
      | none => s.touch da false) q x.lane (s.mem.readLE da (atomBytes f)) := by
  rcases hop with hop | hop <;> simp only [State.perform, hop, hf] <;> rfl

/-- A code that names no operation. -/
theorem State.perform_unknown {c : BitVec 4} (hop : q.op = .atom c ∨ q.op = .red c) (hf : AOp.ofCode c = none) :
    s.perform q x da = s := by
  rcases hop with hop | hop <;> simp only [State.perform, hop, hf]

/-- What a lane performed at a device address leaves: the requests as they were, memory with what the operation stores, and the reply of a
returning one as the last change of the state. -/
structure State.Performed (s : State) (q : PorterReq) (x : PorterLane) (da : Nat) (t : State) : Prop where
  porters : t.porters = s.porters
  mem     : t.mem = ((q.op.stores s.mem x da).map fun r => (s.update da r.1 r.2).mem).getD s.mem
  reply   : ∀ v, q.op.answers s.mem da = some v → ∃ u : State, u.g = s.g ∧ t = u.reply q x.lane v

/-- A reply, where the state before it has the memory that the operation leaves. -/
theorem State.Performed.of_reply {u : State} {w : Nat} (hg : u.g = s.g) (hp : u.porters = s.porters)
    (hm : u.mem = ((q.op.stores s.mem x da).map fun r => (s.update da r.1 r.2).mem).getD s.mem)
    (ha : q.op.answers s.mem da = some w) : s.Performed q x da (u.reply q x.lane w) where
  porters := (State.reply_porters _ _).trans hp
  mem := (State.reply_mem _ _).trans hm
  reply _ hv := ⟨u, hg, by rw [Option.some.inj (ha.symm.trans hv)]⟩

/-- The operation stores nothing. -/
theorem State.performed_none (hst : q.op.stores s.mem x da = none) (han : q.op.answers s.mem da = none) : s.Performed q x da s :=
  ⟨rfl, by rw [hst]; rfl, by simp [han]⟩

theorem State.performed_atomic {c : BitVec 4} (hop : q.op = .atom c ∨ q.op = .red c) : s.Performed q x da (s.perform q x da) := by
  have hst : q.op.stores s.mem x da = (AOp.ofCode c).bind fun f =>
      (atomNat f (s.mem.readLE da (atomBytes f)) x.b.toNat x.c.toNat).map fun v => (atomBytes f, v) := by
    rcases hop with hop | hop <;> rw [hop] <;> rfl
  have han : q.op.answers s.mem da = (AOp.ofCode c).map fun f => s.mem.readLE da (atomBytes f) := by
    rcases hop with hop | hop <;> rw [hop] <;> rfl
  cases hf : AOp.ofCode c with
  | none =>
    rw [hf] at hst han
    rw [State.perform_unknown hop hf]
    exact State.performed_none hst han
  | some f =>
    rw [hf] at hst han
    rw [State.perform_atomic hop hf]
    cases hv : atomNat f (s.mem.readLE da (atomBytes f)) x.b.toNat x.c.toNat with
    | none => exact .of_reply rfl rfl (by simp [hst, hv, touch_mem]) han
    | some w => exact .of_reply (State.update_g _ _) (State.update_porters _ _) (by simp [hst, hv]) han

theorem State.performed : s.Performed q x da (s.perform q x da) := by
  cases hop : q.op with
  | atom c => exact State.performed_atomic (.inl hop)
  | red c => exact State.performed_atomic (.inr hop)
  | redf fc =>
    simp only [State.perform, hop]
    exact ⟨(State.modGroup_porters _ _ _).trans (State.update_porters _ _), by simp [hop, PorterOp.stores, State.modGroup_mem],
      by simp [hop, PorterOp.answers]⟩
  | redx ty =>
    simp only [State.perform, hop]
    exact ⟨State.update_porters _ _, by simp [hop, PorterOp.stores], by simp [hop, PorterOp.answers]⟩
  | xmerge =>
    have han : q.op.answers s.mem da = none := by rw [hop]; rfl
    cases hp : x.part with
    | got v =>
      simp only [State.perform, hop, hp]
      exact ⟨State.update_porters _ _, by simp [hop, PorterOp.stores, hp], by simp [han]⟩
    | plain | read | await | failed =>
      simp only [State.perform, hop, hp]
      exact State.performed_none (by simp [hop, PorterOp.stores, hp]) han
  | xcvt clr =>
    have hst : q.op.stores s.mem x da = if clr then some (64, 0) else none := by rw [hop]; rfl
    have han : q.op.answers s.mem da = some (Xacc.ofNat (s.mem.readLE da 64)).toF32 := by rw [hop]; rfl
    simp only [State.perform, hop]
    cases clr with
    | true => exact .of_reply (State.update_g _ _) (State.update_porters _ _) (by simp [hst]) han
    | false => exact .of_reply rfl rfl (by simp [hst, touch_mem]) han

/-! ## The queue -/

theorem exec_porterPerform {hall : Nat} (hq : s.porters.find? (fun r => r.hall == hall) = some q) :
    exec (.porterPerform hall) s = .next (s.porterStep q) := by
  show execPorterPerform hall s = _
  unfold execPorterPerform
  rw [hq]

/-- The first request of a hall is the first of its key there. -/
theorem find?_key_hall {ps : List PorterReq} (h : ps.find? (fun r => r.hall == q.hall) = some q) :
    ps.find? (fun r => r.key == q.key && r.hall == q.hall) = some q := by
  obtain ⟨-, as, bs, rfl, has⟩ := List.find?_eq_some_iff_append.mp h
  refine List.find?_eq_some_iff_append.mpr ⟨by simp, as, bs, rfl, fun r hr => ?_⟩
  have hne : ¬ r.hall = q.hall := by simpa using has r hr
  simp [hne]

/-- The last lane of a request that is performed: the request is gone. -/
theorem State.porterStep_last (hlanes : q.lanes = [x]) (hl : s.findLaunch q.lid = some l) (hpart : x.part ≠ .await)
    (hbad : q.bad = []) (hr : s.performLane l q x = (t, none)) (hq : t.porters.find? (fun r => r.hall == q.hall) = some q) :
    s.porterStep q = { t with porters := t.porters.filter fun r => !(r.key == q.key && r.hall == q.hall) } := by
  have hrest : t.porterRest q = { q with lanes := [] } := by
    unfold State.porterRest
    rw [find?_key_hall hq]
    simp [hlanes]
  simp [State.porterStep, hlanes, hl, hpart, hr, hrest, State.porterNext, State.reductionFault, hbad]

/-- The last lane of a request that is not performed: the request is gone, and its fault is reported. -/
theorem State.porterStep_failed {c : BitVec 8} (hlanes : q.lanes = [x]) (hl : s.findLaunch q.lid = some l) (hpart : x.part ≠ .await)
    (hbad : q.bad = []) (hr : s.performLane l q x = (t, some c)) (hq : t.porters.find? (fun r => r.hall == q.hall) = some q) :
    s.porterStep q = State.reductionFault { t with porters := t.porters.filter fun r => !(r.key == q.key && r.hall == q.hall) }
      { q with lanes := [], bad := [(x.lane, x.va, c)] } := by
  have hrest : t.porterRest q = { q with lanes := [] } := by
    unfold State.porterRest
    rw [find?_key_hall hq]
    simp [hlanes]
  simp [State.porterStep, hlanes, hl, hpart, hr, hrest, State.porterNext, hbad]

/-! ## The reply in the flight that waits (03 R68) -/

theorem lane_ofFn (f : Nat → Word) {i : Nat} (hi : i < 32) : (Lanes.ofFn f).lane i = f i := by
  simp [Lanes.lane, Lanes.ofFn, hi]

/-- A mask of one lane, as a number and as a word. -/
theorem cast_one_shiftLeft (n : Nat) : ((1 <<< n : Nat) : Word) = (1 : Word) <<< n := by
  refine BitVec.eq_of_toNat_eq ?_
  simp [Nat.shiftLeft_eq]

theorem one_shiftLeft_getLsbD {i : Nat} (hi : i < 32) : ((1 : Word) <<< i).getLsbD i = true := by
  simp [hi]

/-- A reply to a flight of the group in the focus. -/
theorem State.reply_flight {id v : Nat} {f : Flight} (hw : q.wgId = s.g.wgId) (hg : q.gid = s.g.gid) (hid : q.flight = some id)
    (hf : f ∈ s.g.flights) (hfid : f.id = id) : ∃ f' ∈ (s.reply q x.lane v).g.flights, f'.id = id ∧ f'.out = f.out ∧
      f'.ready = f.ready ||| (1 <<< x.lane) ∧ ∀ i, i < f.vals.length → x.lane < 32 →
        ((f'.vals[i]?).getD Lanes.zero).lane x.lane = BitVec.ofNat 32 (v / 2 ^ (32 * i)) := by
  simp only [State.reply, hid, State.modGroup_focus _ hw hg]
  refine ⟨_, List.mem_map.mpr ⟨f, hf, rfl⟩, ?_⟩
  simp only [hfid, beq_self_eq_true, if_true]
  refine ⟨trivial, trivial, trivial, fun i hi hlane => ?_⟩
  rw [List.getElem?_mapIdx, List.getElem?_eq_getElem hi, Option.map_some, Option.getD_some, mergeLanes, lane_ofFn _ hlane,
    cast_one_shiftLeft, if_pos (one_shiftLeft_getLsbD hlane), lane_ofFn _ hlane]

/-! ## Lanes that are not performed (07 R115) -/

/-- The mark of a frame that an access met changes the FIT alone. -/
theorem State.metFrame_frame (s : State) (b va : Nat) (c : BitVec 8) : ∃ es, s.metFrame b va c = { s with fit := es } := by
  unfold State.metFrame
  split
  · split <;> exact ⟨_, rfl⟩
  · exact ⟨_, rfl⟩

/-- An imprecise fault of the group in the focus, where it has not ended. -/
theorem State.imprecise_focus {w gid : Nat} {f : PendFault} (h : s.Focused) (hend : s.g.st ≠ .ended) (hw : w = s.wg.id)
    (hg : gid = s.g.gid) : s.imprecise w gid f = { s with g := { s.g with faults := s.g.faults ++ [f] } } := by
  have hwg : s.findWg w = some s.wg := by simp [State.findWg, State.allWgs, hw, h.wg]
  have hgroup : s.findGroup w gid = some s.g := by simp [State.findGroup, State.allGroups, hw, hg, h.ofWg, h.group]
  simp [State.imprecise, hwg, hgroup, hend, State.modGroup_focus _ (hw.trans h.ofWg.symm) hg]

/-- A lane whose address does not translate, of a request that waits for no value, and no integrity check failed. -/
theorem State.performLane_fault {c : BitVec 8} (hpart : x.part = .plain) (hflight : q.flight = none) (hc : c ≠ 0x14)
    (hreach : s.porterReach l q x = .fault c) :
    s.performLane l q x = (s.metFrame l.cmd.tenant x.va.toNat c, some (poisonCause c)) := by
  simp only [State.performLane, hpart, hreach, State.failLane, State.noReply, hflight, reachCause, if_neg hc, reduceCtorEq, if_false]

theorem poisonCause_ne {c : BitVec 8} (hc : c ≠ 0x14) : poisonCause c ≠ 0x14 := by
  unfold poisonCause
  split
  · decide
  · exact hc

/-! ## The obligation -/

/-- A lane whose request performs it, and is no side of a merge that waits or reads. -/
theorem State.performLane_ok (hpart : q.op ≠ .xmerge ∧ x.part = .plain ∨ q.op = .xmerge ∧ ∃ v, x.part = .got v)
    (hreach : s.porterReach l q x = .ok da) : s.performLane l q x = (s.perform q x da, none) := by
  rcases hpart with ⟨-, hp⟩ | ⟨-, v, hp⟩ <;> simp [State.performLane, hp, hreach]

theorem State.performLane_read (hpart : x.part = .read) (hreach : s.porterReach l q x = .ok da) :
    s.performLane l q x = ((s.touch da false).handOver q x.lane (.got (BitVec.ofNat 512 (s.mem.readLE da 64))), none) := by
  simp [State.performLane, hpart, hreach]

/-- The hand-over leaves a request whose lanes do not wait as it is, and the first of its hall the first. -/
theorem State.handOver_find {lane : Nat} {p : MergePart} (hq : s.porters.find? (fun r => r.hall == q.hall) = some q)
    (hlanes : q.lanes = [x]) (hpart : x.part = .read) :
    (s.handOver q lane p).porters.find? (fun r => r.hall == q.hall) = some q := by
  have hall : ∀ r : PorterReq, ((if r.key == q.key then { r with lanes := r.lanes.map fun y =>
      if y.lane == lane && y.part == .await then { y with part := p } else y } else r).hall == q.hall) = (r.hall == q.hall) := fun r => by
    split <;> rfl
  unfold State.handOver
  simp only [List.find?_map, Function.comp_def, hall, hq, Option.map_some, hlanes, List.map_cons, List.map_nil, hpart]
  simp [← hlanes]

/-- Settles O13, a case for each answer of the porter: performed, the source of a merge read, the lane that waits, and the fault. -/
theorem porterPerforms : Obligations.PorterPerforms := by
  intro s q x l hcan hq hlanes hl gone
  refine ⟨fun da hbad hpart hreach => ?_, fun sda hop hpart hbad hreach => ?_, fun hpart => ?_,
    fun c hbad hpart hreach hc hfocus hend hw hg hflight => ?_⟩
  · have hperf : s.Performed q x da (s.perform q x da) := State.performed
    have hawait : x.part ≠ .await := by rcases hpart with ⟨-, hp⟩ | ⟨-, v, hp⟩ <;> simp [hp]
    refine ⟨_, (exec_porterPerform hq).trans (congrArg _ (State.porterStep_last hlanes hl hawait hbad (State.performLane_ok hpart hreach)
      (by rw [hperf.porters]; exact hq))), by rw [hperf.porters], fun n v hst => ?_, fun hst => ?_, fun id v hw hg hid han f hf hfid => ?_⟩
    · have hm := hperf.mem
      rw [hst] at hm
      simp only [Option.map_some, Option.getD_some] at hm
      simp only [hm]
      exact ⟨State.update_bytes hcan.mem (PorterOp.stores_le hst), fun a ha => State.update_other hcan.mem ha⟩
    · simp [hperf.mem, hst]
    · obtain ⟨u, hu, hreply⟩ := hperf.reply v han
      simp only [hreply]
      exact State.reply_flight (hu ▸ hw) (hu ▸ hg) hid (hu ▸ hf) hfid
  · refine ⟨_, (exec_porterPerform hq).trans (congrArg _ (State.porterStep_last hlanes hl (by simp [hpart]) hbad
      (State.performLane_read hpart hreach) (State.handOver_find hq hlanes hpart))), rfl, fun r hr hkey hhall => ⟨_, ?_, rfl⟩⟩
    refine List.mem_filter.mpr ⟨List.mem_map.mpr ⟨r, hr, ?_⟩, by simp [hhall]⟩
    simp [hkey]
  · rw [exec_porterPerform hq]
    simp [State.porterStep, hlanes, hl, hpart]
  · obtain ⟨es, hmet⟩ := s.metFrame_frame l.cmd.tenant x.va.toNat c
    have hlane := State.performLane_fault hpart hflight hc hreach
    rw [hmet] at hlane
    have hstep := State.porterStep_failed hlanes hl (by simp [hpart]) hbad hlane hq
    simp only [State.reductionFault, hflight, Option.isSome_none, Bool.false_or, decide_eq_true_eq, poisonCause_ne hc, if_false,
      List.foldl_cons, List.foldl_nil] at hstep
    have hmask : (0 : Word) ||| (1 : Word) <<< x.lane = ((1 <<< x.lane : Nat) : Word) := by
      rw [cast_one_shiftLeft]
      exact BitVec.zero_or
    have hfocus' : ({ s with fit := es, porters := gone } : State).Focused := ⟨hfocus.1, hfocus.2, hfocus.3, hfocus.4, hfocus.5, hfocus.6⟩
    rw [State.imprecise_focus hfocus' hend hw hg, hmask] at hstep
    exact ⟨_, (exec_porterPerform hq).trans (congrArg _ hstep), rfl, rfl⟩

end Sys2Proof.Machine
end

section
/-! PROOFS. Residency requests and the moves of frames (07 R109, R111, R112, R117). -/
namespace Sys2Proof.Machine

variable {s : State} {q : ResReq} {e : FitEntry} {d : Nat}

/-! ## Entries of the FIT (07 R103) -/

/-- Entries changed under their numbers: the one found is the one found before, changed. -/
theorem find?_dfn_map {f : FitEntry → FitEntry} (hf : ∀ e, (f e).dfn = e.dfn) (es : List FitEntry) (d : Nat) :
    (es.map f).find? (fun e => e.dfn == d) = (es.find? fun e => e.dfn == d).map f := by
  simp [List.find?_map, hf]

theorem State.dfn_of_fitOf (h : s.fitOf d = some e) : e.dfn = d := by simpa using List.find?_some h

theorem State.fitOf_modFit {f : FitEntry → FitEntry} (hf : ∀ e, (f e).dfn = e.dfn) (h : s.fitOf d = some e) :
    (s.modFit d f).fitOf d = some (f e) := by
  have hmap := find?_dfn_map (f := fun e => if e.dfn == d then f e else e) (fun e => by split <;> simp [hf]) s.fit d
  rw [State.fitOf, State.modFit, hmap, show s.fit.find? (fun e => e.dfn == d) = some e from h]
  simp [State.dfn_of_fitOf h]

theorem State.fitOf_modFit_ne {f : FitEntry → FitEntry} (hf : ∀ e, (f e).dfn = e.dfn) {k : Nat} (hk : k ≠ d) :
    (s.modFit d f).fitOf k = s.fitOf k := by
  have hmap := find?_dfn_map (f := fun e => if e.dfn == d then f e else e) (fun e => by split <;> simp [hf]) s.fit k
  rw [State.fitOf, State.modFit, hmap]
  cases h : s.fitOf k with
  | none =>
    rw [show s.fit.find? (fun e => e.dfn == k) = none from h]
    rfl
  | some e =>
    rw [show s.fit.find? (fun e => e.dfn == k) = some e from h]
    simp [State.dfn_of_fitOf h, hk]

/-- An entry whose lower copy stood at a place that is taken. -/
def FitEntry.vacated (e : FitEntry) (t : Tier) (loc : Nat) : FitEntry :=
  if e.lower && e.lowTier == t && e.lowLoc.toNat == loc then { e with lower := false } else e

theorem State.fitOf_vacate (t : Tier) (loc d : Nat) : (s.vacate t loc).fitOf d = (s.fitOf d).map fun e => e.vacated t loc :=
  find?_dfn_map (f := fun e => e.vacated t loc) (fun e => by unfold FitEntry.vacated; split <;> rfl) s.fit d

/-- A place taken changes of an entry only whether it has a lower copy. -/
theorem FitEntry.vacated_eq (e : FitEntry) (t : Tier) (loc : Nat) : ∃ b, e.vacated t loc = { e with lower := b } := by
  unfold FitEntry.vacated
  split
  · exact ⟨false, rfl⟩
  · exact ⟨e.lower, rfl⟩

/-- A place taken, and the entry of a frame changed with it. -/
theorem State.fitOf_vacate_modFit {t : Tier} {loc : Nat} {f : FitEntry → FitEntry} {r : FitEntry} (h : s.fitOf d = some e)
    (hf : ∀ e, (f e).dfn = e.dfn) (hr : ∀ b, f { e with lower := b } = r) : ((s.vacate t loc).modFit d f).fitOf d = some r := by
  obtain ⟨b, hb⟩ := e.vacated_eq t loc
  have hv : (s.vacate t loc).fitOf d = some { e with lower := b } := by rw [State.fitOf_vacate, h, Option.map_some, hb]
  rw [State.fitOf_modFit hf hv, hr]

/-! ## Requests (07 R111) -/

/-- A request of the group in the focus, which names no barrier and for which no lane waits, done. -/
theorem State.reqDone_focus {st : ResStatus} (hw : q.wgId = s.g.wgId) (hg : q.gid = s.g.gid) (hbar : q.bar = none)
    (hflight : q.flight = none) : s.reqDone q st = { s with
      resreqs := s.resreqs.filter fun x => x.id != q.id, g := { s.g with rstat := rstatDone s.g.rstat st.code } } := by
  unfold State.reqDone
  dsimp only
  rw [hbar, hflight]
  exact State.modGroup_focus (s := { s with resreqs := s.resreqs.filter fun x => x.id != q.id }) _ hw hg

/-- A request done in a state whose FIT alone has changed. -/
theorem State.request_done {st : ResStatus} {es : List FitEntry} (hw : q.wgId = s.g.wgId) (hg : q.gid = s.g.gid) (hbar : q.bar = none)
    (hflight : q.flight = none) (h : exec (.resideComplete q.id) s = .next (State.reqDone { s with fit := es } q st)) :
    ∃ t, exec (.resideComplete q.id) s = .next t ∧ t = { s with resreqs := t.resreqs, g := t.g, fit := es } ∧
      (∀ x ∈ t.resreqs, x.id ≠ q.id) ∧ t.g = { s.g with rstat := rstatDone s.g.rstat st.code } := by
  rw [State.reqDone_focus (s := { s with fit := es }) hw hg hbar hflight] at h
  exact ⟨_, h, rfl, fun x hx => by simpa using (List.mem_filter.mp hx).2, rfl⟩

/-- A request of a group: what its completion turns on, in order. -/
theorem exec_resideComplete (hq : s.resreqs.find? (fun x => x.id == q.id) = some q) (hgid : q.gid < 16) :
    exec (.resideComplete q.id) s =
      if q.bad then .next (s.reqDone q .translation)
      else if (q.frames.filterMap s.fitOf).any (fun e => e.st == .poisoned) then .next (s.reqDone q .poisoned)
      else if !((s.lift q).needed q).isEmpty then .next (s.reqDone q .nospace)
      else if (s.needed q).any fun e => e.evicted then .next s
      else .next ((s.lift q).reqDone q .done) := by
  have h18 : ¬ 18 ≤ q.gid := by omega
  have h19 : q.gid ≠ 19 := by omega
  have h20 : q.gid ≠ 20 := by omega
  show execResideComplete q.id s = _
  simp only [execResideComplete, hq, h18, State.footFirst, State.stillWanted, beq_eq_false_iff_ne.mpr h19, beq_eq_false_iff_ne.mpr h20,
    decide_false, Bool.not_false, Bool.true_and, Bool.false_and, Bool.false_or, if_false, Bool.false_eq_true]

/-- Nothing is needed where every frame is up. -/
theorem State.needed_nil (h : ∀ d ∈ q.frames, ∀ e, s.fitOf d = some e → e.isUp = true) : s.needed q = [] := by
  refine List.filter_eq_nil_iff.mpr fun e he => ?_
  obtain ⟨d, hd, hde⟩ := List.mem_filterMap.mp he
  simp [h d hd e hde]

/-- A request of one frame that is missing, where tier A has room: the frame is brought up. -/
theorem State.lift_one {n : Nat} (hframes : q.frames.filterMap s.fitOf = [e]) (hst : e.st = .absent) (hfree : s.freeIn .a = some n) :
    s.lift q = (s.vacate .a n).modFit e.dfn fun e => e.up .a n := by
  have hneed : s.needed q = [e] := by simp [State.needed, hframes, hst, FitEntry.isUp]
  simp [State.lift, hneed, State.bringUp, hfree]

theorem State.needed_lift_one {n : Nat} (hframes : q.frames.filterMap s.fitOf = [e]) (hst : e.st = .absent)
    (hfree : s.freeIn .a = some n) : (s.lift q).needed q = [] := by
  refine State.needed_nil fun d hd x hx => ?_
  have hmem : ∀ y, s.fitOf d = some y → y = e := fun y hy => by
    have hy' := List.mem_filterMap.mpr ⟨d, hd, hy⟩
    rw [hframes] at hy'
    exact List.mem_singleton.mp hy'
  rw [State.lift_one hframes hst hfree] at hx
  cases hfit : s.fitOf d with
  | none =>
    have hne : d ≠ e.dfn := fun h => by
      obtain ⟨k, -, hk⟩ := List.mem_filterMap.mp (hframes ▸ List.mem_singleton.mpr rfl : e ∈ q.frames.filterMap s.fitOf)
      rw [h, State.dfn_of_fitOf hk, hk] at hfit
      cases hfit
    rw [State.fitOf_modFit_ne (f := fun e => e.up .a n) (fun _ => rfl) hne, State.fitOf_vacate, hfit] at hx
    cases hx
  | some y =>
    obtain rfl := hmem y hfit
    obtain rfl := State.dfn_of_fitOf hfit
    obtain ⟨b, hb⟩ := y.vacated_eq .a n
    have hv : (s.vacate .a n).fitOf y.dfn = some { y with lower := b } := by rw [State.fitOf_vacate, hfit, Option.map_some, hb]
    rw [State.fitOf_modFit (f := fun e => e.up .a n) (fun _ => rfl) hv] at hx
    cases hx
    rfl

/-- A case for each status that a request completes with. -/
theorem residencyCompletes : Claims.ResidencyCompletes := by
  intro s q hfocus hq hwg hg hgid hbar hflight
  have hw : q.wgId = s.g.wgId := hwg.trans hfocus.ofWg.symm
  have hexec := exec_resideComplete hq (hg ▸ hgid)
  refine ⟨fun hbad => ?_, fun hbad hpoison => ?_, fun hbad hup => ?_, fun e n hbad hframes hst hev hfree _ => ?_⟩
  · rw [if_pos hbad] at hexec
    exact State.request_done (es := s.fit) hw hg hbar hflight hexec
  · have hany : (q.frames.filterMap s.fitOf).any (fun e => e.st == .poisoned) = true := by
      obtain ⟨e, he, hst⟩ := hpoison
      exact List.any_eq_true.mpr ⟨e, he, beq_iff_eq.mpr hst⟩
    rw [if_neg (by simp [hbad]), if_pos hany] at hexec
    exact State.request_done (es := s.fit) hw hg hbar hflight hexec
  · have hany : (q.frames.filterMap s.fitOf).any (fun e => e.st == .poisoned) = false  :=
      List.any_eq_false.mpr fun e he => by simpa using (hup e he).1
    have hneed : s.needed q = [] := State.needed_nil fun d hd e hde => (hup e (List.mem_filterMap.mpr ⟨d, hd, hde⟩)).2
    have hlift : s.lift q = s := by rw [State.lift, hneed]; rfl
    rw [if_neg (by simp [hbad]), if_neg (by simp [hany]), hlift, if_neg (by simp [hneed]), if_neg (by simp [hneed])] at hexec
    exact State.request_done (es := s.fit) hw hg hbar hflight hexec
  · obtain ⟨d, -, hfit⟩ := List.mem_filterMap.mp (hframes ▸ List.mem_singleton.mpr rfl : e ∈ q.frames.filterMap s.fitOf)
    obtain rfl := State.dfn_of_fitOf hfit
    have hlift := State.lift_one hframes hst hfree
    have hneed : s.needed q = [e] := by simp [State.needed, hframes, hst, FitEntry.isUp]
    rw [if_neg (by simp [hbad]), if_neg (by simp [hframes, hst]), if_neg (by simp [State.needed_lift_one hframes hst hfree]),
      if_neg (by simp [hneed, hev]), hlift] at hexec
    obtain ⟨t, ht, hrest, -, hg⟩ := State.request_done hw hg hbar hflight hexec
    refine ⟨t, ht, by rw [hrest], ?_, hg⟩
    rw [hrest]
    exact State.fitOf_vacate_modFit hfit (fun _ => rfl) fun b => by simp [FitEntry.up, hev]

/-! ## Moves (07 R109, R112) -/

variable {loc : BitVec 48}

/-- A frame that a place is free for, moved. -/
theorem exec_frameMigration {tier : Tier} (he : s.fitOf d = some e) (hc : e.tier ≠ .c) (hp : e.st ≠ .poisoned) (hev : e.evicted = false)
    (hfree : loc.toNat ∉ s.usedIn tier) : exec (.frameMigration d tier loc) s =
      let t := s.vacate tier loc.toNat
      match tier with
      | .a => if loc.toNat < Config.tierAFrames then
          .next (t.modFit d fun x => if x.tier == .a then x.move .a loc.toNat (s.tileCount e) else x.up .a loc.toNat) else .next s
      | .b =>
        if s.tierSize .b ≤ loc.toNat || (e.st == .resident && e.tier == .a && (s.tenantRuns e.tenant || s.coPinned e.tenant d)) then
          .next s
        else .next (t.modFit d fun x => x.move .b loc.toNat (s.tileCount e))
      | .backing =>
        if e.st != .resident || s.tenantRuns e.tenant || s.pinned e.tenant d then .next s
        else .next (t.modFit d fun x => x.away loc.toNat false (s.tileCount e))
      | .c => .next s := by
  show execFrameMigration d tier loc s = _
  simp only [execFrameMigration, he, beq_eq_false_iff_ne.mpr hc, beq_eq_false_iff_ne.mpr hp, hev, Bool.false_or, Bool.not_not,
    List.contains_eq_mem, hfree, decide_false, Bool.false_eq_true, if_false]
  cases tier <;> rfl

theorem exec_frameEviction (he : s.fitOf d = some e) (hc : e.tier ≠ .c) (hp : e.st ≠ .poisoned) (hev : e.evicted = false) :
    exec (.frameEviction d loc) s = if s.tenantRuns e.tenant || s.pinned e.tenant d then .next s
      else .next (s.modFit d fun x => x.away loc.toNat true (s.tileCount x)) := by
  show execFrameEviction d loc s = _
  simp only [execFrameEviction, he, beq_eq_false_iff_ne.mpr hc, beq_eq_false_iff_ne.mpr hp, hev, Bool.false_or]

/-- A frame that comes back while tier A has room. -/
theorem exec_frameReturn {tagOk : Bool} {n : Nat} (he : s.fitOf d = some e) (hev : e.evicted = true) (hst : e.st = .absent)
    (hfree : s.freeIn .a = some n) (hq : (tagOk || !e.prot) = false → ∀ q ∈ s.resreqs, d ∉ q.frames) :
    exec (.frameReturn d tagOk) s = .next (
      if tagOk || !e.prot then (s.vacate .a n).modFit d fun x => x.up .a n
      else (((s.vacate .a n).poisonFrame e fun x => x.failed .a n true).modErr e.tenant fun r =>
        { r with integ := satInc r.integ }).tenantInterrupt e.tenant) := by
  show execFrameReturn d tagOk s = _
  have hhome : s.home = some (.a, n) := by simp [State.home, hfree]
  simp only [execFrameReturn, he, hev, hst, hfree, hhome, Option.isSome_some, if_true]
  cases htag : tagOk || !e.prot with
  | true => simp
  | false =>
    have hnone : (s.vacate .a n).resreqs.filter (fun q => q.frames.contains d) = [] :=
      List.filter_eq_nil_iff.mpr fun q hmem => by simpa using hq htag q hmem
    simp only [hnone, Bool.false_eq_true, if_false]
    rfl

/-- The error record of a tenant changed. -/
theorem State.ctx_modErr {b : Nat} {f : ErrRec → ErrRec} (hb : b < 16) : ((s.modErr b f).ctx b).err = f (s.ctx b).err := by
  simp [State.modErr, State.modCtx, State.ctx, vget_vset _ _ _ _ hb]

/-- A frame poisoned: its entry, the count of its tile, and POISON of its tenant. -/
theorem State.poisonFrame_frame (s : State) (e : FitEntry) (f : FitEntry → FitEntry) : ∃ tr fr, s.poisonFrame e f =
    State.modErr { s.modFit e.dfn fun x => f { x with st := .poisoned } with tree := tr, free := fr } e.tenant fun r =>
      { r with poison := satInc r.poison } := by
  obtain ⟨tr, fr, h⟩ := State.raiseTile_frame (s.modFit e.dfn fun x => f { x with st := .poisoned }) e.dfn
  exact ⟨tr, fr, by rw [State.poisonFrame, h]⟩

/-- A case for each move: up, down to the swap area, held back, out to the host, back, and back with a tag that fails. -/
theorem framesMove : Claims.FramesMove := by
  intro s e loc he hc hp up away
  refine ⟨fun hev hfree hloc ha => ?_, fun hev hst hrun hfree => ⟨fun hpin => ?_, fun hpin => ?_⟩, fun hev hstay => ?_,
    fun hev hrun hpin => ?_, fun tagOk n hev hst htag hfree => ?_, fun n hev hst hprot hten hq hfree => ?_⟩
  · have hexec := exec_frameMigration (tier := .a) he hc hp hev hfree
    simp only [if_pos hloc] at hexec
    refine ⟨_, hexec, rfl, State.fitOf_vacate_modFit he (fun x => ?_) fun b => ?_, fun d hd => State.fitOf_modFit_ne (fun x => ?_) hd⟩
    · split <;> rfl
    · simp [ha, FitEntry.up, up]
    · split <;> rfl
  · have hexec := exec_frameMigration (tier := .backing) he hc hp hev hfree
    simp only [hst, hrun, hpin] at hexec
    refine ⟨_, hexec, rfl, State.fitOf_vacate_modFit he (fun x => rfl) fun b => ?_,
      fun d hd => State.fitOf_modFit_ne (by intro x; rfl) hd⟩
    simp [FitEntry.away, away]
  · have hexec := exec_frameMigration (tier := .backing) he hc hp hev hfree
    simpa [hpin] using hexec
  · rw [exec_frameEviction he hc hp hev, if_pos (by simpa using hstay)]
  · refine ⟨_, (exec_frameEviction he hc hp hev).trans (if_neg (by simp [hrun, hpin])), rfl, ?_,
      fun d hd => State.fitOf_modFit_ne (by intro x; rfl) hd⟩
    rw [State.fitOf_modFit (f := fun x => x.away loc.toNat true (s.tileCount x)) (fun x => rfl) he]
    simp [FitEntry.away, away]
  · have hgone : (tagOk || !e.prot) = true := by
      rcases htag with htag | htag <;> simp [htag]
    have hexec := exec_frameReturn (tagOk := tagOk) he hev hst hfree fun h => by simp [hgone] at h
    rw [hgone] at hexec
    refine ⟨_, hexec, rfl, State.fitOf_vacate_modFit he (fun x => rfl) fun b => ?_,
      fun d hd => State.fitOf_modFit_ne (by intro x; rfl) hd⟩
    simp [FitEntry.up, up]
  · have hexec := exec_frameReturn (tagOk := false) he hev hst hfree fun _ => hq
    rw [hprot] at hexec
    obtain ⟨tr, fr, hpoison⟩ := (s.vacate .a n).poisonFrame_frame e fun x => x.failed .a n true
    rw [hpoison] at hexec
    have hctx : ∀ g h, ((((({ (s.vacate .a n).modFit e.dfn g with tree := tr, free := fr } : State).modErr e.tenant fun r =>
        { r with poison := satInc r.poison }).modErr e.tenant h).tenantInterrupt e.tenant).ctx e.tenant).err =
        h { (s.ctx e.tenant).err with poison := satInc (s.ctx e.tenant).err.poison } := fun _ _ =>
      (State.ctx_modErr hten).trans (congrArg _ (State.ctx_modErr hten))
    have hfit := State.fitOf_vacate_modFit (t := .a) (loc := n) (f := fun x => FitEntry.failed { x with st := .poisoned } .a n true)
      (r := e.failed .a n true) he (fun _ => rfl) fun _ => rfl
    exact ⟨_, hexec, ⟨_, hfit, rfl, rfl, rfl, rfl, rfl, rfl⟩,
      congrArg ErrRec.poison (hctx _ _), congrArg ErrRec.integ (hctx _ _), rfl⟩

/-- Settles O51: requests by what their completion turns on, in order; moves by the entry that each leaves. -/
theorem framesReside : Obligations.FramesReside := ⟨residencyCompletes, framesMove⟩

end Sys2Proof.Machine
end

section
/-! PROOFS. Heartbeat, periods, slices and timers (08 R134, 23 R320, R321, R328, 24 R343, R344). -/
namespace Sys2Proof.Machine

variable {s t u v : State} {b c : Nat}

/-! ## Contexts -/

theorem State.ctx_modCtx {f : Ctx → Ctx} (hb : b < 16) : (s.modCtx b f).ctx b = f (s.ctx b) := vget_vset _ _ _ _ hb

theorem State.ctx_modCtx_ne {f : Ctx → Ctx} (h : c ≠ b) : (s.modCtx c f).ctx b = s.ctx b := vget_vset_ne _ _ _ h

/-! ## One tenant switched out (07 R117, 24 R343 step 5, R344) -/

/-- What a tenant's leaving makes of a frame's entry. -/
def FitEntry.unmarked (e : FitEntry) (b : Nat) : FitEntry := if e.tenant == b then { e with acc := false } else e

/-- What it makes of a function. -/
def Func.stilled (f : Func) (b : Nat) : Func := if f.of b && f.run == .running then { f with run := .descheduled } else f

theorem State.fitOf_tenantOut (s : State) (c d : Nat) : (s.tenantOut c).fitOf d = (s.fitOf d).map fun e => e.unmarked c :=
  find?_dfn_map (f := fun e => e.unmarked c) (fun e => by unfold FitEntry.unmarked; split <;> rfl) s.fit d

theorem State.func_tenantOut (s : State) (c n : Nat) : (s.tenantOut c).func n = (s.func n).map fun f => f.stilled c := by
  have henabled : ∀ f : Func, (f.stilled c).enabled = f.enabled := fun f => by unfold Func.stilled; split <;> rfl
  have hget : (s.tenantOut c).funcs[n]? = (s.funcs[n]?).map fun f => f.stilled c := List.getElem?_map ..
  unfold State.func
  rw [hget]
  cases s.funcs[n]? with
  | none => rfl
  | some f =>
    simp only [Option.map_some, Option.bind_some, henabled]
    split <;> rfl

/-- The context of the tenant that leaves is changed, and no other. -/
theorem State.ctx_tenantOut (s : State) (c b : Nat) : (s.tenantOut c).ctx b =
    (s.modCtx c fun x => { x with workset := s.accessed c, presence := .away }).ctx b := rfl

theorem State.ctx_tenantOut_ne (h : c ≠ b) : (s.tenantOut c).ctx b = s.ctx b := by rw [State.ctx_tenantOut, State.ctx_modCtx_ne h]

theorem State.accessed_tenantOut_ne (h : c ≠ b) : (s.tenantOut c).accessed b = s.accessed b := by
  have hkeep : ∀ e : FitEntry, ((e.unmarked c).tenant == b && (e.unmarked c).acc) = (e.tenant == b && e.acc) := by
    intro e
    unfold FitEntry.unmarked
    split
    · next he => simp [beq_iff_eq.mp he, h]
    · rfl
  have hdfn : ∀ e : FitEntry, (e.unmarked c).dfn = e.dfn := fun e => by unfold FitEntry.unmarked; split <;> rfl
  show (((s.fit.map fun e => e.unmarked c).filter fun e => e.tenant == b && e.acc).map (·.dfn)).mergeSort = _
  simp only [List.filter_map, List.map_map, Function.comp_def, hkeep, hdfn]
  rfl

/-- The tenant switched out, in the state that follows at once. -/
theorem State.switchedOut_tenantOut (hb : b < 16) : s.SwitchedOut (s.tenantOut b) b := by
  have hctx : (s.tenantOut b).ctx b = { s.ctx b with workset := s.accessed b, presence := .away } := by
    rw [State.ctx_tenantOut, State.ctx_modCtx hb]
  refine ⟨by rw [hctx], by rw [hctx], fun d e he hten => ?_, fun fn x hx hof hrun => ?_⟩
  · rw [State.fitOf_tenantOut, he]
    simp [FitEntry.unmarked, hten]
  · rw [State.func_tenantOut, hx]
    simp [Func.stilled, hof, hrun]

/-! ## What the others' leaving spares of a tenant -/

/-- All that concerns a tenant's leaving is in t as in s: its context, its frames, its functions, and what it still has on cores. -/
structure State.Spared (s t : State) (b : Nat) : Prop where
  ctx    : t.ctx b = s.ctx b
  frames : ∀ d e, s.fitOf d = some e → e.tenant = b → t.fitOf d = some e
  funcs  : ∀ fn x, s.func fn = some x → x.of b = true → t.func fn = some x
  marks  : t.accessed b = s.accessed b
  work   : t.tenantIn b = s.tenantIn b
  cores  : t.allCores = s.allCores

theorem State.Spared.refl (s : State) (b : Nat) : s.Spared s b := ⟨rfl, fun _ _ h _ => h, fun _ _ h _ => h, rfl, rfl, rfl⟩

theorem State.Spared.trans (h : s.Spared t b) (h' : t.Spared u b) : s.Spared u b where
  ctx := h'.ctx.trans h.ctx
  frames d e he hten := h'.frames d e (h.frames d e he hten) hten
  funcs n x hx hof := h'.funcs n x (h.funcs n x hx hof) hof
  marks := h'.marks.trans h.marks
  work := h'.work.trans h.work
  cores := h'.cores.trans h.cores

/-- Another tenant's leaving spares it. -/
theorem State.spared_tenantLeaves (h : c ≠ b) : s.Spared (s.tenantLeaves c) b := by
  unfold State.tenantLeaves
  split
  · exact .refl s b
  · refine ⟨State.ctx_tenantOut_ne h, fun d e he hten => ?_, fun n x hx hof => ?_, State.accessed_tenantOut_ne h, rfl, rfl⟩
    · rw [State.fitOf_tenantOut, he]
      simp [FitEntry.unmarked, hten, h.symm]
    · have hother : x.of c = false := by
        simp only [Func.of, Bool.and_eq_true, beq_iff_eq] at hof
        simp [Func.of, hof, h.symm]
      rw [State.func_tenantOut, hx]
      simp [Func.stilled, hother]

theorem State.spared_foldl_tenantLeaves {cs : List Nat} (h : ∀ c ∈ cs, c ≠ b) (s : State) :
    s.Spared (cs.foldl State.tenantLeaves s) b :=
  List.foldlRecOn (motive := fun t : State => s.Spared t b) cs _ (.refl s b) fun _ ht c hc =>
    ht.trans (State.spared_tenantLeaves (h c hc))

/-- Nothing is left of a tenant on a core, and no core is to give up its work for it. -/
def State.Gone (s : State) (b : Nat) : Prop := s.tenantIn b = false ∧ ∀ k ∈ s.allCores, k.stopFor ≠ some b

theorem State.tenantLeaves_of_gone (h : s.Gone b) : s.tenantLeaves b = s.tenantOut b := by
  obtain ⟨hin, hstop⟩ := h
  refine if_neg ?_
  simpa [hin] using hstop

theorem State.tenantLeaves_of_not_gone (h : ¬ s.Gone b) : s.tenantLeaves b = s := by
  refine if_pos ?_
  simp only [State.Gone, not_and_or, Bool.not_eq_false, not_forall, not_not] at h
  simpa using h

theorem State.Spared.gone_iff (h : s.Spared t b) : t.Gone b ↔ s.Gone b := by rw [State.Gone, State.Gone, h.work, h.cores]

/-- A switch-out between steps that spare the tenant. -/
theorem State.SwitchedOut.of_spared (h : s.Spared t b) (hout : t.SwitchedOut u b) (h' : u.Spared v b) : s.SwitchedOut v b := by
  obtain ⟨haway, hset, hframes, hfuncs⟩ := hout
  refine ⟨by rw [h'.ctx, haway], by rw [h'.ctx, hset, h.marks], fun d e he hten => ?_, fun n x hx hof hrun => ?_⟩
  · exact h'.frames d _ (hframes d e (h.frames d e he hten) hten) hten
  · exact h'.funcs n _ (hfuncs n x (h.funcs n x hx hof) hof hrun) hof

/-! ## The tenants that leave (24 R343, R344) -/

/-- A tenant that is here and that no hall runs. -/
def State.mayLeave (s : State) (b : Nat) : Bool := (s.ctx b).presence == .here && !s.dev.hallRun.contains (some b)

theorem State.tenantsLeave_eq (s : State) : s.tenantsLeave = ((List.range 16).filter s.mayLeave).foldl State.tenantLeaves s := rfl

theorem State.switchedOut_tenantsLeave (hb : b < 16) (hmay : s.mayLeave b = true) (hgone : s.Gone b) :
    s.SwitchedOut s.tenantsLeave b := by
  have hmem : b ∈ (List.range 16).filter s.mayLeave := List.mem_filter.mpr ⟨List.mem_range.mpr hb, hmay⟩
  have hnodup : ((List.range 16).filter s.mayLeave).Nodup := List.nodup_range.filter _
  obtain ⟨as, cs, hsplit⟩ := List.append_of_mem hmem
  rw [hsplit, List.nodup_append] at hnodup
  obtain ⟨-, hcs, hdisj⟩ := hnodup
  have hbefore := State.spared_foldl_tenantLeaves (fun c hc => hdisj c hc b List.mem_cons_self) s
  rw [State.tenantsLeave_eq, hsplit, List.foldl_append, List.foldl_cons, State.tenantLeaves_of_gone (hbefore.gone_iff.mpr hgone)]
  exact .of_spared hbefore (State.switchedOut_tenantOut hb)
    (State.spared_foldl_tenantLeaves (fun c hc => by rintro rfl; exact (List.nodup_cons.mp hcs).1 hc) _)

theorem State.spared_tenantsLeave (h : ¬ (s.mayLeave b = true ∧ s.Gone b)) : s.Spared s.tenantsLeave b := by
  rw [State.tenantsLeave_eq]
  refine List.foldlRecOn (motive := fun t : State => s.Spared t b) _ _ (.refl s b) fun t ht c hc => ?_
  by_cases hcb : c = b
  · subst hcb
    have hstays : ¬ t.Gone c := fun hgone => h ⟨(List.mem_filter.mp hc).2, ht.gone_iff.mp hgone⟩
    rwa [State.tenantLeaves_of_not_gone hstays]
  · exact ht.trans (State.spared_tenantLeaves hcb)

theorem State.debt_tenantOut (s : State) (c b : Nat) : ((s.tenantOut c).ctx b).debt = (s.ctx b).debt := by
  by_cases hcb : c = b
  · subst hcb
    rw [State.ctx_tenantOut]
    by_cases hc : c < 16
    · rw [State.ctx_modCtx hc]
    · rw [State.ctx, State.modCtx_ctxs, vset_oob _ _ (Nat.not_lt.mp hc), State.ctx]
  · rw [State.ctx_tenantOut_ne hcb]

/-- Leaving settles no DEBT. -/
theorem State.debt_tenantsLeave (s : State) (b : Nat) : (s.tenantsLeave.ctx b).debt = (s.ctx b).debt := by
  refine List.foldlRecOn (motive := fun t : State => (t.ctx b).debt = (s.ctx b).debt) _ _ rfl fun t ht c _ => ?_
  unfold State.tenantLeaves
  split
  · exact ht
  · rw [State.debt_tenantOut, ht]

/-! ## DEBT of the borrowers (23 R321) -/

/-- The contexts with DEBT raised of the tenant that a hall runs, where it borrows. -/
def raiseDebt (cs : Vector Ctx 16) (d : Option Nat × Bool) : Vector Ctx 16 :=
  match d with
  | (some t, true) => vset cs t { vget cs t Ctx.none with debt := (vget cs t Ctx.none).debt + 1 }
  | _ => cs

theorem vget_raiseDebt (cs : Vector Ctx 16) (d : Option Nat × Bool) (hb : b < 16) : vget (raiseDebt cs d) b Ctx.none =
    { vget cs b Ctx.none with debt := (vget cs b Ctx.none).debt + if d = (some b, true) then 1 else 0 } := by
  rcases d with ⟨_ | t, _ | _⟩
  · rfl
  · rfl
  · simp [raiseDebt]
  · rw [raiseDebt]
    by_cases ht : t = b
    · rw [ht, vget_vset _ _ _ _ hb, if_pos rfl]
    · rw [vget_vset_ne _ _ _ ht, if_neg (by simpa using ht), Nat.add_zero]

theorem vget_foldl_raiseDebt (ds : List (Option Nat × Bool)) (hb : b < 16) (cs : Vector Ctx 16) :
    vget (ds.foldl raiseDebt cs) b Ctx.none =
      { vget cs b Ctx.none with debt := (vget cs b Ctx.none).debt + ds.count (some b, true) } := by
  induction ds generalizing cs with
  | nil => rfl
  | cons d ds ih =>
    rw [List.foldl_cons, ih, vget_raiseDebt cs d hb, List.count_cons]
    simp only [beq_iff_eq, Ctx.mk.injEq, true_and, and_true]
    omega

/-! ## A slice (23 R321, 24 R343 to R345) -/

/-- What each hall does in the next slice. -/
def State.plans (s : State) : List (Option Nat × Bool) := (List.range 32).map fun h => s.decide_ h s.dev.slice

/-- The device record once the next slice has begun on every hall. -/
def State.nextSlice (s : State) : Dev :=
  let at_ := fun (h : Nat) => (s.plans[h]?).getD (none, false)
  { s.dev with
    slice := s.dev.slice + 1
    hallRun := Vector.ofFn fun h => (at_ h.val).1
    hallBorrow := Vector.ofFn fun h => (at_ h.val).2 }

/-- The contexts once DEBT of the slice's borrowers has risen. -/
def State.charged (s : State) : Vector Ctx 16 := s.plans.foldl raiseDebt s.ctxs

/-- A slice start by parts: the halls, DEBT, and the tenants that leave. -/
theorem exec_sliceStart (s : State) : exec .sliceStart s =
    if !s.dev.sliceDue then .next s else .next (State.tenantsLeave { s with dev := s.nextSlice, ctxs := s.charged }) := by
  have hfold : ∀ (ds : List (Option Nat × Bool)) (u : State), (ds.foldl (fun u d => match d with
      | (some t, true) => u.modCtx t fun c => { c with debt := c.debt + 1 }
      | _ => u) u) = { u with ctxs := ds.foldl raiseDebt u.ctxs } := by
    intro ds
    induction ds with
    | nil => exact fun u => rfl
    | cons d ds ih =>
      intro u
      rw [List.foldl_cons, ih, List.foldl_cons]
      unfold raiseDebt
      split <;> rfl
  exact congrArg (fun r : State => (if !s.dev.sliceDue then .next s else .next r.tenantsLeave : Res))
    (hfold s.plans { s with dev := s.nextSlice })

theorem vget_ofFn {α : Type} {n : Nat} (f : Fin n → α) (d : α) {i : Nat} (h : i < n) : vget (Vector.ofFn f) i d = f ⟨i, h⟩ := by
  simp [vget, h]

theorem vector_contains_iff_vget {α : Type} [BEq α] [LawfulBEq α] {n : Nat} {xs : Vector α n} {x : α} (d : α) :
    xs.contains x = true ↔ ∃ i < n, vget xs i d = x := by
  rw [Vector.contains_iff_mem, Vector.mem_iff_getElem]
  constructor
  · rintro ⟨i, hi, rfl⟩
    exact ⟨i, hi, dif_pos hi⟩
  · rintro ⟨i, hi, rfl⟩
    exact ⟨i, hi, (dif_pos hi).symm⟩

theorem State.plans_get (s : State) {h : Nat} (hh : h < 32) : (s.plans[h]?).getD (none, false) = s.decide_ h s.dev.slice := by
  simp [State.plans, hh]

theorem State.nextSlice_hallRun (s : State) {h : Nat} (hh : h < 32) :
    vget s.nextSlice.hallRun h none = (s.decide_ h s.dev.slice).1 :=
  (vget_ofFn _ _ hh).trans (congrArg Prod.fst (s.plans_get hh))

theorem State.nextSlice_hallBorrow (s : State) {h : Nat} (hh : h < 32) :
    vget s.nextSlice.hallBorrow h false = (s.decide_ h s.dev.slice).2 :=
  (vget_ofFn _ _ hh).trans (congrArg Prod.snd (s.plans_get hh))

theorem State.count_plans (s : State) (d : Option Nat × Bool) :
    s.plans.count d = ((List.range 32).filter fun h => s.decide_ h s.dev.slice == d).length := by
  rw [State.plans, List.count, List.countP_map, List.countP_eq_length_filter]
  rfl

/-- What runs on a hall, and whether it borrows, by its entry and who has work for it (23 R321). -/
theorem State.decide_cases (s : State) (h sl : Nat) :
    let e := s.grantAt h sl
    let wants := fun (b : Nat) => s.residentOn h b || s.placeableOn h b
    ((e.v = false ∨ vget s.dev.revoked h false = true) → s.decide_ h sl = (none, false)) ∧
      (e.v = true → vget s.dev.revoked h false = false →
        (wants e.prim = true → s.decide_ h sl = (some e.prim, false)) ∧
        (wants e.prim = false → e.bv = true → wants e.borr = true → s.decide_ h sl = (some e.borr, true)) ∧
        (wants e.prim = false → (e.bv = false ∨ wants e.borr = false) → s.decide_ h sl = (none, false))) := by
  intro e wants
  have hdecide : s.decide_ h sl = if !e.v || vget s.dev.revoked h false then (none, false)
      else if wants e.prim then (some e.prim, false) else if e.bv && wants e.borr then (some e.borr, true) else (none, false) := rfl
  rw [hdecide]
  refine ⟨fun hno => if_pos (by rcases hno with hno | hno <;> simp [hno]), fun hv hrev => ?_⟩
  rw [if_neg (by simp [hv, hrev])]
  refine ⟨fun hp => if_pos hp, fun hp hbv hb => ?_, fun hp hno => ?_⟩
  · rw [if_neg (by simp [hp]), if_pos (by simp [hbv, hb])]
  · rw [if_neg (by simp [hp]), if_neg (by rcases hno with hno | hno <;> simp [hno])]

/-- Who may leave when a slice has begun: a tenant that was here and to which no hall goes. -/
theorem State.mayLeave_iff {d : Dev} {cs : Vector Ctx 16} (hctx : (vget cs b Ctx.none).presence = (s.ctx b).presence) :
    State.mayLeave { s with dev := d, ctxs := cs } b = true ↔
      (s.ctx b).presence = .here ∧ ∀ h < 32, vget d.hallRun h none ≠ some b := by
  have hruns := vector_contains_iff_vget (xs := d.hallRun) (x := some b) none
  rw [State.mayLeave, Bool.and_eq_true, beq_iff_eq, Bool.not_eq_true', ← Bool.not_eq_true, hruns]
  simp only [State.ctx] at hctx ⊢
  rw [hctx]
  simp

theorem State.gone_iff (s : State) (b : Nat) :
    s.Gone b ↔ (∀ w ∈ s.wgsOf b, w.place ≠ .resident) ∧ ∀ k ∈ s.allCores, k.stopFor ≠ some b := by
  simp [State.Gone, State.tenantIn]

/-- The tenant that the start of a slice, from s to t, switches out: it was here, no hall goes to it, and nothing of it is left. -/
def State.LeavesAt (s t : State) (b : Nat) : Prop :=
  ((s.ctx b).presence = .here ∧ ∀ h < 32, vget t.dev.hallRun h none ≠ some b) ∧ s.Gone b

/-- Tenants leave once the halls of a slice and DEBT are set: what is left as it was, who leaves, who stays, and DEBT. -/
theorem State.tenantsLeave_after (s : State) (d : Dev) (cs : Vector Ctx 16) :
    ∃ t c f fn, State.tenantsLeave { s with dev := d, ctxs := cs } = t ∧ t = { s with dev := d, ctxs := c, fit := f, funcs := fn } ∧
      ∀ b < 16, (t.ctx b).debt = (vget cs b Ctx.none).debt ∧
        (State.mayLeave { s with dev := d, ctxs := cs } b = true → s.Gone b → s.SwitchedOut t b) ∧
        (¬ (State.mayLeave { s with dev := d, ctxs := cs } b = true ∧ s.Gone b) → t.ctx b = vget cs b Ctx.none ∧
          ∀ d e, s.fitOf d = some e → e.tenant = b → t.fitOf d = some e) := by
  refine ⟨_, _, _, _, rfl, State.tenantsLeave_frame _, fun b hb => ⟨State.debt_tenantsLeave _ b, fun hmay hgone => ?_, fun hstays => ?_⟩⟩
  · exact State.switchedOut_tenantsLeave hb hmay hgone
  · obtain ⟨hctx, hframes, -⟩ := State.spared_tenantsLeave hstays
    exact ⟨hctx, hframes⟩

/-- A slice that has begun: its halls, the tenants that leave, those that stay, and DEBT. -/
theorem sliceBegins (hslice : s.dev.slice < 4) (htime : 100000 * s.dev.period + 25000 * s.dev.slice ≤ s.dev.time.toNat) :
    ∃ t, exec .sliceStart s = .next t ∧
      t = { s with
        ctxs := t.ctxs, fit := t.fit, funcs := t.funcs
        dev := { s.dev with slice := s.dev.slice + 1, hallRun := t.dev.hallRun, hallBorrow := t.dev.hallBorrow } } ∧
      (∀ h < 32, vget t.dev.hallRun h none = (s.decide_ h s.dev.slice).1 ∧ vget t.dev.hallBorrow h false = (s.decide_ h s.dev.slice).2) ∧
      ∀ b < 16, (t.ctx b).debt = (s.ctx b).debt + s.plans.count (some b, true) ∧
        (s.LeavesAt t b → s.SwitchedOut t b) ∧
        (¬ s.LeavesAt t b →
          t.ctx b = { s.ctx b with debt := (t.ctx b).debt } ∧ ∀ d e, s.fitOf d = some e → e.tenant = b → t.fitOf d = some e) := by
  have hdue : ¬ (!s.dev.sliceDue) = true := by simp [Dev.sliceDue, hslice, htime]
  obtain ⟨t, c, f, fn, ht, hframe, hleave⟩ := s.tenantsLeave_after s.nextSlice s.charged
  have hexec : exec .sliceStart s = .next t := ((exec_sliceStart s).trans (if_neg hdue)).trans (congrArg _ ht)
  have hdev : t.dev = s.nextSlice := by rw [hframe]
  refine ⟨t, hexec, ?_, ?_, fun b hb => ?_⟩
  · rw [hframe]
    rfl
  · rw [hdev]
    exact fun h hh => ⟨s.nextSlice_hallRun hh, s.nextSlice_hallBorrow hh⟩
  · obtain ⟨hdebt, hout, hstay⟩ := hleave b hb
    have hctx : vget s.charged b Ctx.none = { s.ctx b with debt := (s.ctx b).debt + s.plans.count (some b, true) } :=
      vget_foldl_raiseDebt s.plans hb s.ctxs
    rw [hctx] at hdebt hstay
    rw [State.LeavesAt, hdev, ← State.mayLeave_iff (s := s) (cs := s.charged) (by rw [hctx])]
    refine ⟨hdebt, fun ⟨hmay, hgone⟩ => hout hmay hgone, fun h => ?_⟩
    obtain ⟨hkeep, hframes⟩ := hstay h
    exact ⟨by rw [hdebt, hkeep], hframes⟩

/-! ## Ticks and periods (08 R134, 23 R319, R320) -/

theorem exec_heartbeatTick_idle (h : s.due = none) : exec .heartbeatTick s = .next { s with dev := { s.dev with
    tick := s.dev.tick + 1
    time := s.dev.time + BitVec.ofNat 64 ((s.dev.frac + 128000) / s.dev.mhz)
    frac := (s.dev.frac + 128000) % s.dev.mhz } } := if_neg (by simp [h])

theorem exec_heartbeatTick_due (h : s.due ≠ none) : exec .heartbeatTick s = .next s := if_pos (Option.isSome_iff_ne_none.mpr h)

/-- The device record at the begin of a period, before the tables. -/
def Dev.nextPeriod (d : Dev) : Dev := { d with period := d.time.toNat / 100000, slice := 0 }

theorem exec_periodBoundary_due (h : s.dev.periodDue = true) : exec .periodBoundary s = .next { s with
    ctxs := s.ctxs.map fun c => { c with asked := c.region }
    dev := if s.dev.marked then
        { s.dev.nextPeriod with grants := s.dev.spareTable, spareTable := s.dev.grants, marked := false }
      else { s.dev.nextPeriod with stale := s.dev.stale + 1 } } := if_neg (by simp [h])

theorem exec_periodBoundary_early (h : s.dev.time.toNat / 100000 ≤ s.dev.period) : exec .periodBoundary s = .next s := by
  have hdue : s.dev.periodDue = false := decide_eq_false (Nat.not_lt.mpr h)
  exact if_pos (by rw [hdue]; rfl)

theorem exec_sliceStart_early (h : 4 ≤ s.dev.slice ∨ s.dev.time.toNat < 100000 * s.dev.period + 25000 * s.dev.slice) :
    exec .sliceStart s = .next s := by
  have hdue : s.dev.sliceDue = false := by
    rw [Dev.sliceDue, Bool.and_eq_false_iff, decide_eq_false_iff_not, decide_eq_false_iff_not]
    omega
  rw [exec_sliceStart, hdue]
  rfl

/-- A step at a time: the tick, the boundary, the slice. -/
theorem timeAndSlices : Claims.TimeAndSlices := by
  intro s
  refine ⟨fun h => ⟨_, exec_heartbeatTick_idle h, rfl, rfl, rfl⟩, exec_heartbeatTick_due, fun h => ?_, exec_periodBoundary_early,
    exec_sliceStart_early, fun hslice htime => ?_⟩
  · have hexec := exec_periodBoundary_due h
    exact ⟨fun hm => by rw [hexec, if_pos hm]; rfl, fun hm => by rw [hexec, if_neg (by simp [hm])]; rfl⟩
  · obtain ⟨t, hexec, hrest, hhalls, htenants⟩ := sliceBegins hslice htime
    refine ⟨t, hexec, hrest, fun b hb hhere hwork hstop hruns => ?_, fun b hb hstays => ?_, fun h hh => ?_, fun b hb => ?_⟩
    · obtain ⟨-, hout, -⟩ := htenants b hb
      exact hout ⟨⟨hhere, hruns⟩, (s.gone_iff b).mpr ⟨hwork, hstop⟩⟩
    · obtain ⟨-, -, hstay⟩ := htenants b hb
      refine hstay ?_
      rintro ⟨⟨hhere, hruns⟩, hgone⟩
      obtain ⟨hwork, hstop⟩ := (s.gone_iff b).mp hgone
      rcases hstays with haway | ⟨w, hw, hin⟩ | ⟨k, hk, hk'⟩ | ⟨h, hh, hrun⟩
      · exact haway hhere
      · exact hwork w hw hin
      · exact hstop k hk hk'
      · exact hruns h hh hrun
    · obtain ⟨hrun, hborrow⟩ := hhalls h hh
      obtain ⟨hnone, hgiven⟩ := s.decide_cases h s.dev.slice
      rw [hrun, hborrow]
      refine ⟨fun hno => by rw [hnone hno], fun hv hrev => ?_⟩
      obtain ⟨hprim, hborr, hnobody⟩ := hgiven hv hrev
      exact ⟨fun hp => by rw [hprim hp]; exact ⟨rfl, rfl⟩, fun hp hbv hb => by rw [hborr hp hbv hb]; exact ⟨rfl, rfl⟩,
        fun hp hno => by rw [hnobody hp hno]⟩
    · obtain ⟨hdebt, -⟩ := htenants b hb
      rw [hdebt, s.count_plans]

/-! ## Timers (23 R328) -/

/-- Bytes that the device reads are marked in the FIT alone. -/
theorem State.touchSpan_frame (s : State) (t va n : Nat) : ∃ es, s.touchSpan t va n = { s with fit := es } := by
  refine List.foldlRecOn (motive := fun u : State => ∃ es, u = { s with fit := es }) _ _ ⟨_, rfl⟩ ?_
  rintro - ⟨es, rfl⟩ p -
  split
  · exact ⟨_, rfl⟩
  · exact ⟨_, rfl⟩

/-- The armed packets after the release of one. -/
def Timer.released (p : Timer) (now : DWord) (miss : BitVec 16) (ts : List Timer) : List Timer :=
  if p.period = 0 then ts.filter fun x => !(x.tenant == p.tenant && x.num == p.num)
  else ts.map fun x => if x.tenant == p.tenant && x.num == p.num then
    { x with missed := miss, time := BitVec.ofNat 64 (p.time.toNat + (p.late now + 1) * p.period.toNat) } else x

/-- A packet goes on: memory with its marks and counts, and the armed packets. -/
theorem State.advance_frame (s : State) (p : Timer) (skipped : Bool) : ∃ m es tr fr miss, s.advance p skipped =
    { s with mem := m, fit := es, tree := tr, free := fr, dev := { s.dev with timers := p.released s.dev.time miss s.dev.timers } } := by
  unfold State.advance
  lift_lets
  extract_lets m miss u
  have hu : ∃ m es tr fr, u = { s with mem := m, fit := es, tree := tr, free := fr } := by
    unfold u
    split
    · obtain ⟨m, es, tr, fr, h, -⟩ := s.batch_frame _
      exact ⟨m, es, tr, fr, h⟩
    · exact ⟨_, _, _, _, rfl⟩
  clear_value u
  obtain ⟨m, es, tr, fr, rfl⟩ := hu
  refine ⟨m, es, tr, fr, miss, ?_⟩
  unfold Timer.released
  split <;> rfl

theorem Timer.released_single {p : Timer} {now : DWord} {miss : BitVec 16} {ts : List Timer} (h : p.period = 0) :
    ∀ y ∈ p.released now miss ts, ¬ (y.tenant = p.tenant ∧ y.num = p.num) := by
  intro y hy
  rw [Timer.released, if_pos h] at hy
  exact not_and_or.mpr (by simpa using (List.mem_filter.mp hy).2)

theorem Timer.released_periodic {p : Timer} {now : DWord} {miss : BitVec 16} {ts : List Timer} (h : p.period ≠ 0) (hp : p ∈ ts) :
    ∃ y ∈ p.released now miss ts, y.tenant = p.tenant ∧ y.num = p.num ∧
      y.time = BitVec.ofNat 64 (p.time.toNat + ((now.toNat - p.time.toNat) / p.period.toNat + 1) * p.period.toNat) := by
  rw [Timer.released, if_neg h]
  have hlate : p.late now = (now.toNat - p.time.toNat) / p.period.toNat := if_neg h
  refine ⟨_, List.mem_map_of_mem hp, ?_⟩
  simp [hlate]

theorem State.queueOf_modQueue {b q : Nat} {x : Queue} {f : Queue → Queue} (hten : ∀ y, (f y).tenant = y.tenant)
    (hq : ∀ y, (f y).q = y.q) (h : s.queueOf b q = some x) : (s.modQueue b q f).queueOf b q = some (f x) := by
  have hkey : ∀ y : Queue, ((if y.tenant == b && y.q == q then f y else y).tenant == b &&
      (if y.tenant == b && y.q == q then f y else y).q == q) = (y.tenant == b && y.q == q) := by
    intro y
    split <;> simp [hten, hq]
  have hx : (x.tenant == b && x.q == q) = true := List.find?_some (p := fun y : Queue => y.tenant == b && y.q == q) h
  rw [State.queueOf, State.modQueue_queues, List.find?_map]
  simp only [Function.comp_def, hkey]
  rw [show s.queues.find? (fun y => y.tenant == b && y.q == q) = some x from h, Option.map_some, if_pos hx]

/-- A command accepted: its queue holds it, and of the rest the journal goes on. -/
theorem State.acceptCmd_queueOf {c : CmdRef} {x : Queue} (fn : Nat) (ws : List DWord) (h : s.queueOf c.tenant c.queue = some x) :
    ∃ n, (s.acceptCmd c fn ws).queueOf c.tenant c.queue = some { x with cmds := x.cmds ++ [⟨c, n, ws⟩] } :=
  ⟨_, State.queueOf_modQueue (fun _ => rfl) (fun _ => rfl) h⟩

/-- A command made of a template, as it is accepted when its packet is released. -/
def Timer.cmdRef (p : Timer) (bs : List Byte) : CmdRef :=
  let h := wordAt (dwords (bs.take 64)) 0
  ⟨p.tenant, p.queue, field h 48 16, field h 32 16, p.rindex, some (p.num, p.tmpl)⟩

/-- A packet released with the bytes of its template: the journal says so, and the command is accepted. -/
def State.release (s : State) (p : Timer) (bs : List Byte) : State :=
  ((s.touchSpan p.tenant p.tmpl 96).append (JEntry.plain .release p.tenant p.queue p.func p.rindex)).acceptCmd (p.cmdRef bs) p.func
    (dwords (bs.take 64))

/-- A release adds its command to its queue, and touches neither the time nor the armed packets. -/
theorem State.release_queueOf {p : Timer} {x : Queue} (bs : List Byte) (h : s.queueOf p.tenant p.queue = some x) :
    (∃ n, (s.release p bs).queueOf p.tenant p.queue = some { x with cmds := x.cmds ++ [⟨p.cmdRef bs, n, dwords (bs.take 64)⟩] }) ∧
      (s.release p bs).dev.time = s.dev.time ∧ (s.release p bs).dev.timers = s.dev.timers := by
  obtain ⟨es, hes⟩ := s.touchSpan_frame p.tenant p.tmpl 96
  rw [State.release, hes]
  exact ⟨State.acceptCmd_queueOf (c := p.cmdRef bs) p.func _ h, rfl, rfl⟩

section
variable {p : Timer} {x : Queue}
  (hp : s.dev.timers.find? (fun y => y.tenant == p.tenant && y.num == p.num) = some p) (htime : p.time.toNat ≤ s.dev.time.toNat)
  (hruns : ((s.func p.func).any fun f => f.run == .paused) = false) (hpower : s.dev.pstate ≠ .d3hot)
  (hx : s.queueOf p.tenant p.queue = some x)
include hp htime hruns hpower hx

theorem exec_timerRelease_skip (hen : x.en = false) : exec (.timerRelease p.tenant p.num) s = .next (s.skipRelease p) := by
  show execTimerRelease p.tenant p.num s = _
  simp only [execTimerRelease, hp, hruns, hx, hen, Nat.not_lt.mpr htime, beq_eq_false_iff_ne.mpr hpower, decide_false, Bool.or_self,
    Bool.false_eq_true, if_false, Bool.not_false, if_true]

theorem exec_timerRelease_release {bs : List Byte} (hen : x.en = true) (hspan : s.span p.tenant p.tmpl 96 false true = .ok bs)
    (hfree : ((pagesOf p.tmpl 96).any fun a => (s.walk p.tenant a).any fun w => (s.fitOf w.1).any fun e => e.owned) = false) :
    exec (.timerRelease p.tenant p.num) s = .next ((s.release p bs).advance p false) := by
  show execTimerRelease p.tenant p.num s = _
  simp only [execTimerRelease, hp, hruns, hx, hen, hspan, hfree, Nat.not_lt.mpr htime, beq_eq_false_iff_ne.mpr hpower, decide_false,
    Bool.or_self, Bool.false_eq_true, if_false, Bool.not_true]
  rfl

end

/-- The release, and the release skipped at a queue that is not enabled. -/
theorem timerReleases : Claims.TimerReleases := by
  intro s p x hp htime hruns hpower hx
  refine ⟨fun bs hen hspan hfree => ?_, fun hen => ?_⟩
  · have hexec := exec_timerRelease_release hp htime hruns hpower hx hen hspan hfree
    obtain ⟨⟨n, hqueue⟩, hnow, htimers⟩ := s.release_queueOf bs hx
    obtain ⟨m, es, tr, fr, miss, hadvance⟩ := (s.release p bs).advance_frame p false
    rw [hadvance, hnow, htimers] at hexec
    exact ⟨_, _, hexec, hqueue, rfl, rfl, rfl, rfl, Timer.released_single, fun h => Timer.released_periodic h (List.mem_of_find?_eq_some hp)⟩
  · have hexec := exec_timerRelease_skip hp htime hruns hpower hx hen
    obtain ⟨m, es, tr, fr, miss, hadvance⟩ := (s.append _).advance_frame p true
    rw [State.skipRelease, hadvance] at hexec
    exact ⟨_, hexec, rfl, ⟨_, List.mem_append_right _ (List.mem_singleton_self _), rfl, rfl, rfl, rfl⟩, Timer.released_single⟩

/-- Settles O52: tenants leave one by one, and each one's leaving spares the others; a release changes its queue, the journal and its
packet. -/
theorem timeSlicesTimers : Obligations.TimeSlicesTimers := ⟨timeAndSlices, timerReleases⟩

end Sys2Proof.Machine
end

section
/-! PROOFS. Every operation keeps the records of the containment table under the indexes 1 to n (10 R143). Counts, parents and kinds change
under the index that a record has; the list of the indexes itself changes where records are enrolled (R145), where they arrive by migration
(28 R375), and where the device loses its power. Here: the order as a fact about that list, and the operations of the tree. -/
namespace Sys2Proof.Machine

/-! ## The order of the table -/

/-- A list of indexes that are 1 to its length in some order, and no more than the table holds. -/
def IndexOrder (is : List Nat) : Prop := is.Perm (List.range' 1 is.length) ∧ is.length ≤ Config.treeRecords

/-- The records of the table are in order; a fact about `tree` alone. -/
def State.Indexed (s : State) : Prop := IndexOrder (s.tree.map TreeRec.index)

theorem State.indexed_iff {s : State} : s.Indexed ↔ s.TreeIndexed := by
  unfold State.Indexed IndexOrder
  rw [List.length_map]
  constructor
  · rintro ⟨hperm, hfits⟩
    refine ⟨hperm.nodup_iff.mpr List.nodup_range', fun r hr => ?_, hfits⟩
    have hmem := hperm.mem_iff.mp (List.mem_map_of_mem (f := TreeRec.index) hr)
    rw [List.mem_range'_1] at hmem
    omega
  · rintro ⟨honce, hrange, hfits⟩
    refine ⟨(List.subperm_of_subset honce fun i hi => ?_).perm_of_length_le (by simp), hfits⟩
    obtain ⟨r, hr, rfl⟩ := List.mem_map.mp hi
    have := hrange r hr
    rw [List.mem_range'_1]
    omega

theorem TreeRec.map_index_map {f : TreeRec → TreeRec} (hf : ∀ r, (f r).index = r.index) (rs : List TreeRec) :
    (rs.map f).map TreeRec.index = rs.map TreeRec.index := by
  simp [hf]

theorem map_index_heights (rs : List TreeRec) : (heights rs).map TreeRec.index = rs.map TreeRec.index :=
  TreeRec.map_index_map (fun _ => by rfl) rs

theorem map_index_depths (rs : List TreeRec) : (depths rs).map TreeRec.index = rs.map TreeRec.index := by
  refine TreeRec.map_index_map (fun r => ?_) rs
  split
  · rfl
  · split <;> rfl

namespace State.Indexed

variable {s t : State}

/-- The list of the indexes is what counts. -/
theorem of_indexes (h : s.Indexed) (ht : t.tree.map TreeRec.index = s.tree.map TreeRec.index) : t.Indexed := by
  unfold State.Indexed
  rwa [ht]

theorem mapTree {f : TreeRec → TreeRec} (h : s.Indexed) (hf : ∀ r, (f r).index = r.index) :
    ({ s with tree := s.tree.map f } : State).Indexed :=
  h.of_indexes (TreeRec.map_index_map hf s.tree)

theorem modTree {i : Nat} {f : TreeRec → TreeRec} (h : s.Indexed) (hf : ∀ r, (f r).index = r.index := by intro _; rfl) :
    (s.modTree i f).Indexed := by
  refine h.mapTree fun r => ?_
  split
  · exact hf r
  · rfl

/-- What else the state holds does not count. -/
theorem others {g : Group} {wg : Workgroup} {ln : Launch} {core : Core} {slot : Bool} {groups : List Group} {wgs : List Workgroup}
    {launches : List Launch} {cores : List Core} {mem hmem : Mem} {flash : List ((Nat × Nat) × Mem)} {fit : List FitEntry}
    {jobs : List Job} {porters : List PorterReq} {resreqs : List ResReq} {ctxs : Vector Ctx 16} {funcs : List Func} {queues : List Queue}
    {nss : Vector Namespace 16} {dev : Dev} {turns : List Turn} {free : Nat} (h : s.Indexed) :
    State.Indexed ⟨g, wg, ln, core, slot, groups, wgs, launches, cores, mem, hmem, flash, fit, s.tree, jobs, porters, resreqs, ctxs, funcs,
      queues, nss, dev, turns, free⟩ := h

theorem foldl {α : Type} {f : State → α → State} {xs : List α} (h : s.Indexed)
    (hf : ∀ (s : State) x, s.Indexed → (f s x).Indexed) : (xs.foldl f s).Indexed :=
  List.foldlRecOn xs f h fun s h x _ => hf s x h

theorem ite {c : Prop} [Decidable c] (hs : s.Indexed) (ht : t.Indexed) : (if c then s else t).Indexed := by
  split
  · exact hs
  · exact ht

/-! ## Counts (10 R148, R149) -/

theorem raiseTile {d : Nat} (h : s.Indexed) : (s.raiseTile d).Indexed := by
  unfold State.raiseTile
  split
  · exact h
  · exact .ite h h.modTree.others

theorem bump {hd : Word} {n : Nat} (h : s.Indexed) : (s.bump hd n).Indexed := by
  unfold State.bump
  split
  · exact h.modTree
  · exact h

theorem push {hd : Word} (h : s.Indexed) : (s.push hd).Indexed := by
  unfold State.push
  split
  · exact h
  · exact .ite h h.bump.modTree

theorem pushUp {hd : Word} (h : s.Indexed) : (s.pushUp hd).Indexed :=
  foldl (foldl h fun _ _ h => h.foldl fun _ _ h => h.push) fun _ _ h => h.push

theorem drainTree {t : Nat} (h : s.Indexed) : (s.drainTree t).Indexed := h.foldl fun _ _ h => h.foldl fun _ _ h => h.push

/-! ## Shape, withdrawal and moves (10 R144, R146, R154) -/

theorem shapeTree (h : s.Indexed) : s.shapeTree.Indexed := by
  unfold State.shapeTree
  refine h.of_indexes ?_
  exact List.foldlRecOn (motive := fun rs => rs.map TreeRec.index = s.tree.map TreeRec.index) _ _ rfl fun rs hrs _ _ =>
    (map_index_depths _).trans ((map_index_heights rs).trans hrs)

theorem withdraw {m : TreeRec} (h : s.Indexed) : OkHas State.Indexed (s.withdraw m) :=
  .ite trivial h.push.bump.others.modTree.shapeTree

theorem reparentTo {m p : TreeRec} (h : s.Indexed) : OkHas State.Indexed (s.reparentTo m p) :=
  .ite trivial (.ite trivial (.ite trivial h.pushUp.bump.bump.modTree.shapeTree))

theorem freeTree {t : Nat} (h : s.Indexed) : (s.freeTree t).Indexed := by
  refine h.mapTree fun r => ?_
  split <;> rfl

end State.Indexed

/-! ## New records (10 R143, R145, R147) -/

theorem IndexOrder.of_perm {is js : List Nat} (h : IndexOrder is) (hperm : js.Perm is) : IndexOrder js := by
  obtain ⟨horder, hfits⟩ := h
  rw [IndexOrder, hperm.length_eq]
  exact ⟨hperm.trans horder, hfits⟩

/-- A table that grows by the next indexes stays in order while they fit. -/
theorem IndexOrder.grow {is : List Nat} {n : Nat} (h : IndexOrder is) (hroom : is.length + n ≤ Config.treeRecords) :
    IndexOrder (is ++ List.range' (is.length + 1) n) := by
  obtain ⟨horder, -⟩ := h
  rw [IndexOrder, List.length_append, List.length_range', ← List.range'_append_1, Nat.add_comm 1]
  exact ⟨horder.append_right _, hroom⟩

/-- Records in use. -/
def State.inUse (s : State) : Nat := (s.tree.filter fun r => r.kind != .free).length

/-- A new record stands at the index of a free one, or behind all of them when all are in use. -/
theorem State.freeIndex_cases (s : State) :
    s.freeIndex ∈ s.tree.map TreeRec.index ∨ (s.inUse = s.tree.length ∧ s.freeIndex = s.tree.length + 1) := by
  unfold State.freeIndex State.inUse
  split
  · next hnone =>
    right
    rw [List.map_eq_nil_iff, List.filter_eq_nil_iff] at hnone
    rw [List.filter_eq_self.mpr fun r hr => by simpa using hnone r hr]
    exact ⟨rfl, rfl⟩
  · next i is hfree =>
    left
    have hmin : is.foldl min i ∈ i :: is := List.min?_mem (xs := i :: is) rfl
    rw [← hfree] at hmin
    exact List.map_subset TreeRec.index (List.filter_sublist (l := s.tree)).subset hmin

section
variable {s : State} {t : Nat} {parent : Word} {kind : TreeKind}

theorem State.newRecord_indexes :
    (s.newRecord t parent kind).1.tree.map TreeRec.index = (s.tree.map TreeRec.index).filter (· != s.freeIndex) ++ [s.freeIndex] := by
  simp only [State.newRecord, List.map_append, List.filter_map]
  rfl

theorem State.inUse_newRecord : (s.newRecord t parent kind).1.inUse ≤ s.inUse + 1 := by
  have hkept := ((List.filter_sublist (p := fun x : TreeRec => x.index != s.freeIndex) (l := s.tree)).filter
    fun r => r.kind != .free).length_le
  simp only [State.newRecord, State.inUse, List.filter_append, List.length_append]
  exact Nat.add_le_add hkept (List.length_filter_le _ _)

theorem State.Indexed.newRecord (h : s.Indexed) (hroom : s.inUse < Config.treeRecords) : (s.newRecord t parent kind).1.Indexed := by
  unfold State.Indexed
  rw [State.newRecord_indexes]
  rcases s.freeIndex_cases with hmem | ⟨hall, hnext⟩
  · have hnodup := (State.indexed_iff.mp h).once
    rw [← hnodup.erase_eq_filter]
    exact IndexOrder.of_perm h ((List.perm_append_singleton _ _).trans (List.perm_cons_erase hmem).symm)
  · have hlast := IndexOrder.grow (n := 1) h (by rw [List.length_map]; omega)
    rw [List.filter_eq_self.mpr fun i hi => ?_, hnext]
    · simpa using hlast
    · obtain ⟨r, hr, rfl⟩ := List.mem_map.mp hi
      have := (State.indexed_iff.mp h).range r hr
      simp only [bne_iff_ne]
      omega

end

theorem State.room_of_overQuota {s : State} {t n : Nat} (h : s.overQuota t n ≠ true) : s.inUse + n ≤ Config.treeRecords := by
  simp only [State.overQuota, ne_eq, Bool.or_eq_true, decide_eq_true_eq, not_or, Nat.not_lt] at h
  exact h.2

theorem State.Indexed.enrollNode {s : State} {parent : Word} (h : s.Indexed) :
    OkHas (fun r : State × Word => r.1.Indexed) (s.enrollNode parent) := by
  unfold State.enrollNode
  split
  · trivial
  · split
    · trivial
    · next hquota => exact (h.newRecord (State.room_of_overQuota hquota)).bump.shapeTree

/-- Records made one after another, each of them at most one more in use. -/
theorem indexed_foldl_newRecord {α : Type} {f : State × Word → α → State × Word} {xs : List α} {q : State × Word}
    (hkeep : ∀ (q : State × Word) x, q.1.Indexed → q.1.inUse < Config.treeRecords → (f q x).1.Indexed)
    (huse : ∀ (q : State × Word) x, (f q x).1.inUse ≤ q.1.inUse + 1) (h : q.1.Indexed)
    (hroom : q.1.inUse + xs.length ≤ Config.treeRecords) : (xs.foldl f q).1.Indexed := by
  induction xs generalizing q with
  | nil => exact h
  | cons x xs ih =>
    rw [List.length_cons] at hroom
    have := huse q x
    exact ih (hkeep q x h (by omega)) (by omega)

theorem State.Indexed.enrollRegion {s : State} {parent : Word} {va len : Nat} (h : s.Indexed) :
    OkHas (fun r : State × Word => r.1.Indexed) (s.enrollRegion parent va len) := by
  refine .ite trivial ?_
  split
  · trivial
  · split
    · trivial
    · exact h
    · split
      · trivial
      · next hquota =>
        refine State.Indexed.shapeTree (State.Indexed.bump ?_)
        refine indexed_foldl_newRecord (fun q d hq hroom => ?_) (fun q d => ?_) h (State.room_of_overQuota hquota)
        · exact (hq.newRecord hroom).others
        · exact State.inUse_newRecord

/-! ## Records that arrive (28 R375) -/

/-- A table grown up to the highest of the indexes that arrive. -/
theorem State.Indexed.takeRecords {s : State} {t : Nat} {rs : List TreeRec} (h : s.Indexed)
    (hrs : ∀ r ∈ rs, r.index ≤ Config.treeRecords) : (s.takeRecords t rs).Indexed := by
  have htop : rs.foldl (fun m r => max m r.index) s.tree.length ≤ Config.treeRecords :=
    List.foldlRecOn (motive := (· ≤ Config.treeRecords)) _ _ (State.indexed_iff.mp h).fits fun m hm r hr =>
      Nat.max_le.mpr ⟨hm, hrs r hr⟩
  unfold State.takeRecords
  refine State.Indexed.shapeTree ?_
  unfold State.Indexed
  dsimp only
  generalize rs.foldl (fun m r => max m r.index) s.tree.length = top at htop ⊢
  rw [TreeRec.map_index_map fun x => ?_]
  · have hfits := (State.indexed_iff.mp h).fits
    have hgrown := IndexOrder.grow (is := s.tree.map TreeRec.index) (n := top - s.tree.length) h (by rw [List.length_map]; omega)
    rw [List.length_map, List.range'_eq_map_range] at hgrown
    simpa [TreeRec.unused, Function.comp_def] using hgrown
  · split
    · next hr => exact by simpa using List.find?_some hr
    · rfl

end Sys2Proof.Machine
end

section
/-! PROOFS. The order of the containment table through the operations on the objects of the state, published batches, retirement, the end of
groups and launches, and faults (07 R99, 08 R122 to R126, 01 R34 to R45, 17 R304, 24 R332 to R337). Of these only a batch reaches the tree,
by the counts of the tiles that it changes (10 R148). -/
namespace Sys2Proof.Machine

namespace State.Indexed

variable {s : State}

/-! ## Objects of the state -/

theorem modGroup {w gid : Nat} {f : Group → Group} (h : s.Indexed) : (s.modGroup w gid f).Indexed := .ite h.others h.others

theorem modLaunch {l : Nat} {f : Launch → Launch} (h : s.Indexed) : (s.modLaunch l f).Indexed := .ite h.others h.others

theorem modWg {w : Nat} {f : Workgroup → Workgroup} (h : s.Indexed) : (s.modWg w f).Indexed := .ite h.others h.others

theorem modCore {c : Nat} {f : Core → Core} (h : s.Indexed) : (s.modCore c f).Indexed := .ite h.others h.others

/-- Every workgroup of a list changed, one after the other. -/
theorem modWgs {f : Workgroup → Workgroup → Workgroup} {ws : List Workgroup} (h : s.Indexed) :
    (ws.foldl (fun s w => s.modWg w.id (f w)) s).Indexed := h.foldl fun _ _ h => h.modWg

theorem spStore {by_ w off : Nat} {bs : List Byte} (h : s.Indexed) : (s.spStore by_ w off bs).Indexed := h.modWg

theorem latch {n : SReg} (h : s.Indexed) : (s.latch n).Indexed := .ite h.others h

theorem focusOn {w gid : Nat} (h : s.Indexed) : (s.focusOn w gid).Indexed := by
  unfold State.focusOn
  split
  · exact h
  · split
    · exact h.others
    · exact h

/-! ## Batches, views and snapshots -/

/-- Bytes published raise the counts of tiles. -/
theorem batch {cells : List (Nat × Byte)} (h : s.Indexed) : (s.batch cells).Indexed := foldl h.others fun _ _ h => raiseTile h.others

theorem storeBytes {da : Nat} {bs : List Byte} (h : s.Indexed) : (s.storeBytes da bs).Indexed := foldl h.others fun _ _ h => h.others

theorem publish {w gid : Nat} (h : s.Indexed) : (s.publish w gid).Indexed := by
  unfold State.publish
  split
  · exact h
  · exact h.batch.modGroup

theorem acquire {c scope : Nat} (h : s.Indexed) : (s.acquire c scope).Indexed := .ite h.modCore h

theorem acquireBar {w : Workgroup} {off : Nat} {p : BitVec 16} {by_ : Option Nat} (h : s.Indexed) :
    (s.acquireBar w off p by_).Indexed := .ite h.modCore h.acquire

/-! ## Late faults and result cells -/

theorem late {lid : Nat} {f : LateFault} (h : s.Indexed) : (s.late lid f).Indexed := by
  unfold State.late
  split
  · exact h
  · refine .ite h.modLaunch ?_
    split
    · exact h.modLaunch.batch.modLaunch
    · exact h.modLaunch

theorem checkEnd {lid : Nat} (h : s.Indexed) : (s.checkEnd lid).Indexed := by
  unfold State.checkEnd
  split
  · exact h
  · exact h.modWgs

theorem writeCell {lid idx core gid value : Nat} (h : s.Indexed) : (s.writeCell lid idx core gid value).Indexed := by
  unfold State.writeCell
  split
  · exact h
  · dsimp only
    split
    · exact h.batch
    · exact h.late

theorem dropParked {lid : Nat} {deadlock : Bool} (h : s.Indexed) : (s.dropParked lid deadlock).Indexed :=
  modLaunch (modWgs (h.foldl fun _ _ h => h.writeCell))

theorem checkDeadlock {lid : Nat} (h : s.Indexed) : (s.checkDeadlock lid).Indexed := by
  unfold State.checkDeadlock
  split
  · exact h
  · exact .ite h.dropParked.modLaunch.modWgs h

/-! ## Retirement -/

theorem releaseSlot {w n : Nat} (h : s.Indexed) : (s.releaseSlot w n).Indexed := h.modWg

theorem sweepSlots {lid : Nat} (h : s.Indexed) : (s.sweepSlots lid).Indexed :=
  h.foldl fun _ _ h => h.foldl fun _ _ h => .ite h.releaseSlot h

theorem dropJob {j : Job} (h : s.Indexed) : (s.dropJob j).Indexed := checkDeadlock (checkEnd (sweepSlots h.others))

theorem seqEnd {w : Nat} (h : s.Indexed) : (s.seqEnd w).Indexed := by
  unfold State.seqEnd
  split
  · exact h
  · exact modWg (h.batch.foldl fun _ _ h => h.dropJob)

theorem wake {lid idx : Nat} (h : s.Indexed) : (s.wake lid idx).Indexed := by
  unfold State.wake
  split
  · exact h
  · exact h.modWgs.modLaunch

theorem retireBlock {lid idx core gid : Nat} {poison : Bool} {pstat value : Word} (h : s.Indexed) :
    (s.retireBlock lid idx core gid poison pstat value).Indexed := h.writeCell.modLaunch.wake

theorem retireHeld {w gid : Nat} {poison : Bool} {value : Word} (h : s.Indexed) : (s.retireHeld w gid poison value).Indexed := by
  unfold State.retireHeld
  split
  · exact .ite h (checkDeadlock (checkEnd (.ite h.retireBlock.modGroup.releaseSlot h.retireBlock.modGroup)))
  · exact h

theorem retireEnding {w gid : Nat} (h : s.Indexed) : (s.retireEnding w gid).Indexed := .ite h.publish.retireHeld h

theorem retireParked {w r : Nat} (h : s.Indexed) : (s.retireParked w r).Indexed := by
  unfold State.retireParked
  split
  · exact h
  · split
    · exact h
    · refine checkDeadlock (checkEnd ?_)
      split
      · exact h.retireBlock.modWg.releaseSlot
      · exact h.retireBlock.modWg

/-! ## Touch traps -/

theorem endTrap {t : TSlot} (h : s.Indexed) : (s.endTrap t).Indexed := by
  unfold State.endTrap
  split
  · exact h.modWg
  · exact h

theorem zeroResume {t : TSlot} (h : s.Indexed) : (s.zeroResume t).Indexed := by
  unfold State.zeroResume
  split
  · exact h
  · dsimp only
    split
    · exact h.endTrap.modWg.modGroup
    · exact h.endTrap.modWg

theorem seqGoOn {w : Nat} {t : Option TSlot} (h : s.Indexed) : (s.seqGoOn w t).Indexed := by
  unfold State.seqGoOn
  split
  · exact h
  · refine modWg ?_
    split
    · exact h.others
    · exact h

theorem goOnAt {w : Nat} {t : TSlot} {seq : Bool} {job : Option Nat} (h : s.Indexed) : (s.goOnAt w t seq job).Indexed := by
  have hseq : (if seq then s.seqGoOn w (some t) else s).Indexed := .ite h.seqGoOn h
  unfold State.goOnAt
  dsimp only
  split
  · exact hseq.others
  · exact hseq

theorem resumeStoppers {t : TSlot} (h : s.Indexed) : (s.resumeStoppers t).Indexed := others (h.foldl fun _ _ h => h.goOnAt)

/-! ## Groups and launches that end -/

theorem endGroup {w gid : Nat} (h : s.Indexed) : (s.endGroup w gid).Indexed := h.publish.modWg.modGroup

theorem lateFault {x : Workgroup} {gid : Nat} {f : PendFault} (h : s.Indexed) : (s.lateFault x gid f).Indexed := by
  have hlate : (if f.logs then s.late x.lid (f.toLate x.coreId gid) else s).Indexed := .ite h.late h
  unfold State.lateFault
  dsimp only
  split
  · exact hlate
  · split
    · exact hlate.zeroResume.others
    · exact hlate.dropJob

theorem endHandler {v : Saved} (h : s.Indexed) : (s.endHandler v).Indexed := by
  have htrap : (match v.tslot with | some t => s.endTrap t | none => s).Indexed := by
    split
    · exact h.endTrap
    · exact h
  unfold State.endHandler
  dsimp only
  split
  · exact htrap.dropJob
  · exact htrap

theorem dropLandings {lid : Nat} (h : s.Indexed) : (s.dropLandings lid).Indexed := .ite h (h.foldl fun _ _ h => h.dropJob)

theorem leaveGroup {w gid : Nat} (h : s.Indexed) : (s.leaveGroup w gid).Indexed := by
  unfold State.leaveGroup
  split
  · next g x _ _ =>
    have hlate : (g.faults.foldl (fun s f => s.lateFault x gid f) (s.retireEnding w gid)).Indexed :=
      h.retireEnding.foldl fun _ _ h => h.lateFault
    refine dropLandings (endGroup (.ite (seqEnd ?_) ?_))
    all_goals
      split
      · exact hlate.endHandler
      · exact hlate
  · exact h

theorem lateRest {w gid : Nat} (h : s.Indexed) : (s.lateRest w gid).Indexed := by
  unfold State.lateRest
  split
  · exact h.foldl fun _ _ h => h.late
  · exact h

theorem haltLaunch {lid : Nat} {dev : Bool} (h : s.Indexed) : (s.haltLaunch lid dev).Indexed := by
  unfold State.haltLaunch
  split
  · exact h
  · refine .ite h (.ite (others ?_) ?_)
    all_goals
      refine modWgs (foldl (foldl (others (h.modLaunch.foldl fun _ _ h => h.batch)) fun _ _ h => ?_) fun _ _ h => ?_)
      · exact h.retireEnding
      · exact h.lateRest.endGroup

/-! ## Faults -/

theorem metFrame {b va : Nat} {code : BitVec 8} (h : s.Indexed) : (s.metFrame b va code).Indexed := by
  unfold State.metFrame
  split
  · split <;> exact h.others
  · exact h

theorem integrityHalt {lid : Nat} (h : s.Indexed) : (s.integrityHalt lid).Indexed := by
  unfold State.integrityHalt
  split
  · exact h.haltLaunch.others
  · exact h

/-- A fault taken, whether it halts the gang or enters the handler. -/
theorem takeFault {t : Trap} (h : s.Indexed) : (s.takeFault t).Indexed :=
  .ite h.metFrame.integrityHalt (.ite h.metFrame.others.haltLaunch h.metFrame.others)

theorem imprecise {w gid : Nat} {f : PendFault} (h : s.Indexed) : (s.imprecise w gid f).Indexed := by
  unfold State.imprecise
  split
  · exact h
  · exact .ite h.modGroup h.late

theorem deliverPending {tepc : Nat} (h : s.Indexed) : (s.deliverPending tepc).Indexed := by
  unfold State.deliverPending
  split
  · exact h
  · exact .ite h (takeFault h.others)

theorem scalarFault {code : BitVec 8} {detail : Word} {va : Nat} (h : s.Indexed) : (s.scalarFault code detail va).Indexed := h.takeFault

end State.Indexed

end Sys2Proof.Machine
end

section
/-! PROOFS. The order of the containment table through the scalar and lane streams (12 R176, R181, 14 R198 to R219, 15 R222 to R252, 16 R253
to R270): what the shared shapes of their words keep. -/
namespace Sys2Proof.Machine

/-! ## What an outcome holds -/

/-- In the next state of an outcome, if it has one, the table is in order. -/
def Res.Indexed : Res → Prop
  | .next t => t.Indexed
  | _ => True

/-- In what a word gives, if it neither waits nor faults, the table is in order. -/
def TryIndexed : Option (Except SFault State) → Prop
  | some r => OkHas State.Indexed r
  | none => True

/-- In the state in which a lane memory word is done the table is in order. -/
def MemOut.Indexed : MemOut → Prop
  | .done t _ _ => t.Indexed
  | _ => True

theorem Res.Indexed.ite {c : Prop} [Decidable c] {a b : Res} (ha : a.Indexed) (hb : b.Indexed) : (if c then a else b).Indexed := by
  split
  · exact ha
  · exact hb

theorem MemOut.Indexed.ite {c : Prop} [Decidable c] {a b : MemOut} (ha : a.Indexed) (hb : b.Indexed) :
    (if c then a else b).Indexed := by
  split
  · exact ha
  · exact hb

variable {s : State}

/-! ## The scalar stream -/

namespace State.Indexed

theorem finish {t : State} (h : s.Indexed) (ht : t.Indexed) : (s.finish t).Indexed := .ite h.scalarFault ht.others

theorem jump {target : Int} (h : s.Indexed) : OkHas State.Indexed (s.jump target) := .ite trivial h.others

theorem scalarWait (h : s.Indexed) : s.scalarWait.Indexed := .ite h (.ite h.others (.ite h.deliverPending (.ite h.others h)))

theorem latches {regs : List SReg} (h : s.Indexed) : (regs.foldl State.latch s).Indexed := h.foldl fun _ _ h => h.latch

end State.Indexed

theorem indexed_scalarWord {drains : Bool} {regs : List SReg} {eff : State → Except SFault State} (h : s.Indexed)
    (he : OkHas State.Indexed (eff s)) : (scalarWord s drains regs eff).Indexed := by
  unfold scalarWord
  split
  · split
    · exact h.scalarFault
    · next heq => exact h.finish (he.ok heq)
  · exact h.scalarWait

theorem indexed_scalarJump {drains stopping : Bool} {regs : List SReg} {eff : State → Except SFault State} (h : s.Indexed)
    (he : OkHas State.Indexed (eff s)) : (scalarJump s drains stopping regs eff).Indexed := by
  unfold scalarJump
  split
  · split
    · exact h.scalarFault
    · next heq => exact he.ok heq
  · exact h.scalarWait

theorem indexed_scalarTry {eff : State → Option (Except SFault State)} (h : s.Indexed) (he : TryIndexed (eff s)) :
    (scalarTry s eff).Indexed := by
  unfold scalarTry
  split
  · cases hr : eff s with
    | none => exact h
    | some r =>
      rw [hr] at he
      cases r with
      | error f => exact h.scalarFault
      | ok t => exact h.finish he
  · exact h.scalarWait

theorem indexed_alu {d a b : SReg} {f : Word → Word → Word} (h : s.Indexed) : (alu s d a b f).Indexed :=
  indexed_scalarWord h h.latch.latch.others

theorem indexed_alu64 {d a b : SReg} {f : DWord → DWord → DWord} (h : s.Indexed) : (alu64 s d a b f).Indexed :=
  indexed_scalarWord h h.latch.latch.others

theorem indexed_sset64 {cc : SCond} {d a b : SReg} (h : s.Indexed) : (execSset64 cc d a b s).Indexed :=
  indexed_scalarWord h h.latch.latch.others

theorem indexed_aluImm {d a : SReg} {f : Word → Word} (h : s.Indexed) : (aluImm s d a f).Indexed := indexed_scalarWord h h.latch.others

theorem indexed_slit {d : SReg} {i : BitVec 12} (h : s.Indexed) : (execSlit d i s).Indexed := indexed_scalarWord h (.ite trivial h.others)

theorem indexed_slitB64 {d : SReg} {i : BitVec 12} (h : s.Indexed) : (execSlitB64 d i s).Indexed :=
  indexed_scalarWord h (.ite trivial (.ite trivial h.others))

theorem indexed_uniform {a : SReg} {w : BitVec 2} {t pk : BitVec 3} {re : Bool} {off : BitVec 5} {write : Bool} {miss : State → State}
    {hit : State → Nat → State} (h : s.Indexed) (hmiss : ∀ s : State, s.Indexed → (miss s).Indexed)
    (hhit : ∀ (s : State) da, s.Indexed → (hit s da).Indexed) : (uniform s a w t re pk off write miss hit).Indexed := by
  refine .ite h.scalarWait (indexed_scalarWord h ?_)
  dsimp only
  split
  · trivial
  · exact .ite (hmiss _ h.latch).others trivial
  · exact State.Indexed.ite (hhit _ _ h.latch).others (hhit _ _ h.latch)

theorem indexed_sld {d a : SReg} {w : BitVec 2} {t pk : BitVec 3} {re : Bool} {off : BitVec 5} (h : s.Indexed) :
    (execSld d a w t re pk off s).Indexed :=
  indexed_uniform h (fun _ h => .ite h.others h.others) fun _ _ h => .ite h.others h.others

theorem indexed_sst {d a : SReg} {w : BitVec 2} {t pk : BitVec 3} {re : Bool} {off : BitVec 5} (h : s.Indexed) :
    (execSst d a w t re pk off s).Indexed :=
  indexed_uniform h (fun _ h => h.latch) fun _ _ h => h.latch.storeBytes

theorem indexed_branch {drains : Bool} {regs : List SReg} {taken : State → Bool} {i : BitVec 20} (h : s.Indexed) :
    (branch s drains regs taken i).Indexed :=
  .ite (indexed_scalarJump h h.latches.others.jump) (indexed_scalarWord h h.latches)

theorem indexed_call {l : SReg} {i : BitVec 20} (h : s.Indexed) : (execCall l i s).Indexed :=
  indexed_scalarJump h (State.Indexed.jump h.others)

theorem indexed_jr {a : SReg} (h : s.Indexed) : (execJr a s).Indexed := indexed_scalarJump h (.ite trivial h.latch.others.jump)

theorem indexed_pool {i : BitVec 20} (h : s.Indexed) : (execPool i s).Indexed := indexed_scalarJump h h.jump

theorem indexed_loop {c : SReg} {n : BitVec 5} (h : s.Indexed) : (execLoop c n s).Indexed := by
  refine indexed_scalarJump h ?_
  dsimp only
  split
  · trivial
  · split
    · trivial
    · exact .ite h.latch.jump h.latch.others

theorem indexed_linc {w : BitVec 5} {f : BitVec 2} {st : BitVec 12} (h : s.Indexed) : (execLinc w f st s).Indexed :=
  indexed_scalarJump h trivial

theorem indexed_enqueue {a : SReg} {idx : Nat} (h : s.Indexed) : (execEnq.enqueue a s idx).Indexed :=
  .ite (.ite h.scalarFault (h.finish h.latch.others)) h.scalarWait

theorem indexed_enq {a : SReg} {i : BitVec 20} (h : s.Indexed) : (execEnq a i s).Indexed := by
  refine .ite h ?_
  split
  · exact .ite (.ite h (.ite h.scalarFault h.others)) (indexed_enqueue h)
  · exact indexed_enqueue h

theorem indexed_tmap {t : BitVec 3} {a b : SReg} (h : s.Indexed) : (execTmap t a b s).Indexed :=
  indexed_scalarWord h h.latch.latch.others

theorem indexed_trel {t : BitVec 3} (h : s.Indexed) : (execTrel t s).Indexed := indexed_scalarWord h h.others

theorem indexed_nop (h : s.Indexed) : (execNop s).Indexed := indexed_scalarWord h h

theorem indexed_endg (h : s.Indexed) : (execEndg s).Indexed := indexed_scalarJump h h.leaveGroup

/-! ## Lane words -/

namespace State.Indexed

theorem leave {es : List WinEntry} (h : s.Indexed) : (s.leave es).Indexed := h.foldl fun _ _ h => .ite h.others h

theorem floatDone {p : Path} (h : s.Indexed) : (s.floatDone p).Indexed := .ite h.others h

theorem laneFault {code : BitVec 8} {lanes detail : Word} {va : Nat} {tslot : Option TSlot} (h : s.Indexed) :
    (s.laneFault code lanes detail va tslot).Indexed := by
  unfold State.laneFault
  split
  · exact h.takeFault
  · exact h

theorem missWait (h : s.Indexed) : s.missWait.Indexed := by
  unfold State.missWait
  split
  · exact .ite h h.others
  · exact h

theorem laneDone {e : WinEntry} (h : s.Indexed) : (s.laneDone e).Indexed := by
  unfold State.laneDone
  split
  · split
    · refine .ite h.leave.others ?_
      dsimp only
      split
      · exact h.leave.others
      · exact h.leave
    · exact h.others
  · exact h

theorem putRes {x : Opnd} {mask : Word} {r : LaneRes} (h : s.Indexed) : (s.putRes x mask r).Indexed := by
  have hpred : (match r.pred with
      | some (n, v) => ({ s with g := (s.g.raise r.sticky).writeDst x mask r.out } : State).writePLanes n mask v
      | none => { s with g := (s.g.raise r.sticky).writeDst x mask r.out }).Indexed := by
    split <;> exact h.others
  unfold State.putRes
  dsimp only
  split
  · exact .ite hpred hpred.others
  · exact hpred

theorem boundary {t : State} (h : s.Indexed) (ht : s.boundary = some t) : t.Indexed := by
  unfold State.boundary at ht
  split at ht
  · cases ht
  · split at ht
    · cases ht
      exact h.others
    · split at ht
      · cases ht
        exact h.deliverPending
      · cases ht

theorem voidWindow (h : s.Indexed) : s.voidWindow.Indexed := by
  unfold State.voidWindow
  split
  · exact h.leave.others
  · exact h

end State.Indexed

theorem indexed_laneInstr {o : LaneOps} {nout : Nat} {srcs : Word → List Src} {pre : RunUnit → Option (BitVec 8)}
    {f : RunUnit → Word → List SrcVal → LaneRes} (h : s.Indexed) : (laneInstr s o nout srcs pre f).Indexed := by
  unfold laneInstr
  split
  · exact h
  · dsimp only
    split
    · exact h.laneFault
    · refine .ite h.laneFault (.ite h.missWait (.ite h.laneFault (.ite h.laneFault (.ite h.laneFault (.ite ?_ h.others)))))
      exact .floatDone (.laneDone (.putRes h.others))

section
variable {o : LaneOps} {srcs : List Src}

theorem indexed_lane32 {f : Nat → List SrcVal → Word} (h : s.Indexed) : (lane32 s o srcs f).Indexed := indexed_laneInstr h

theorem indexed_lane32s {f : RunUnit → Nat → List SrcVal → Word × Word} (h : s.Indexed) : (lane32s s o srcs f).Indexed :=
  indexed_laneInstr h

theorem indexed_lanePred {f : RunUnit → Nat → List SrcVal → Bool × Word} (h : s.Indexed) : (lanePred s o srcs f).Indexed :=
  indexed_laneInstr h

theorem indexed_laneOfPred {f : RunUnit → Nat → Word} (h : s.Indexed) : (laneOfPred s o f).Indexed := indexed_laneInstr h

theorem indexed_votePred {f : Word → Word → Bool} (h : s.Indexed) : (votePred s o f).Indexed := indexed_laneInstr h

theorem indexed_int1 {f : Word → Word} (h : s.Indexed) : (int1 s o f).Indexed := indexed_lane32 h

theorem indexed_int2 {f : Word → Word → Word} (h : s.Indexed) : (int2 s o f).Indexed := indexed_lane32 h

theorem indexed_int64 {f : DWord → DWord → DWord × Word} (h : s.Indexed) : (int64 s o f).Indexed := indexed_laneInstr h

theorem indexed_float1 {t : FType} {x2 : Bool} {f : FCtl → Nat → Nat × Word} (h : s.Indexed) : (float1 s o t x2 f).Indexed :=
  indexed_lane32s h

theorem indexed_float2 {t : FType} {x2 : Bool} {f : FCtl → Nat → Nat → Nat × Word} (h : s.Indexed) : (float2 s o t x2 f).Indexed :=
  indexed_lane32s h

theorem indexed_unpack8 {k : Nat} (h : s.Indexed) : (unpack8 s o k).Indexed := indexed_laneInstr h

theorem indexed_mod2 {f : Int → Int → Int} (h : s.Indexed) : (mod2 s o f).Indexed := indexed_laneInstr h

theorem indexed_butterfly {f : Int → Int → Int → Int} (h : s.Indexed) : (butterfly s o f).Indexed := indexed_laneInstr h

theorem indexed_bcast (h : s.Indexed) : (execBcast o s).Indexed := by
  unfold execBcast
  exact indexed_laneInstr h

end

theorem indexed_unitStart (h : s.Indexed) : (execUnitStart s).Indexed := by
  refine .ite ?_ h
  split
  · exact h.others
  · exact h

theorem indexed_clauseHeader {hd : ClauseHdr} (h : s.Indexed) : (execClauseHeader hd s).Indexed := by
  unfold execClauseHeader
  split
  · exact h
  · split
    · exact h.laneFault
    · exact h.boundary ‹_›
    · exact .ite (.floatDone h.leave.others) h.others
    · have hwin : (if hd.safe then s.voidWindow else s).Indexed := .ite h.voidWindow h
      exact .ite (State.Indexed.ite hwin.others hwin) (.ite hwin hwin.others)

theorem indexed_laneCtl {o : LaneOps} {check : RunUnit → Path → ClauseSt → Word → Option (BitVec 8 × Word)}
    {ends : RunUnit → Path → ClauseSt → Word → Bool} {eff : State → RunUnit → Path → ClauseSt → Word → State}
    (h : s.Indexed) (he : ∀ (s : State) r p c mask, s.Indexed → (eff s r p c mask).Indexed) : (laneCtl s o check ends eff).Indexed := by
  unfold laneCtl
  split
  · exact h
  · dsimp only
    split
    · exact h.laneFault
    · exact .ite (.floatDone (he _ _ _ _ _ h.leave)) h.others

theorem indexed_lbr {o : LaneOps} (h : s.Indexed) : (execLbr o s).Indexed :=
  indexed_laneCtl h fun _ _ _ _ _ h => .ite h.others (.ite h.others h.others)

theorem indexed_ljoin {o : LaneOps} (h : s.Indexed) : (execLjoin o s).Indexed := indexed_laneCtl h fun _ _ _ _ _ h => h.others

theorem indexed_lend {o : LaneOps} (h : s.Indexed) : (execLend o s).Indexed := indexed_laneCtl h fun _ _ _ _ _ h => h.others

theorem indexed_setLen {o : LaneOps} {len : Group → RunUnit → Nat} (h : s.Indexed) : (setLen s o len).Indexed := by
  unfold setLen
  exact indexed_laneCtl h fun _ _ _ _ _ h => .laneDone h.others

/-! ## Lane memory -/

namespace State.Indexed

theorem trapFires {t : Option TSlot} (h : s.Indexed) : (s.trapFires t).Indexed := by
  cases t with
  | none => exact h
  | some t => exact h.modWg

theorem residency {o : LaneOps} {absent : Word} (h : s.Indexed) : (s.residency o absent).Indexed := .ite h.others h

theorem issue {o : LaneOps} {p : Path} {n : Nat} {out none_ ready : Word} {vals : List Lanes} {acq : Option Nat} {id : Nat}
    (h : s.Indexed) : (s.issue o p n out none_ ready vals acq id).Indexed := by
  refine MemOut.Indexed.ite ?_ h.others
  cases acq with
  | none => exact h.others
  | some sc => exact acquire h.others

end State.Indexed

theorem indexed_laneMem {o : LaneOps} {ndst : Nat} {srcs : List Src} {f : RunUnit → Path → Word → List SrcVal → State → MemOut}
    (h : s.Indexed) (hf : ∀ r p mask vs (t : State), t.Indexed → (f r p mask vs t).Indexed) : (laneMem s o ndst srcs f).Indexed := by
  unfold laneMem
  split
  · exact h
  · refine .ite h.laneFault (.ite h.missWait (.ite h.laneFault (.ite h.laneFault (.ite h.laneFault ?_))))
    split
    · exact h.trapFires.laneFault
    · exact h
    · exact h.others
    · next t e now heq =>
      have hdone : (MemOut.done t e now).Indexed := heq ▸ hf _ _ _ _ _ h.others
      exact .ite (.floatDone (.laneDone (.leave hdone))) h.others

/-- The check of the lanes' addresses is no end that changes the state. -/
theorem MemOut.indexed_of_laneFails {mask : Word} {f : Nat → Option (BitVec 8 × Nat)} {m : MemOut} (h : laneFails mask f = some m) :
    m.Indexed := by
  unfold laneFails at h
  dsimp only at h
  split at h
  · cases h
  · split at h
    · cases h
      trivial
    · cases h

theorem MemOut.indexed_of_laneSpRead {o : LaneOps} {vs : List SrcVal} {n : Nat} {zeros : List (Nat × Nat)} {mask : Word} {m : MemOut}
    (h : laneSpRead s o vs n zeros mask = some m) : m.Indexed := by
  unfold laneSpRead at h
  split at h
  · next hfails =>
    cases h
    exact MemOut.indexed_of_laneFails hfails
  · dsimp only at h
    split at h
    · cases h
      trivial
    · split at h
      · cases h
      · cases h
        trivial

theorem indexed_ldG {o : LaneOps} {z : MSize} (h : s.Indexed) : (execLdG o z s).Indexed := by
  refine indexed_laneMem h fun r p mask vs t ht => ?_
  dsimp only
  split
  · next hfails => exact MemOut.indexed_of_laneFails hfails
  · refine MemOut.Indexed.ite trivial (State.Indexed.issue (.residency (ht.foldl fun t l ht => ?_)))
    split
    · exact ht.others
    · exact ht

theorem indexed_stG {o : LaneOps} {z : MSize} (h : s.Indexed) : (execStG o z s).Indexed := by
  refine indexed_laneMem h fun r p mask vs t ht => ?_
  dsimp only
  split
  · next hfails => exact MemOut.indexed_of_laneFails hfails
  · refine State.Indexed.residency (ht.foldl fun t l ht => ?_)
    split
    · exact ht.storeBytes
    · exact ht

theorem indexed_ldL {o : LaneOps} {z : MSize} (h : s.Indexed) : (execLdL o z s).Indexed := by
  refine indexed_laneMem h fun r p mask vs t ht => ?_
  split
  · next hread => exact MemOut.indexed_of_laneSpRead hread
  · exact MemOut.Indexed.ite trivial ht.issue

theorem indexed_stL {o : LaneOps} {z : MSize} (h : s.Indexed) : (execStL o z s).Indexed := by
  refine indexed_laneMem h fun r p mask vs t ht => ?_
  split
  · next hfails => exact MemOut.indexed_of_laneFails hfails
  · refine ht.foldl fun t l ht => ?_
    split
    · exact ht.spStore
    · exact ht

theorem indexed_returning {o : LaneOps} {op : PorterOp} {srcs : List Src} {size n : Nat} {write : Bool} (h : s.Indexed) :
    (returning s o op srcs size n write).Indexed := by
  refine indexed_laneMem h fun r p mask vs t ht => ?_
  dsimp only
  split
  · next hfails => exact MemOut.indexed_of_laneFails hfails
  · exact MemOut.Indexed.ite trivial (State.Indexed.issue (.others (.residency (.ite ht.publish ht))))

theorem indexed_atomL {o : LaneOps} {f : AOp} (h : s.Indexed) : (execAtomL o f s).Indexed := by
  refine indexed_laneMem h fun r p mask vs t ht => ?_
  dsimp only
  split
  · next hread => exact MemOut.indexed_of_laneSpRead hread
  · refine MemOut.Indexed.ite trivial (State.Indexed.issue ?_)
    refine List.foldlRecOn (motive := fun q : State × List (Nat × Nat) => q.1.Indexed) _ _ ht fun q hq l _ => ?_
    split
    · dsimp only
      split
      · exact hq.spStore
      · exact hq
    · exact hq

theorem indexed_reduction {o : LaneOps} {op : PorterOp} {nb size : Nat} {merge : Bool} (h : s.Indexed) :
    (reduction s o op nb size merge).Indexed := by
  refine indexed_laneMem h fun r p mask vs t ht => ?_
  dsimp only
  split
  · next hfails => exact MemOut.indexed_of_laneFails hfails
  · exact MemOut.Indexed.ite trivial (State.Indexed.others (.ite ht.publish ht))

theorem indexed_resideLane {o : LaneOps} (h : s.Indexed) : (execResideLane o s).Indexed := by
  refine indexed_laneMem h fun r p mask vs t ht => ?_
  dsimp only
  split
  · next hfails => exact MemOut.indexed_of_laneFails hfails
  · exact MemOut.Indexed.ite ht.others (MemOut.Indexed.ite trivial (State.Indexed.issue ht.others))

theorem indexed_wait {o : LaneOps} (h : s.Indexed) : (execWait o s).Indexed := by
  unfold execWait
  split
  · exact h
  · refine indexed_laneMem h fun r p mask vs t ht => MemOut.Indexed.ite ht ?_
    split
    · trivial
    · split
      · trivial
      · exact MemOut.Indexed.ite trivial (MemOut.Indexed.ite ht.acquireBar (MemOut.Indexed.ite ht.others trivial))

end Sys2Proof.Machine
end

section
/-! PROOFS. The order of the containment table through the porters, the words of the tree, barriers, phases and residency requests, the page
dispenser and engine jobs (03 R63 to R74, 07 R111 to R115, 08 R125 to R134, 10 R145 to R154, 01 R19 to R42, 16 R272 to R277). -/
namespace Sys2Proof.Machine

variable {s : State}

/-! ## Replies and porters -/

theorem indexed_replyArrival {k : Nat} {lanes : Word} (h : s.Indexed) : (execReplyArrival k lanes s).Indexed := by
  unfold execReplyArrival
  split
  · exact h
  · refine .ite h ?_
    dsimp only
    split
    · exact State.Indexed.ite (.acquire h.others) h.others
    · exact h.others

namespace State.Indexed

theorem reply {q : PorterReq} {lane v : Nat} (h : s.Indexed) : (s.reply q lane v).Indexed := by
  unfold State.reply
  split
  · exact h
  · exact h.modGroup

theorem noReply {q : PorterReq} {lane : Nat} (h : s.Indexed) : (s.noReply q lane).Indexed := by
  unfold State.noReply
  split
  · exact h
  · exact h.modGroup

theorem update {da n v : Nat} (h : s.Indexed) : (s.update da n v).Indexed := h.batch

theorem perform {q : PorterReq} {x : PorterLane} {da : Nat} (h : s.Indexed) : (s.perform q x da).Indexed := by
  have hatom : ∀ op, (match AOp.ofCode op with
      | none => s
      | some f => (match atomNat f (s.mem.readLE da (atomBytes f)) x.b.toNat x.c.toNat with
          | some v => s.update da (atomBytes f) v
          | none => s.touch da false).reply q x.lane (s.mem.readLE da (atomBytes f))).Indexed := by
    intro op
    split
    · exact h
    · refine reply ?_
      split
      · exact h.update
      · exact h.others
  unfold State.perform
  split
  · exact hatom _
  · exact hatom _
  · exact h.update.modGroup
  · exact h.update
  · split
    · exact h.update
    · exact h
  · exact reply (.ite h.update h.others)

theorem failLane {l : Launch} {q : PorterReq} {x : PorterLane} {r : Reach} (h : s.Indexed) : (s.failLane l q x r).Indexed := by
  unfold State.failLane
  split
  · exact .ite h.metFrame.noReply.integrityHalt h.metFrame.noReply
  · exact h.noReply

theorem performLane {l : Launch} {q : PorterReq} {x : PorterLane} (h : s.Indexed) : (s.performLane l q x).1.Indexed := by
  unfold State.performLane
  split
  · exact h
  · split
    · exact h.others
    · exact h.failLane.others
  · split
    · exact h.perform
    · exact h.failLane

theorem reductionFault {q : PorterReq} (h : s.Indexed) : (s.reductionFault q).Indexed := by
  unfold State.reductionFault
  split
  · exact h
  · exact .ite h h.imprecise

theorem porterNext {q : PorterReq} (h : s.Indexed) : (s.porterNext q).Indexed := .ite (reductionFault h.others) h.others

theorem porterStep {q : PorterReq} (h : s.Indexed) : (s.porterStep q).Indexed := by
  unfold State.porterStep
  split
  · exact .ite h h.performLane.porterNext
  · exact h.porterNext

theorem meetPorters {lids : List Nat} {fuel : Nat} (h : s.Indexed) : (State.meetPorters lids fuel s).Indexed := by
  induction fuel generalizing s with
  | zero => exact h
  | succ fuel ih =>
    rw [State.meetPorters]
    split
    · exact h
    · exact ih h.porterStep

theorem moveOut {c w gid : Nat} {area : List Nat} (h : s.Indexed) : (s.moveOut c area w gid).Indexed := by
  refine h.foldl fun s n h => ?_
  split
  · exact h
  · split
    · refine .ite ?_ h
      dsimp only
      split
      · exact h.modGroup
      · exact h
    · exact h

end State.Indexed

theorem indexed_porterPerform {hall : Nat} (h : s.Indexed) : (execPorterPerform hall s).Indexed := by
  unfold execPorterPerform
  split
  · exact h
  · exact h.porterStep

theorem indexed_floatGrant (h : s.Indexed) : (execFloatGrant s).Indexed := by
  unfold execFloatGrant
  dsimp only
  split
  · exact h
  · refine .ite h.modGroup ?_
    split
    · exact h
    · exact .ite h.modGroup h

theorem indexed_spillReload (h : s.Indexed) : (execSpillReload s).Indexed :=
  .ite (State.Indexed.others (h.foldl fun _ _ h => h.others)) h

theorem indexed_compaction {lid : Nat} (h : s.Indexed) : (execCompaction lid s).Indexed := by
  unfold execCompaction
  split
  · exact h
  · refine .ite ?_ h
    split
    · exact h
    · exact h.foldl fun _ _ h => h.moveOut

/-! ## Words of the containment tree -/

theorem indexed_enroll {d a : SReg} (h : s.Indexed) : (execEnroll d a s).Indexed :=
  indexed_scalarTry h (h.enrollNode.map fun _ h => h.latch.others)

theorem indexed_enrollR {d a b : SReg} (h : s.Indexed) : (execEnrollR d a b s).Indexed :=
  indexed_scalarTry h (h.enrollRegion.map fun _ h => h.latch.latch.others)

theorem indexed_reparent {a b : SReg} (h : s.Indexed) : (execReparent a b s).Indexed := by
  refine indexed_scalarTry h ?_
  dsimp only [TryIndexed]
  split
  · trivial
  · refine .ite h.latch.latch.withdraw ?_
    split
    · trivial
    · exact h.latch.latch.reparentTo

theorem indexed_cread {d a : SReg} (h : s.Indexed) : (execCread d a s).Indexed := by
  refine indexed_scalarTry h ?_
  dsimp only [TryIndexed]
  split
  · trivial
  · exact h.latch.others

theorem indexed_settle {d a b : SReg} (h : s.Indexed) : (execSettle d a b s).Indexed := by
  refine indexed_scalarTry h ?_
  dsimp only
  split
  · trivial
  · split
    · trivial
    · split
      · trivial
      · exact h.latch.latch.others

theorem indexed_settleComplete (h : s.Indexed) : (execSettleComplete s).Indexed := by
  unfold execSettleComplete
  split
  · exact h
  · dsimp only
    split
    · exact State.Indexed.others (.drainTree h.others)
    · exact State.Indexed.imprecise (.drainTree h.others)

theorem indexed_rollup {index : Nat} (h : s.Indexed) : (execRollup index s).Indexed := by
  unfold execRollup
  split
  · exact State.Indexed.ite h h.push
  · exact h

/-! ## Barriers, phases and residency requests -/

theorem indexed_binit {d a : SReg} (h : s.Indexed) : (execBinit d a s).Indexed := by
  refine indexed_scalarTry h ?_
  dsimp only [TryIndexed]
  exact .ite trivial (.ite trivial (.ite trivial (.ite trivial (State.Indexed.ite h.latch.latch.others h.latch.latch))))

theorem indexed_arriveWord {a b : SReg} {rel : Bool} (h : s.Indexed) : (arriveWord s a b rel).Indexed := by
  refine indexed_scalarTry h ?_
  dsimp only
  split
  · trivial
  · split
    · trivial
    · split
      · trivial
      · split
        · trivial
        · exact State.Indexed.modWg (.ite h.latch.latch.publish h.latch.latch)

theorem indexed_phase {sc : BitVec 3} (h : s.Indexed) : (execPhase sc s).Indexed := by
  refine indexed_scalarTry h ?_
  split
  · exact h.publish.acquire
  · trivial

theorem indexed_fenceSc (h : s.Indexed) : (execFenceSc s).Indexed := by
  unfold execFenceSc
  split
  · exact .ite (h.finish (.acquire h.others)) h
  · exact .ite (.ite h.publish.others h) h.scalarWait

theorem State.Indexed.reqDone {q : ResReq} {st : ResStatus} (h : s.Indexed) : (s.reqDone q st).Indexed := by
  have hgroup : ∀ rs f, (({ s with resreqs := rs } : State).modGroup q.wgId q.gid f).Indexed := fun _ _ => modGroup h.others
  unfold State.reqDone
  dsimp only
  split
  · split
    · exact (hgroup _ _).modWg
    · exact (hgroup _ _).imprecise
  · exact hgroup _ _

theorem indexed_resideWord {a b : SReg} {bar : Option SReg} (h : s.Indexed) : (resideWord s a b bar).Indexed := by
  refine indexed_scalarTry h ?_
  dsimp only [TryIndexed]
  split
  · trivial
  · exact State.Indexed.ite (.reqDone h.latch.latch.latches.others) h.latch.latch.latches.others

/-! ## Assignment, sensing and landing -/

namespace State.Indexed

theorem devTouch {l : Launch} {va : Nat} (h : s.Indexed) : (s.devTouch l va).Indexed := by
  rw [State.devTouch_frame]
  exact h.others

theorem readEntry {l : Launch} (h : s.Indexed) : (s.readEntry l).Indexed := by
  obtain ⟨f, hf⟩ := s.readEntry_frame l
  rw [hf]
  exact h.others

theorem assign {l : Launch} {w : Workgroup} {lpn : Option Nat} (h : s.Indexed) : (s.assign l w lpn).Indexed := by
  have hgive : (s.modWg w.id fun w => w.give l lpn).Indexed := h.modWg
  unfold State.assign
  dsimp only
  split
  · exact hgive.others
  · exact hgive

end State.Indexed

theorem indexed_entryAssignment (h : s.Indexed) : (execEntryAssignment s).Indexed := by
  refine .ite ?_ h
  split
  · exact h
  · split
    · exact h
    · exact h.readEntry.assign.modLaunch.checkEnd

theorem indexed_flashSense {slot : Nat} {ok : Bool} (h : s.Indexed) : (execFlashSense slot ok s).Indexed := by
  unfold execFlashSense
  dsimp only
  split
  · exact h
  · exact .ite (State.Indexed.ite h.others h.others) h

theorem indexed_landingCredit {slot n : Nat} (h : s.Indexed) : (execLandingCredit slot n s).Indexed := by
  unfold execLandingCredit
  dsimp only
  split
  · exact h
  · have htouch : ∀ c base, (if c = true then s.devTouch s.ln base else s).Indexed := fun _ _ => .ite h.devTouch h
    exact .ite (.ite h.haltLaunch (.ite (State.Indexed.dropJob (htouch _ _).others) (htouch _ _).others)) h

/-! ## Blocks handed out, parked and retired -/

namespace State.Indexed

theorem resumeBlock {r : Nat} {p : Parked} (h : s.Indexed) : (s.resumeBlock r p).Indexed := by
  have hbound : ∀ g ps, ((List.range 128).foldl (fun s n => s.bindReg n 0xFFFFFFFF)
      ({ s with g := g, wg := { s.wg with parked := ps } } : State)).Indexed := fun _ _ => h.others.foldl fun _ _ h => .ite h.others h
  unfold State.resumeBlock
  dsimp only
  refine checkEnd (acquire ?_)
  split
  · exact (hbound _ _).others
  · exact hbound _ _

theorem takeOffer {d : SReg} {x : Offer} (h : s.Indexed) : (s.takeOffer d x).Indexed := by
  cases x with
  | slot n => exact checkEnd h.others
  | bad i => exact checkEnd h.others

theorem park {r j : Nat} (h : s.Indexed) : (s.park r j).Indexed := by
  unfold State.park
  dsimp only
  split
  · exact .ite h.others h.others
  · exact h.others

end State.Indexed

theorem indexed_pget {d : SReg} (h : s.Indexed) : (execPget d s).Indexed := by
  refine .ite h.scalarWait (.ite h.scalarFault ?_)
  split
  · exact .ite (State.Indexed.others (.resumeBlock h.others)) h.others
  · split
    · exact h.takeOffer.scalarFault
    · exact h.finish h.takeOffer
    · split
      · exact h.finish (.checkEnd h.others)
      · exact .ite (h.finish h.others) (h.finish h.others)

theorem indexed_pyield {a : SReg} (h : s.Indexed) : (execPyield a s).Indexed := by
  refine indexed_scalarTry h ?_
  dsimp only
  split
  · trivial
  · refine OkHas.ite trivial (.ite trivial (.ite h.latch (.ite trivial (.ite trivial ?_))))
    split
    · trivial
    · exact h.latch.park.checkDeadlock.checkEnd

theorem indexed_pretire {a : SReg} (h : s.Indexed) : (execPretire a s).Indexed := by
  refine indexed_scalarTry h ?_
  split
  · trivial
  · split
    · trivial
    · exact h.latch.publish.retireHeld

theorem indexed_copyOut {r : Nat} (h : s.Indexed) : (execCopyOut r s).Indexed := by
  unfold execCopyOut
  split
  · exact h
  · split
    · exact h
    · refine .ite h ?_
      split
      · exact h.haltLaunch
      · exact State.Indexed.dropJob h.batch.others

theorem indexed_relanding {r : Nat} (h : s.Indexed) : (execRelanding r s).Indexed := by
  unfold execRelanding
  split
  · exact .ite h.others h
  · exact h

/-! ## Jobs -/

namespace State.Indexed

theorem claim {j : Job} (h : s.Indexed) : (s.claim j).1.Indexed := by
  unfold State.claim
  split
  · exact h
  · split
    · exact h
    · exact h.others

theorem offerCard {p : BitVec 3} {va : Nat} (h : s.Indexed) : OkHas State.Indexed (s.offerCard p va) := by
  refine .ite trivial ?_
  split
  · trivial
  · trivial
  · split
    · trivial
    · exact .ite h.others (others (claim h.others))

theorem askFor {j : Job} {frames : List Nat} (h : s.Indexed) : (s.askFor j frames).Indexed := .ite h h.others

theorem jobFault {j : Job} {code : BitVec 8} {va : Nat} {tslot : Option TSlot} (h : s.Indexed) : (s.jobFault j code va tslot).Indexed := by
  have hmet : (match s.findLaunch j.lid with | some l => s.metFrame l.cmd.tenant va code | none => s).Indexed := by
    split
    · exact h.metFrame
    · exact h
  unfold State.jobFault
  refine .ite hmet.integrityHalt ?_
  split
  · exact hmet.lateFault
  · exact hmet.dropJob
  · exact hmet.others.modGroup

theorem jobTouch {j : Job} {w k va : Nat} (h : s.Indexed) : (s.jobTouch j w k va).Indexed := h.modWg.jobFault

theorem spPieces {j : Job} {d : Desc} {ps : List (Nat × Nat × Nat × Nat)} {bs : List Byte} (h : s.Indexed) :
    (s.spPieces j d ps bs).Indexed := by
  induction ps generalizing s bs with
  | nil => exact h
  | cons p ps ih => exact ih h.modWg

theorem stepWrites {j : Job} {d : Desc} {bs : List Byte} {last : Bool} (h : s.Indexed) : (s.stepWrites j d bs last).Indexed :=
  others (.ite h.spPieces h)

theorem readFrames {j : Job} {rs : List (Nat × Nat × Nat)} (h : s.Indexed) : (s.readFrames j rs).Indexed :=
  h.foldl fun _ _ h => .ite h.others h

end State.Indexed

theorem indexed_job {p : BitVec 3} {a : SReg} (h : s.Indexed) : (execJob p a s).Indexed := by
  refine .ite h.scalarWait (.ite h ?_)
  dsimp only
  split
  · exact h.publish.scalarFault
  · next hu => exact h.finish (h.publish.offerCard.ok hu).latch

theorem indexed_jobStart {j : Nat} (h : s.Indexed) : (execJobStart j s).Indexed := by
  unfold execJobStart
  split
  · exact h
  · split
    · exact h
    · refine .ite ?_ h
      split
      · exact h.others
      · exact h.askFor

theorem indexed_jobStep {id : Nat} {kind : BitVec 8} {size : Job → Nat} {reads : Job → Nat → List (Nat × Nat × Nat)}
    {eff : State → Job → Launch → Nat → State} (h : s.Indexed) (he : ∀ (s : State) j l n, s.Indexed → (eff s j l n).Indexed) :
    (jobStep s id kind size reads eff).Indexed := by
  unfold jobStep
  split
  · exact h
  · split
    · exact h
    · refine .ite ?_ h
      dsimp only
      split
      · exact he _ _ _ _ h.readFrames
      · exact h
      · exact h.jobFault
      · exact h.jobTouch
      · exact h.others

theorem indexed_copy {j : Nat} (h : s.Indexed) : (execCopy j s).Indexed := indexed_jobStep h fun _ _ _ _ h => h.stepWrites

theorem indexed_gather {j : Nat} (h : s.Indexed) : (execGather j s).Indexed := indexed_jobStep h fun _ _ _ _ h => h.stepWrites.others

theorem indexed_fill {j : Nat} (h : s.Indexed) : (execFill j s).Indexed := indexed_jobStep h fun _ _ _ _ h => h.stepWrites

theorem indexed_flashRead {j : Nat} {ok : Bool} (h : s.Indexed) : (execFlashRead j ok s).Indexed :=
  indexed_jobStep h fun _ _ _ _ h => .ite h.stepWrites.others h.stepWrites

theorem indexed_flashWrite {j : Nat} (h : s.Indexed) : (execFlashWrite j s).Indexed :=
  indexed_jobStep h fun _ _ _ _ h => .stepWrites h.others

theorem indexed_send {j : Nat} (h : s.Indexed) : (execSend j s).Indexed := indexed_jobStep h fun _ _ _ _ h => h.stepWrites

theorem indexed_cipherIn {j : Nat} (h : s.Indexed) : (execCipherIn j s).Indexed := by
  refine indexed_jobStep h fun _ _ _ _ h => .ite h.dropJob ?_
  dsimp only
  split
  · exact h.stepWrites
  · exact h.others

theorem indexed_fetch {j : Nat} (h : s.Indexed) : (execFetch j s).Indexed := by
  unfold execFetch
  split
  · exact h
  · exact .ite h (indexed_jobStep h fun _ _ _ _ h => State.Indexed.others (.ite h.spPieces h))

namespace State.Indexed

theorem jobCredit {j : Job} {l : Launch} {bytes : Nat} (h : s.Indexed) : (s.jobCredit j l bytes).Indexed := by
  unfold State.jobCredit
  split
  · exact h
  · dsimp only
    split
    · exact h.imprecise
    · split
      · exact h.modWg
      · exact h.imprecise

theorem jobStatus {j : Job} {l : Launch} (h : s.Indexed) : (s.jobStatus j l).Indexed := .ite h h.modWg

theorem incoming {x : Transfer} {ok : Bool} (h : s.Indexed) : (s.incoming x ok).Indexed := by
  have hdone : ({ s with dev := { s.dev with transfers := s.dev.transfers.filter fun y => y.id != x.id } } : State).Indexed := h.others
  unfold State.incoming
  dsimp only
  split
  · exact hdone
  · split
    · exact hdone
    · exact .ite h (.ite hdone (.ite hdone.batch (hdone.foldl fun _ _ h => h.others)))

end State.Indexed

theorem indexed_jobComplete {j : Nat} (h : s.Indexed) : (execJobComplete j s).Indexed := by
  unfold execJobComplete
  split
  · exact h
  · split
    · exact h
    · exact .ite (State.Indexed.dropJob (.ite h.batch.jobStatus.jobCredit h.batch.jobStatus)) h

theorem indexed_peerTransfer {j : Nat} {ok : Bool} {data : List Byte} (h : s.Indexed) : (execPeerTransfer j ok data s).Indexed := by
  unfold execPeerTransfer
  split
  · exact .ite h.others h
  · split
    · exact h.incoming
    · exact h

end Sys2Proof.Machine
end

section
/-! PROOFS. The order of the containment table through the Stairwell, the matrix engine and the system words (07 R109 to R117, 11 R160 to
R173, 17 R284 to R304). -/
namespace Sys2Proof.Machine

variable {s : State}

/-! ## Frames moved -/

namespace State.Indexed

theorem fall {e : FitEntry} (h : s.Indexed) : (s.fall e).Indexed := by
  refine .ite (.ite h.others h.others) ?_
  split <;> exact h.others

theorem makeRoom {keep : List Nat} (h : s.Indexed) : (s.makeRoom keep).Indexed := by
  unfold State.makeRoom
  dsimp only
  split
  · exact h
  · exact h.fall

/-- Room made in tier A where there is none. -/
theorem roomy {keep : List Nat} (h : s.Indexed) : (if (s.freeIn .a).isSome then s else s.makeRoom keep).Indexed := .ite h h.makeRoom

theorem bringUp {keep : List Nat} {d : Nat} (h : s.Indexed) : (s.bringUp keep d).Indexed := by
  unfold State.bringUp
  dsimp only
  split
  · exact h.roomy.others
  · exact h.roomy

theorem lift {q : ResReq} (h : s.Indexed) : (s.lift q).Indexed := h.foldl fun _ _ h => h.bringUp

theorem poisonFrame {e : FitEntry} {f : FitEntry → FitEntry} (h : s.Indexed) : (s.poisonFrame e f).Indexed := by
  unfold State.poisonFrame
  exact others (raiseTile h.others)

end State.Indexed

theorem indexed_resideComplete {id : Nat} (h : s.Indexed) : (execResideComplete id s).Indexed := by
  unfold execResideComplete
  split
  · exact h
  · exact .ite h.reqDone (.ite h.reqDone (.ite h.reqDone (.ite h (State.Indexed.ite h.lift h.lift.reqDone))))

theorem indexed_frameMigration {d : Nat} {tier : Tier} {loc : BitVec 48} (h : s.Indexed) : (execFrameMigration d tier loc s).Indexed := by
  unfold execFrameMigration
  split
  · exact h
  · refine .ite h ?_
    cases tier with
    | a => exact .ite h.others h
    | b | backing => exact .ite h h.others
    | c => exact h

theorem indexed_frameEviction {d : Nat} {loc : BitVec 48} (h : s.Indexed) : (execFrameEviction d loc s).Indexed := by
  unfold execFrameEviction
  split
  · exact h
  · exact .ite h h.others

theorem indexed_frameReturn {d : Nat} {tagOk : Bool} (h : s.Indexed) : (execFrameReturn d tagOk s).Indexed := by
  unfold execFrameReturn
  split
  · exact h
  · refine .ite h ?_
    dsimp only
    split
    · exact h.roomy
    · refine .ite h.roomy.others (State.Indexed.foldl (.foldl (.others (.others ?_)) fun _ _ h => h.reqDone) fun _ _ h => h.haltLaunch)
      exact h.roomy.others.poisonFrame

/-! ## Words of the matrix stream -/

namespace State.Indexed

theorem matrixFault {code : BitVec 8} {va : Nat} {sp : Bool} {tslot : Option TSlot} (h : s.Indexed) :
    (s.matrixFault code va sp tslot).Indexed := by
  unfold State.matrixFault
  cases tslot with
  | none => exact .ite h.metFrame.integrityHalt (.ite h.metFrame.late.seqEnd (modGroup h.metFrame.others))
  | some t =>
    exact .ite h.metFrame.modWg.integrityHalt (.ite h.metFrame.modWg.endTrap.late.seqEnd (modGroup h.metFrame.modWg.others))

end State.Indexed

theorem indexed_matrixWord {eff : State → Except MStop State} (h : s.Indexed) (he : OkHas State.Indexed (eff s)) :
    (matrixWord s eff).Indexed := by
  refine .ite h (.ite h.matrixFault ?_)
  split
  · exact h.matrixFault
  · exact h.matrixFault
  · exact h.others
  · exact h
  · next heq => exact State.Indexed.others (he.ok heq)

theorem indexed_mnop (h : s.Indexed) : (execMnop s).Indexed := indexed_matrixWord h h

theorem indexed_mli {q : BitVec 2} {a : BitVec 4} {i : BitVec 16} (h : s.Indexed) : (execMli q a i s).Indexed :=
  indexed_matrixWord h h.others

theorem indexed_mmov {a b : BitVec 4} (h : s.Indexed) : (execMmov a b s).Indexed := indexed_matrixWord h h.others

theorem indexed_madd {a b : BitVec 4} {i : BitVec 16} (h : s.Indexed) : (execMadd a b i s).Indexed := indexed_matrixWord h h.others

theorem indexed_mres {a x : BitVec 4} (h : s.Indexed) : (execMres a x s).Indexed := indexed_matrixWord h (.ite trivial h.others)

theorem indexed_mrel {x : BitVec 4} (h : s.Indexed) : (execMrel x s).Indexed := indexed_matrixWord h (.ite trivial h.others)

theorem indexed_mmod {a : BitVec 4} (h : s.Indexed) : (execMmod a s).Indexed := indexed_matrixWord h (.ite h.others trivial)

theorem indexed_mld {a : BitVec 4} {i : BitVec 16} (h : s.Indexed) : (execMld a i s).Indexed := by
  refine indexed_matrixWord h (.ite trivial ?_)
  split
  · trivial
  · exact h.others

theorem indexed_mzero {k : BitVec 4} {tr : BitVec 3} {tc : BitVec 4} {cb : BitVec 7} (h : s.Indexed) : (execMzero k tr tc cb s).Indexed := by
  refine indexed_matrixWord h ?_
  dsimp only
  split
  · trivial
  · exact h.others

/-! ## Words that run as jobs -/

namespace State.Indexed

theorem beginWord {j : Job} (h : s.Indexed) : (s.beginWord j).Indexed := by
  refine .ite h ?_
  split
  · exact h.others
  · exact h.askFor

theorem endWord (h : s.Indexed) : s.endWord.Indexed := by
  unfold State.endWord
  split
  · exact h.dropJob.others
  · exact h.others

theorem stopWord {p : Word} (h : s.Indexed) : (s.stopWord p).Indexed := by
  unfold State.stopWord
  split <;> exact h.others

theorem meetStop {j : Job} {p : Word} {e : MStop} (h : s.Indexed) : (s.meetStop j p e).Indexed := by
  unfold State.meetStop
  split
  · exact h.stopWord.matrixFault
  · exact h.stopWord.matrixFault
  · exact h.others
  · split
    · exact h
    · exact h.askFor

theorem touchFetch {f : Fetch} (h : s.Indexed) : (s.touchFetch f).Indexed := by
  refine .ite h (h.foldl fun s p h => ?_)
  split
  · exact h.others
  · exact h

theorem kStep {o : MmaOp} {j : Job} (h : s.Indexed) : (s.kStep o j).Indexed := by
  unfold State.kStep
  dsimp only
  split
  · exact h.meetStop
  · have hread : ∀ fs : List Fetch, (fs.foldl State.touchFetch { s with core := { s.core with kLast := s.wg.id } }).Indexed :=
      fun _ => h.others.foldl fun _ _ h => h.touchFetch
    exact .ite h (.ite (hread _).others (.ite (hread _).others (endWord (hread _).others)))

theorem writeRow {f : Fetch} {bs : List Byte} (h : s.Indexed) : (s.writeRow f bs).Indexed := by
  refine .ite (h.foldl fun s i h => ?_) h.others
  split
  · exact h.spStore
  · exact h

theorem seqArrive {n bytes : Nat} (h : s.Indexed) : OkHas State.Indexed (s.seqArrive n bytes) := by
  unfold State.seqArrive
  dsimp only
  split
  · trivial
  · exact h.others

theorem storeTail {o : MstOp} (h : s.Indexed) : (s.storeTail o).Indexed := by
  have hrows : ∀ w gid f (g : Seq → Word), (((s.batch s.wg.seq.pend).modGroup w gid f).modSeq fun q =>
      { q with pend := [], sticky := 0, stored := true, mprog := g q }).Indexed :=
    fun _ _ _ _ => h.batch.modGroup.others
  unfold State.storeTail
  dsimp only
  split
  · exact (hrows _ _ _ _).endWord
  · split
    · next ht => exact ((hrows _ _ _ _).seqArrive.ok ht).endWord
    · exact (hrows _ _ _ _).stopWord.matrixFault
    · exact hrows _ _ _ _

theorem storeStep {o : MstOp} {j : Job} (h : s.Indexed) : (s.storeStep o j).Indexed := by
  refine .ite h.storeTail ?_
  split
  · exact h.meetStop
  · exact .ite h.writeRow.others (storeTail h.writeRow.others)

end State.Indexed

theorem indexed_jobWord {α : Type} {check : State → Except (BitVec 8) α} {empty : α → Bool}
    {ranges : State → α → List (Nat × Nat × Nat) × List (Nat × Nat × Nat)} {go : State → α → Job → State} (h : s.Indexed)
    (hgo : ∀ (s : State) o j, s.Indexed → (go s o j).Indexed) : (jobWord s check empty ranges go).Indexed := by
  refine .ite h (.ite h.matrixFault ?_)
  split
  · exact h.matrixFault
  · refine .ite h.endWord ?_
    split
    · exact h.others
    · exact State.Indexed.ite (hgo _ _ _ h) h.beginWord

theorem indexed_mma {m : MMode} {a b k : BitVec 4} {tr : BitVec 3} {tc : BitVec 4} {cb : BitVec 7} (h : s.Indexed) :
    (execMma m a b k tr tc cb s).Indexed := indexed_jobWord h fun _ _ _ h => h.kStep

theorem indexed_mst {f : SFmt} {cr : Bool} {a k x : BitVec 4} {tr : BitVec 3} {tc : BitVec 4} {cb : BitVec 7} {bar : BitVec 4}
    (h : s.Indexed) : (execMst f cr a k x tr tc cb bar s).Indexed := indexed_jobWord h fun _ _ _ h => h.storeStep

theorem indexed_mmaKStep (h : s.Indexed) : (execMmaKStep s).Indexed := by
  unfold execMmaKStep
  split
  · refine .ite ?_ h
    split
    · exact h.kStep
    · exact h.matrixFault
  · exact h

theorem indexed_mstRow (h : s.Indexed) : (execMstRow s).Indexed := by
  unfold execMstRow
  split
  · refine .ite ?_ h
    split
    · exact h.storeStep
    · exact h.matrixFault
  · exact h

/-! ## Barriers, steering and the end of a stream -/

theorem indexed_mwait {bar x : BitVec 4} {i : BitVec 16} (h : s.Indexed) : (execMwait bar x i s).Indexed := by
  refine indexed_matrixWord h ?_
  dsimp only
  split
  · trivial
  · generalize Barrier.passed _ _ = b
    cases b
    · trivial
    · exact h.acquireBar

theorem indexed_marv {bar : BitVec 4} (h : s.Indexed) : (execMarv bar s).Indexed := indexed_matrixWord h h.seqArrive

theorem indexed_mend {bar : BitVec 4} (h : s.Indexed) : (execMend bar s).Indexed := by
  refine .ite h ?_
  split
  · exact h.matrixFault
  · exact h
  · next ht => exact State.Indexed.others (h.seqArrive.ok ht)

theorem indexed_matrixJump {target : Int} {eff : Seq → Seq} (h : s.Indexed) : (matrixJump s target eff).Indexed :=
  .ite h (.ite h.matrixFault h.others)

theorem indexed_mbr {i : BitVec 16} (h : s.Indexed) : (execMbr i s).Indexed := indexed_matrixJump h

theorem indexed_mloop {x : BitVec 4} {i : BitVec 16} (h : s.Indexed) : (execMloop x i s).Indexed :=
  .ite (indexed_matrixJump h) (indexed_matrixJump h)

theorem indexed_mstart {a : SReg} {i : BitVec 20} (h : s.Indexed) : (execMstart a i s).Indexed :=
  indexed_scalarWord h (OkHas.ite trivial (.ite trivial (.ite trivial h.latch.others)))

namespace State.Indexed

theorem endStream (h : s.Indexed) : s.endStream.Indexed := .ite h (seqEnd (others (h.foldl fun _ _ h => h.endTrap)))

theorem seqPreempt {w : Nat} (h : s.Indexed) : (s.seqPreempt w).Indexed := by
  unfold State.seqPreempt
  split
  · exact h
  · split
    · exact h
    · split
      · exact h.dropJob.modWg
      · exact modWg h.others

/-! ## System words -/

theorem resumeStopper {v : Saved} (h : s.Indexed) : (s.resumeStopper v).Indexed := by
  have hseq : (if v.seq then s.seqGoOn s.wg.id v.tslot else s).Indexed := .ite h.seqGoOn h
  unfold State.resumeStopper
  dsimp only
  split
  · exact hseq.others
  · exact hseq

theorem resumeAt {v : Saved} {pc : Option Nat} (h : s.Indexed) : (s.resumeAt v pc).Indexed := h.resumeStopper.others

theorem setZr (h : s.Indexed) : s.setZr.Indexed := .ite h.others h

theorem poisonHeld {w gid : Nat} (h : s.Indexed) : (s.poisonHeld w gid).Indexed := by
  unfold State.poisonHeld
  split
  · exact h
  · exact retireHeld (publish (.ite h.resumeStoppers.endTrap h))

theorem poisonTrap {t : TSlot} (h : s.Indexed) : (s.poisonTrap t).1.Indexed := by
  unfold State.poisonTrap
  split
  · exact h
  · split
    · dsimp only
      split
      · exact h.poisonHeld
      · exact h.poisonHeld.modGroup
    · exact h.endTrap.retireParked
    · exact h

theorem reenter {t : State} (ht : t.Indexed) : OkHas State.Indexed (s.reenter t) := .map_all fun _ => ht.others

theorem sysWrite {n : Nat} {v : Word} (h : s.Indexed) : OkHas State.Indexed (s.sysWrite n v) := by
  unfold State.sysWrite
  split
  · exact h.others
  · exact h.others
  · exact h.others
  · exact h.others
  · exact ite h.endStream h
  · exact ite h.others h
  · exact .ite trivial (.ite trivial h.others)
  · trivial

end State.Indexed

theorem indexed_trap {i : BitVec 20} (h : s.Indexed) : (execTrap i s).Indexed := .ite h.takeFault h.scalarWait

theorem indexed_halt (h : s.Indexed) : (execHalt s).Indexed := .ite h.haltLaunch h.scalarWait

theorem indexed_srr {d : SReg} {n : BitVec 12} (h : s.Indexed) : (execSrr d n s).Indexed :=
  .ite h.scalarWait (indexed_scalarWord h h.others)

theorem indexed_srw {a : SReg} {n : BitVec 12} (h : s.Indexed) : (execSrw a n s).Indexed :=
  indexed_scalarWord h (h.sysWrite.map fun _ h => h.latch)

theorem indexed_hretWord {poisons : Bool} {eff : State → Saved → Option (Except SFault State)} (h : s.Indexed)
    (he : ∀ v, TryIndexed (eff s v)) : (hretWord s poisons eff).Indexed := by
  refine .ite h.scalarWait ?_
  split
  · exact h.scalarFault
  · next v _ =>
    refine .ite h.scalarFault ?_
    have hv := he v
    split
    · exact h
    · exact h.scalarFault
    · next heq =>
      rw [heq] at hv
      exact hv

theorem indexed_hret (h : s.Indexed) : (execHret s).Indexed := by
  refine indexed_hretWord h fun v => OkHas.ite ?_ (.ite ?_ h.resumeAt)
  · exact .map_all fun _ => h.resumeAt
  · exact .map_all fun _ => h.resumeAt

theorem indexed_hretPoison (h : s.Indexed) : (execHretPoison s).Indexed := by
  refine indexed_hretWord h fun v => ?_
  dsimp only
  split
  · trivial
  · have hpub : (s.publish s.wg.id s.g.gid).Indexed := h.publish
    refine OkHas.ite ?_ (State.Indexed.reenter (.ite hpub hpub.poisonHeld))
    split
    · exact hpub.resumeAt
    · exact .ite (State.Indexed.reenter hpub.resumeStopper.poisonTrap) hpub.resumeStopper.poisonTrap.resumeAt

theorem indexed_hretZero (h : s.Indexed) : (execHretZero s).Indexed := by
  refine indexed_hretWord h fun v => OkHas.ite ?_ ?_
  · split
    · exact h.zeroResume.resumeAt
    · exact h.resumeAt
  · exact .map_all fun _ => .others (.resumeAt (.ite h h.setZr))

end Sys2Proof.Machine
end

section
/-! PROOFS. The order of the containment table through frames and page tables, queues, commands, launches, and the switches of tenants (07
R104, R108, 23 R309 to R329, 24 R339 to R345). -/
namespace Sys2Proof.Machine

variable {s : State}

/-! ## Frames and page tables -/

namespace State.Indexed

variable {u : State}

theorem newFrame {t d : Nat} {prot table : Bool} (h : s.Indexed) (hu : s.newFrame t prot table = some (u, d)) : u.Indexed := by
  unfold State.newFrame at hu
  split at hu
  · cases hu
    exact h.others
  · cases hu

theorem hostFrame {t addr d : Nat} (h : s.Indexed) (hu : s.hostFrame t addr = some (u, d)) : u.Indexed := by
  unfold State.hostFrame at hu
  split at hu
  · cases hu
  · simp only [Option.some.injEq, Prod.mk.injEq] at hu
    obtain ⟨rfl, -⟩ := hu
    exact h.others

theorem dropFrame {d : Nat} (h : s.Indexed) : (s.dropFrame d).Indexed := by
  unfold State.dropFrame
  split
  · exact h
  · exact others (others (.ite h.others h))

theorem hostWrite {a : Nat} {bs : List Byte} (h : s.Indexed) : (s.hostWrite a bs).Indexed := h.foldl fun _ _ h => h.others

theorem nextTable {t tbl level va d : Nat} (h : s.Indexed) (hu : s.nextTable t tbl level va = some (u, d)) : u.Indexed := by
  unfold State.nextTable at hu
  dsimp only at hu
  split at hu
  · cases hu
    exact h
  · obtain ⟨⟨w, e⟩, hw, heq⟩ := Option.map_eq_some_iff.mp hu
    cases heq
    exact (h.newFrame hw).others

theorem mapPage {t va dfn : Nat} {wr x : Bool} (h : s.Indexed) (hu : s.mapPage t va dfn wr x = some u) : u.Indexed := by
  unfold State.mapPage at hu
  split at hu
  · cases hu
  · next hupper =>
    split at hu
    · cases hu
    · next hlower =>
      cases hu
      exact ((h.nextTable hupper).nextTable hlower).others

theorem tinval {t va len : Nat} (h : s.Indexed) : (s.tinval t va len).Indexed := h.others.foldl fun _ _ h => h.modWg

/-! ## Queues and the journal -/

theorem settleQueue {t q : Nat} (h : s.Indexed) : (s.settleQueue t q).Indexed := by
  unfold State.settleQueue
  split
  · exact .ite h.others h
  · exact h

theorem completeCmd {c : CmdRef} {cs : BitVec 8} {lid grid late : Nat} (h : s.Indexed) : (s.completeCmd c cs lid grid late).Indexed :=
  settleQueue h.others

theorem writeRecord {r : BitVec 256 × CmdRef} (h : s.Indexed) : (s.writeRecord r).Indexed := by
  unfold State.writeRecord
  split
  · exact h
  · dsimp only
    split
    · exact .ite h.hostWrite.others h
    · split
      · exact h.batch.others
      · exact h.batch.others
      · exact h

theorem mirrorNext (h : s.Indexed) : s.mirrorNext.Indexed := by
  unfold State.mirrorNext
  split
  · exact h
  · dsimp only
    split
    · exact writeRecord h.others
    · exact h.others

theorem readRing {x : Queue} (h : s.Indexed) : (s.readRing x).Indexed := by
  unfold State.readRing
  split
  · exact .ite h.others h
  · exact hostWrite h.others

theorem queueTurn {t q : Nat} (h : s.Indexed) : (s.queueTurn t q).1.Indexed := by
  unfold State.queueTurn
  split
  · exact h
  · split
    · exact h
    · split
      · exact h.readRing
      · split
        · exact h
        · split <;> exact completeCmd h.others

theorem takeNotify {fn q : Nat} {v : DWord} (h : s.Indexed) : (s.takeNotify fn q v).Indexed := by
  unfold State.takeNotify
  split
  · exact h
  · exact .ite h.others h.others

theorem notify {fn q : Nat} {v : DWord} (h : s.Indexed) : (s.notify fn q v).Indexed := by
  unfold State.notify
  split
  · exact .ite h.others h.takeNotify
  · exact h

end State.Indexed

/-- In the state in which a command waits or is done the table is in order. -/
def CmdOut.Indexed : CmdOut → Prop
  | .wait t => t.Indexed
  | .done t _ => t.Indexed

theorem CmdOut.Indexed.ite {c : Prop} [Decidable c] {a b : CmdOut} (ha : a.Indexed) (hb : b.Indexed) :
    (if c then a else b).Indexed := by
  split
  · exact ha
  · exact hb

theorem indexed_cmdWord {c : CmdRef} {eff : State → CmdOut} (h : s.Indexed) (he : (eff s).Indexed) : (cmdWord s c eff).Indexed := by
  unfold cmdWord
  split
  · exact h
  · split
    · exact h
    · refine .ite ?_ h
      cases hr : eff s with
      | wait t =>
        rw [hr] at he
        exact he
      | done t cs =>
        rw [hr] at he
        exact State.Indexed.completeCmd (State.Indexed.others he)

theorem indexed_notify {fn q : Nat} {v : DWord} (h : s.Indexed) : (execNotify fn q v s).Indexed := by
  unfold execNotify
  split
  · exact .ite h.others (.ite h (.ite h.others h.notify))
  · exact h

theorem indexed_queueEnable {fn q : Nat} (h : s.Indexed) : (execQueueEnable fn q s).Indexed := by
  unfold execQueueEnable
  split
  · exact h
  · exact .ite h (State.Indexed.hostWrite h.others)

theorem indexed_queueDisable {fn q : Nat} (h : s.Indexed) : (execQueueDisable fn q s).Indexed := by
  unfold execQueueDisable
  split
  · exact h
  · exact .ite (State.Indexed.settleQueue h.others) h

/-! ## Launches: acceptance, end and admission -/

namespace State.Indexed

theorem touchSpan {t va n : Nat} (h : s.Indexed) : (s.touchSpan t va n).Indexed := by
  refine h.foldl fun s p h => ?_
  split
  · exact h.others
  · exact h

theorem askAs {gid lid : Nat} {frames : List Nat} (h : s.Indexed) : (s.askAs gid lid frames).Indexed := .ite h h.others

theorem hostAsk {lid : Nat} {frames : List Nat} (h : s.Indexed) : (s.hostAsk lid frames).Indexed := h.askAs

theorem touchLaunch {t va : Nat} {d : Desc} (h : s.Indexed) : (s.touchLaunch t va d).Indexed := h.foldl fun _ _ h => h.touchSpan

theorem cancelCmd {k : Cmd} (h : s.Indexed) : (s.cancelCmd k).Indexed := completeCmd h.others

theorem abortLaunch {k : Cmd} (h : s.Indexed) : (s.abortLaunch k).Indexed := cancelCmd h.others

theorem zeroOwned {ticket : BitVec 21} (h : s.Indexed) : (s.zeroOwned ticket).Indexed := h.foldl fun _ _ h => others (raiseTile h.others)

theorem tenantLeaves {t : Nat} (h : s.Indexed) : (s.tenantLeaves t).Indexed := .ite h h.others

theorem tenantsLeave (h : s.Indexed) : s.tenantsLeave.Indexed := h.foldl fun _ _ h => h.tenantLeaves

theorem endLaunch {lid : Nat} {rejected : Bool} (h : s.Indexed) : (s.endLaunch lid rejected).Indexed := by
  unfold State.endLaunch
  lift_lets
  extract_lets t
  have ht : t.Indexed := by
    unfold t
    split
    · exact .ite h.modLaunch (.ite h h.dropParked)
    · exact h
  clear_value t
  split
  · exact ht
  · next l _ =>
    have hgone : ∀ f q g, (((((t.zeroOwned l.ticket).dropGang lid).modLaunch lid f).modQueue l.cmd.tenant q g)).Indexed :=
      fun _ _ _ => others (modLaunch ht.zeroOwned.others)
    exact tenantsLeave (others (.ite (hgone _ _ _) (.ite (hgone _ _ _).completeCmd (hgone _ _ _).completeCmd)))

theorem cancelLaunch {lid : Nat} {dev : Bool} (h : s.Indexed) : (s.cancelLaunch lid dev).Indexed := by
  unfold State.cancelLaunch
  split
  · exact h
  · exact .ite h.haltLaunch.endLaunch h.haltLaunch

theorem startWg {l : Launch} {id k core age : Nat} (h : s.Indexed) : (s.startWg l id k core age).Indexed :=
  .ite (modCore h.others) (modCore h.others)

theorem tenantBack {t : Nat} (h : s.Indexed) : (s.tenantBack t).Indexed := askAs (askAs h.others)

theorem startLaunch {l : Launch} {cs : List Nat} (h : s.Indexed) : (s.startLaunch l cs).Indexed :=
  others (others (modLaunch (foldl (.ite h h.tenantBack) fun _ _ h => h.startWg)))

end State.Indexed

theorem indexed_launch {c : CmdRef} {va : DWord} (h : s.Indexed) : (execLaunch c va s).Indexed := by
  unfold execLaunch
  split
  · exact h
  · split
    · exact h
    · refine .ite h (.ite h.abortLaunch ?_)
      dsimp only
      split
      · exact h.hostAsk
      · exact State.Indexed.completeCmd h.others
      · exact State.Indexed.askAs (.others (.others (.others (.others (.touchLaunch h)))))

theorem indexed_launchEnd (h : s.Indexed) : (execLaunchEnd s).Indexed := .ite h.endLaunch h

theorem indexed_cancel {c : CmdRef} {lid : Word} (h : s.Indexed) : (execCancel c lid s).Indexed := by
  refine indexed_cmdWord h ?_
  split
  · exact .ite h.cancelLaunch h
  · split
    · exact h.cancelCmd
    · exact h

theorem indexed_admission {lid : Nat} (h : s.Indexed) : (execAdmission lid s).Indexed := by
  unfold execAdmission
  split
  · exact h
  · refine .ite (.ite ?_ h.others) h
    split
    · exact h.others
    · exact .ite (State.Indexed.startLaunch h.others) (State.Indexed.endLaunch h.others)

/-! ## The other commands -/

namespace State.Indexed

variable {u : State}

theorem frameFor {t o d w4 : Nat} {f : MapFlags} (h : s.Indexed) (hu : s.frameFor t o f w4 = some (u, d)) : u.Indexed := by
  unfold State.frameFor at hu
  split at hu
  · obtain ⟨w, -, heq⟩ := Option.map_eq_some_iff.mp hu
    cases heq
    exact h
  · split at hu
    · exact h.hostFrame hu
    · exact h.newFrame hu

theorem mapOne {t va o w4 : Nat} {f : MapFlags} (h : s.Indexed) (hu : s.mapOne t va o f w4 = some u) : u.Indexed := by
  unfold State.mapOne at hu
  split at hu
  · cases hu
    exact h.others
  · split at hu
    · next hf => exact (h.frameFor hf).mapPage hu
    · cases hu

theorem mapAll {t va w4 : Nat} {f : MapFlags} {os : List Nat} (h : s.Indexed) (hu : s.mapAll t va f w4 os = some u) : u.Indexed := by
  induction os generalizing s with
  | nil =>
    cases hu
    exact h
  | cons o os ih =>
    unfold State.mapAll at hu
    split at hu
    · next ho => exact ih (h.mapOne ho) hu
    · cases hu

/-- A frame that is unmapped withdraws its tile. -/
theorem untile {d : Nat} (h : s.Indexed) : (s.untile d).Indexed := by
  unfold State.untile
  split
  · exact h
  · split
    · split
      · next hw => exact h.withdraw.ok hw
      · exact h
    · exact h

theorem unmapOne {t va : Nat} (h : s.Indexed) : (s.unmapOne t va).Indexed := by
  unfold State.unmapOne
  split
  · exact .ite h.others (dropFrame (untile h.others))
  · exact h

theorem advance {p : Timer} {skipped : Bool} (h : s.Indexed) : (s.advance p skipped).Indexed := by
  unfold State.advance
  lift_lets
  extract_lets _ _ t
  have ht : t.Indexed := by
    unfold t
    split
    · exact h.batch
    · exact h
  exact .ite ht.others ht.others

end State.Indexed

theorem indexed_map {c : CmdRef} {va len flags w4 : DWord} (h : s.Indexed) : (execMap c va len flags w4 s).Indexed := by
  refine indexed_cmdWord h (.ite h (.ite h (.ite h ?_)))
  split
  · next hm => exact (h.mapAll hm).tinval
  · exact h

theorem indexed_unmap {c : CmdRef} {va len : DWord} (h : s.Indexed) : (execUnmap c va len s).Indexed :=
  indexed_cmdWord h (.ite h (.ite h (State.Indexed.tinval (h.foldl fun _ _ h => h.unmapOne))))

theorem indexed_tinval {c : CmdRef} {va len : DWord} (h : s.Indexed) : (execTinval c va len s).Indexed := indexed_cmdWord h h.tinval

theorem indexed_drain {c : CmdRef} (h : s.Indexed) : (execDrain c s).Indexed := indexed_cmdWord h (.ite h h)

theorem indexed_disarm {c : CmdRef} {num : BitVec 13} (h : s.Indexed) : (execDisarm c num s).Indexed := indexed_cmdWord h h.others

theorem indexed_arm {c : CmdRef} {va : DWord} (h : s.Indexed) : (execArm c va s).Indexed := by
  refine indexed_cmdWord h (.ite h ?_)
  split
  · exact h
  · exact h.hostAsk
  · dsimp only
    split
    · exact h.touchSpan
    · exact .ite h.touchSpan h.touchSpan.others

theorem indexed_timerRelease {tenant num : Nat} (h : s.Indexed) : (execTimerRelease tenant num s).Indexed := by
  have hskip : ∀ p, (s.skipRelease p).Indexed := fun _ => State.Indexed.advance h.others
  unfold execTimerRelease
  split
  · exact h
  · refine .ite h ?_
    split
    · exact hskip _
    · refine .ite (hskip _) ?_
      split
      · exact hskip _
      · exact h.hostAsk
      · exact .ite (hskip _) (State.Indexed.advance (.others (.others h.touchSpan.others)))

/-! ## Slices, stops and the exchange -/

theorem indexed_heartbeatTick (h : s.Indexed) : (execHeartbeatTick s).Indexed := .ite h h.others

theorem indexed_periodBoundary (h : s.Indexed) : (execPeriodBoundary s).Indexed := .ite h h.others

theorem indexed_sliceStart (h : s.Indexed) : (execSliceStart s).Indexed := by
  refine .ite h (State.Indexed.tenantsLeave (h.others.foldl fun _ _ h => ?_))
  split
  · exact h.others
  · exact h

namespace State.Indexed

theorem stopWg {w : Workgroup} {t : Nat} (h : s.Indexed) : (s.stopWg w t).Indexed := modCore (seqPreempt (modWg h.others))

theorem stopGangs {p : Launch → Bool} (h : s.Indexed) : (s.stopGangs p).Indexed := h.foldl fun _ _ h => h.stopWg

theorem haltCore {c : Nat} (h : s.Indexed) : (s.haltCore c).Indexed := h.modCore

theorem switchOut {ws : List Workgroup} (h : s.Indexed) : (s.switchOut ws).Indexed := h.others.foldl fun _ _ h => h.modWg

theorem rebind {c w gid : Nat} (h : s.Indexed) : (s.rebind c w gid).Indexed := by
  refine h.foldl fun _ _ h => ?_
  split
  · exact .ite h.modGroup h
  · exact h

theorem restartWg {w : Nat} (h : s.Indexed) : (s.restartWg w).Indexed := by
  unfold State.restartWg
  exact h.modWg.others

theorem switchIn {ws : List Workgroup} (h : s.Indexed) : (s.switchIn ws).Indexed :=
  foldl (h.foldl fun _ _ h => h.modWg) fun _ _ h => restartWg (h.foldl fun _ _ h => h.rebind)

theorem saveImages {core : Nat} (h : s.Indexed) : (s.saveImages core).Indexed := modCore (h.foldl fun _ _ h => h.modWg)

end State.Indexed

theorem indexed_coreHalt {core : Nat} (h : s.Indexed) : (execCoreHalt core s).Indexed := by
  unfold execCoreHalt
  split
  · exact h
  · exact .ite h.haltCore h

theorem indexed_stopTimeout {core : Nat} (h : s.Indexed) : (execStopTimeout core s).Indexed := by
  unfold execStopTimeout
  split
  · exact h
  · refine .ite (State.Indexed.haltCore (h.foldl fun _ _ h => ?_)) h
    split
    · exact State.Indexed.haltLaunch h.others
    · exact h

theorem indexed_shadowExchange {core : Nat} (h : s.Indexed) : (execShadowExchange core s).Indexed := by
  unfold execShadowExchange
  split
  · exact h
  · extract_lets _ _ _ _ _ _ _ _ _ _ _ _ s5 s6
    refine .ite h ?_
    have h5 : s5.Indexed := State.Indexed.modCore (.foldl (.switchIn (.switchOut h.modWgs)) fun _ _ h => h.restartWg)
    have h6 : s6.Indexed := by
      unfold s6
      split
      · exact h5.tenantLeaves
      · exact h5
    clear_value *
    refine State.Indexed.others (.tenantsLeave ?_)
    split
    · exact .ite h6 h6.tenantBack
    · exact h6

theorem indexed_imageStage {core tenant : Nat} (h : s.Indexed) : (execImageStage core tenant s).Indexed := by
  unfold execImageStage
  split
  · exact h
  · exact .ite h h.modWgs.modCore

theorem indexed_hallRevocation {hall : Nat} (h : s.Indexed) : (execHallRevocation hall s).Indexed := by
  unfold execHallRevocation
  split
  · split
    · exact State.Indexed.tenantsLeave (.stopGangs h.others)
    · exact h
  · exact h

theorem indexed_hallScrub {hall : Nat} (h : s.Indexed) : (execHallScrub hall s).Indexed := by
  unfold execHallScrub
  split
  · exact .ite h (State.Indexed.tenantsLeave (.others (h.foldl fun _ _ h => h.modCore)))
  · exact h

theorem indexed_interruptDelivery {fn : Nat} (h : s.Indexed) : (execInterruptDelivery fn s).Indexed := by
  unfold execInterruptDelivery
  split
  · exact h
  · split
    · exact h
    · exact .ite h.others (.ite h (.ite h.others h.others))

end Sys2Proof.Machine
end

section
/-! PROOFS. The order of the containment table through contexts and namespaces, the registers, trust, the management cores, power, migration
and service, and the fetch (23 R314, R330, 25, 26, 28). -/
namespace Sys2Proof.Machine

variable {s : State}

/-! ## Teardown, contexts and namespaces -/

namespace State.Indexed

theorem tearLaunches {lids : List Nat} (h : s.Indexed) : (s.tearLaunches lids).Indexed :=
  foldl (meetPorters (h.foldl fun _ _ h => h.haltLaunch)) fun _ _ h => h.endLaunch

theorem teardown {t : Nat} (h : s.Indexed) : (s.teardown t).Indexed := by
  unfold State.teardown
  extract_lets _ _ _ _ s1 s2 _ s3
  have h1 : s1.Indexed := others (others (h.tearLaunches.foldl fun _ _ h => h.abortLaunch))
  have h2 : s2.Indexed := h1.foldl fun _ _ h => h.dropFrame
  have h3 : s3.Indexed := .ite h2.others.others h2
  exact h3.freeTree.others

theorem abortQueue {x : Queue} (h : s.Indexed) : (s.abortQueue x).Indexed := others (h.foldl fun _ _ h => h.others)

theorem newRoot {t d : Nat} {u : State} (h : s.Indexed) (hu : s.newRoot t = some (u, d)) : u.Indexed := by
  unfold State.newRoot at hu
  split at hu
  · dsimp only at hu
    split at hu
    · cases hu
      exact h.others
    · cases hu
  · cases hu

theorem createCtx {t : Nat} (h : s.Indexed) : OkHas State.Indexed (s.createCtx t) := by
  refine .ite trivial (.ite trivial (.ite trivial ?_))
  split
  · trivial
  · next hr => exact (h.newRoot hr).others

theorem holdKey {n owner : Nat} {slot : Option Nat} {key : BitVec 256} (h : s.Indexed) : (s.holdKey n owner slot key).Indexed := by
  unfold State.holdKey
  dsimp only
  split <;> exact h.others

theorem dropKey {n : Nat} (h : s.Indexed) : (s.dropKey n).Indexed := by
  unfold State.dropKey
  split <;> exact h.others

end State.Indexed

theorem indexed_contextCreate {t : Nat} (h : s.Indexed) : (execContextCreate t s).Indexed := by
  refine .ite h ?_
  split
  · next hc => exact h.createCtx.ok hc
  · exact h.others

theorem indexed_contextDelete {t : Nat} (h : s.Indexed) : (execContextDelete t s).Indexed := by
  have hqueues : ∀ r r' (qs : List Queue), (qs.foldl State.abortQueue (((s.teardown t).dropFrame r).dropFrame r')).Indexed :=
    fun _ _ _ => h.teardown.dropFrame.dropFrame.foldl fun _ _ h => h.abortQueue
  refine .ite h (.ite h.others ?_)
  exact State.Indexed.others (.ite (.others (.others (hqueues _ _ _))) (.others (hqueues _ _ _)))

theorem indexed_namespaceCreate {n : Nat} (h : s.Indexed) : (execNamespaceCreate n s).Indexed :=
  .ite h (.ite h.others (.ite h.others (State.Indexed.others (.holdKey h.others))))

theorem indexed_namespaceDelete {n : Nat} (h : s.Indexed) : (execNamespaceDelete n s).Indexed :=
  .ite h (.ite h.others (.ite h.others (State.Indexed.others (State.Indexed.others h.dropKey))))

theorem indexed_functionLevelReset {fn : Nat} (h : s.Indexed) : (execFunctionLevelReset fn s).Indexed := by
  unfold execFunctionLevelReset
  split
  · exact h
  · refine State.Indexed.foldl (.others (.others (.others (.foldl (.foldl h ?_) ?_)))) fun _ _ h => h.modLaunch.cancelLaunch
    · exact fun _ _ h => h.others
    · exact fun _ _ h => h.abortQueue

/-! ## Registers -/

namespace State.Indexed

theorem toError {fn : Nat} {cause : BitVec 4} (h : s.Indexed) : (s.toError fn cause).Indexed :=
  foldl (h.others.foldl fun _ _ h => h.cancelLaunch) fun _ _ h => h.abortLaunch

theorem lockedWrite {fn : Nat} {same : Bool} {eff : State → State} (h : s.Indexed) (he : (eff s).Indexed) :
    (s.lockedWrite fn same eff).Indexed := by
  unfold State.lockedWrite
  split
  · exact h
  · exact .ite h (.ite h.toError he)

theorem queueWrite {fn : Nat} {x : Queue} {off : Nat} {v : DWord} (h : s.Indexed) : (s.queueWrite fn x off v).Indexed := by
  unfold State.queueWrite
  dsimp only
  split
  · exact h.lockedWrite h.others
  · exact .ite h (h.lockedWrite h.others)
  · exact h.lockedWrite h.others
  · exact h.lockedWrite h.others
  · exact h

theorem pfWrite {off : Nat} {v : DWord} (h : s.Indexed) : (s.pfWrite off v).Indexed :=
  .ite h.others (.ite h.others (.ite h.others (.ite h.others h)))

/-! ## Trust -/

theorem tdispMsg {fn : Nat} {eff : Func → State} (h : s.Indexed) (he : ∀ f, (eff f).Indexed) : (s.tdispMsg fn eff).Indexed := by
  unfold State.tdispMsg
  split
  · exact .ite h (he _)
  · exact h

theorem vaultReq {session slot : Nat} {eff : Nat → Session → Option VaultKey → Option State} (h : s.Indexed)
    (he : ∀ t x k u, eff t x k = some u → u.Indexed) : (s.vaultReq session slot eff).Indexed := by
  unfold State.vaultReq
  split
  · exact h
  · split
    · next hu =>
      obtain ⟨f, -, hf⟩ := Option.bind_eq_some_iff.mp hu
      dsimp only at hf
      split at hf
      · exact others (others (he _ _ _ _ hf))
      · cases hf
    · exact h.others

end State.Indexed

theorem indexed_registerWrite {fn off : Nat} {v : DWord} (h : s.Indexed) : (execRegisterWrite fn off v s).Indexed := by
  unfold execRegisterWrite
  split
  · exact h
  · refine .ite ?_ (.ite h.pfWrite (.ite h.others h))
    split
    · exact h.queueWrite
    · exact h

theorem indexed_pwrlimWrite {v : Word} (h : s.Indexed) : (execPwrlimWrite v s).Indexed := .ite h h.others

theorem indexed_configWrite {fn reg : Nat} {v : DWord} (h : s.Indexed) : (execConfigWrite fn reg v s).Indexed := h.lockedWrite h.others

theorem indexed_lockInterfaceRequest {fn : Nat} (h : s.Indexed) : (execLockInterfaceRequest fn s).Indexed :=
  h.tdispMsg fun _ => .ite h.others h

theorem indexed_startInterfaceRequest {fn : Nat} (h : s.Indexed) : (execStartInterfaceRequest fn s).Indexed :=
  h.tdispMsg fun _ => .ite h.others h.others

theorem indexed_firmwareInterfaceError {fn : Nat} (h : s.Indexed) : (execFirmwareInterfaceError fn s).Indexed :=
  h.tdispMsg fun _ => h.toError

theorem indexed_stopInterfaceRequest {fn : Nat} (h : s.Indexed) : (execStopInterfaceRequest fn s).Indexed :=
  h.tdispMsg fun _ => .others (.ite h.teardown.others h)

theorem indexed_ideStreamEstablish {fn : Nat} (h : s.Indexed) : (execIdeStreamEstablish fn s).Indexed := by
  unfold execIdeStreamEstablish
  split
  · exact h.others
  · exact h

theorem indexed_ideLoss {fn : Nat} (h : s.Indexed) : (execIdeLoss fn s).Indexed := by
  unfold execIdeLoss
  split
  · exact h
  · exact .ite (State.Indexed.ite h.others (.toError h.others)) h

theorem indexed_keyImport {session slot : Nat} {use : KeyUse} {ex : Bool} {key : BitVec 256} (h : s.Indexed) :
    (execKeyImport session slot use ex key s).Indexed := h.vaultReq fun _ _ _ _ hu => Option.some.inj hu ▸ h.others

theorem indexed_keyDelete {session slot : Nat} (h : s.Indexed) : (execKeyDelete session slot s).Indexed :=
  h.vaultReq fun _ _ _ _ hu => Option.some.inj hu ▸ h.others

theorem indexed_keyWrappedImport {session slot : Nat} {blob : List Byte} (h : s.Indexed) :
    (execKeyWrappedImport session slot blob s).Indexed := by
  refine h.vaultReq fun _ _ _ _ hu => ?_
  obtain ⟨k, -, rfl⟩ := Option.map_eq_some_iff.mp hu
  exact h.others

theorem indexed_keyExport {session slot : Nat} (h : s.Indexed) : (execKeyExport session slot s).Indexed := by
  refine h.vaultReq fun _ _ _ _ hu => ?_
  obtain ⟨k, -, hk⟩ := Option.bind_eq_some_iff.mp hu
  split at hk
  · cases hk
    exact h.others
  · cases hk

theorem indexed_streamOpen {session stream slot : Nat} {fixed : Word} (h : s.Indexed) :
    (execStreamOpen session stream slot fixed s).Indexed := by
  refine h.vaultReq fun _ _ _ _ hu => ?_
  split at hu
  · cases hu
    exact h.others
  · cases hu

theorem indexed_getMeasurements {fn index : Nat} (h : s.Indexed) : (execGetMeasurements fn index s).Indexed := by
  unfold execGetMeasurements
  split
  · exact h
  · split <;> exact h.others

theorem indexed_keyExchange {fn id : Nat} {version : Byte} {key : List Byte} (h : s.Indexed) :
    (execKeyExchange fn id version key s).Indexed := .ite h (.ite h.others (.ite h.others h.others))

theorem indexed_spdmSessionEnd {id : Nat} (h : s.Indexed) : (execSpdmSessionEnd id s).Indexed := h.others

theorem indexed_bootStage {key sig image : List Byte} (h : s.Indexed) : (execBootStage key sig image s).Indexed :=
  .ite h (.ite h.others (.ite h.others (State.Indexed.ite h.others h.others)))

/-! ## Management cores -/

namespace State.Indexed

theorem mgmtPut {addr : Nat} {bs : List Byte} {u : State} (h : s.Indexed) (hu : s.mgmtPut addr bs = some u) : u.Indexed := by
  unfold State.mgmtPut at hu
  dsimp only at hu
  split at hu
  · cases hu
    exact h.batch
  · split at hu
    · cases hu
      exact h.others
    · cases hu

theorem mgmtLoad {k addr n : Nat} (h : s.Indexed) : OkHas (fun r : State × Nat => r.1.Indexed) (s.mgmtLoad k addr n) := by
  refine .ite trivial ?_
  split
  · exact h.others
  · exact ite h.others h
  · trivial

theorem mgmtStore {k addr n : Nat} {v : DWord} (h : s.Indexed) : OkHas State.Indexed (s.mgmtStore k addr n v) := by
  refine .ite trivial ?_
  split
  · exact h.others
  · next hu => exact h.others.mgmtPut hu
  · trivial

theorem mgmtDo {k len : Nat} {o : RvOut} (h : s.Indexed) : (s.mgmtDo k len o).Indexed := by
  cases o with
  | next m =>
    unfold State.mgmtDo
    exact h.others
  | trap c v => exact h.others
  | load rd addr n signed =>
    unfold State.mgmtDo
    dsimp only
    split
    · next hl => exact others (h.mgmtLoad.ok hl)
    · exact h.others
  | store addr n v =>
    unfold State.mgmtDo
    dsimp only
    split
    · next hl => exact others (h.mgmtStore.ok hl)
    · exact h.others
  | lr rd addr n =>
    unfold State.mgmtDo
    dsimp only
    split
    · next hl => exact others (others (h.mgmtLoad.ok hl))
    · exact h.others
  | sc rd addr n v =>
    refine .ite ?_ h.others
    split
    · next hl => exact others (State.Indexed.mgmtStore h.others |>.ok hl)
    · exact h.others
  | amo f5 rd addr n v =>
    unfold State.mgmtDo
    dsimp only
    split
    · exact .ite h.others h.others
    · exact h.others
    · split
      · next hl => exact others (h.mgmtStore.ok hl)
      · exact h.others

theorem mgmtStep {k : Nat} {insn : Word} (h : s.Indexed) : (s.mgmtStep k insn).Indexed := by
  refine .ite h.others ?_
  split
  · exact h.mgmtDo
  · exact h.others

end State.Indexed

/-! ## Power -/

/-- The table is empty after reset. -/
theorem State.indexed_reset {m : Mem} {ts : List Turn} {n : Nat} {d : Dev} :
    ({ State.reset with hmem := m, turns := ts, free := n, dev := d } : State).Indexed :=
  ⟨.nil, Nat.zero_le _⟩

theorem indexed_powerLoss : (execPowerLoss s).Indexed := State.indexed_reset

theorem indexed_powerGood (h : s.Indexed) : (execPowerGood s).Indexed := .ite h State.indexed_reset

theorem indexed_powerCap (h : s.Indexed) : (execPowerCap s).Indexed := .ite h.others h

theorem indexed_demandWithinWatts (h : s.Indexed) : (execDemandWithinWatts s).Indexed := .ite h.others h

theorem indexed_d3hotExit (h : s.Indexed) : (execD3hotExit s).Indexed := .ite h.others h

theorem indexed_sriovEnable {n : Nat} (h : s.Indexed) : (execSriovEnable n s).Indexed := .ite h.others h

theorem indexed_d3hotEntry (h : s.Indexed) : (execD3hotEntry s).Indexed :=
  .ite h (State.Indexed.others (h.foldl fun _ _ h => h.mirrorNext))

/-! ## Migration -/

theorem indexed_vfPause {fn : Nat} (h : s.Indexed) : (execVfPause fn s).Indexed := by
  unfold execVfPause
  split
  · exact h
  · exact .ite h (State.Indexed.stopGangs h.others)

theorem indexed_vfUnpause {fn : Nat} (h : s.Indexed) : (execVfUnpause fn s).Indexed := by
  unfold execVfUnpause
  split
  · exact h
  · exact .ite (h.others.foldl fun _ _ h => h.notify) h

theorem indexed_migrationSnapshot {t : Nat} (h : s.Indexed) : (execMigrationSnapshot t s).Indexed := .ite h.drainTree.others h

namespace State.Indexed

/-- An optional state folded over a list: where there is one, its table is in order. -/
theorem foldlBind {α : Type} {f : State → α → Option State} {xs : List α} {o : Option State} {u : State}
    (ho : ∀ t, o = some t → t.Indexed) (hf : ∀ (t : State) x v, t.Indexed → f t x = some v → v.Indexed)
    (hu : xs.foldl (fun o x => o.bind fun t => f t x) o = some u) : u.Indexed := by
  induction xs generalizing o with
  | nil => exact ho u hu
  | cons x xs ih =>
    refine ih (fun v hv => ?_) hu
    obtain ⟨t, ht, htv⟩ := Option.bind_eq_some_iff.mp hv
    exact hf t x v (ho t ht) htv

theorem takeFrame {t : Nat} {f : MovedFrame} {u : State} (h : s.Indexed) (hu : s.takeFrame t f = some u) : u.Indexed := by
  unfold State.takeFrame at hu
  split at hu
  · cases hu
  · next hn =>
    refine foldlBind (fun v hv => ?_) (fun _ _ _ h hv => h.mapPage hv) hu
    cases hv
    exact others (others (h.newFrame hn))

/-- Records arrive only under indexes of the table. -/
theorem receive {t fn : Nat} {m : Moved} (h : s.Indexed) : (s.receive t fn m).Indexed := by
  unfold State.receive
  dsimp only
  split
  · next hc =>
    split
    · exact h
    · next hclear =>
      split
      · exact h
      · next hu =>
        refine others (takeRecords (foldlBind (fun v hv => ?_) (fun _ _ _ h hv => h.takeFrame hv) hu) fun r hr => ?_)
        · cases hv
          exact (createCtx h.others).ok hc
        · simp only [Bool.or_eq_true, not_or, List.any_eq_true, not_exists, not_and, decide_eq_true_eq] at hclear
          obtain ⟨⟨-, hrecs⟩, -⟩ := hclear
          exact Nat.not_lt.mp (hrecs r hr).1.2
  · exact h

/-! ## Spares and soft errors -/

theorem dieSpent {die : Nat} (h : s.Indexed) : (s.dieSpent die).Indexed := .ite h.others h.others

end State.Indexed

theorem indexed_spareSubstitution {part : Part} {unit : BitVec 24} {left : Word} (h : s.Indexed) :
    (execSpareSubstitution part unit left s).Indexed := by
  refine .ite h ?_
  cases part with
  | core => exact .ite h.others h
  | hbmChannel => exact State.Indexed.ite h.others h
  | flashBlock => exact State.Indexed.ite (.dieSpent h.others) h.others
  | hbmRow | lane | ldpc => exact h.others

theorem indexed_uncorrectableEcc {site : EccSite} (h : s.Indexed) : (execUncorrectableEcc site s).Indexed := by
  cases site with
  | cleanLine | operandBuffer | table => exact h.others
  | frame d =>
    unfold execUncorrectableEcc
    dsimp only
    split
    · exact h
    · exact .ite h.others (.ite h h.poisonFrame.others)
  | workgroup w =>
    unfold execUncorrectableEcc
    dsimp only
    split
    · exact h
    · exact State.Indexed.haltLaunch h.others

theorem indexed_softErrorCorrected {array : Nat} {unit : BitVec 24} (h : s.Indexed) : (execSoftErrorCorrected array unit s).Indexed :=
  h.others.foldl fun _ _ h => h.others

theorem indexed_cxlDeviceLoss {lo hi : BitVec 48} (h : s.Indexed) : (execCxlDeviceLoss lo hi s).Indexed :=
  h.others.foldl fun _ _ h => h.poisonFrame

theorem indexed_belrikLinkLoss {port : Nat} (h : s.Indexed) : (execBelrikLinkLoss port s).Indexed := .ite h.others h.others

/-! ## Host and firmware, and the turn that is taken up (log 1) -/

namespace State.Indexed

theorem hostAct {a : HostAct} (h : s.Indexed) : (s.hostAct a).Indexed := by
  unfold State.hostAct
  cases a with
  | write addr bs => exact others h.hostWrite
  | bindQueue t q fn => exact .ite h (.ite h.others h.others)
  | bindFunc | partition | cxl | spdmCertificates => exact .ite h h.others
  | plugin | peer | clearDebt | transfer | policy | wear | table => exact h.others
  | migrate t ok => exact .ite h.drainTree.others h
  | receive t fn m => exact h.receive
  | mgmt k w => exact h.mgmtStep
  | spdmVersions fn => exact .ite h h.others

theorem fetchOrFault (h : s.Indexed) : s.fetchOrFault.1.Indexed := by
  unfold State.fetchOrFault
  split
  · exact h
  · exact .ite h.scalarFault h.scalarWait

theorem laneOrFault (h : s.Indexed) : s.laneOrFault.1.Indexed := by
  unfold State.laneOrFault
  split
  · exact h
  · dsimp only
    split
    · exact .ite h.laneFault h
    · exact h
    · exact .ite h.laneFault h

theorem matrixOrFault (h : s.Indexed) : s.matrixOrFault.1.Indexed := by
  unfold State.matrixOrFault
  split
  · exact h
  · split
    · dsimp only
      exact h.matrixFault
    · exact h
    · dsimp only
      exact h.matrixFault

theorem takeTurn (h : s.Indexed) : s.takeTurn.Indexed := .ite h.others (focusOn h.others)

theorem fetch {op : TurnOp} (h : s.Indexed) : (s.fetch op).1.Indexed := by
  cases op with
  | scalar => exact h.fetchOrFault
  | lane b => exact laneOrFault h.others
  | matrix => exact h.matrixOrFault
  | event i => exact h
  | command t q => exact h.queueTurn
  | host a => exact h.hostAct

end State.Indexed

end Sys2Proof.Machine
end

section
/-! PROOFS. Every instruction and every step keep the containment table in order (10 R143). -/
namespace Sys2Proof.Machine

variable {s : State}

/-- What an instruction comes to has its table in order: a case for each. -/
theorem indexed_exec {i : Instr} (h : s.Indexed) : Res.Indexed (exec i s) := by
  unfold exec
  cases i with
  | sadd | ssub | smul | smulhu | smulhs | sand | sor | sxor | sshl | sshr | ssra | smin | smax | sminu | smaxu | ssel
    | sset => exact indexed_alu h
  | sadd64 | ssub64 | smul64 => exact indexed_alu64 h
  | sclz | spopc | saddi | sandi | sori | sxori | sshli | sshri | ssrai => exact indexed_aluImm h
  | sset64 => exact indexed_sset64 h
  | slit => exact indexed_slit h
  | slitB64 => exact indexed_slitB64 h
  | sld => exact indexed_sld h
  | sst => exact indexed_sst h
  | br | beqz | bnez | bltz | bgez | bpany | bpall | bpnone => exact indexed_branch h
  | call => exact indexed_call h
  | jr => exact indexed_jr h
  | loop => exact indexed_loop h
  | linc => exact indexed_linc h
  | enq => exact indexed_enq h
  | tmap => exact indexed_tmap h
  | trel => exact indexed_trel h
  | nop => exact indexed_nop h
  | endg => exact indexed_endg h
  | pget => exact indexed_pget h
  | pyield => exact indexed_pyield h
  | pretire => exact indexed_pretire h
  | binit => exact indexed_binit h
  | arrive | arriveRel => exact indexed_arriveWord h
  | phase => exact indexed_phase h
  | fenceSc => exact indexed_fenceSc h
  | job => exact indexed_job h
  | reside | resideB => exact indexed_resideWord h
  | enroll => exact indexed_enroll h
  | enrollR => exact indexed_enrollR h
  | settle => exact indexed_settle h
  | reparent => exact indexed_reparent h
  | cread => exact indexed_cread h
  | trap => exact indexed_trap h
  | hret => exact indexed_hret h
  | hretPoison => exact indexed_hretPoison h
  | hretZero => exact indexed_hretZero h
  | srr => exact indexed_srr h
  | srw => exact indexed_srw h
  | halt => exact indexed_halt h
  | mstart => exact indexed_mstart h
  | pool => exact indexed_pool h
  | mstatEnd => exact h.endStream
  | clauseHeader => exact indexed_clauseHeader h
  | fadd | fsub | fmul | fmin | fmax => exact indexed_float2 h
  | ffma | iadd | isub | idot4 => exact indexed_lane32s h
  | fabs | fneg | frcp | frsq | fsqrt | fex2 | flg2 => exact indexed_float1 h
  | fcmp | icmp | plop | pmov | pmovNz => exact indexed_lanePred h
  | fclass | imad | movi => exact indexed_lane32 h
  | imul | imulh | iand | ior | ixor | ishl | ishr | isra | imin | imax => exact indexed_int2 h
  | inot | ipopc | iclz => exact indexed_int1 h
  | iadd64 | isub64 | imul64 => exact indexed_int64 h
  | cvt | f8pack | i4unpk | mov | sel | shfl | rfl | voteBal | lnop => exact indexed_laneInstr h
  | f8unpkLo | f8unpkHi => exact indexed_unpack8 h
  | modadd | modsub | modmul => exact indexed_mod2 h
  | nttbfAdd | nttbfSub | nttbiAdd | nttbiSub => exact indexed_butterfly h
  | prd | prdMask => exact indexed_laneOfPred h
  | bcast => exact indexed_bcast h
  | voteAny | voteAll => exact indexed_votePred h
  | lbr => exact indexed_lbr h
  | ljoin => exact indexed_ljoin h
  | lend => exact indexed_lend h
  | xset | xsetS | xrst => exact indexed_setLen h
  | ldG => exact indexed_ldG h
  | stG => exact indexed_stG h
  | ldL => exact indexed_ldL h
  | stL => exact indexed_stL h
  | atomG | xcvt | xcvtClr => exact indexed_returning h
  | atomL => exact indexed_atomL h
  | redG | redf | redx | xmerge => exact indexed_reduction h
  | resideLane => exact indexed_resideLane h
  | wait => exact indexed_wait h
  | mnop => exact indexed_mnop h
  | mli => exact indexed_mli h
  | mmov => exact indexed_mmov h
  | madd => exact indexed_madd h
  | mld => exact indexed_mld h
  | mres => exact indexed_mres h
  | mrel => exact indexed_mrel h
  | mmod => exact indexed_mmod h
  | mma => exact indexed_mma h
  | mzero => exact indexed_mzero h
  | mst => exact indexed_mst h
  | mwait => exact indexed_mwait h
  | marv => exact indexed_marv h
  | mend => exact indexed_mend h
  | mbr => exact indexed_mbr h
  | mloop => exact indexed_mloop h
  | mmaKStep => exact indexed_mmaKStep h
  | mstRow => exact indexed_mstRow h
  | unitStart => exact indexed_unitStart h
  | replyArrival => exact indexed_replyArrival h
  | porterPerform => exact indexed_porterPerform h
  | floatGrant => exact indexed_floatGrant h
  | spillReload => exact indexed_spillReload h
  | compaction => exact indexed_compaction h
  | entryAssignment => exact indexed_entryAssignment h
  | flashSense => exact indexed_flashSense h
  | landingCredit => exact indexed_landingCredit h
  | copyOut => exact indexed_copyOut h
  | relanding => exact indexed_relanding h
  | launchEnd => exact indexed_launchEnd h
  | jobStart => exact indexed_jobStart h
  | copy => exact indexed_copy h
  | gather => exact indexed_gather h
  | fill => exact indexed_fill h
  | flashRead => exact indexed_flashRead h
  | flashWrite => exact indexed_flashWrite h
  | cipherIn => exact indexed_cipherIn h
  | send => exact indexed_send h
  | fetch => exact indexed_fetch h
  | jobComplete => exact indexed_jobComplete h
  | peerTransfer => exact indexed_peerTransfer h
  | rollup => exact indexed_rollup h
  | settleComplete => exact indexed_settleComplete h
  | resideComplete => exact indexed_resideComplete h
  | frameMigration => exact indexed_frameMigration h
  | frameEviction => exact indexed_frameEviction h
  | frameReturn => exact indexed_frameReturn h
  | heartbeatTick => exact indexed_heartbeatTick h
  | timerRelease => exact indexed_timerRelease h
  | periodBoundary => exact indexed_periodBoundary h
  | sliceStart => exact indexed_sliceStart h
  | stopRequest => exact h.stopGangs
  | coreHalt => exact indexed_coreHalt h
  | stopTimeout => exact indexed_stopTimeout h
  | shadowExchange => exact indexed_shadowExchange h
  | imageSave => exact h.saveImages
  | imageStage => exact indexed_imageStage h
  | hallRevocation => exact indexed_hallRevocation h
  | hallScrub => exact indexed_hallScrub h
  | admission => exact indexed_admission h
  | interruptDelivery => exact indexed_interruptDelivery h
  | launch => exact indexed_launch h
  | tinval => exact indexed_tinval h
  | cancel => exact indexed_cancel h
  | arm => exact indexed_arm h
  | disarm => exact indexed_disarm h
  | drain => exact indexed_drain h
  | map => exact indexed_map h
  | unmap => exact indexed_unmap h
  | notify => exact indexed_notify h
  | queueEnable => exact indexed_queueEnable h
  | queueDisable => exact indexed_queueDisable h
  | contextCreate => exact indexed_contextCreate h
  | contextDelete => exact indexed_contextDelete h
  | namespaceCreate => exact indexed_namespaceCreate h
  | namespaceDelete => exact indexed_namespaceDelete h
  | pwrlimWrite => exact indexed_pwrlimWrite h
  | registerWrite => exact indexed_registerWrite h
  | functionLevelReset => exact indexed_functionLevelReset h
  | configWrite => exact indexed_configWrite h
  | lockInterfaceRequest => exact indexed_lockInterfaceRequest h
  | startInterfaceRequest => exact indexed_startInterfaceRequest h
  | stopInterfaceRequest => exact indexed_stopInterfaceRequest h
  | ideLoss => exact indexed_ideLoss h
  | keyImport => exact indexed_keyImport h
  | keyWrappedImport => exact indexed_keyWrappedImport h
  | keyExport => exact indexed_keyExport h
  | keyDelete => exact indexed_keyDelete h
  | streamOpen => exact indexed_streamOpen h
  | getMeasurements => exact indexed_getMeasurements h
  | keyExchange => exact indexed_keyExchange h
  | bootStage => exact indexed_bootStage h
  | powerGood => exact indexed_powerGood h
  | powerCap => exact indexed_powerCap h
  | d3hotEntry => exact indexed_d3hotEntry h
  | sriovEnable => exact indexed_sriovEnable h
  | vfPause => exact indexed_vfPause h
  | spareSubstitution => exact indexed_spareSubstitution h
  | softErrorCorrected => exact indexed_softErrorCorrected h
  | uncorrectableEcc => exact indexed_uncorrectableEcc h
  | cxlDeviceLoss => exact indexed_cxlDeviceLoss h
  | powerLoss => exact indexed_powerLoss
  | d3hotExit => exact indexed_d3hotExit h
  | demandWithinWatts => exact indexed_demandWithinWatts h
  | vfUnpause => exact indexed_vfUnpause h
  | migrationSnapshot => exact indexed_migrationSnapshot h
  | ideStreamEstablish => exact indexed_ideStreamEstablish h
  | firmwareInterfaceError => exact indexed_firmwareInterfaceError h
  | spdmSessionEnd => exact indexed_spdmSessionEnd h
  | belrikLinkLoss => exact indexed_belrikLinkLoss h
  | journalMirrorComplete => exact h.mirrorNext

theorem indexed_runTurn {op : TurnOp} (h : s.Indexed) : Res.Indexed (runTurn s op) := by
  have hfetch : (s.fetch op).1.Indexed := h.fetch
  unfold runTurn
  split
  · next heq =>
    rw [heq] at hfetch
    exact indexed_exec hfetch
  · next heq =>
    rw [heq] at hfetch
    exact hfetch

theorem indexed_step (h : s.Indexed) : Res.Indexed (step s) := .ite trivial (.ite (indexed_runTurn h.takeTurn) h.takeTurn)

/-- Settles O23: the turn taken up, what it fetches and what it runs each keep the order. -/
theorem treeIndexedKept : Obligations.TreeIndexedKept := by
  intro s t h hstep
  have hkept := indexed_step (State.indexed_iff.mpr h)
  rw [hstep] at hkept
  exact State.indexed_iff.mp hkept

end Sys2Proof.Machine
end

section
/-! PROOFS. A settle and the releases that its barrier carries (08 R123, R132, 10 R151). -/
namespace Sys2Proof.Machine

/-- A workgroup of one launch with a settle outstanding on its barrier at 0x8000, which awaits one arrival to leave phase 0. A job made its
release at phase 0x8001 of the barrier, the oldest for which a `WAIT` still completes (08 R132); the table holds a root. -/
def oldestPhase : State :=
  { State.reset with
    wg := { State.reset.wg.setBar 0x8000 ⟨1, 1, 0, 0, 0, 1, 0⟩ with
      id := 1
      settles := [⟨1, 0x8000, 0, 0⟩]
      jobBars := [(0x8000, 0x8001, .all)] }
    ln := { State.reset.ln with ticket := 1 }
    tree := [⟨1, 0, 0, 0, 0, .inner, 0, 2, 2, 0⟩] }

theorem canonical_oldestPhase : oldestPhase.Canonical := by
  have hreset : State.reset.Canonical := State.canonical_reset (m := []) (ts := []) (n := 0) (d := State.reset.dev) rfl
  exact hreset.setWg ⟨by decide, .nil⟩

theorem treeIndexed_oldestPhase : oldestPhase.TreeIndexed := ⟨by decide, by decide, by decide⟩

/-- The arrival of the settle takes the barrier to phase 1, and what phase 0x8001 carried ends. -/
theorem exec_settleComplete_oldestPhase : ∃ t, exec .settleComplete oldestPhase = .next t ∧ t.wg.jobBars = [] :=
  ⟨_, rfl, by decide⟩

/-- Refutes O50: where the arrival of a settle ends a phase, the releases that the barrier carried for the phase that now is too old end
with it (08 R132), and `SettleDrains` leaves them. -/
theorem not_treeRollsUp : ¬ Obligations.TreeRollsUp := by
  rintro ⟨-, hsettle⟩
  obtain ⟨t, hexec, ht, -⟩ := hsettle oldestPhase _ _ canonical_oldestPhase treeIndexed_oldestPhase rfl rfl rfl
    ⟨by decide, by decide, by decide, by decide⟩ (by decide) (by decide)
  obtain ⟨u, hexec', hended⟩ := exec_settleComplete_oldestPhase
  obtain rfl : t = u := by rw [hexec] at hexec'; injection hexec'
  have hkept : t.wg.jobBars = oldestPhase.wg.jobBars := by rw [ht]
  rw [hended] at hkept
  exact absurd hkept (by decide)

end Sys2Proof.Machine
end

section
/-! PROOFS. Products of matrices, their K-steps, and `MZERO` (11 R165 to R173, 17 R291 to R294, R299, 05 R90, R91). -/
namespace Sys2Proof.Machine

variable {s : State}

/-! ## Accumulators written one after another (11 R165) -/

/-- An accumulator numbered below all that are listed is 0. -/
theorem accGet_below {n a : Nat} {m : List (Nat × DWord)} (h : RisesFrom n m) (ha : a < n) : accGet m a = 0 := by
  cases m with
  | nil => rfl
  | cons c m =>
    have hc := (risesFrom_cons.mp h).1
    rw [accGet, if_pos (ha.trans_le hc)]

/-- An accumulator after one is written. -/
theorem RisesFrom.accGet_accSet {n a b : Nat} {m : List (Nat × DWord)} {v : DWord} (h : RisesFrom n m) :
    accGet (Machine.accSet m a v) b = if b = a then v else accGet m b := by
  induction m generalizing n with
  | nil => grind [Machine.accSet, accGet]
  | cons c m ih =>
    obtain ⟨-, hm⟩ := risesFrom_cons.mp h
    rcases lt_trichotomy a c.1 with hlt | rfl | hgt
    · grind [Machine.accSet, accGet]
    · have hlow : ∀ {x}, x ≤ c.1 → accGet m x = 0 := fun hx => accGet_below hm (Nat.lt_succ_of_le hx)
      grind [Machine.accSet, accGet]
    · simp only [Machine.accSet, accGet, ih hm, hgt.not_gt, hgt.ne, if_false]
      grind

theorem accGet_accSet {a b : Nat} {m : List (Nat × DWord)} {v : DWord} (h : m.Pairwise fun a b => a.1 < b.1) :
    accGet (accSet m a v) b = if b = a then v else accGet m b :=
  RisesFrom.accGet_accSet (n := 0) ⟨h, fun _ _ => Nat.zero_le _⟩

/-- Accumulator a x replaced by a function of x and what it held. -/
def accUpdate {α : Type} (a : α → Nat) (f : α → DWord → DWord) (m : List (Nat × DWord)) (x : α) : List (Nat × DWord) :=
  accSet m (a x) (f x (accGet m (a x)))

section
variable {α : Type} {a : α → Nat} {f : α → DWord → DWord} {xs : List α} {m : List (Nat × DWord)}

/-- An accumulator that none of some replacements names is as before. -/
theorem accGet_updates_other {n : Nat} (hm : m.Pairwise fun a b => a.1 < b.1) (hn : ∀ x ∈ xs, n ≠ a x) :
    accGet (xs.foldl (accUpdate a f) m) n = accGet m n := by
  induction xs generalizing m with
  | nil => rfl
  | cons y ys ih =>
    obtain ⟨hy, hys⟩ := List.forall_mem_cons.mp hn
    rw [List.foldl_cons, accUpdate, ih (pairwise_accSet hm) hys, accGet_accSet hm, if_neg hy]

/-- Each of some replacements of different accumulators finds what stood before all of them. -/
theorem accGet_updates (hm : m.Pairwise fun a b => a.1 < b.1) (ha : (xs.map a).Nodup) {x : α} (hx : x ∈ xs) :
    accGet (xs.foldl (accUpdate a f) m) (a x) = f x (accGet m (a x)) := by
  induction xs generalizing m with
  | nil => exact absurd hx List.not_mem_nil
  | cons y ys ih =>
    rw [List.map_cons, List.nodup_cons] at ha
    obtain ⟨hy, hys⟩ := ha
    have hne : ∀ z ∈ ys, a z ≠ a y := fun z hz he => hy (he ▸ List.mem_map_of_mem hz)
    rw [List.foldl_cons, accUpdate]
    rcases List.mem_cons.mp hx with rfl | hx
    · rw [accGet_updates_other (pairwise_accSet hm) fun z hz => (hne z hz).symm, accGet_accSet hm, if_pos rfl]
    · rw [ih (pairwise_accSet hm) hys hx, accGet_accSet hm, if_neg (hne x hx)]

end

/-! ## Tiles (11 R165) -/

/-- The accumulator of a tile at a row and a column. -/
def Tile.num (t : Tile) (p : Nat × Nat) : Nat := t.cbase + p.1 * t.tc + p.2

/-- The places of some rows of a tile in mask. -/
def Tile.places (t : Tile) (rows : List Nat) : List (Nat × Nat) := rows ×ˢ List.range t.coln

theorem Tile.mem_places {t : Tile} {rows : List Nat} {p : Nat × Nat} : p ∈ t.places rows ↔ p.1 ∈ rows ∧ p.2 < t.coln := by
  rw [Tile.places, List.mem_product, List.mem_range]

/-- A pass along each of some rows is one pass over their places. -/
theorem Tile.foldl_places {β : Type} (t : Tile) (f : β → Nat × Nat → β) (rows : List Nat) (m : β) :
    (t.places rows).foldl f m = rows.foldl (fun m i => (List.range t.coln).foldl (fun m j => f m (i, j)) m) m := by
  simp only [Tile.places, SProd.sprod, List.product, List.foldl_flatMap, List.foldl_map]

/-- Different places in mask have different accumulators. -/
theorem Tile.nodup_num {t : Tile} (h : t.coln ≤ t.tc) {rows : List Nat} (hrows : rows.Nodup) :
    ((t.places rows).map t.num).Nodup := by
  refine (hrows.product List.nodup_range).map_on ?_
  rintro ⟨i, j⟩ hp ⟨i', j'⟩ hp' he
  have hj : j < t.tc := (Tile.mem_places.mp hp).2.trans_le h
  have hj' : j' < t.tc := (Tile.mem_places.mp hp').2.trans_le h
  simp only [Tile.num, Nat.add_assoc, Nat.add_left_cancel_iff] at he
  have hi : i = i' := by
    have hdiv := congrArg (· / t.tc) he
    simpa [Nat.mul_comm _ t.tc, Nat.mul_add_div (Nat.zero_lt_of_lt hj), Nat.div_eq_of_lt hj, Nat.div_eq_of_lt hj'] using hdiv
  subst hi
  rw [Nat.add_left_cancel he]

/-- A tile has at least the columns in mask. -/
theorem State.tile_coln_le {k : BitVec 4} {tr : BitVec 3} {tc : BitVec 4} {cb : BitVec 7} {t : Tile}
    (h : s.tile k tr tc cb = some t) : t.coln ≤ t.tc := by
  unfold State.tile at h
  dsimp only at h
  split at h
  · cases h
  · split at h
    · cases h
    · next hfit =>
      cases h
      simp only [Bool.or_eq_true, decide_eq_true_eq, not_or] at hfit
      exact Nat.le_of_not_lt hfit.2

/-- So has the tile of an `MMA` that passes its checks. -/
theorem State.mmaOf_coln_le {m : MMode} {a b k : BitVec 4} {tr : BitVec 3} {tc : BitVec 4} {cb : BitVec 7} {o : MmaOp}
    (h : s.mmaOf m a b k tr tc cb = .ok o) : o.t.coln ≤ o.t.tc := by
  unfold State.mmaOf at h
  dsimp only at h
  split at h
  · next htile =>
    split at h
    · cases h
    · split at h
      · cases h
      · cases h
        exact State.tile_coln_le htile
  · cases h

/-- Tags of units set, and no other (17 R291). -/
theorem getElem?_tags (us : List Nat) (t : AccTag) {ts : List AccTag} {u : Nat} (hu : u < ts.length) :
    (us.foldl (fun ts u => ts.set u t) ts)[u]? = if u ∈ us then some t else ts[u]? := by
  induction us generalizing ts with
  | nil => simp
  | cons v us ih =>
    rw [List.foldl_cons, ih (by rwa [List.length_set])]
    by_cases hv : v = u
    · subst hv
      simp [hu]
    · simp [List.getElem?_set_ne hv, Ne.symm hv]

/-! ## `MZERO` (17 R294) -/

/-- The sequencer with a tile zeroed, and tagged where it is covered whole. -/
def Seq.zeroed (q : Seq) (t : Tile) : Seq :=
  { q with
    acc := (t.places (List.range t.rown)).foldl (accUpdate t.num fun _ _ => 0) q.acc
    tags := if t.rown = t.tr ∧ t.coln = t.tc then (q.tag t.units .zero).tags else q.tags }

theorem Seq.zeroed_tags {q : Seq} {u : Nat} (hu : u < q.tags.length) (t : Tile) :
    (q.zeroed t).tags[u]? = if t.rown = t.tr ∧ t.coln = t.tc ∧ u ∈ t.units then some .zero else q.tags[u]? := by
  by_cases hwhole : t.rown = t.tr ∧ t.coln = t.tc
  · simpa only [Seq.zeroed, Seq.tag, hwhole, true_and, and_self, if_true] using getElem?_tags t.units .zero hu
  · rw [Seq.zeroed, if_neg hwhole, if_neg fun h => hwhole ⟨h.1, h.2.1⟩]

theorem exec_mzero (k : BitVec 4) (tr : BitVec 3) (tc : BitVec 4) (cb : BitVec 7) (s : State) :
    exec (.mzero k tr tc cb) s = execMzero k tr tc cb s := rfl

theorem exec_mzero_bad {k : BitVec 4} {tr : BitVec 3} {tc : BitVec 4} {cb : BitVec 7} (h : s.MatrixReady)
    (ht : s.tile k tr tc cb = none) : exec (.mzero k tr tc cb) s = .next (s.matrixFault 0x38 0) := by
  rw [exec_mzero, execMzero]
  exact matrixWord_fault h.1 h.2 (by simp only [ht])

theorem exec_mzero_ok {k : BitVec 4} {tr : BitVec 3} {tc : BitVec 4} {cb : BitVec 7} {t : Tile} (h : s.MatrixReady)
    (ht : s.tile k tr tc cb = some t) : exec (.mzero k tr tc cb) s = .next (s.seqOn (s.wg.seq.zeroed t)) := by
  rw [exec_mzero, execMzero, matrixWord_ok (t := s.modSeq fun q => q.zeroed t) h.1 h.2]
  · rfl
  · by_cases hwhole : t.rown = t.tr ∧ t.coln = t.tc
    · simp only [ht, Seq.zeroed, Tile.foldl_places, hwhole, decide_true, Bool.and_self, and_self, if_true]
      rfl
    · have hif : ¬ (decide (t.rown = t.tr) && decide (t.coln = t.tc)) = true := by simpa using hwhole
      simp only [ht, Seq.zeroed, Tile.foldl_places, hwhole, hif, if_false]
      rfl

theorem matrixZero : Claims.MatrixZero := by
  intro s k tr tc cb h hcan
  refine ⟨exec_mzero_bad h, fun t ht => ⟨_, exec_mzero_ok h ht, rfl, fun i j hi hj => ?_, fun n hn => ?_,
    fun u hu => Seq.zeroed_tags hu t⟩⟩
  · exact accGet_updates (x := (i, j)) hcan.focusWg.2 (Tile.nodup_num (State.tile_coln_le ht) List.nodup_range)
      (Tile.mem_places.mpr ⟨List.mem_range.mpr hi, hj⟩)
  · refine accGet_updates_other hcan.focusWg.2 fun p hp => ?_
    obtain ⟨hi, hj⟩ := Tile.mem_places.mp hp
    exact hn p.1 p.2 (List.mem_range.mp hi) hj

/-! ## Sums of the integer modes (05 R90, R91) -/

/-- INT8 sums wrap at 64 bits. -/
theorem toInt_update_i8 (q : Nat) (c : DWord) (xs ys : List Elem) (sa sb : FVal) :
    (MMode.update .i8 q c xs ys sa sb).toInt =
      (c.toInt + ((xs.zip ys).map fun p => p.1.num * p.2.num).sum).bmod (2 ^ 64) := BitVec.toInt_ofInt _

/-- MOD64 sums are reduced by the modulus. -/
theorem toNat_update_mod64 {q : Nat} (hq : 0 < q) (hlt : q < 2 ^ 62) (c : DWord) (xs ys : List Elem) (sa sb : FVal) :
    ((MMode.update .mod64 q c xs ys sa sb).toNat : Int) =
      (c.toNat + ((xs.zip ys).map fun p => p.1.num * p.2.num).sum) % q := by
  simp only [MMode.update, BitVec.toNat_ofNat]
  generalize hv : ((c.toNat : Int) + ((xs.zip ys).map fun p => p.1.num * p.2.num).sum) % q = v
  have hnonneg : 0 ≤ v := hv ▸ Int.emod_nonneg _ (by omega)
  have hless : v < q := hv ▸ Int.emod_lt_of_pos _ (by omega)
  rw [Nat.mod_eq_of_lt (by omega), Int.toNat_of_nonneg hnonneg]

theorem matrixIntegerSums : Claims.MatrixIntegerSums := by
  intro q c xs ys sa sb
  refine ⟨⟨_, rfl, ?_⟩, fun hq hlt => toNat_update_mod64 hq hlt c xs ys sa sb⟩
  rw [toInt_update_i8]
  exact Int.emod_eq_emod_iff_emod_sub_eq_zero.mp Int.bmod_emod

/-! ## The end of a word (17 R299) -/

/-- A job over changes slots, parked records, the landing barrier and END of the workgroup in the focus. -/
theorem State.dropJob_wg (s : State) (j : Job) :
    ∃ l p b e, (s.dropJob j).wg = { s.wg with slots := l, parked := p, lbar := b, endSeen := e } := by
  rw [State.dropJob_eq]
  generalize ht : ({ s with jobs := s.jobsWithout j } : State) = t
  obtain ⟨p, b, e, hdead⟩ := ((t.sweepSlots j.lid).checkEnd j.lid).checkDeadlock_wg j.lid
  obtain ⟨_, _, hend⟩ := (t.sweepSlots j.lid).checkEnd_wg j.lid
  obtain ⟨-, hswept⟩ := t.sweepSlots_swept j.lid
  have hwg : t.wg = s.wg := by rw [← ht]
  rw [hdead, hend, hswept.rest, hwg]
  exact ⟨_, _, _, _, rfl⟩

/-- No byte of memory changes where a job is over while its launch has entries left to assign. -/
theorem State.dropJob_mem {j : Job} (h : s.Dispenses j.lid) : (s.dropJob j).mem = s.mem := by
  rw [State.dropJob_eq]
  obtain ⟨w, ws, hends⟩ := (State.sweepSlots_swept { s with jobs := s.jobsWithout j } j.lid).1.trans
    (State.checkEnd_onlyWgs _ j.lid)
  rw [hends]
  cases hl : s.findLaunch j.lid with
  | none =>
    have hl' : ({ s with wg := w, wgs := ws, jobs := s.jobsWithout j } : State).findLaunch j.lid = none := hl
    simp only [State.checkDeadlock, hl']
  | some l =>
    have hl' : ({ s with wg := w, wgs := ws, jobs := s.jobsWithout j } : State).findLaunch j.lid = some l := hl
    rw [State.checkDeadlock_open hl' (h l hl)]

/-- A word that was never accepted as a job is over. -/
theorem State.endWord_unaccepted (h : s.wg.seq.job = none) : s.endWord = s.seqOn { s.wg.seq with mprog := 0 } := by
  simp only [State.endWord, State.wordJob, h, Option.bind_none, State.modSeq, State.seqOn]

/-- The end of an accepted word: the sequencer goes on, and no byte of scratchpad changes. -/
theorem State.endWord_wg {j : Job} (h : s.wordJob = some j) :
    s.endWord.wg.seq = { s.wg.seq with mpc := s.wg.seq.mpc + 1, mprog := 0, job := none, zeros := [] } ∧
      s.endWord.wg.sp = s.wg.sp := by
  obtain ⟨l, p, b, e, hwg⟩ := s.dropJob_wg j
  simp only [State.endWord, h, State.modSeq_wg, hwg, and_self]

theorem State.endWord_mem {j : Job} (h : s.wordJob = some j) (hl : s.Dispenses j.lid) : s.endWord.mem = s.mem := by
  simp only [State.endWord, h, State.modSeq_mem, State.dropJob_mem hl]

/-! ## One K-step (11 R166, R167, R172) -/

/-- Reading marks frames, and nothing else. -/
theorem State.touchFetch_frame (s : State) (f : Fetch) : ∃ es, s.touchFetch f = { s with fit := es } := by
  unfold State.touchFetch
  split
  · exact ⟨_, rfl⟩
  · refine List.foldlRecOn (motive := fun t : State => ∃ es, t = { s with fit := es }) _ _ ⟨_, rfl⟩ ?_
    rintro - ⟨es, rfl⟩ p -
    split <;> exact ⟨_, rfl⟩

theorem State.touchFetches_frame (s : State) (fs : List Fetch) : ∃ es, fs.foldl State.touchFetch s = { s with fit := es } := by
  refine List.foldlRecOn (motive := fun t : State => ∃ es, t = { s with fit := es }) _ _ ⟨_, rfl⟩ ?_
  rintro - ⟨es, rfl⟩ f -
  obtain ⟨es', hf⟩ := State.touchFetch_frame { s with fit := es } f
  exact ⟨es', hf⟩

/-- What a K-step makes of one accumulator of its row block. -/
def State.stepSum (s : State) (start : Mem) (o : MmaOp) (ks : Nat) (p : Nat × Nat) (c : DWord) : DWord :=
  MMode.update o.mode s.wg.seq.modq.toNat c (MMode.elems o.mode (s.fetchBytes start (o.fetchA ks p.1)))
    (s.columnB start o ks p.2) (s.scale start o o.ra p.1 ks) (s.scale start o o.rb ks (p.2 / 128))

theorem State.applyStep_eq (s : State) (start : Mem) (o : MmaOp) (rb ks : Nat) :
    s.applyStep start o rb ks = (o.t.places (o.rows rb)).foldl (accUpdate o.t.num (s.stepSum start o ks)) s.wg.seq.acc := by
  rw [Tile.foldl_places]
  simp only [State.applyStep, List.foldl_map]
  rfl

theorem MmaOp.mem_rows {o : MmaOp} {rb i : Nat} : i ∈ o.rows rb ↔ 16 * rb ≤ i ∧ i < 16 * rb + 16 ∧ i < o.t.rown := by
  simp only [MmaOp.rows, List.mem_filterMap, List.mem_range, Option.ite_none_right_eq_some, Option.some.injEq]
  constructor
  · rintro ⟨d, hd, hrow, rfl⟩
    exact ⟨by omega, by omega, hrow⟩
  · rintro ⟨hfirst, hlast, hrow⟩
    exact ⟨i - 16 * rb, by omega, by omega, by omega⟩

theorem MmaOp.nodup_rows (o : MmaOp) (rb : Nat) : (o.rows rb).Nodup := by
  refine List.nodup_range.filterMap fun d d' i hd hd' => ?_
  simp only [Option.mem_def, Option.ite_none_right_eq_some, Option.some.injEq] at hd hd'
  omega

/-- The accumulators of a row block in mask have their sums after its K-step. -/
theorem State.accGet_applyStep {start : Mem} {o : MmaOp} {rb ks i j : Nat} (h : s.Canonical) (ht : o.t.coln ≤ o.t.tc)
    (hi : i ∈ o.rows rb) (hj : j < o.t.coln) : accGet (s.applyStep start o rb ks) (o.t.num (i, j)) =
      s.stepSum start o ks (i, j) (accGet s.wg.seq.acc (o.t.num (i, j))) := by
  rw [State.applyStep_eq]
  exact accGet_updates h.focusWg.2 (Tile.nodup_num ht (o.nodup_rows rb)) (Tile.mem_places.mpr ⟨hi, hj⟩)

/-- No other accumulator changes. -/
theorem State.accGet_applyStep_other {start : Mem} {o : MmaOp} {rb ks n : Nat} (h : s.Canonical) (hn : ¬ o.InBlock rb n) :
    accGet (s.applyStep start o rb ks) n = accGet s.wg.seq.acc n := by
  rw [State.applyStep_eq]
  refine accGet_updates_other h.focusWg.2 ?_
  rintro ⟨i, j⟩ hp rfl
  obtain ⟨hrow, hj⟩ := Tile.mem_places.mp hp
  obtain ⟨hfirst, hlast, hi⟩ := MmaOp.mem_rows.mp hrow
  exact hn ⟨i, j, hfirst, hlast, hi, hj, rfl⟩

/-- The sequencer with the sums and tags of a K-step, before MPROG moves on. -/
def State.summed (s : State) (start : Mem) (o : MmaOp) (rb ks : Nat) : Seq :=
  { s.wg.seq with acc := s.applyStep start o rb ks, zeros := [] }.tag o.t.units (MMode.tag o.mode)

/-- The state after a K-step as it stands before MPROG moves on: its sums, its turn, its reads marked in the FIT. -/
def State.stepped (s : State) (fit : List FitEntry) (start : Mem) (o : MmaOp) (rb ks : Nat) : State :=
  { s with
    core := { s.core with kLast := s.wg.id }
    fit := fit
    wg := { s.wg with seq := s.summed start o rb ks } }

/-- MPROG written. -/
def State.setProg (s : State) (w : Word) : State := s.modSeq fun q => { q with mprog := w }

theorem State.setProg_seq (s : State) (w : Word) : (s.setProg w).wg.seq = { s.wg.seq with mprog := w } := rfl

theorem State.setProg_sp (s : State) (w : Word) : (s.setProg w).wg.sp = s.wg.sp := rfl

theorem State.setProg_mem (s : State) (w : Word) : (s.setProg w).mem = s.mem := rfl

/-- MPROG, which was p, moved on to the next K-step, or the next row block, or the word over (11 R167, 17 R299). -/
def State.stepOn (s : State) (o : MmaOp) (rb ks : Nat) (p : Word) : State :=
  if ks + 1 < o.steps then s.setProg (progAt (16 * rb) (ks + 1) ||| (p &&& stopBit))
  else if 16 * (rb + 1) < o.t.rown then s.setProg (progAt (16 * (rb + 1)) 0 ||| (p &&& stopBit))
  else s.endWord

/-- MPROG moving on leaves accumulators, tags and scratchpad, even where the word is over. -/
theorem State.stepOn_kept {o : MmaOp} {rb ks : Nat} {p : Word} {j : Job} (h : s.wordJob = some j) :
    (s.stepOn o rb ks p).wg.seq.acc = s.wg.seq.acc ∧ (s.stepOn o rb ks p).wg.seq.tags = s.wg.seq.tags ∧
      (s.stepOn o rb ks p).wg.sp = s.wg.sp := by
  unfold State.stepOn
  split
  · exact ⟨by rw [State.setProg_seq], by rw [State.setProg_seq], State.setProg_sp ..⟩
  · split
    · exact ⟨by rw [State.setProg_seq], by rw [State.setProg_seq], State.setProg_sp ..⟩
    · obtain ⟨hseq, hsp⟩ := State.endWord_wg h
      exact ⟨by rw [hseq], by rw [hseq], hsp⟩

/-- It leaves memory, but where the end of the word can end a launch in DEADLOCK. -/
theorem State.stepOn_mem {o : MmaOp} {rb ks : Nat} {p : Word} {j : Job} (h : s.wordJob = some j)
    (hl : ks + 1 < o.steps ∨ 16 * (rb + 1) < o.t.rown ∨ s.Dispenses j.lid) : (s.stepOn o rb ks p).mem = s.mem := by
  unfold State.stepOn
  split
  · exact State.setProg_mem ..
  · next hstep =>
    split
    · exact State.setProg_mem ..
    · next hblock => exact State.endWord_mem h ((hl.resolve_left hstep).resolve_left hblock)

theorem State.stepOn_next {o : MmaOp} {rb ks : Nat} {p : Word} (hks : ks + 1 < o.steps) :
    s.stepOn o rb ks p = s.setProg (progAt (16 * rb) (ks + 1) ||| (p &&& stopBit)) := if_pos hks

theorem State.stepOn_block {o : MmaOp} {rb ks : Nat} {p : Word} (hks : o.steps ≤ ks + 1) (hrb : 16 * (rb + 1) < o.t.rown) :
    s.stepOn o rb ks p = s.setProg (progAt (16 * (rb + 1)) 0 ||| (p &&& stopBit)) := by
  rw [State.stepOn, if_neg hks.not_gt, if_pos hrb]

theorem State.stepOn_last {o : MmaOp} {rb ks : Nat} {p : Word} (hks : o.steps ≤ ks + 1) (hrb : o.t.rown ≤ 16 * (rb + 1)) :
    s.stepOn o rb ks p = s.endWord := by
  rw [State.stepOn, if_neg hks.not_gt, if_neg hrb.not_gt]

/-- A K-step in whose way nothing stands, at its turn. -/
theorem State.kStep_eq {o : MmaOp} {j : Job} (hm : s.stepMeets j.startMem o s.wg.seq.stepAt.1 s.wg.seq.stepAt.2 = none)
    (hk : s.kTurn = true) : ∃ fit, s.kStep o j =
      (s.stepped fit j.startMem o s.wg.seq.stepAt.1 s.wg.seq.stepAt.2).stepOn o s.wg.seq.stepAt.1 s.wg.seq.stepAt.2
        s.wg.seq.mprog := by
  simp only [State.kStep, hm, hk, Bool.not_true, Bool.false_eq_true, if_false]
  generalize (_ ++ _ : List Fetch) = fs
  obtain ⟨fit, hread⟩ := State.touchFetches_frame { s with core := { s.core with kLast := s.wg.id } } fs
  rw [hread]
  exact ⟨fit, rfl⟩

/-- It waits where it is not this sequencer's turn. -/
theorem State.kStep_wait {o : MmaOp} {j : Job} (hm : s.stepMeets j.startMem o s.wg.seq.stepAt.1 s.wg.seq.stepAt.2 = none)
    (hk : s.kTurn = false) : s.kStep o j = s := by
  simp only [State.kStep, hm, hk, Bool.not_false, if_true]

/-- A K-step is done whole: sums and tags of its row block, and MPROG moved on. -/
theorem State.kStep_done {o : MmaOp} {j : Job} (h : s.Canonical) (ht : o.t.coln ≤ o.t.tc) (hj : s.wordJob = some j)
    (hm : s.stepMeets j.startMem o s.wg.seq.stepAt.1 s.wg.seq.stepAt.2 = none) (hk : s.kTurn = true) :
    KStepDone s (s.kStep o j) o j.startMem j.lid s.wg.seq.stepAt.1 s.wg.seq.stepAt.2 := by
  obtain ⟨fit, hstep⟩ := State.kStep_eq hm hk
  rw [hstep]
  generalize s.wg.seq.stepAt.1 = rb
  generalize s.wg.seq.stepAt.2 = ks
  have hjob : (s.stepped fit j.startMem o rb ks).wordJob = some j := hj
  obtain ⟨hacc, htags, hsp⟩ := State.stepOn_kept (o := o) (rb := rb) (ks := ks) (p := s.wg.seq.mprog) hjob
  constructor
  case sums =>
    intro i j hfirst hlast hi hj
    rw [hacc]
    exact State.accGet_applyStep h ht (MmaOp.mem_rows.mpr ⟨hfirst, hlast, hi⟩) hj
  case kept =>
    intro n hn
    rw [hacc]
    exact State.accGet_applyStep_other h hn
  case tags =>
    intro u hu
    rw [htags]
    exact getElem?_tags o.t.units (MMode.tag o.mode) hu
  case mem => exact fun hl => State.stepOn_mem hjob hl
  case sp => exact hsp
  case next =>
    intro hks
    rw [State.stepOn_next hks, State.setProg_seq]
    exact ⟨rfl, rfl⟩
  case block =>
    intro hks hrb
    rw [State.stepOn_block hks hrb, State.setProg_seq]
    exact ⟨rfl, rfl⟩
  case last =>
    intro hks hrb
    rw [State.stepOn_last hks hrb, (State.endWord_wg hjob).1]
    exact ⟨rfl, rfl, rfl⟩

/-! ## Words that run as jobs (17 R299) -/

section
variable {α : Type} {check : State → Except (BitVec 8) α} {empty : α → Bool}
  {ranges : State → α → List (Nat × Nat × Nat) × List (Nat × Nat × Nat)} {go : State → α → Job → State}

theorem jobWord_refused {c : BitVec 8} (h : s.MatrixReady) (hc : check s = .error c) :
    jobWord s check empty ranges go = .next (s.matrixFault c 0) := by
  simp [jobWord, h.1, h.2.not_ge, hc]

theorem jobWord_empty {o : α} (h : s.MatrixReady) (hc : check s = .ok o) (he : empty o = true) :
    jobWord s check empty ranges go = .next s.endWord := by
  simp [jobWord, h.1, h.2.not_ge, hc, he]

theorem jobWord_accept {o : α} (h : s.MatrixReady) (hc : check s = .ok o) (he : empty o = false) (hj : s.wordJob = none) :
    jobWord s check empty ranges go = .next (s.acceptWord (ranges s o).1 (ranges s o).2) := by
  simp [jobWord, h.1, h.2.not_ge, hc, he, hj]

theorem jobWord_begin {o : α} {j : Job} (h : s.MatrixReady) (hc : check s = .ok o) (he : empty o = false)
    (hj : s.wordJob = some j) (hst : j.st ≠ .running) : jobWord s check empty ranges go = .next (s.beginWord j) := by
  simp [jobWord, h.1, h.2.not_ge, hc, he, hj, hst]

theorem jobWord_go {o : α} {j : Job} (h : s.MatrixReady) (hc : check s = .ok o) (he : empty o = false)
    (hj : s.wordJob = some j) (hst : j.st = .running) : jobWord s check empty ranges go = .next (go s o j) := by
  simp [jobWord, h.1, h.2.not_ge, hc, he, hj, hst]

end

/-- An accepted word begins where nothing is before it and all of its footprint is resident. -/
theorem State.beginWord_ready {j : Job} (hp : j.preds = []) (ha : s.absentIn (j.reads ++ j.writes) = []) :
    s.beginWord j = s.modJob j.id fun j => { j with st := .running, startMem := s.mem } := by
  simp only [State.beginWord, hp, ha, List.isEmpty_nil, Bool.not_true, Bool.false_eq_true, if_false]

/-! ## `MMA` and `MMA_K_STEP` (11 R166, R167, 17 R292) -/

/-- An `MMA` with an empty mask. -/
def MmaOp.vacant (o : MmaOp) : Bool := o.t.rown == 0 || o.t.coln == 0 || o.t.klen == 0

theorem MmaOp.vacant_iff {o : MmaOp} : o.vacant = true ↔ o.t.rown = 0 ∨ o.t.coln = 0 ∨ o.t.klen = 0 := by
  simp [MmaOp.vacant, or_assoc]

theorem exec_mma (m : MMode) (a b k : BitVec 4) (tr : BitVec 3) (tc : BitVec 4) (cb : BitVec 7) (s : State) :
    exec (.mma m a b k tr tc cb) s =
      jobWord s (fun s => s.mmaOf m a b k tr tc cb) MmaOp.vacant (fun s o => (s.mmaReads o, [])) State.kStep := rfl

theorem exec_mmaKStep (s : State) : exec .mmaKStep s = execMmaKStep s := rfl

/-- `MMA_K_STEP` takes the step of the `MMA` at MPC once that has begun. -/
theorem execMmaKStep_running {m : MMode} {a b k : BitVec 4} {tr : BitVec 3} {tc : BitVec 4} {cb : BitVec 7} {o : MmaOp} {j : Job}
    (h : s.MatrixReady) (ho : s.mmaOf m a b k tr tc cb = .ok o) (hw : s.AtWord (.mma m a b k tr tc cb))
    (hj : s.wordJob = some j) (hst : j.st = .running) : execMmaKStep s = .next (s.kStep o j) := by
  have hfetch : s.fetchMatrix = .ok (.mma m a b k tr tc cb) := hw
  simp [execMmaKStep, hfetch, hj, h.1, hst, ho]

theorem matrixProduct : Claims.MatrixProduct := by
  intro s m a b k tr tc cb h
  refine ⟨fun c hc => ?_, fun o ho => ⟨fun hempty hjob => ?_, fun hrow hcol hlen => ?_⟩⟩
  · rw [exec_mma, jobWord_refused h hc]
  · rw [exec_mma, jobWord_empty h ho (MmaOp.vacant_iff.mpr hempty), State.endWord_unaccepted hjob]
  have hsome : o.vacant = false := by simp [MmaOp.vacant, hrow, hcol, hlen]
  have hdone : ∀ j, s.wordJob = some j → s.Canonical → s.stepMeets j.startMem o s.wg.seq.stepAt.1 s.wg.seq.stepAt.2 = none →
      s.kTurn = true → KStepDone s (s.kStep o j) o j.startMem j.lid s.wg.seq.stepAt.1 s.wg.seq.stepAt.2 :=
    fun j hj hcan => State.kStep_done hcan (State.mmaOf_coln_le ho) hj
  refine ⟨fun hjob => ?_, fun j hj hst hp ha => ?_, fun j hj hst hcan hmeets => ⟨fun hk => ?_, fun hk => ?_, fun hk hw => ?_⟩⟩
  · have hnone : s.wordJob = none := by rw [State.wordJob, hjob, Option.bind_none]
    rw [exec_mma, jobWord_accept h ho hsome hnone]
    exact ⟨_, _, rfl, rfl, rfl, rfl, rfl, rfl, rfl, rfl⟩
  · rw [exec_mma, jobWord_begin h ho hsome hj hst, State.beginWord_ready hp ha]
  · rw [exec_mma, jobWord_go h ho hsome hj hst, State.kStep_wait hmeets hk]
  · exact ⟨_, (exec_mma ..).trans (jobWord_go h ho hsome hj hst), hdone j hj hcan hmeets hk⟩
  · exact ⟨_, (exec_mmaKStep s).trans (execMmaKStep_running h ho hw hj hst), hdone j hj hcan hmeets hk⟩

/-- Settles O44: the stages of an `MMA`, each K-step as one pass over the different accumulators of its row block; the sums of the integer
modes; and `MZERO` as a pass of the same kind. -/
theorem matrixArithmetic : Obligations.MatrixArithmetic := ⟨matrixProduct, matrixIntegerSums, matrixZero⟩

end Sys2Proof.Machine
end

section
/-! PROOFS. The encodings (12 R174 to R191): the fields of a packed word are the ones packed, the codes of modifiers and operand specifiers
agree both ways, and each cell of the opcode maps holds the instruction whose word names it; so decoding and encoding are inverse. -/
namespace Sys2Proof

/-! ## Fields of packed words -/

section
variable {v w : Nat} {x : BitVec v} {y : BitVec w} {lo n : Nat}

@[simp] theorem field_append_high (h : w ≤ lo) :
    @field (no_index (v + w)) (@HAppend.hAppend (BitVec v) (BitVec w) (no_index (BitVec (v + w))) _ x y) lo n = field x (lo - w) n :=
  BitVec.extractLsb'_append_eq_of_le h

@[simp] theorem field_append_low (h : lo + n ≤ w) :
    @field (no_index (v + w)) (@HAppend.hAppend (BitVec v) (BitVec w) (no_index (BitVec (v + w))) _ x y) lo n = field y lo n :=
  BitVec.extractLsb'_append_eq_of_add_le h

@[simp] theorem field_all : field (w := no_index v) x 0 (no_index v) = x := BitVec.extractLsb'_eq_self

@[simp] theorem bitAt_append_high (h : w ≤ lo) :
    @bitAt (no_index (v + w)) (@HAppend.hAppend (BitVec v) (BitVec w) (no_index (BitVec (v + w))) _ x y) lo = bitAt x (lo - w) := by
  simp [bitAt, BitVec.getLsbD_append, Nat.not_lt.mpr h]

@[simp] theorem bitAt_append_low (h : lo < w) :
    @bitAt (no_index (v + w)) (@HAppend.hAppend (BitVec v) (BitVec w) (no_index (BitVec (v + w))) _ x y) lo = bitAt y lo := by
  simp [bitAt, BitVec.getLsbD_append, h]

/-- Adjacent fields of a word joined. -/
theorem field_append_field {m k : Nat} (h : k = lo + m) :
    @HAppend.hAppend (BitVec n) (BitVec m) (no_index (BitVec (n + m))) _ (field x k n) (field x lo m) = field x lo (n + m) :=
  BitVec.extractLsb'_append_extractLsb'_eq_extractLsb' h

theorem ofBool_bitAt : BitVec.ofBool (bitAt x lo) = field x lo 1 := by
  ext i hi
  obtain rfl : i = 0 := by omega
  simp [bitAt, field]

end

@[simp] theorem bitAt_ofBool (b : Bool) : bitAt (BitVec.ofBool b) 0 = b := by
  cases b <;> rfl

@[simp] theorem LaneWord.unpack_pack (f : LaneWord) : LaneWord.unpack f.pack = f := by
  simp [LaneWord.unpack, LaneWord.pack]

theorem LaneWord.pack_unpack (w : BitVec 96) : (LaneWord.unpack w).pack = w := by
  simp [LaneWord.unpack, LaneWord.pack, ofBool_bitAt, field_append_field]

@[simp] theorem ClauseHdr.unpack_pack (h : ClauseHdr) : ClauseHdr.unpack h.pack = h := by
  simp [ClauseHdr.unpack, ClauseHdr.pack]

theorem ClauseHdr.field_pack_op (h : ClauseHdr) : (field h.pack 88 8 : BitVec 8) = 0xC1 := by
  simp [ClauseHdr.pack]

theorem LaneWord.field_pack_op (f : LaneWord) : (field f.pack 88 8 : BitVec 8) = f.op := by
  simp [LaneWord.pack]

/-! ## Codes -/

@[simp] theorem FType.ofCode_code (t : FType) : FType.ofCode t.code = some t := by cases t <;> rfl
@[simp] theorem CType.ofCode_code (t : CType) : CType.ofCode t.code = some t := by cases t <;> rfl
@[simp] theorem SCond.ofCode_code (c : SCond) : SCond.ofCode c.code = some c := by cases c <;> rfl
@[simp] theorem ICond.ofCode_code (c : ICond) : ICond.ofCode c.code = some c := by cases c <;> rfl
@[simp] theorem FCond.ofCode_code (c : FCond) : FCond.ofCode c.code = some c := by cases c <;> rfl
@[simp] theorem Sat.ofCode_code (m : Sat) : Sat.ofCode m.code = some m := by cases m <;> rfl
@[simp] theorem PFun.ofCode_code (f : PFun) : PFun.ofCode f.code = some f := by cases f <;> rfl
@[simp] theorem ShMode.ofCode_code (m : ShMode) : ShMode.ofCode m.code = some m := by cases m <;> rfl
@[simp] theorem MSize.ofCode_code (z : MSize) : MSize.ofCode z.code = some z := by cases z <;> rfl
@[simp] theorem AOp.ofCode_code (f : AOp) : AOp.ofCode f.code = some f := by cases f <;> rfl
@[simp] theorem XType.ofCode_code (t : XType) : XType.ofCode t.code = some t := by cases t <;> rfl
@[simp] theorem MMode.ofCode_code (m : MMode) : MMode.ofCode m.code = some m := by cases m <;> rfl
@[simp] theorem SFmt.ofCode_code (f : SFmt) : SFmt.ofCode f.code = some f := by cases f <;> rfl

theorem FType.code_eq : ∀ {c : BitVec 2} {t : FType}, FType.ofCode c = some t → t.code = c := by decide
theorem CType.code_eq : ∀ {c : BitVec 3} {t : CType}, CType.ofCode c = some t → t.code = c := by decide
theorem ICond.code_eq : ∀ {c : BitVec 3} {t : ICond}, ICond.ofCode c = some t → t.code = c := by decide
theorem FCond.code_eq : ∀ {c : BitVec 3} {t : FCond}, FCond.ofCode c = some t → t.code = c := by decide
theorem Sat.code_eq : ∀ {c : BitVec 2} {m : Sat}, Sat.ofCode c = some m → m.code = c := by decide
theorem PFun.code_eq : ∀ {c : BitVec 3} {f : PFun}, PFun.ofCode c = some f → f.code = c := by decide
theorem ShMode.code_eq : ∀ {c : BitVec 2} {m : ShMode}, ShMode.ofCode c = some m → m.code = c := by decide
theorem MSize.code_eq : ∀ {c : BitVec 3} {z : MSize}, MSize.ofCode c = some z → z.code = c := by decide
theorem AOp.code_eq : ∀ {c : BitVec 4} {f : AOp}, AOp.ofCode c = some f → f.code = c := by decide
theorem XType.code_eq : ∀ {c : BitVec 2} {t : XType}, XType.ofCode c = some t → t.code = c := by decide

@[simp] theorem Opnd.ofSpec_spec (x : Opnd) : Opnd.ofSpec x.spec = some x := by
  cases x with
  | none => rfl
  | v n => revert n; decide
  | s n => revert n; decide
  | o n | w n | x n => revert n; decide

theorem Opnd.spec_eq : ∀ {c : BitVec 9} {x : Opnd}, Opnd.ofSpec c = some x → x.spec = c := by decide +kernel

@[simp] theorem laneWordOf_ops (op : BitVec 8) (mod : BitVec 6) (o : LaneOps) : (laneWordOf op mod o).ops = o := by
  simp [laneWordOf, LaneWord.ops]

@[simp] theorem laneWordOf_specsOk (op : BitVec 8) (mod : BitVec 6) (o : LaneOps) : (laneWordOf op mod o).specsOk = true := by
  simp [laneWordOf, LaneWord.specsOk]

/-- A word all of whose specifiers name operands is the word of those operands. -/
theorem laneWordOf_of_specsOk {f : LaneWord} (h : f.specsOk = true) : laneWordOf f.op f.mod f.ops = f := by
  simp only [LaneWord.specsOk, Bool.and_eq_true, Option.isSome_iff_exists] at h
  obtain ⟨⟨⟨⟨d, hd⟩, a, ha⟩, b, hb⟩, c, hc⟩ := h
  simp [laneWordOf, LaneWord.ops, hd, ha, hb, hc, Opnd.spec_eq hd, Opnd.spec_eq ha, Opnd.spec_eq hb, Opnd.spec_eq hc]

/-! ## Fields of the formats (12 R177, R190) -/

section
variable (op d a b : BitVec 6) (fn : BitVec 8) (fn2 : BitVec 2) (i : BitVec 12) (i20 : BitVec 20)

@[simp] theorem fmtA_op : field (fmtA op d a b fn) 26 6 = op := by simp [fmtA]
@[simp] theorem fmtA_d : field (fmtA op d a b fn) 20 6 = d := by simp [fmtA]
@[simp] theorem fmtA_a : field (fmtA op d a b fn) 14 6 = a := by simp [fmtA]
@[simp] theorem fmtA_b : field (fmtA op d a b fn) 8 6 = b := by simp [fmtA]
@[simp] theorem fmtA_fn : field (fmtA op d a b fn) 0 8 = fn := by simp [fmtA]
@[simp] theorem fmtA_low3 : field (fmtA op d a b fn) 20 3 = field d 0 3 := by simp [fmtA]
@[simp] theorem fmtA_cond : field (fmtA op d a b fn) 0 3 = field fn 0 3 := by simp [fmtA]
@[simp] theorem fmtB_op : field (fmtB op d a fn2 i) 26 6 = op := by simp [fmtB]
@[simp] theorem fmtB_d : field (fmtB op d a fn2 i) 20 6 = d := by simp [fmtB]
@[simp] theorem fmtB_a : field (fmtB op d a fn2 i) 14 6 = a := by simp [fmtB]
@[simp] theorem fmtB_fn2 : field (fmtB op d a fn2 i) 12 2 = fn2 := by simp [fmtB]
@[simp] theorem fmtB_imm : field (fmtB op d a fn2 i) 0 12 = i := by simp [fmtB]
@[simp] theorem fmtB_t : field (fmtB op d a fn2 i) 9 3 = field i 9 3 := by simp [fmtB]
@[simp] theorem fmtB_re : bitAt (fmtB op d a fn2 i) 8 = bitAt i 8 := by simp [fmtB]
@[simp] theorem fmtB_pk : field (fmtB op d a fn2 i) 5 3 = field i 5 3 := by simp [fmtB]
@[simp] theorem fmtB_off : field (fmtB op d a fn2 i) 0 5 = field i 0 5 := by simp [fmtB]
@[simp] theorem fmtB_scope : field (fmtB op d a fn2 i) 0 3 = field i 0 3 := by simp [fmtB]
@[simp] theorem fmtC_op : field (fmtC op a i20) 26 6 = op := by simp [fmtC]
@[simp] theorem fmtC_a : field (fmtC op a i20) 20 6 = a := by simp [fmtC]
@[simp] theorem fmtC_imm : field (fmtC op a i20) 0 20 = i20 := by simp [fmtC]
@[simp] theorem fmtC_low3 : field (fmtC op a i20) 20 3 = field a 0 3 := by simp [fmtC]

end

section
variable (op : BitVec 8) (mod : BitVec 6) (ma mb mm mx : BitVec 4) (tr : BitVec 3) (tc : BitVec 4) (cb : BitVec 7)
  (bar : BitVec 4) (i : BitVec 16)

@[simp] theorem fmtM_op : field (fmtM op mod ma mb mm mx tr tc cb bar i) 56 8 = op := by simp [fmtM]
@[simp] theorem fmtM_mod : field (fmtM op mod ma mb mm mx tr tc cb bar i) 50 6 = mod := by simp [fmtM]
@[simp] theorem fmtM_ma : field (fmtM op mod ma mb mm mx tr tc cb bar i) 46 4 = ma := by simp [fmtM]
@[simp] theorem fmtM_mb : field (fmtM op mod ma mb mm mx tr tc cb bar i) 42 4 = mb := by simp [fmtM]
@[simp] theorem fmtM_mm : field (fmtM op mod ma mb mm mx tr tc cb bar i) 38 4 = mm := by simp [fmtM]
@[simp] theorem fmtM_mx : field (fmtM op mod ma mb mm mx tr tc cb bar i) 34 4 = mx := by simp [fmtM]
@[simp] theorem fmtM_tr : field (fmtM op mod ma mb mm mx tr tc cb bar i) 31 3 = tr := by simp [fmtM]
@[simp] theorem fmtM_tc : field (fmtM op mod ma mb mm mx tr tc cb bar i) 27 4 = tc := by simp [fmtM]
@[simp] theorem fmtM_cb : field (fmtM op mod ma mb mm mx tr tc cb bar i) 20 7 = cb := by simp [fmtM]
@[simp] theorem fmtM_bar : field (fmtM op mod ma mb mm mx tr tc cb bar i) 16 4 = bar := by simp [fmtM]
@[simp] theorem fmtM_imm : field (fmtM op mod ma mb mm mx tr tc cb bar i) 0 16 = i := by simp [fmtM]

end

/-! ## Cells of the scalar and matrix opcode maps (12 R181 to R183, R191) -/

/-- The FN of `SSET` (14 R201). -/
theorem SCond.fn_lt (c : SCond) : (0#5 ++ c.code).toNat < 8 := by cases c <;> decide

/-- The FN of `SSET.B64`. -/
theorem SCond.fn64_range (c : SCond) : 16 ≤ (2#5 ++ c.code).toNat ∧ (2#5 ++ c.code).toNat < 24 := by cases c <;> decide

/-- The scalar opcode map at the word of an instruction. -/
theorem scalarCell_scalarWord {i : Instr} {w : Word} (h : i.scalarWord = some w) :
    scalarCell w = if i.assigned then some i else none := by
  cases i <;> cases h
  case sset cc d a b => simp [scalarCell, cc.fn_lt, Instr.assigned]
  case sset64 cc d a b =>
    have hlow : ¬ (2#5 ++ cc.code).toNat < 8 := by have := cc.fn64_range; omega
    simp [scalarCell, hlow, cc.fn64_range, Instr.assigned]
  all_goals simp [scalarCell, low3, sldImm, Instr.assigned]

/-- The matrix opcode map at the word of an instruction. -/
theorem matrixCell_matrixWord {i : Instr} {w : DWord} (h : i.matrixWord = some w) : matrixCell w = some i := by
  cases i <;> cases h <;> simp [matrixCell, cell0]

/-! ## Cells of the lane opcode map by the form of their MOD (15 R224) -/

section
variable {mod : BitVec 6}

/-- A floating-point cell at the MOD of a type (15 R224, R228). -/
@[simp] theorem fpCell_fmod (x2 : Bool) (t : FType) (mk : FType → Bool → Instr) :
    fpCell (fmod 0#3 x2 t) mk = if !(x2 && t == .f32) then some (mk t x2) else none := by
  cases x2 <;> cases t <;> rfl

@[simp] theorem cell0_zero (i : Instr) : cell0 0#6 i = some i := rfl

@[simp] theorem fmod_type (hi : BitVec 3) (x2 : Bool) (t : FType) : field (fmod hi x2 t) 0 2 = t.code := by simp [fmod]

@[simp] theorem fmod_x2 (hi : BitVec 3) (x2 : Bool) (t : FType) : bitAt (fmod hi x2 t) 2 = x2 := by simp [fmod]

@[simp] theorem fmod_hi (hi : BitVec 3) (x2 : Bool) (t : FType) : field (fmod hi x2 t) 3 3 = hi := by simp [fmod]

@[simp] theorem cell1_zero (mk : Bool → Instr) : cell1 0#6 mk = some (mk false) := rfl

@[simp] theorem cell1_one (mk : Bool → Instr) : cell1 1#6 mk = some (mk true) := rfl

@[simp] theorem cell1_ofBool (u : Bool) (mk : Bool → Instr) : cell1 (0#5 ++ BitVec.ofBool u) mk = some (mk u) := by
  cases u <;> rfl

@[simp] theorem satCell_code (m : Sat) (mk : Sat → Instr) : satCell (0#4 ++ m.code) mk = some (mk m) := by
  cases m <;> rfl

@[simp] theorem sizeCell_code (z : MSize) (store : Bool) (mk : MSize → Instr) :
    sizeCell (0#3 ++ z.code) store mk = if !store || (z != .s8 && z != .s16) then some (mk z) else none := by
  cases store <;> cases z <;> rfl

@[simp] theorem atomCell_code (f : AOp) (red : Bool) (mk : AOp → Instr) :
    atomCell (0#2 ++ f.code) red mk = if !red || (f.code.toNat < 8 || f == .add64) then some (mk f) else none := by
  cases red <;> cases f <;> rfl

end

/-- The lane opcode map at the opcode and modifier of an instruction. -/
theorem laneCell_laneCode {i : Instr} {op : BitVec 8} {mod : BitVec 6} {o : LaneOps} (h : i.laneCode = some (op, mod, o)) :
    laneCell op mod o = if i.assigned then some i else none := by
  cases i <;> cases h
  case fadd | fsub | fmul | ffma | fmin | fmax | fabs | fneg | frcp | frsq | fsqrt | fex2 | flg2 => exact fpCell_fmod ..
  case fcmp => simp [laneCell, Instr.assigned]
  case fclass t => cases t <;> rfl
  case iadd | isub | iadd64 | isub64 => exact satCell_code ..
  case imulh | imin | imax | idot4 | mov | sel => exact cell1_ofBool ..
  case icmp | i4unpk | plop | shfl | redf | redx => simp [laneCell, Instr.assigned]
  case cvt dt st => by_cases heq : dt = st <;> simp [laneCell, Instr.assigned, heq]
  case pmov fromS => cases fromS <;> rfl
  case ldG | stG | ldL | stL => exact sizeCell_code ..
  case atomG | redG | atomL => exact atomCell_code ..
  all_goals rfl

/-! ## What a lane cell holds -/

/-- What a cell of the lane map holds is an instruction of its opcode, modifier and operands. -/
def CellCodes (op : BitVec 8) (mod : BitVec 6) (o : LaneOps) (c : Option Instr) : Prop :=
  ∀ i, c = some i → i.laneCode = some (op, mod, o)

section
variable {op : BitVec 8} {mod : BitVec 6} {o : LaneOps}

/-- A word of two adjacent fields. -/
theorem append_field {n m k : Nat} {x : BitVec k} {hi : BitVec n} (hk : n + m = k) (h : field x m n = hi) :
    (hi ++ field x 0 m).cast hk = x := by
  subst hk h
  rw [field_append_field (Nat.zero_add m).symm, field_all, BitVec.cast_eq]

theorem fmod_eq_of_fields {hi : BitVec 3} {x2 : Bool} {t : FType} (h₁ : field mod 3 3 = hi) (h₂ : bitAt mod 2 = x2)
    (h₃ : field mod 0 2 = t.code) : fmod hi x2 t = mod := by
  subst h₁ h₂
  simp [fmod, ← h₃, ofBool_bitAt, field_append_field]

theorem CellCodes.none : CellCodes op mod o none := fun _ h => by cases h

theorem CellCodes.some {i : Instr} (h : i.laneCode = some (op, mod, o)) : CellCodes op mod o (some i) := by
  rintro _ ⟨⟩
  exact h

theorem CellCodes.ite {c : Prop} [Decidable c] {a b : Option Instr} (ha : c → CellCodes op mod o a) (hb : ¬ c → CellCodes op mod o b) :
    CellCodes op mod o (if c then a else b) := by
  split
  · exact ha ‹_›
  · exact hb ‹_›

theorem CellCodes.map {α : Type} {c : Option α} {mk : α → Instr}
    (h : ∀ a, c = Option.some a → (mk a).laneCode = Option.some (op, mod, o)) : CellCodes op mod o (c.map mk) := by
  intro i hi
  obtain ⟨a, ha, rfl⟩ := Option.map_eq_some_iff.mp hi
  exact h a ha

theorem CellCodes.bind {α : Type} {c : Option α} {mk : α → Option Instr}
    (h : ∀ a, c = Option.some a → CellCodes op mod o (mk a)) : CellCodes op mod o (c.bind mk) := by
  intro i hi
  obtain ⟨a, ha, hi⟩ := Option.bind_eq_some_iff.mp hi
  exact h a ha i hi

theorem cellCodes_cell0 {i : Instr} (h : i.laneCode = some (op, 0, o)) : CellCodes op mod o (cell0 mod i) :=
  .ite (fun hm => .some (hm ▸ h)) fun _ => .none

theorem cellCodes_cell1 {mk : Bool → Instr} (h₀ : (mk false).laneCode = some (op, 0, o)) (h₁ : (mk true).laneCode = some (op, 1, o)) :
    CellCodes op mod o (cell1 mod mk) := by
  refine .ite (fun hm => .some ?_) fun _ => .none
  have hmod : (0#5 ++ BitVec.ofBool (bitAt mod 0) : BitVec 6) = mod := by
    rw [ofBool_bitAt]
    exact append_field rfl hm
  cases hu : bitAt mod 0 <;> rw [hu] at hmod <;> subst hmod
  · exact h₀
  · exact h₁

/-- What a floating-point cell holds (15 R224, R228). -/
theorem fpCell_eq_some {mk : FType → Bool → Instr} {i : Instr} (h : fpCell mod mk = some i) :
    ∃ t x2, fmod 0 x2 t = mod ∧ i = mk t x2 := by
  unfold fpCell at h
  split at h
  · next t ht =>
    split at h
    · cases h
    · next hm =>
      cases h
      have hz : field mod 3 3 = (0 : BitVec 3) := by simp_all
      exact ⟨t, _, fmod_eq_of_fields hz rfl (FType.code_eq ht).symm, rfl⟩
  · cases h

theorem cellCodes_fpCell {mk : FType → Bool → Instr} (h : ∀ t x2, (mk t x2).laneCode = some (op, fmod 0 x2 t, o)) :
    CellCodes op mod o (fpCell mod mk) := by
  intro i hi
  obtain ⟨t, x2, rfl, rfl⟩ := fpCell_eq_some hi
  exact h t x2

/-- A cell whose MOD is a code under zeros. -/
theorem cellCodes_under {k n : Nat} (hn : k + n = 6) {c : BitVec n → Option Instr}
    (h : ∀ lo, CellCodes op ((0#k ++ lo).cast hn) o (c lo)) :
    CellCodes op mod o (if field mod n k = 0#k then c (field mod 0 n) else none) :=
  .ite (fun hm => by simpa only [append_field hn hm] using h (field mod 0 n)) fun _ => .none

theorem cellCodes_satCell {mk : Sat → Instr} (h : ∀ m, (mk m).laneCode = some (op, 0#4 ++ m.code, o)) :
    CellCodes op mod o (satCell mod mk) :=
  cellCodes_under (k := 4) rfl fun _ => .map fun m hm => Sat.code_eq hm ▸ h m

theorem cellCodes_sizeCell {store : Bool} {mk : MSize → Instr} (h : ∀ z, (mk z).laneCode = some (op, 0#3 ++ z.code, o)) :
    CellCodes op mod o (sizeCell mod store mk) := by
  unfold sizeCell
  refine cellCodes_under (k := 3) rfl fun _ => .bind fun z hz => ?_
  exact .ite (fun _ => .none) fun _ => .some (MSize.code_eq hz ▸ h z)

theorem cellCodes_atomCell {red : Bool} {mk : AOp → Instr} (h : ∀ f, (mk f).laneCode = some (op, 0#2 ++ f.code, o)) :
    CellCodes op mod o (atomCell mod red mk) := by
  unfold atomCell
  refine cellCodes_under (k := 2) rfl fun _ => .bind fun f hf => ?_
  exact .ite (fun _ => .none) fun _ => .some (AOp.code_eq hf ▸ h f)

/-! ### Cells of their own form -/

theorem cellCodes_fcmp : CellCodes 0x0E mod o (laneCell 0x0E mod o) := by
  change CellCodes _ _ _ (match FType.ofCode (field mod 0 2), FCond.ofCode (field mod 3 3) with
    | some t, some cc => if bitAt mod 2 then none else some (.fcmp o t cc)
    | _, _ => none)
  split
  · next t cc ht hc =>
    refine .ite (fun _ => .none) fun hx => .some ?_
    exact congrArg (fun m => some (0x0E#8, m, o))
      (fmod_eq_of_fields (FCond.code_eq hc).symm (Bool.eq_false_iff.mpr hx) (FType.code_eq ht).symm)
  · exact .none

theorem cellCodes_fclass : CellCodes 0x0F mod o (laneCell 0x0F mod o) := by
  refine .bind fun a ha => ?_
  obtain ⟨t, x2, rfl, rfl⟩ := fpCell_eq_some ha
  cases x2
  · exact .some rfl
  · exact .none

theorem cellCodes_icmp : CellCodes 0x2E mod o (laneCell 0x2E mod o) := by
  refine .ite (fun hm => .map fun cc hc => ?_) fun _ => .none
  have hmod : (0 : BitVec 2) ++ BitVec.ofBool (bitAt mod 3) ++ cc.code = mod := by
    rw [ICond.code_eq hc, ofBool_bitAt, ← hm]
    simp [field_append_field]
  exact congrArg (fun m => some (0x2E#8, m, o)) hmod

theorem cellCodes_cvt : CellCodes 0x40 mod o (laneCell 0x40 mod o) := by
  change CellCodes _ _ _ (match CType.ofCode (field mod 3 3), CType.ofCode (field mod 0 3) with
    | some dt, some st => if dt = st then none else some (.cvt o dt st)
    | _, _ => none)
  split
  · next dt st hd hs =>
    refine .ite (fun _ => .none) fun _ => .some ?_
    have hmod : dt.code ++ st.code = mod := by
      rw [CType.code_eq hs]
      exact append_field rfl (CType.code_eq hd).symm
    exact congrArg (fun m => some (0x40#8, m, o)) hmod
  · exact .none

theorem cellCodes_i4unpk : CellCodes 0x43 mod o (laneCell 0x43 mod o) :=
  cellCodes_under (k := 4) (c := fun k => some (.i4unpk o k)) rfl fun _ => .some rfl

theorem cellCodes_plop : CellCodes 0x62 mod o (laneCell 0x62 mod o) :=
  cellCodes_under (k := 3) (c := fun c => (PFun.ofCode c).map (.plop o)) rfl fun _ => .map fun _ hf => PFun.code_eq hf ▸ rfl

theorem cellCodes_shfl : CellCodes 0x70 mod o (laneCell 0x70 mod o) :=
  cellCodes_under (k := 4) (c := fun c => (ShMode.ofCode c).map (.shfl o)) rfl fun _ => .map fun _ hm => ShMode.code_eq hm ▸ rfl

theorem cellCodes_redf : CellCodes 0x96 mod o (laneCell 0x96 mod o) :=
  cellCodes_under (k := 3) (c := fun fc => some (.redf o fc)) rfl fun _ => .some rfl

theorem cellCodes_redx : CellCodes 0x97 mod o (laneCell 0x97 mod o) :=
  cellCodes_under (k := 4) (c := fun c => (XType.ofCode c).map (.redx o)) rfl fun _ => .map fun _ ht => XType.code_eq ht ▸ rfl

theorem cellCodes_pmov : CellCodes 0x63 mod o (laneCell 0x63 mod o) := by
  change CellCodes _ _ _ (match mod.toNat with
    | 0 => some (.pmov o false)
    | 1 => some (.pmovNz o)
    | 2 => some (.pmov o true)
    | _ => none)
  split
  · next hm => rw [BitVec.eq_of_toNat_eq (y := 0) hm]; exact .some rfl
  · next hm => rw [BitVec.eq_of_toNat_eq (y := 1) hm]; exact .some rfl
  · next hm => rw [BitVec.eq_of_toNat_eq (y := 2) hm]; exact .some rfl
  · exact .none

theorem cellCodes_vote : CellCodes 0x73 mod o (laneCell 0x73 mod o) := by
  change CellCodes _ _ _ (match mod.toNat with
    | 0 => some (.voteAny o)
    | 1 => some (.voteAll o)
    | 2 => some (.voteBal o)
    | _ => none)
  split
  · next hm => rw [BitVec.eq_of_toNat_eq (y := 0) hm]; exact .some rfl
  · next hm => rw [BitVec.eq_of_toNat_eq (y := 1) hm]; exact .some rfl
  · next hm => rw [BitVec.eq_of_toNat_eq (y := 2) hm]; exact .some rfl
  · exact .none

/-- Every cell of the lane map holds the instruction whose word names it (12 R188). -/
theorem laneCell_codes : CellCodes op mod o (laneCell op mod o) := by
  rw [show CellCodes op = CellCodes (BitVec.ofNat 8 op.toNat) by simp]
  unfold laneCell
  generalize op.toNat = k
  split
  any_goals exact cellCodes_cell0 rfl
  any_goals exact cellCodes_cell1 rfl rfl
  any_goals exact cellCodes_fpCell fun _ _ => rfl
  any_goals exact cellCodes_satCell fun _ => rfl
  any_goals exact cellCodes_sizeCell fun _ => rfl
  any_goals exact cellCodes_atomCell fun _ => rfl
  exacts [cellCodes_fcmp, cellCodes_fclass, cellCodes_icmp, cellCodes_cvt, cellCodes_i4unpk, cellCodes_plop, cellCodes_pmov, cellCodes_shfl,
    cellCodes_vote, cellCodes_redf, cellCodes_redx, .none]

end

/-! ## The three streams (12 R174) -/

section
variable {i : Instr}

theorem Instr.words_of_scalarWord {w : Word} (h : i.scalarWord = some w) : i.matrixWord = none ∧ i.laneWord = none := by
  cases i <;> cases h <;> exact ⟨.refl _, .refl _⟩

theorem Instr.laneWord_of_matrixWord {w : DWord} (h : i.matrixWord = some w) : i.laneWord = none := by
  cases i <;> cases h <;> rfl

/-- The word of an instruction is its word in the one stream that has it. -/
theorem encode_eq_some {w : CodeWord} : encode i = some w ↔
    match w with
    | .scalar w => i.scalarWord = some w
    | .matrix w => i.matrixWord = some w
    | .lane w => i.laneWord = some w := by
  unfold encode
  cases hs : i.scalarWord with
  | some v =>
    obtain ⟨hm, hl⟩ := Instr.words_of_scalarWord hs
    cases w <;> simp [hm, hl]
  | none =>
    cases hm : i.matrixWord with
    | some v => cases w <;> simp [Instr.laneWord_of_matrixWord hm]
    | none => cases w <;> simp

theorem Instr.wellFormed_iff : i.WellFormed = true ↔ i.assigned = true ∧ i.rangesOk = true ∧ i.operandsOk = true := by
  simp [Instr.WellFormed, and_assoc]

theorem Instr.assigned_of_matrixWord {w : DWord} (h : i.matrixWord = some w) : i.assigned = true := by
  cases i <;> cases h <;> rfl

theorem decodeScalar_eq_ok {w : Word} : decodeScalar w = .ok i ↔ i.scalarWord = some w ∧ i.WellFormed = true := by
  rw [Instr.wellFormed_iff]
  constructor
  · intro h
    unfold decodeScalar at h
    split at h
    · cases h
    · next j hj =>
      split_ifs at h with hr ho
      cases h
      have hw : i.scalarWord = some w := by simp_all
      have hcell := scalarCell_scalarWord hw
      simp_all
  · rintro ⟨hw, ha, hr, ho⟩
    simp [decodeScalar, scalarCell_scalarWord hw, hw, ha, hr, ho]

theorem decodeMatrix_eq_ok {w : DWord} : decodeMatrix w = .ok i ↔ i.matrixWord = some w ∧ i.WellFormed = true := by
  rw [Instr.wellFormed_iff]
  constructor
  · intro h
    unfold decodeMatrix at h
    split at h
    · cases h
    · next j hj =>
      split_ifs at h with hr ho
      cases h
      have hw : i.matrixWord = some w := by simp_all
      simp_all [Instr.assigned_of_matrixWord hw]
  · rintro ⟨hw, -, hr, ho⟩
    simp [decodeMatrix, matrixCell_matrixWord hw, hw, hr, ho]

/-! ## Lane words -/

theorem decodeHeader_eq_ok {w : BitVec 96} {h : ClauseHdr} : decodeHeader w = .ok h ↔ h.pack = w ∧ h.fieldsOk = true := by
  constructor
  · intro hd
    unfold decodeHeader at hd
    split_ifs at hd with hop hr
    cases hd
    simp_all
  · rintro ⟨rfl, hf⟩
    simp [decodeHeader, ClauseHdr.field_pack_op, hf]

/-- No lane instruction has the opcode of the clause header (12 R186). -/
theorem Instr.laneCode_op_ne {op : BitVec 8} {mod : BitVec 6} {o : LaneOps} (h : i.laneCode = some (op, mod, o)) : op ≠ 0xC1 := by
  cases i <;> cases h <;> decide

/-- The ranges of a lane instruction are those of its fields (12 R185). -/
theorem Instr.rangesOk_of_laneCode {op : BitVec 8} {mod : BitVec 6} {o : LaneOps} (h : i.laneCode = some (op, mod, o)) :
    ∃ fm, i.rangesOk = i.laneFieldsOk fm o := by
  cases i <;> cases h <;> exact ⟨_, .refl _⟩

/-- FS of a lane instruction is a flag that a header can set (12 R185). -/
theorem Instr.fs_le_of_rangesOk {op : BitVec 8} {mod : BitVec 6} {o : LaneOps} (h : i.laneCode = some (op, mod, o))
    (hr : i.rangesOk = true) : o.fs.toNat ≤ 2 := by
  obtain ⟨fm, heq⟩ := Instr.rangesOk_of_laneCode h
  rw [heq] at hr
  have hfs : o.fs ≠ 3 := by
    intro hfs
    simp [Instr.laneFieldsOk, hfs] at hr
  have := o.fs.isLt
  have hne : o.fs.toNat ≠ 3 := fun he => hfs (BitVec.eq_of_toNat_eq he)
  omega

theorem ClausePlace.any_ok {fs : BitVec 2} : ClausePlace.any.ok i fs = decide (fs.toNat ≤ 2) := by
  unfold ClausePlace.ok
  split <;> rfl

theorem decodeLaneAt_eq_ok {w : BitVec 96} : decodeLaneAt .any w = .ok i ↔
    (∃ op mod o, i.laneCode = some (op, mod, o) ∧ (laneWordOf op mod o).pack = w) ∧ i.WellFormed = true := by
  rw [Instr.wellFormed_iff]
  constructor
  · intro h
    unfold decodeLaneAt at h
    dsimp only at h
    split at h
    · cases h
    · next j hj =>
      split_ifs at h with hr ho
      cases h
      have hcode := laneCell_codes i hj
      have hcell := laneCell_laneCode hcode
      have hspecs : (LaneWord.unpack w).specsOk = true := by simp_all
      refine ⟨⟨_, _, _, hcode, ?_⟩, ?_⟩
      · rw [laneWordOf_of_specsOk hspecs, LaneWord.pack_unpack]
      · simp_all
  · rintro ⟨⟨op, mod, o, hcode, rfl⟩, ha, hr, ho⟩
    have hfs := Instr.fs_le_of_rangesOk hcode hr
    have hcell := laneCell_laneCode hcode
    rw [if_pos ha] at hcell
    have hplace : ClausePlace.any.ok i o.fs = true := by simp [ClausePlace.any_ok, hfs]
    have hop : (laneWordOf op mod o).op = op := rfl
    have hmod : (laneWordOf op mod o).mod = mod := rfl
    have hfields : (laneWordOf op mod o).fs = o.fs := rfl
    simp [decodeLaneAt, hop, hmod, hfields, hcell, hplace, hr, ho]

/-- A lane word is a clause header's or a lane instruction's. -/
theorem Instr.laneWord_eq_some {w : BitVec 96} : i.laneWord = some w ↔
    (∃ h, i = .clauseHeader h ∧ h.pack = w) ∨ ∃ op mod o, i.laneCode = some (op, mod, o) ∧ (laneWordOf op mod o).pack = w := by
  unfold Instr.laneWord
  split
  · next h => simp [Instr.laneCode]
  · next hne =>
    constructor
    · intro h
      obtain ⟨⟨op, mod, o⟩, hc, hw⟩ := Option.map_eq_some_iff.mp h
      exact .inr ⟨op, mod, o, hc, hw⟩
    · rintro (⟨h, hi, -⟩ | ⟨op, mod, o, hc, hw⟩)
      · exact absurd hi (hne h)
      · rw [hc]
        exact congrArg some hw

theorem ClauseHdr.wellFormed (h : ClauseHdr) : (Instr.clauseHeader h).WellFormed = h.fieldsOk := Bool.and_true _

theorem decodeLane_eq_ok {w : BitVec 96} : decodeLane w = .ok i ↔ i.laneWord = some w ∧ i.WellFormed = true := by
  rw [Instr.laneWord_eq_some]
  unfold decodeLane
  split
  · next hop =>
    constructor
    · intro hd
      cases hh : decodeHeader w with
      | error e => simp [hh, Except.map] at hd
      | ok h =>
        simp only [hh, Except.map, Except.ok.injEq] at hd
        obtain ⟨hpack, hf⟩ := decodeHeader_eq_ok.mp hh
        subst hd
        exact ⟨.inl ⟨h, .refl _, hpack⟩, h.wellFormed.trans hf⟩
    · rintro ⟨⟨h, rfl, hpack⟩ | ⟨op, mod, o, hc, rfl⟩, hwf⟩
      · rw [decodeHeader_eq_ok.mpr ⟨hpack, h.wellFormed.symm.trans hwf⟩]
        exact .refl _
      · exact absurd ((LaneWord.field_pack_op _).symm.trans hop) (Instr.laneCode_op_ne hc)
  · next hop =>
    rw [decodeLaneAt_eq_ok]
    refine and_congr_left fun _ => ⟨.inr, ?_⟩
    rintro (⟨h, -, rfl⟩ | hc)
    · exact absurd h.field_pack_op hop
    · exact hc

/-- A word decodes to the well-formed instruction whose word it is. -/
theorem decode_eq_ok {w : CodeWord} : decode w = .ok i ↔ encode i = some w ∧ i.WellFormed = true := by
  rw [encode_eq_some]
  cases w with
  | scalar w => exact decodeScalar_eq_ok
  | lane w => exact decodeLane_eq_ok
  | matrix w => exact decodeMatrix_eq_ok

end

/-- Settles O59: a word decodes to an instruction just where that is well formed and the word is its encoding. -/
theorem encodingsAgree : Obligations.EncodingsAgree :=
  ⟨fun _ _ hwf he => decode_eq_ok.mpr ⟨he, hwf⟩, fun _ _ hd => decode_eq_ok.mp hd⟩

end Sys2Proof
end

section
/-! PROOFS. Every instruction answers a next state (12 R174, 28 R381): each shared operation answers one, whatever its effect is, and a step
of the device is a choice among next states. -/
namespace Sys2Proof.Machine

/-- The outcome is a next state. -/
def Answers (r : Res) : Prop := ∃ t, r = .next t

theorem Answers.next (t : State) : Answers (.next t) := ⟨t, rfl⟩

theorem Answers.ite {q : Prop} [Decidable q] {a b : Res} (ha : Answers a) (hb : Answers b) : Answers (if q then a else b) :=
  ite_next ha hb

variable {s : State}

/-! ## The laws of the shared operations, as answers -/

theorem answers_scalarWord {d : Bool} {regs : List SReg} {eff : State → Except SFault State} : Answers (scalarWord s d regs eff) :=
  scalarWord_next ..

theorem answers_scalarJump {d st : Bool} {regs : List SReg} {eff : State → Except SFault State} :
    Answers (scalarJump s d st regs eff) := scalarJump_next ..

theorem answers_scalarTry {eff : State → Option (Except SFault State)} : Answers (scalarTry s eff) := scalarTry_next ..

theorem answers_laneInstr {o : LaneOps} {n : Nat} {srcs : Word → List Src} {pre : RunUnit → Option (BitVec 8)}
    {f : RunUnit → Word → List SrcVal → LaneRes} : Answers (laneInstr s o n srcs pre f) := laneInstr_next ..

theorem answers_matrixWord {eff : State → Except MStop State} : Answers (matrixWord s eff) := matrixWord_next ..

theorem answers_jobStep {id : Nat} {kind : BitVec 8} {size : Job → Nat} {reads : Job → Nat → List (Nat × Nat × Nat)}
    {eff : State → Job → Launch → Nat → State} : Answers (jobStep s id kind size reads eff) := jobStep_next ..

theorem answers_cmdWord {c : CmdRef} {eff : State → CmdOut} : Answers (cmdWord s c eff) := cmdWord_next ..

/-! ## Shared operations of the scalar stream -/

theorem answers_alu {d a b : SReg} {f : Word → Word → Word} : Answers (alu s d a b f) := answers_scalarWord

theorem answers_alu64 {d a b : SReg} {f : DWord → DWord → DWord} : Answers (alu64 s d a b f) := answers_scalarWord

theorem answers_aluImm {d a : SReg} {f : Word → Word} : Answers (aluImm s d a f) := answers_scalarWord

theorem answers_arriveWord {a b : SReg} {rel : Bool} : Answers (arriveWord s a b rel) := answers_scalarTry

theorem answers_resideWord {a b : SReg} {bar : Option SReg} : Answers (resideWord s a b bar) := answers_scalarTry

theorem answers_uniform {a : SReg} {w : BitVec 2} {t pk : BitVec 3} {re : Bool} {off : BitVec 5} {write : Bool} {miss : State → State}
    {hit : State → Nat → State} : Answers (uniform s a w t re pk off write miss hit) := .ite (.next _) answers_scalarWord

theorem answers_branch {drains : Bool} {regs : List SReg} {taken : State → Bool} {i : BitVec 20} : Answers (branch s drains regs taken i) :=
  .ite answers_scalarJump answers_scalarWord

theorem answers_enqueue {a : SReg} {idx : Nat} : Answers (execEnq.enqueue a s idx) := .ite (.ite (.next _) (.next _)) (.next _)

theorem answers_enq {a : SReg} {i : BitVec 20} : Answers (execEnq a i s) := by
  refine .ite (.next _) ?_
  split
  · exact .ite (.ite (.next _) (.ite (.next _) (.next _))) answers_enqueue
  · exact answers_enqueue

theorem answers_hretWord {poisons : Bool} {eff : State → Saved → Option (Except SFault State)} : Answers (hretWord s poisons eff) := by
  refine .ite (.next _) ?_
  split
  · exact .next _
  · refine .ite (.next _) ?_
    split <;> exact .next _

theorem answers_pget {d : SReg} : Answers (execPget d s) := by
  refine .ite (.next _) (.ite (.next _) ?_)
  split
  · exact .ite (.next _) (.next _)
  · split
    · exact .next _
    · exact .next _
    · split
      · exact .next _
      · exact .ite (.next _) (.next _)

/-! ## Shared operations of the lane and matrix streams -/

section
variable {o : LaneOps}

theorem answers_lane32 {srcs : List Src} {f : Nat → List SrcVal → Word} : Answers (lane32 s o srcs f) := answers_laneInstr

theorem answers_lane32s {srcs : List Src} {f : RunUnit → Nat → List SrcVal → Word × Word} : Answers (lane32s s o srcs f) :=
  answers_laneInstr

theorem answers_lanePred {srcs : List Src} {f : RunUnit → Nat → List SrcVal → Bool × Word} : Answers (lanePred s o srcs f) :=
  answers_laneInstr

theorem answers_laneOfPred {f : RunUnit → Nat → Word} : Answers (laneOfPred s o f) := answers_laneInstr

theorem answers_votePred {f : Word → Word → Bool} : Answers (votePred s o f) := answers_laneInstr

theorem answers_int1 {f : Word → Word} : Answers (int1 s o f) := answers_lane32

theorem answers_int2 {f : Word → Word → Word} : Answers (int2 s o f) := answers_lane32

theorem answers_int64 {f : DWord → DWord → DWord × Word} : Answers (int64 s o f) := answers_laneInstr

theorem answers_float1 {t : FType} {x2 : Bool} {f : FCtl → Nat → Nat × Word} : Answers (float1 s o t x2 f) := answers_lane32s

theorem answers_float2 {t : FType} {x2 : Bool} {f : FCtl → Nat → Nat → Nat × Word} : Answers (float2 s o t x2 f) := answers_lane32s

theorem answers_unpack8 {k : Nat} : Answers (unpack8 s o k) := answers_laneInstr

theorem answers_mod2 {f : Int → Int → Int} : Answers (mod2 s o f) := answers_laneInstr

theorem answers_butterfly {f : Int → Int → Int → Int} : Answers (butterfly s o f) := answers_laneInstr

theorem answers_bcast : Answers (execBcast o s) := by
  unfold execBcast
  exact answers_laneInstr

end

theorem answers_laneCtl {o : LaneOps} {check : RunUnit → Path → ClauseSt → Word → Option (BitVec 8 × Word)}
    {ends : RunUnit → Path → ClauseSt → Word → Bool} {eff : State → RunUnit → Path → ClauseSt → Word → State} :
    Answers (laneCtl s o check ends eff) := by
  unfold laneCtl
  split
  · exact .next _
  · dsimp only
    split
    · exact .next _
    · exact .ite (.next _) (.next _)

theorem answers_laneMem {o : LaneOps} {ndst : Nat} {srcs : List Src} {f : RunUnit → Path → Word → List SrcVal → State → MemOut} :
    Answers (laneMem s o ndst srcs f) := by
  unfold laneMem
  split
  · exact .next _
  · refine .ite (.next _) (.ite (.next _) (.ite (.next _) (.ite (.next _) (.ite (.next _) ?_))))
    split
    · exact .next _
    · exact .next _
    · exact .next _
    · exact .ite (.next _) (.next _)

theorem answers_setLen {o : LaneOps} {len : Group → RunUnit → Nat} : Answers (setLen s o len) := by
  unfold setLen
  exact answers_laneCtl

theorem answers_returning {o : LaneOps} {op : PorterOp} {srcs : List Src} {size n : Nat} {write : Bool} :
    Answers (returning s o op srcs size n write) := answers_laneMem

theorem answers_reduction {o : LaneOps} {op : PorterOp} {nb size : Nat} {merge : Bool} : Answers (reduction s o op nb size merge) :=
  answers_laneMem

theorem answers_wait {o : LaneOps} : Answers (execWait o s) := by
  unfold execWait
  split
  · exact .next _
  · exact answers_laneMem

theorem answers_jobWord {α : Type} {check : State → Except (BitVec 8) α} {empty : α → Bool}
    {ranges : State → α → List (Nat × Nat × Nat) × List (Nat × Nat × Nat)} {go : State → α → Job → State} :
    Answers (jobWord s check empty ranges go) := by
  refine .ite (.next _) (.ite (.next _) ?_)
  split
  · exact .next _
  · refine .ite (.next _) ?_
    split <;> exact .next _

theorem answers_matrixJump {target : Int} {eff : Seq → Seq} : Answers (matrixJump s target eff) := .ite (.next _) (.ite (.next _) (.next _))

theorem answers_mloop {x : BitVec 4} {i : BitVec 16} : Answers (execMloop x i s) := .ite answers_matrixJump answers_matrixJump

theorem answers_fetch {j : Nat} : Answers (execFetch j s) := by
  unfold execFetch
  split
  · exact .next _
  · exact .ite (.next _) answers_jobStep

/-! ## Words that choose among next states -/

theorem answers_fenceSc : Answers (execFenceSc s) := by
  unfold execFenceSc
  split
  · exact .ite (.next _) (.next _)
  · exact .ite (.ite (.next _) (.next _)) (.next _)

theorem answers_job {p : BitVec 3} {a : SReg} : Answers (execJob p a s) := by
  refine .ite (.next _) (.ite (.next _) ?_)
  dsimp only
  split <;> exact .next _

theorem answers_clauseHeader {hd : ClauseHdr} : Answers (execClauseHeader hd s) := by
  unfold execClauseHeader
  split
  · exact .next _
  · split
    · exact .next _
    · exact .next _
    · exact .ite (.next _) (.next _)
    · exact .ite (.next _) (.ite (.next _) (.next _))

theorem answers_mend {bar : BitVec 4} : Answers (execMend bar s) := by
  refine .ite (.next _) ?_
  split <;> exact .next _

theorem answers_mmaKStep : Answers (execMmaKStep s) := by
  unfold execMmaKStep
  split
  · refine .ite ?_ (.next _)
    split <;> exact .next _
  · exact .next _

theorem answers_mstRow : Answers (execMstRow s) := by
  unfold execMstRow
  split
  · refine .ite ?_ (.next _)
    split <;> exact .next _
  · exact .next _

/-! ## Steps of a core, of the porters and of the dispenser -/

theorem answers_unitStart : Answers (execUnitStart s) := by
  refine .ite ?_ (.next _)
  split <;> exact .next _

theorem answers_replyArrival {k : Nat} {lanes : Word} : Answers (execReplyArrival k lanes s) := by
  unfold execReplyArrival
  split
  · exact .next _
  · exact .ite (.next _) (.next _)

theorem answers_porterPerform {hall : Nat} : Answers (execPorterPerform hall s) := by
  unfold execPorterPerform
  split <;> exact .next _

theorem answers_floatGrant : Answers (execFloatGrant s) := by
  unfold execFloatGrant
  dsimp only
  split
  · exact .next _
  · refine .ite (.next _) ?_
    split
    · exact .next _
    · exact .ite (.next _) (.next _)

theorem answers_compaction {lid : Nat} : Answers (execCompaction lid s) := by
  unfold execCompaction
  split
  · exact .next _
  · refine .ite ?_ (.next _)
    split <;> exact .next _

theorem answers_entryAssignment : Answers (execEntryAssignment s) := by
  refine .ite ?_ (.next _)
  split
  · exact .next _
  · split <;> exact .next _

theorem answers_flashSense {slot : Nat} {ok : Bool} : Answers (execFlashSense slot ok s) := by
  unfold execFlashSense
  dsimp only
  split
  · exact .next _
  · exact .ite (.next _) (.next _)

theorem answers_landingCredit {slot n : Nat} : Answers (execLandingCredit slot n s) := by
  unfold execLandingCredit
  dsimp only
  split
  · exact .next _
  · exact .ite (.ite (.next _) (.ite (.next _) (.next _))) (.next _)

theorem answers_copyOut {r : Nat} : Answers (execCopyOut r s) := by
  unfold execCopyOut
  split
  · exact .next _
  · split
    · exact .next _
    · refine .ite (.next _) ?_
      split <;> exact .next _

theorem answers_relanding {r : Nat} : Answers (execRelanding r s) := by
  unfold execRelanding
  split
  · exact .ite (.next _) (.next _)
  · exact .next _

/-! ## Engine jobs, the containment tree and the Stairwell -/

theorem answers_jobStart {j : Nat} : Answers (execJobStart j s) := by
  unfold execJobStart
  split
  · exact .next _
  · split
    · exact .next _
    · refine .ite ?_ (.next _)
      split <;> exact .next _

theorem answers_jobComplete {j : Nat} : Answers (execJobComplete j s) := by
  unfold execJobComplete
  split
  · exact .next _
  · split
    · exact .next _
    · exact .ite (.next _) (.next _)

theorem answers_peerTransfer {j : Nat} {ok : Bool} {data : List Byte} : Answers (execPeerTransfer j ok data s) := by
  unfold execPeerTransfer
  split
  · exact .ite (.next _) (.next _)
  · split <;> exact .next _

theorem answers_rollup {index : Nat} : Answers (execRollup index s) := by
  unfold execRollup
  split <;> exact .next _

theorem answers_settleComplete : Answers (execSettleComplete s) := by
  unfold execSettleComplete
  split
  · exact .next _
  · dsimp only
    split <;> exact .next _

theorem answers_resideComplete {id : Nat} : Answers (execResideComplete id s) := by
  unfold execResideComplete
  split
  · exact .next _
  · exact .ite (.next _) (.ite (.next _) (.ite (.next _) (.ite (.next _) (.next _))))

theorem answers_frameMigration {d : Nat} {tier : Tier} {loc : BitVec 48} : Answers (execFrameMigration d tier loc s) := by
  unfold execFrameMigration
  split
  · exact .next _
  · refine .ite (.next _) ?_
    cases tier with
    | a | b | backing => exact .ite (.next _) (.next _)
    | c => exact .next _

theorem answers_frameEviction {d : Nat} {loc : BitVec 48} : Answers (execFrameEviction d loc s) := by
  unfold execFrameEviction
  split
  · exact .next _
  · exact .ite (.next _) (.next _)

theorem answers_frameReturn {d : Nat} {tagOk : Bool} : Answers (execFrameReturn d tagOk s) := by
  unfold execFrameReturn
  split
  · exact .next _
  · refine .ite (.next _) ?_
    dsimp only
    split
    · exact .next _
    · exact .ite (.next _) (.next _)

/-! ## Time and switching -/

theorem answers_timerRelease {tenant num : Nat} : Answers (execTimerRelease tenant num s) := by
  unfold execTimerRelease
  split
  · exact .next _
  · refine .ite (.next _) ?_
    split
    · exact .next _
    · refine .ite (.next _) ?_
      split
      · exact .next _
      · exact .next _
      · exact .ite (.next _) (.next _)

theorem answers_coreHalt {core : Nat} : Answers (execCoreHalt core s) := by
  unfold execCoreHalt
  split
  · exact .next _
  · exact .ite (.next _) (.next _)

theorem answers_stopTimeout {core : Nat} : Answers (execStopTimeout core s) := by
  unfold execStopTimeout
  split
  · exact .next _
  · exact .ite (.next _) (.next _)

theorem answers_shadowExchange {core : Nat} : Answers (execShadowExchange core s) := by
  unfold execShadowExchange
  split
  · exact .next _
  · exact .ite (.next _) (.next _)

theorem answers_imageStage {core tenant : Nat} : Answers (execImageStage core tenant s) := by
  unfold execImageStage
  split
  · exact .next _
  · exact .ite (.next _) (.next _)

theorem answers_hallRevocation {hall : Nat} : Answers (execHallRevocation hall s) := by
  unfold execHallRevocation
  split
  · split <;> exact .next _
  · exact .next _

theorem answers_hallScrub {hall : Nat} : Answers (execHallScrub hall s) := by
  unfold execHallScrub
  split
  · exact .ite (.next _) (.next _)
  · exact .next _

theorem answers_admission {lid : Nat} : Answers (execAdmission lid s) := by
  unfold execAdmission
  split
  · exact .next _
  · refine .ite (.ite ?_ (.next _)) (.next _)
    split
    · exact .next _
    · exact .ite (.next _) (.next _)

theorem answers_interruptDelivery {fn : Nat} : Answers (execInterruptDelivery fn s) := by
  unfold execInterruptDelivery
  split
  · exact .next _
  · split
    · exact .next _
    · exact .ite (.next _) (.ite (.next _) (.ite (.next _) (.next _)))

/-! ## Host, trust and service -/

theorem answers_launch {c : CmdRef} {va : DWord} : Answers (execLaunch c va s) := by
  unfold execLaunch
  split
  · exact .next _
  · split
    · exact .next _
    · refine .ite (.next _) (.ite (.next _) ?_)
      dsimp only
      split <;> exact .next _

theorem answers_notify {fn q : Nat} {v : DWord} : Answers (execNotify fn q v s) := by
  unfold execNotify
  split
  · exact .ite (.next _) (.ite (.next _) (.ite (.next _) (.next _)))
  · exact .next _

theorem answers_queueEnable {fn q : Nat} : Answers (execQueueEnable fn q s) := by
  unfold execQueueEnable
  split
  · exact .next _
  · exact .ite (.next _) (.next _)

theorem answers_queueDisable {fn q : Nat} : Answers (execQueueDisable fn q s) := by
  unfold execQueueDisable
  split
  · exact .next _
  · exact .ite (.next _) (.next _)

theorem answers_contextCreate {t : Nat} : Answers (execContextCreate t s) := by
  refine .ite (.next _) ?_
  split <;> exact .next _

theorem answers_registerWrite {fn off : Nat} {v : DWord} : Answers (execRegisterWrite fn off v s) := by
  unfold execRegisterWrite
  split
  · exact .next _
  · refine .ite ?_ (.ite (.next _) (.ite (.next _) (.next _)))
    split <;> exact .next _

theorem answers_functionLevelReset {fn : Nat} : Answers (execFunctionLevelReset fn s) := by
  unfold execFunctionLevelReset
  split <;> exact .next _

theorem answers_ideLoss {fn : Nat} : Answers (execIdeLoss fn s) := by
  unfold execIdeLoss
  split
  · exact .next _
  · exact .ite (.next _) (.next _)

theorem answers_ideStreamEstablish {fn : Nat} : Answers (execIdeStreamEstablish fn s) := by
  unfold execIdeStreamEstablish
  split <;> exact .next _

theorem answers_getMeasurements {fn index : Nat} : Answers (execGetMeasurements fn index s) := by
  unfold execGetMeasurements
  split
  · exact .next _
  · split <;> exact .next _

theorem answers_vfPause {fn : Nat} : Answers (execVfPause fn s) := by
  unfold execVfPause
  split
  · exact .next _
  · exact .ite (.next _) (.next _)

theorem answers_vfUnpause {fn : Nat} : Answers (execVfUnpause fn s) := by
  unfold execVfUnpause
  split
  · exact .next _
  · exact .ite (.next _) (.next _)

theorem answers_spareSubstitution {part : Part} {unit : BitVec 24} {left : Word} : Answers (execSpareSubstitution part unit left s) := by
  refine .ite (.next _) ?_
  cases part with
  | core => exact .ite (.next _) (.next _)
  | _ => exact .next _

theorem answers_uncorrectableEcc {site : EccSite} : Answers (execUncorrectableEcc site s) := by
  cases site with
  | cleanLine | operandBuffer | table => exact .next _
  | frame =>
    unfold execUncorrectableEcc
    dsimp only
    split
    · exact .next _
    · exact .ite (.next _) (.ite (.next _) (.next _))
  | workgroup =>
    unfold execUncorrectableEcc
    dsimp only
    split <;> exact .next _

/-! ## Every instruction, and the step -/

/-- What an instruction comes to is a next state: a case for each. -/
theorem answers_exec {i : Instr} : Answers (exec i s) := by
  unfold exec
  cases i with
  | sadd | ssub | smul | smulhu | smulhs | sand | sor | sxor | sshl | sshr | ssra | smin | smax | sminu | smaxu | ssel
    | sset => exact answers_alu
  | sadd64 | ssub64 | smul64 => exact answers_alu64
  | sclz | spopc | saddi | sandi | sori | sxori | sshli | sshri | ssrai => exact answers_aluImm
  | sset64 | slit | slitB64 | tmap | trel | nop | mstart | srw => exact answers_scalarWord
  | sld | sst => exact answers_uniform
  | br | beqz | bnez | bltz | bgez | bpany | bpall | bpnone => exact answers_branch
  | call | jr | loop | linc | endg | pool => exact answers_scalarJump
  | arrive | arriveRel => exact answers_arriveWord
  | reside | resideB => exact answers_resideWord
  | binit | phase | enroll | enrollR | settle | reparent | cread | pyield | pretire => exact answers_scalarTry
  | enq => exact answers_enq
  | pget => exact answers_pget
  | hret | hretPoison | hretZero => exact answers_hretWord
  | srr => exact .ite (.next _) answers_scalarWord
  | fadd | fsub | fmul | fmin | fmax => exact answers_float2
  | ffma | iadd | isub | idot4 => exact answers_lane32s
  | fabs | fneg | frcp | frsq | fsqrt | fex2 | flg2 => exact answers_float1
  | fcmp | icmp | plop | pmov | pmovNz => exact answers_lanePred
  | fclass | imad | movi => exact answers_lane32
  | imul | imulh | iand | ior | ixor | ishl | ishr | isra | imin | imax => exact answers_int2
  | inot | ipopc | iclz => exact answers_int1
  | iadd64 | isub64 | imul64 => exact answers_int64
  | cvt | f8pack | i4unpk | mov | sel | shfl | rfl | voteBal | lnop => exact answers_laneInstr
  | f8unpkLo | f8unpkHi => exact answers_unpack8
  | modadd | modsub | modmul => exact answers_mod2
  | nttbfAdd | nttbfSub | nttbiAdd | nttbiSub => exact answers_butterfly
  | prd | prdMask => exact answers_laneOfPred
  | bcast => exact answers_bcast
  | voteAny | voteAll => exact answers_votePred
  | lbr | ljoin | lend => exact answers_laneCtl
  | xset | xsetS | xrst => exact answers_setLen
  | ldG | stG | ldL | stL | atomL | resideLane => exact answers_laneMem
  | atomG | xcvt | xcvtClr => exact answers_returning
  | redG | redf | redx | xmerge => exact answers_reduction
  | wait => exact answers_wait
  | mnop | mli | mmov | madd | mld | mres | mrel | mmod | mzero | mwait | marv => exact answers_matrixWord
  | mma | mst => exact answers_jobWord
  | mbr => exact answers_matrixJump
  | mloop => exact answers_mloop
  | copy | gather | fill | flashRead | flashWrite | cipherIn | send => exact answers_jobStep
  | fetch => exact answers_fetch
  | cancel | tinval | drain | map | unmap | arm | disarm => exact answers_cmdWord
  | mstatEnd | journalMirrorComplete | stopRequest | imageSave | lockInterfaceRequest | startInterfaceRequest | stopInterfaceRequest
    | firmwareInterfaceError | keyImport | keyWrappedImport | keyExport | keyDelete | streamOpen | spdmSessionEnd | powerLoss
    | softErrorCorrected => exact .next _
  | configWrite | cxlDeviceLoss => exact .next _
  | trap | halt | spillReload | launchEnd | heartbeatTick | periodBoundary | sliceStart | migrationSnapshot | sriovEnable | powerGood
    | powerCap | d3hotEntry | d3hotExit | demandWithinWatts | belrikLinkLoss | pwrlimWrite => exact .ite (.next _) (.next _)
  | contextDelete => exact .ite (.next _) (.ite (.next _) (.next _))
  | namespaceCreate | namespaceDelete | keyExchange | bootStage =>
    exact .ite (.next _) (.ite (.next _) (.ite (.next _) (.next _)))
  | fenceSc => exact answers_fenceSc
  | job => exact answers_job
  | clauseHeader => exact answers_clauseHeader
  | mend => exact answers_mend
  | mmaKStep => exact answers_mmaKStep
  | mstRow => exact answers_mstRow
  | unitStart => exact answers_unitStart
  | replyArrival => exact answers_replyArrival
  | porterPerform => exact answers_porterPerform
  | floatGrant => exact answers_floatGrant
  | compaction => exact answers_compaction
  | entryAssignment => exact answers_entryAssignment
  | flashSense => exact answers_flashSense
  | landingCredit => exact answers_landingCredit
  | copyOut => exact answers_copyOut
  | relanding => exact answers_relanding
  | jobStart => exact answers_jobStart
  | jobComplete => exact answers_jobComplete
  | peerTransfer => exact answers_peerTransfer
  | rollup => exact answers_rollup
  | settleComplete => exact answers_settleComplete
  | resideComplete => exact answers_resideComplete
  | frameMigration => exact answers_frameMigration
  | frameEviction => exact answers_frameEviction
  | frameReturn => exact answers_frameReturn
  | timerRelease => exact answers_timerRelease
  | coreHalt => exact answers_coreHalt
  | stopTimeout => exact answers_stopTimeout
  | shadowExchange => exact answers_shadowExchange
  | imageStage => exact answers_imageStage
  | hallRevocation => exact answers_hallRevocation
  | hallScrub => exact answers_hallScrub
  | admission => exact answers_admission
  | interruptDelivery => exact answers_interruptDelivery
  | launch => exact answers_launch
  | notify => exact answers_notify
  | queueEnable => exact answers_queueEnable
  | queueDisable => exact answers_queueDisable
  | contextCreate => exact answers_contextCreate
  | registerWrite => exact answers_registerWrite
  | functionLevelReset => exact answers_functionLevelReset
  | ideLoss => exact answers_ideLoss
  | ideStreamEstablish => exact answers_ideStreamEstablish
  | getMeasurements => exact answers_getMeasurements
  | vfPause => exact answers_vfPause
  | vfUnpause => exact answers_vfUnpause
  | spareSubstitution => exact answers_spareSubstitution
  | uncorrectableEcc => exact answers_uncorrectableEcc

theorem answers_runTurn {op : TurnOp} : Answers (runTurn s op) := by
  unfold runTurn
  split
  · exact answers_exec
  · exact .next _

/-- A step answers wherever the machine may move (28 R381). -/
theorem answers_step (h : s.mayMove = true) : Answers (step s) := by
  rw [step, if_neg (by simp [h])]
  exact .ite answers_runTurn (.next _)

/-- Settles O24: each instruction by the shared operation that it is, or by the next states among which it chooses. -/
theorem everyInstructionAnswers : Obligations.EveryInstructionAnswers :=
  ⟨fun _ _ => answers_exec, fun _ => ⟨answers_step, step_off⟩⟩

end Sys2Proof.Machine
end

section
/-! PROOFS. What a step runs (12 R174, R176, R186): the turn that it takes up, and the word that each stream fetches. Also words written out
from the encodings of the spec. -/
namespace Sys2Proof.Machine

variable {s t : State} {op : TurnOp} {ts : List Turn} {i : Instr}

/-! ## The turn taken up -/

theorem nextTurn_of_turns (h : s.turns = ⟨0, 0, op⟩ :: ts) : s.nextTurn = ⟨0, 0, op⟩ := by
  simp [State.nextTurn, h]

theorem takeTurn_of_turns (h : s.turns = ⟨0, 0, op⟩ :: ts) : s.takeTurn = { s with turns := ts } := by
  simp [State.takeTurn, nextTurn_of_turns h, h]

theorem nextTurn_of_none (h : s.turns = []) : s.nextTurn = ⟨0, 0, s.ownTurn⟩ := by
  simp [State.nextTurn, h]

theorem takeTurn_of_none (h : s.turns = []) : s.takeTurn = s := by
  have hd : s.turns.drop 1 = s.turns := by simp [h]
  simp [State.takeTurn, nextTurn_of_none h, hd]

/-- A turn of the focus is there. -/
theorem hasTurn_focus : s.hasTurn ⟨0, 0, op⟩ = true := by
  simp [State.hasTurn]

/-- The scalar stream of a running group goes on where nothing else is under way. -/
theorem ownTurn_scalar (hst : s.g.st = .running) (hr : s.g.run = none) (hq : s.g.queue = []) : s.ownTurn = .scalar := by
  simp [State.ownTurn, hst, hr, hq]

theorem runTurn_of_fetch (h : s.fetch op = (t, some i)) : runTurn s op = exec i t := by
  simp [runTurn, h]

/-- With power, a step at a given turn of the focus runs what that turn fetches. -/
theorem step_of_turns (hp : s.dev.powered = true) (h : s.turns = ⟨0, 0, op⟩ :: ts)
    (hf : State.fetch { s with turns := ts } op = (t, some i)) : step s = exec i t := by
  have hm : s.mayMove = true := by simp [State.mayMove, hp]
  rw [step_runs hm (by rw [nextTurn_of_turns h]; exact hasTurn_focus), nextTurn_of_turns h, takeTurn_of_turns h]
  exact runTurn_of_fetch hf

/-- With power and no turn given, a step runs what the focus fetches by itself. -/
theorem step_of_none (hp : s.dev.powered = true) (h : s.turns = []) (hf : s.fetch s.ownTurn = (t, some i)) :
    step s = exec i t := by
  have hm : s.mayMove = true := by simp [State.mayMove, hp]
  rw [step_runs hm (by rw [nextTurn_of_none h]; exact hasTurn_focus), nextTurn_of_none h, takeTurn_of_none h]
  exact runTurn_of_fetch hf

/-! ## The words fetched -/

theorem scalarAt_inside {l : Launch} {pc : Nat} (ha : pc % 4 = 0) (hs : pc + 4 ≤ l.desc.slen) :
    l.scalarAt pc = some (BitVec.ofNat 32 (l.scode.readLE pc 4)) := by
  simp [Launch.scalarAt, ha, hs]

theorem laneAt_inside {l : Launch} {n : Nat} (h : n < l.desc.llen) :
    l.laneAt n = some (BitVec.ofNat 96 (l.lcode.readLE (12 * n) 12)) := by
  simp [Launch.laneAt, h]

theorem matrixAt_inside {l : Launch} {n : Nat} (h : n < l.desc.mlen) :
    l.matrixAt n = some (BitVec.ofNat 64 (l.mcode.readLE (8 * n) 8)) := by
  simp [Launch.matrixAt, h]

theorem fetchOrFault_of_word (hb : s.wordBar = none) (hf : s.fetchScalar = .ok i) : s.fetchOrFault = (s, some i) := by
  simp [State.fetchOrFault, hb, hf]

theorem fetchScalar_outside_loop {w : Word} (hw : s.ln.scalarAt s.g.pc = some w) (hl : s.g.loop = none)
    (hd : decodeScalar w = .ok i) : s.fetchScalar = .ok i := by
  simp [State.fetchScalar, hw, hl, hd]

theorem fetchScalar_in_loop {w w' : Word} {lp : LoopSt} (hw : s.ln.scalarAt s.g.pc = some w) (hl : s.g.loop = some lp)
    (hr : lp.regsAt w = some w') (hd : decodeScalar (lp.immAt w') = .ok i) : s.fetchScalar = .ok i := by
  simp [State.fetchScalar, hw, hl, hr, hd]

theorem wordBar_outside_loop (hl : s.g.loop = none) : s.wordBar = s.fetchBar (s.ln.desc.scodeVa + s.g.pc) 4 := by
  simp [State.wordBar, hl]

theorem wordBar_in_loop {lp : LoopSt} (hl : s.g.loop = some lp) : s.wordBar = none := by
  simp [State.wordBar, hl]

theorem fetchLane_header {p : Path} {w : BitVec 96} {hd : ClauseHdr} (hw : s.ln.laneAt p.pc = some w) (hc : p.clause = none)
    (hh : decodeHeader w = .ok hd) : s.fetchLane p = .ok (.clauseHeader hd) := by
  simp [State.fetchLane, hw, hc, hh, Except.map, Except.mapError]

theorem fetchLane_in_clause {p : Path} {w : BitVec 96} {c : ClauseSt} (hw : s.ln.laneAt p.pc = some w) (hc : p.clause = some c)
    (hi : decodeLaneAt c.place w = .ok i) : s.fetchLane p = .ok i := by
  simp [State.fetchLane, hw, hc, hi, Except.mapError]

theorem laneOrFault_of_word {p : Path} (hp : s.path = some p) (hb : s.fetchBar (s.ln.desc.lcodeVa + 12 * p.pc) 12 = none)
    (hf : s.fetchLane p = .ok i) : s.laneOrFault = (s, some i) := by
  simp [State.laneOrFault, hp, hb, hf]

theorem fetchMatrix_of_word {w : DWord} (hw : s.ln.matrixAt s.wg.seq.mpc = some w) (hd : decodeMatrix w = .ok i) :
    s.fetchMatrix = .ok i := by
  simp [State.fetchMatrix, hw, hd, Except.mapError]

theorem matrixOrFault_of_word (hl : s.matrixLive = true) (hb : s.fetchBar (s.ln.desc.mcodeVa + 8 * s.wg.seq.mpc) 8 = none)
    (hf : s.fetchMatrix = .ok i) : s.matrixOrFault = (s, some i) := by
  simp [State.matrixOrFault, hl, hb, hf]

theorem queueTurn_of_cmd {n q : Nat} {x : Queue} {k : Cmd} {ks : List Cmd} (hq : s.queueOf n q = some x) (hb : x.busy = none)
    (hk : x.cmds = k :: ks) (hi : cmdInstr k = some i) : s.queueTurn n q = (s, some i) := by
  simp [State.queueTurn, hq, hb, hk, hi]

/-! ## Each stream's step -/

/-- The word at the PC of a stream that runs no loop is what the scalar stream fetches (12 R174). -/
theorem fetch_scalar (ha : s.g.pc % 4 = 0) (hs : s.g.pc + 4 ≤ s.ln.desc.slen) (hl : s.g.loop = none)
    (hb : s.fetchBar (s.ln.desc.scodeVa + s.g.pc) 4 = none)
    (hd : decodeScalar (BitVec.ofNat 32 (s.ln.scode.readLE s.g.pc 4)) = .ok i) : s.fetch .scalar = (s, some i) :=
  fetchOrFault_of_word (by rw [wordBar_outside_loop hl, hb]) (fetchScalar_outside_loop (scalarAt_inside ha hs) hl hd)

/-- In a loop it is that word stepped, which stands in the loop's buffer (14 R211). -/
theorem fetch_scalar_in_loop {lp : LoopSt} {w : Word} (ha : s.g.pc % 4 = 0) (hs : s.g.pc + 4 ≤ s.ln.desc.slen) (hl : s.g.loop = some lp)
    (hr : lp.regsAt (BitVec.ofNat 32 (s.ln.scode.readLE s.g.pc 4)) = some w) (hd : decodeScalar (lp.immAt w) = .ok i) :
    s.fetch .scalar = (s, some i) :=
  fetchOrFault_of_word (wordBar_in_loop hl) (fetchScalar_in_loop (scalarAt_inside ha hs) hl hr hd)

/-- The path in the slot of the turn is the one whose word is fetched (12 R186). -/
theorem fetch_lane {b : Bool} {r : RunUnit} {p : Path} (hr : s.g.run = some r) (hp : r.path b = some p)
    (hb : s.fetchBar (s.ln.desc.lcodeVa + 12 * p.pc) 12 = none) (hf : State.fetchLane { s with slot := b } p = .ok i) :
    s.fetch (.lane b) = ({ s with slot := b }, some i) :=
  laneOrFault_of_word (by simp [State.path, hr, hp]) hb hf

/-- The word at MPC is what a live sequencer fetches. -/
theorem fetch_matrix (hl : s.matrixLive = true) (hm : s.wg.seq.mpc < s.ln.desc.mlen)
    (hb : s.fetchBar (s.ln.desc.mcodeVa + 8 * s.wg.seq.mpc) 8 = none)
    (hd : decodeMatrix (BitVec.ofNat 64 (s.ln.mcode.readLE (8 * s.wg.seq.mpc) 8)) = .ok i) : s.fetch .matrix = (s, some i) :=
  matrixOrFault_of_word hl hb (fetchMatrix_of_word (matrixAt_inside hm) hd)

/-- Settles O20, by what each kind of turn fetches. -/
theorem stepRunsDecodedInstruction : Obligations.StepRunsDecodedInstruction := by
  intro s i ts hp
  refine ⟨fun ha hs hl hb hd => ⟨fun ht => ?_, fun ht hst hr hq => ?_⟩, fun lp w ha hs hl hr hd ht => ?_,
    fun b r p ht hr hpath hlen hb => ⟨fun c hc hd => ?_, fun hdr hc hd => ?_⟩, fun ht hl hm hb hd => ?_, fun ht => ?_,
    fun t q x k ks ht hq hbusy hk hi => ?_⟩
  · exact step_of_turns hp ht (fetch_scalar (s := { s with turns := ts }) ha hs hl hb hd)
  · exact step_of_none hp ht (by rw [ownTurn_scalar hst hr hq]; exact fetch_scalar ha hs hl hb hd)
  · exact step_of_turns hp ht (fetch_scalar_in_loop (s := { s with turns := ts }) ha hs hl hr hd)
  · exact step_of_turns hp ht (fetch_lane (s := { s with turns := ts }) hr hpath hb
      (fetchLane_in_clause (laneAt_inside hlen) hc hd))
  · exact step_of_turns hp ht (fetch_lane (s := { s with turns := ts }) hr hpath hb
      (fetchLane_header (laneAt_inside hlen) hc hd))
  · exact step_of_turns hp ht (fetch_matrix (s := { s with turns := ts }) hl hm hb hd)
  · exact step_of_turns hp ht rfl
  · exact step_of_turns hp ht (queueTurn_of_cmd (s := { s with turns := ts }) hq hbusy hk hi)

/-! ## Words written out -/

/-- Settles O21, by evaluating the decoder at each word. -/
theorem decodeWords : Obligations.DecodeWords := by
  unfold Obligations.DecodeWords
  decide +kernel

end Sys2Proof.Machine
end

section
/-! PROOFS. Literal loads, `POOL`, and uniform memory (12 R192, R193, 14 R204, R205, 08 R122): what a register, the latch of TIMEHI and the
core's view give after the word. -/
namespace Sys2Proof.Machine

variable {s : State} {d a : SReg}

/-! ## Registers written -/

theorem SReg.toNat_succ (h : d.toNat < 48) : (d + 1).toNat = d.toNat + 1 := by
  rw [BitVec.toNat_add, Nat.mod_eq_of_lt (by simp; omega)]
  rfl

theorem SReg.toNat_ne {n : SReg} (h : n ≠ d) : d.toNat ≠ n.toNat := fun e => h (BitVec.eq_of_toNat_eq e.symm)

/-- The upper register of a pair that may be written may be written. -/
theorem pair_writable (hd : d.toNat < 48) (he : d.toNat % 2 = 0) : d.toNat + 1 < 48 := by omega

theorem halves_append (v : DWord) : (field v 32 32 : Word) ++ (field v 0 32 : Word) = v := by
  refine BitVec.eq_of_getLsbD_eq fun i hi => ?_
  rw [BitVec.getLsbD_append]
  split <;> simp [field] <;> grind

theorem spair_writePair (hd : d.toNat < 48) (he : d.toNat % 2 = 0) (v : DWord) : (s.writePair d v).spair d = v := by
  have hs : (d + 1).toNat = d.toNat + 1 := SReg.toNat_succ hd
  have hu := pair_writable hd he
  simp only [State.spair, State.writePair, State.writeS_g_s, hs, vget_vset _ _ _ _ hu, vget_vset_ne _ _ _ (Nat.succ_ne_self _),
    vget_vset _ _ _ _ hd]
  exact halves_append v

theorem writePair_kept {n : SReg} (h : n ≠ d) (h1 : n ≠ d + 1) (v : DWord) :
    vget (s.writePair d v).g.s n.toNat 0 = vget s.g.s n.toNat 0 := by
  simp only [State.writePair, State.writeS_g_s, vget_vset_ne _ _ _ (SReg.toNat_ne h), vget_vset_ne _ _ _ (SReg.toNat_ne h1)]

theorem writeS_kept {n : SReg} (h : n ≠ d) (v : Word) : vget (s.writeS d v).g.s n.toNat 0 = vget s.g.s n.toNat 0 := by
  simp only [State.writeS_g_s, vget_vset_ne _ _ _ (SReg.toNat_ne h)]

/-- A word that reads no S register and writes one, and falls through. -/
theorem scalarStep_writeS (v : Word) : ScalarStep s (s.onward (s.writeS d v)) [] [d] :=
  ⟨rfl, fun _ _ hn => writeS_kept (by simpa using hn) v⟩

/-- One that writes a pair. -/
theorem scalarStep_writePair (v : DWord) : ScalarStep s (s.onward (s.writePair d v)) [] [d, d + 1] :=
  ⟨rfl, fun n _ hn => by
    obtain ⟨h, h1⟩ : n ≠ d ∧ n ≠ d + 1 := by simpa using hn
    exact writePair_kept h h1 v⟩

/-! ## The latch of TIMEHI -/

theorem latch_eq_hadRead : s.latch a = s.hadRead s [a] := by
  simp [latch_eq, State.hadRead, State.latched]

theorem latch_latch_eq_hadRead : (s.latch a).latch d = s.hadRead s [a, d] := by
  by_cases ha : a.toNat = 60 <;> by_cases hd : d.toNat = 60 <;>
    simp [latch_eq, State.hadRead, State.latched, State.timeHigh, ha, hd]

/-! ## Operands that are accepted -/

theorem writable_lt (h : writable d = true) : d.toNat < 48 := by
  have : d.toNat ≤ 47 := by simpa [writable] using h
  omega

theorem evenReg_mod (h : evenReg d = true) : d.toNat % 2 = 0 := by
  simpa [evenReg] using h

/-- The check of the operands that every well-formed instruction passes. -/
theorem operandsOk_of_wellFormed {i : Instr} (h : i.WellFormed = true) : i.operandsOk = true := (Bool.and_eq_true_iff.mp h).2

theorem slit_writable {i : BitVec 12} (h : (Instr.slit d i).WellFormed = true) : d.toNat < 48 :=
  writable_lt (operandsOk_of_wellFormed h)

theorem slitB64_pair {i : BitVec 12} (h : (Instr.slitB64 d i).WellFormed = true) : d.toNat < 48 ∧ d.toNat % 2 = 0 := by
  have h' : (writable d && evenReg d) = true := operandsOk_of_wellFormed h
  obtain ⟨hw, he⟩ := Bool.and_eq_true_iff.mp h'
  exact ⟨writable_lt hw, evenReg_mod he⟩

/-! ## Literals -/

section
variable {i : BitVec 12} {n : Nat}

theorem exec_slit : exec (.slit d i) s = execSlit d i s := rfl

theorem exec_slitB64 : exec (.slitB64 d i) s = execSlitB64 d i s := rfl

/-- A literal that lies whole in the section is loaded. -/
theorem slit_inside (hr : s.ScalarReady false [d]) (hn : (n : Int) = s.slitAddr i) (hs : n + 4 ≤ s.ln.desc.slen) :
    exec (.slit d i) s = .next (s.onward (s.writeS d (BitVec.ofNat 32 (s.ln.scode.readLE n 4)))) := by
  have h1 : ¬ (n : Int) < 0 := by omega
  have h2 : ¬ (s.ln.desc.slen : Int) < n + 4 := by omega
  rw [exec_slit]
  refine scalarWord_ok hr ?_
  simp [← hn, h1, h2]

theorem slit_outside (hr : s.ScalarReady false [d]) (h : s.slitAddr i < 0 ∨ (s.ln.desc.slen : Int) < s.slitAddr i + 4) :
    exec (.slit d i) s = .next (s.scalarFault 0x10) := by
  rw [exec_slit]
  exact scalarWord_error (f := { code := 0x10 }) hr.1 (if_pos (by simpa using h))

/-- So is an aligned pair. -/
theorem slitB64_inside (hr : s.ScalarReady false [d, d + 1]) (hn : (n : Int) = s.slitAddr i) (ha : n % 8 = 0)
    (hs : n + 8 ≤ s.ln.desc.slen) :
    exec (.slitB64 d i) s = .next (s.onward (s.writePair d (BitVec.ofNat 64 (s.ln.scode.readLE n 8)))) := by
  have h0 : (n : Int) % 8 = 0 := by omega
  have h1 : ¬ (n : Int) < 0 := by omega
  have h2 : ¬ (s.ln.desc.slen : Int) < n + 8 := by omega
  rw [exec_slitB64]
  refine scalarWord_ok hr ?_
  simp [← hn, h0, h1, h2]

/-- A misaligned one is refused, in the section or not (log 4). -/
theorem slitB64_misaligned (hr : s.ScalarReady false [d, d + 1]) (ha : s.slitAddr i % 8 ≠ 0) :
    exec (.slitB64 d i) s = .next (s.scalarFault 0x12) := by
  rw [exec_slitB64]
  exact scalarWord_error (f := { code := 0x12 }) hr.1 (if_pos ha)

theorem slitB64_outside (hr : s.ScalarReady false [d, d + 1]) (ha : s.slitAddr i % 8 = 0)
    (h : s.slitAddr i < 0 ∨ (s.ln.desc.slen : Int) < s.slitAddr i + 8) : exec (.slitB64 d i) s = .next (s.scalarFault 0x10) := by
  rw [exec_slitB64]
  exact scalarWord_error (f := { code := 0x10 }) hr.1 ((if_neg (not_not.mpr ha)).trans (if_pos (by simpa using h)))

end

theorem literalLoad : Claims.LiteralLoad := by
  refine fun s d i => ⟨fun hw hr => ⟨fun n hn hs => ?_, slit_outside hr⟩,
    fun hw hr => ⟨fun n hn ha hs => ?_, slitB64_misaligned hr, slitB64_outside hr⟩⟩
  · exact ⟨_, slit_inside hr hn hs, scalarStep_writeS _, vget_vset _ _ _ _ (slit_writable hw)⟩
  · obtain ⟨hd, he⟩ := slitB64_pair hw
    exact ⟨_, slitB64_inside hr hn ha hs, scalarStep_writePair _, spair_writePair hd he _⟩

/-! ## `POOL`, and the order of the faults of `JR` -/

theorem exec_jr : exec (.jr a) s = execJr a s := rfl

theorem exec_pool {i : BitVec 20} : exec (.pool i) s = execPool i s := rfl

/-- A target of `JR` that is misaligned is refused for that, wherever it lies (log 4). -/
theorem jr_misaligned (h : s.scalarGate false true [a] = true) (ha : (s.readS a).toNat % 4 ≠ 0) :
    exec (.jr a) s = .next (s.scalarFault 0x12) := by
  rw [exec_jr]
  exact scalarJump_error (f := { code := 0x12 }) h (if_pos ha)

theorem atWord_of_no_loop (hl : s.g.loop = none) (n : Int) : s.atWord n = { s with g := { s.g with pc := n.toNat } } := by
  rw [State.atWord, ← hl]

/-- The word after the data of `POOL`. -/
theorem pool_target {i : BitVec 20} : ((s.g.pc + 4 + 4 * i.toNat : Nat) : Int) = s.g.pc + 4 + 4 * i.toNat := by
  push_cast
  rfl

theorem pool_inside {i : BitVec 20} (h : s.scalarGate false false [] = true) (hl : s.g.loop = none)
    (hs : s.g.pc + 4 * i.toNat + 8 ≤ s.ln.desc.slen) : exec (.pool i) s = .next (s.atWord (s.g.pc + 4 + 4 * i.toNat)) := by
  rw [exec_pool, ← pool_target, atWord_of_no_loop hl]
  exact scalarJump_ok h (jump_inside ⟨by omega, by omega⟩)

theorem pool_outside {i : BitVec 20} (h : s.scalarGate false false [] = true)
    (hs : s.ln.desc.slen < s.g.pc + 4 * i.toNat + 8) : exec (.pool i) s = .next (s.scalarFault 0x10) := by
  have hout : ¬ s.InScalar (s.g.pc + 4 + 4 * i.toNat : Nat) := fun ⟨_, h2⟩ => by omega
  rw [exec_pool]
  exact scalarJump_error (f := { code := 0x10 }) h (jump_outside hout)

theorem poolAndJumpOrder : Claims.PoolAndJumpOrder :=
  fun _ _ _ => ⟨fun h ha _ => jr_misaligned h ha, fun h hl => ⟨pool_inside h hl, pool_outside h⟩⟩

/-! ## Uniform accesses -/

section
variable {w : BitVec 2} {n pk : BitVec 3} {re write : Bool} {off : BitVec 5} {miss : State → State} {hit : State → Nat → State}

/-- The state with the residency predicate written, where the word names one (14 R205). -/
def State.marked (t : State) (re : Bool) (pk : BitVec 3) (v : Word) : State := if re then t.writeP pk v else t

section
variable (hw : s.uniWaits = false) (hr : s.ScalarReady false [])
include hw hr

/-- An access that nothing holds back, and that reaches its bytes, is performed. -/
theorem uniform_ok {da : Nat} (h : s.reach (s.readT n) (s.uniOff a w off) (uniSize w) write = .ok da) :
    uniform s a w n re pk off write miss hit = .next (s.onward ((hit (s.latch a) da).marked re pk 0)) := by
  rw [uniform, if_neg (by simp [hw])]
  refine scalarWord_ok hr ?_
  simp only [h]
  rfl

/-- One on an absent frame is not performed where it names a predicate, -/
theorem uniform_absent {dfn : Nat} (h : s.reach (s.readT n) (s.uniOff a w off) (uniSize w) write = .absent dfn) (hre : re = true) :
    uniform s a w n re pk off write miss hit = .next (s.onward ((miss (s.latch a)).marked re pk 0xFFFFFFFF)) := by
  rw [uniform, if_neg (by simp [hw])]
  refine scalarWord_ok hr ?_
  simp only [h, hre, if_true]
  rfl

/-- and faults where it names none. -/
theorem uniform_absent_fault {dfn : Nat} (h : s.reach (s.readT n) (s.uniOff a w off) (uniSize w) write = .absent dfn) (hre : re = false) :
    uniform s a w n re pk off write miss hit = .next (s.scalarFault 0x16 0 ((s.readT n).va (s.uniOff a w off))) := by
  rw [uniform, if_neg (by simp [hw])]
  refine scalarWord_error (f := { code := 0x16, va := (s.readT n).va (s.uniOff a w off) }) hr.1 ?_
  simp [h, hre]

/-- A check that fails is its fault. -/
theorem uniform_fault {c : BitVec 8} (h : s.reach (s.readT n) (s.uniOff a w off) (uniSize w) write = .fault c) :
    uniform s a w n re pk off write miss hit = .next (s.scalarFault c 0 ((s.readT n).va (s.uniOff a w off))) := by
  rw [uniform, if_neg (by simp [hw])]
  refine scalarWord_error (f := { code := c, va := (s.readT n).va (s.uniOff a w off) }) hr.1 ?_
  simp only [h]

end

/-! ## `SLD` -/

/-- The S registers with a loaded value in one of them, or in a pair. -/
def loadedS (x : Vector Word 48) (d : SReg) (w : BitVec 2) (v : Nat) : Vector Word 48 :=
  if w = 1 then vset (vset x d.toNat (field (BitVec.ofNat 64 v) 0 32)) (d + 1).toNat (field (BitVec.ofNat 64 v) 32 32)
  else vset x d.toNat (BitVec.ofNat 32 v)

/-- The state with the value loaded. -/
def State.loaded (t : State) (d : SReg) (w : BitVec 2) (v : Nat) : State := { t with g := { t.g with s := loadedS t.g.s d w v } }

/-- This is what `SLD` does to its register or its pair. -/
theorem loaded_eq_write (v : Nat) :
    (if w = 1 then s.writePair d (BitVec.ofNat 64 v) else s.writeS d (BitVec.ofNat 32 v)) = s.loaded d w v := by
  unfold State.loaded loadedS
  split <;> rfl

theorem exec_sld : exec (.sld d a w n re pk off) s = uniform s a w n re pk off false (fun t => t.loaded d w 0)
    (fun t da => (t.touch da false).loaded d w (leNat (t.loadBytes da (uniSize w)))) := by
  simp only [← loaded_eq_write]
  rfl

theorem sld_operands (h : (Instr.sld d a w n re pk off).WellFormed = true) : d.toNat < 48 ∧ (w = 1 → d.toNat % 2 = 0) := by
  have h' : (writable d && (w != 1 || evenReg d)) = true := operandsOk_of_wellFormed h
  obtain ⟨hd, he⟩ := Bool.and_eq_true_iff.mp h'
  exact ⟨writable_lt hd, fun hw => evenReg_mod (by simpa [hw] using he)⟩

theorem low_half (v : Nat) : (field (BitVec.ofNat 64 v) 0 32 : Word) = BitVec.ofNat 32 v := by
  refine BitVec.eq_of_toNat_eq ?_
  simp [field]

theorem loaded_low (hd : d.toNat < 48) (v : Nat) : vget (loadedS s.g.s d w v) d.toNat 0 = BitVec.ofNat 32 v := by
  unfold loadedS
  split
  · have hne : (d + 1).toNat ≠ d.toNat := by rw [SReg.toNat_succ hd]; exact Nat.succ_ne_self _
    rw [vget_vset_ne _ _ _ hne, vget_vset _ _ _ _ hd, low_half]
  · exact vget_vset _ _ _ _ hd

theorem loaded_pair (hd : d.toNat < 48) (he : d.toNat % 2 = 0) (hw : w = 1) (v : Nat) : (s.loaded d w v).spair d = BitVec.ofNat 64 v := by
  rw [← loaded_eq_write, if_pos hw, spair_writePair hd he]

theorem loaded_kept {m : SReg} (h : m ≠ d) (h1 : w = 1 → m ≠ d + 1) (v : Nat) :
    vget (loadedS s.g.s d w v) m.toNat 0 = vget s.g.s m.toNat 0 := by
  unfold loadedS
  split
  · rw [vget_vset_ne _ _ _ (SReg.toNat_ne (h1 ‹_›)), vget_vset_ne _ _ _ (SReg.toNat_ne h)]
  · exact vget_vset_ne _ _ _ (SReg.toNat_ne h)

/-- A load writes S registers alone, and of the state depends on them alone. -/
theorem onward_loaded {f : List FitEntry} {v : Nat} {m : Word} :
    s.onward ((({ s.hadRead s [a] with fit := f } : State).loaded d w v).marked re pk m) = { s with fit := f, g := { s.g with
      s := loadedS s.g.s d w v, p := if re then vset s.g.p pk.toNat m else s.g.p,
      pc := s.g.after.1, loop := s.g.after.2, timeHi := s.latched [a] } } := by
  cases re <;> rfl

theorem latch_loadBytes {da k : Nat} : (s.latch a).loadBytes da k = s.loadBytes da k := by
  rw [latch_eq]
  rfl

section
variable (hw : s.uniWaits = false) (hr : s.ScalarReady false [])
include hw hr

/-- A load that is performed. -/
theorem sld_ok {da : Nat} (h : s.reach (s.readT n) (s.uniOff a w off) (uniSize w) false = .ok da) :
    exec (.sld d a w n re pk off) s = .next { s with fit := (s.touch da false).fit, g := { s.g with
      s := loadedS s.g.s d w (leNat (s.loadBytes da (uniSize w))), p := if re then vset s.g.p pk.toNat 0 else s.g.p,
      pc := s.g.after.1, loop := s.g.after.2, timeHi := s.latched [a] } } := by
  rw [exec_sld, uniform_ok hw hr h, latch_loadBytes, latch_eq_hadRead]
  exact congrArg _ onward_loaded

/-- One that is not, as the predicate says. -/
theorem sld_absent {dfn : Nat} (h : s.reach (s.readT n) (s.uniOff a w off) (uniSize w) false = .absent dfn) (hre : re = true) :
    exec (.sld d a w n re pk off) s = .next { s with g := { s.g with
      s := loadedS s.g.s d w 0, p := vset s.g.p pk.toNat 0xFFFFFFFF,
      pc := s.g.after.1, loop := s.g.after.2, timeHi := s.latched [a] } } := by
  subst hre
  rw [exec_sld, uniform_absent hw hr h rfl, latch_eq_hadRead]
  exact congrArg _ onward_loaded

end

theorem uniformLoad : Claims.UniformLoad := by
  intro s d a w n re pk off hwf hw hr
  obtain ⟨hd, he⟩ := sld_operands hwf
  refine ⟨fun da h => ⟨_, sld_ok hw hr h, rfl, ?_, fun m _ h1 h2 => loaded_kept h1 h2 _, rfl⟩,
    fun dfn h => ⟨fun hre => ⟨_, sld_absent hw hr h hre, rfl, loaded_low hd 0, fun hw1 => loaded_pair hd (he hw1) hw1 0,
      fun m _ h1 h2 => loaded_kept h1 h2 0⟩, fun hre => ?_⟩, fun c h => ?_⟩
  · split
    · rename_i hw1
      subst hw1
      exact loaded_pair hd (he rfl) rfl _
    · exact loaded_low hd _
  · rw [exec_sld]
    exact uniform_absent_fault hw hr h hre
  · rw [exec_sld]
    exact uniform_fault hw hr h

/-! ## `SST` -/

theorem cellsAt_cons (da : Nat) (b : Byte) (bs : List Byte) : cellsAt da (b :: bs) = (da, b) :: cellsAt (da + 1) bs := by
  simp only [cellsAt, List.length_cons, List.range_succ_eq_map, List.zip_cons_cons, List.map_cons, List.zip_map_left, List.map_map]
  simp [Function.comp_def, Nat.add_left_comm, Nat.add_comm]

/-- Cells stored in turn enter the view, and the set of what the group has written. -/
theorem storeCells_frame (cells : List (Nat × Byte)) : ∃ c ws,
    cells.foldl (fun s c => s.storeByte c.1 c.2) s = { s with core := c, g := { s.g with wset := ws } } := by
  induction cells generalizing s with
  | nil => exact ⟨_, _, rfl⟩
  | cons x cells ih =>
    obtain ⟨c, ws, h⟩ := ih (s := s.storeByte x.1 x.2)
    exact ⟨c, ws, h⟩

theorem storeCells_timeHi (cells : List (Nat × Byte)) (m : Word) :
    cells.foldl (fun s c => s.storeByte c.1 c.2) ({ s with g := { s.g with timeHi := m } } : State) =
      { cells.foldl (fun s c => s.storeByte c.1 c.2) s with
        g := { (cells.foldl (fun s c => s.storeByte c.1 c.2) s).g with timeHi := m } } := by
  induction cells generalizing s with
  | nil => rfl
  | cons x cells ih => exact ih (s := s.storeByte x.1 x.2)

/-- Each of consecutive bytes loads as stored; every other byte loads as before. -/
theorem storeCells_load (da : Nat) (bs : List Byte) (x : Nat) :
    ((cellsAt da bs).foldl (fun s c => s.storeByte c.1 c.2) s).loadByte x =
      if da ≤ x ∧ x < da + bs.length then bs.getD (x - da) 0 else s.loadByte x := by
  induction bs generalizing s da with
  | nil => rw [if_neg (by simp)]; rfl
  | cons b bs ih =>
    rw [cellsAt_cons, List.foldl_cons, ih, storeByte_load, List.length_cons]
    by_cases hx : x = da
    · subst hx
      simp
    · by_cases hin : da + 1 ≤ x ∧ x < da + 1 + bs.length
      · rw [if_pos hin, if_pos (by omega), show x - da = (x - (da + 1)) + 1 by omega, List.getD_cons_succ]
      · rw [if_neg hin, if_neg hx, if_neg (by omega)]

theorem storeBytes_frame (da : Nat) (bs : List Byte) : ∃ c ws,
    s.storeBytes da bs = { s with fit := (s.touch da true).fit, core := c, g := { s.g with wset := ws } } := storeCells_frame _

/-- The latch of TIMEHI is no matter to a store. -/
theorem storeBytes_timeHi (da : Nat) (bs : List Byte) (m : Word) : State.storeBytes { s with g := { s.g with timeHi := m } } da bs =
    { s.storeBytes da bs with g := { (s.storeBytes da bs).g with timeHi := m } } :=
  storeCells_timeHi (s := s.touch da true) _ m

theorem storeBytes_load (da : Nat) (bs : List Byte) (x : Nat) :
    (s.storeBytes da bs).loadByte x = if da ≤ x ∧ x < da + bs.length then bs.getD (x - da) 0 else s.loadByte x :=
  storeCells_load da bs x

/-- A byte of a number's little-endian bytes. -/
theorem leBytes_getD {k m : Nat} (v : Nat) (h : k < m) : (leBytes m v).getD k 0 = BitVec.ofNat 8 (v / 256 ^ k) := by
  induction m generalizing k v with
  | zero => omega
  | succ m ih =>
    cases k with
    | zero => simp [leBytes]
    | succ k => rw [leBytes, List.getD_cons_succ, ih _ (by omega), Nat.div_div_eq_div_mul, Nat.pow_succ, Nat.mul_comm]

/-- It is a field of the number. -/
theorem leBytes_getD_field {k m : Nat} (v : DWord) (h : k < m) : (leBytes m v.toNat).getD k 0 = field v (8 * k) 8 := by
  rw [leBytes_getD _ h, show (256 : Nat) = 2 ^ 8 from rfl, ← Nat.pow_mul, ← Nat.shiftRight_eq_div_pow]
  rfl

/-- What `SST` stores: a pair, or a register (12 R183). -/
def State.stored (s : State) (d : SReg) (w : BitVec 2) : DWord := if w = 1 then s.readPair d else (s.readS d).setWidth 64

theorem stored_toNat : (if w = 1 then (s.readPair d).toNat else (s.readS d).toNat) = (s.stored d w).toNat := by
  unfold State.stored
  split
  · rfl
  · have := (s.readS d).isLt
    rw [BitVec.toNat_setWidth, Nat.mod_eq_of_lt (by omega)]

theorem exec_sst : exec (.sst d a w n re pk off) s = uniform s a w n re pk off true (fun t => t.latch d)
    (fun t da => (t.latch d).storeBytes da (leBytes (uniSize w) (s.stored d w).toNat)) := by
  rw [← stored_toNat]
  rfl

/-- What a performed store leaves: beside the view, the frame's mark and the predicate, nothing of the state moves but the stream. -/
theorem onward_stored {da : Nat} {bs : List Byte} {m : Word} {l : List SReg} :
    s.onward (((s.hadRead s l).storeBytes da bs).marked re pk m) = { s with
      fit := (s.touch da true).fit
      core := (s.storeBytes da bs).core
      g := { s.g with
        wset := (s.storeBytes da bs).g.wset, p := if re then vset s.g.p pk.toNat m else s.g.p,
        pc := s.g.after.1, loop := s.g.after.2, timeHi := s.latched l } } := by
  obtain ⟨c, ws, h⟩ := storeBytes_frame (s := s) da bs
  rw [State.hadRead, storeBytes_timeHi, h]
  cases re <;> rfl

/-- A byte of the core's view after the store, as the group loads it. -/
theorem storeBytes_core_load (da : Nat) (bs : List Byte) (x : Nat) :
    (s.storeBytes da bs).core.load s.g.wgId x = if da ≤ x ∧ x < da + bs.length then bs.getD (x - da) 0 else s.loadByte x := by
  rw [← storeBytes_load, State.loadByte]
  obtain ⟨c, ws, h⟩ := storeBytes_frame (s := s) da bs
  rw [h]

section
variable (hw : s.uniWaits = false) (hr : s.ScalarReady false [])
include hw hr

/-- A store that is performed. -/
theorem sst_ok {da : Nat} (h : s.reach (s.readT n) (s.uniOff a w off) (uniSize w) true = .ok da) :
    exec (.sst d a w n re pk off) s = .next { s with
      fit := (s.touch da true).fit
      core := (s.storeBytes da (leBytes (uniSize w) (s.stored d w).toNat)).core
      g := { s.g with
        wset := (s.storeBytes da (leBytes (uniSize w) (s.stored d w).toNat)).g.wset, p := if re then vset s.g.p pk.toNat 0 else s.g.p,
        pc := s.g.after.1, loop := s.g.after.2, timeHi := s.latched [a, d] } } := by
  rw [exec_sst, uniform_ok hw hr h, latch_latch_eq_hadRead]
  exact congrArg _ onward_stored

/-- One that is not, as the predicate says. -/
theorem sst_absent {dfn : Nat} (h : s.reach (s.readT n) (s.uniOff a w off) (uniSize w) true = .absent dfn) (hre : re = true) :
    exec (.sst d a w n re pk off) s = .next { s with g := { s.g with
      p := vset s.g.p pk.toNat 0xFFFFFFFF, pc := s.g.after.1, loop := s.g.after.2, timeHi := s.latched [a, d] } } := by
  subst hre
  rw [exec_sst, uniform_absent hw hr h rfl, latch_latch_eq_hadRead]
  rfl

end

theorem uniformStore : Claims.UniformStore := by
  intro s d a w n re pk off hwf hw hr
  refine ⟨fun da h => ⟨_, sst_ok hw hr h, rfl, rfl, fun x => ?_⟩,
    fun dfn h => ⟨sst_absent hw hr h, fun hre => ?_⟩, fun c h => ?_⟩
  · refine (storeBytes_core_load _ _ _).trans ?_
    rw [leBytes_length]
    split
    · exact leBytes_getD_field _ (by omega)
    · rfl
  · rw [exec_sst]
    exact uniform_absent_fault hw hr h hre
  · rw [exec_sst]
    exact uniform_fault hw hr h

end

/-- Settles O26: literals by where they lie, `POOL` by its target, and uniform accesses by what they reach. -/
theorem literalsAndUniformMemory : Obligations.LiteralsAndUniformMemory :=
  ⟨literalLoad, poolAndJumpOrder, uniformLoad, uniformStore⟩

end Sys2Proof.Machine
end

section
/-! PROOFS. Clause headers and arrivals at a join address (12 R186, 03 R59, R70, R75, R76, 15 R249, 01 R12). -/
namespace Sys2Proof.Machine

variable {s t : State} {r : RunUnit} {p : Path} {h : ClauseHdr}

/-! ## Paths of a unit -/

theorem setPath_setPath (b : Bool) (o o' : Option Path) : (r.setPath b o).setPath b o' = r.setPath b o' := by
  cases b <;> rfl

theorem path_setPath (b : Bool) (o : Option Path) : (r.setPath b o).path b = o := by
  cases b <;> rfl

/-- The state with the path of its issuing slot put in place. -/
theorem modPath_eq {f : Path → Path} (hr : s.g.run = some r) (hp : r.path s.slot = some p) :
    s.modPath f = { s with g := { s.g with run := some (r.setPath s.slot (some (f p))) } } := by
  simp only [State.modPath, hr, hp, Option.map_some]

/-- Where a header may be met: a unit runs, and the path of the issuing slot has no clause begun. -/
theorem headerGate_some (hg : s.headerGate = some (r, p)) : s.g.run = some r ∧ r.path s.slot = some p ∧ p.clause = none := by
  unfold State.headerGate at hg
  split at hg
  · split at hg
    · rename_i hr
      split at hg
      · rename_i hp
        split at hg
        · rename_i hc
          obtain ⟨rfl, rfl⟩ : _ = r ∧ _ = p := by simpa using hg
          exact ⟨hr, hp, by simpa using hc⟩
        · cases hg
      · cases hg
    · cases hg
  · cases hg

/-! ## Registers bound as entries leave the window -/

theorem leave_frame (es : List WinEntry) : ∃ v gr wa, s.leave es = { s with g := { s.g with v := v, granted := gr, want := wa } } := by
  unfold State.leave
  generalize es.flatMap (·.dst) = xs
  induction xs generalizing s with
  | nil => exact ⟨_, _, _, rfl⟩
  | cons x xs ih =>
    obtain ⟨v, gr, wa, h⟩ := ih (s := s.bindReg x.1 x.2)
    rw [List.foldl_cons, h]
    unfold State.bindReg
    dsimp only
    split <;> exact ⟨_, _, _, rfl⟩

/-! ## What a header meets -/

theorem exec_clauseHeader : exec (.clauseHeader h) s = execClauseHeader h s := rfl

/-- LIVE of a safe clause that is below what is mapped, or above the floor. -/
theorem headerFault_safe (hs : h.safe = true) (hl : h.live.toNat < s.g.mapped ∨ s.ln.desc.floor < h.live.toNat) :
    s.headerFault h p = some 0x08 := by
  simp [State.headerFault, hs, hl]

theorem headerFault_outside (hf : ¬ (h.safe = true ∧ (h.live.toNat < s.g.mapped ∨ s.ln.desc.floor < h.live.toNat)))
    (ho : s.ln.desc.llen ≤ p.pc + 1) : s.headerFault h p = some 0x10 := by
  simp [State.headerFault, hf, State.inLane, Nat.not_lt.mpr ho]

theorem headerFault_none (hf : ¬ (h.safe = true ∧ (h.live.toNat < s.g.mapped ∨ s.ln.desc.floor < h.live.toNat)))
    (hi : p.pc + 1 < s.ln.desc.llen) : s.headerFault h p = none := by
  simp [State.headerFault, hf, State.inLane, hi]

theorem boundary_none (ha : s.abandonDue = false) (hf : s.faultDue = false) : s.boundary = none := by
  unfold State.boundary
  split
  · rfl
  · simp [ha, hf]

/-- The flags of a `.wait` mask are clear just where each of them is zero. -/
theorem flagsClear_iff {g : Group} {m : BitVec 12} : g.flagsClear m = true ↔ ∀ n < 12, m.getLsbD n = true → vget g.f n 0 = 0 := by
  simp [Group.flagsClear, imp_iff_not_or]

theorem clauseHeader_fault {code : BitVec 8} (hg : s.headerGate = some (r, p)) (ha : arrives r p h = none)
    (hf : s.headerFault h p = some code) : exec (.clauseHeader h) s = .next (s.laneFault code p.mask) := by
  simp only [exec_clauseHeader, execClauseHeader, hg, ha, hf]

/-- The path at the first word of the clause that a header starts. -/
def Path.starts (p : Path) (h : ClauseHdr) : Path :=
  { p with pc := p.pc + 1, clause := some (clauseOf h p.pc), missed := false, float := false, zeros := [] }

/-- A header that nothing comes before, of a clause that is not safe, waits for its flags and then starts the clause. -/
theorem clauseHeader_clear (hg : s.headerGate = some (r, p)) (ha : arrives r p h = none) (hf : s.headerFault h p = none)
    (hb : s.boundary = none) (hs : h.safe = false) : exec (.clauseHeader h) s =
      if s.g.flagsClear h.wmask = true then .next (s.modPath fun p => p.starts h) else .next s := by
  simp only [exec_clauseHeader, execClauseHeader, hg, ha, hf, hb, hs, Bool.false_eq_true, if_false, Bool.false_and]
  cases s.g.flagsClear h.wmask <;> rfl

/-- One of a safe clause, which makes the window void first. -/
theorem clauseHeader_clear_safe (hg : s.headerGate = some (r, p)) (ha : arrives r p h = none) (hf : s.headerFault h p = none)
    (hb : s.boundary = none) (hs : h.safe = true) (hst : s.voidWindow.g.stop = false) (hc : s.voidWindow.g.flagsClear h.wmask = true) :
    exec (.clauseHeader h) s = .next (s.voidWindow.modPath fun p => p.starts h) := by
  simp only [exec_clauseHeader, execClauseHeader, hg, ha, hf, hb, hs, if_true, hst, hc]
  rfl

/-- The window made void binds registers, and changes nothing else. -/
theorem voidWindow_eq (hr : s.g.run = some r) (hp : r.path s.slot = some p) : ∃ v gr wa, s.voidWindow = { s with g := { s.g with
    run := some (r.setPath s.slot (some { p with win := [] })), v := v, granted := gr, want := wa } } := by
  have hpath : s.path = some p := by simp [State.path, hr, hp]
  obtain ⟨v, gr, wa, h⟩ := leave_frame (s := s) p.win.reverse
  refine ⟨v, gr, wa, ?_⟩
  simp only [State.voidWindow, hpath, h]
  exact modPath_eq hr hp

theorem clauseHeaders : Claims.ClauseHeaders := by
  intro h s r p hg ha
  obtain ⟨hr, hp, -⟩ := headerGate_some hg
  refine ⟨fun hs hl => clauseHeader_fault hg ha (headerFault_safe hs hl), fun hn =>
    ⟨fun ho => clauseHeader_fault hg ha (headerFault_outside hn ho), fun hi hab hfd => ?_⟩⟩
  have hf := headerFault_none hn hi
  have hb := boundary_none hab hfd
  refine ⟨fun hs hc => ?_, fun hs hc => ?_, fun hs hst hc => ?_⟩
  · rw [clauseHeader_clear hg ha hf hb hs, if_pos (flagsClear_iff.mpr hc), modPath_eq hr hp]
    rfl
  · rw [clauseHeader_clear hg ha hf hb hs, if_neg fun hc' => ?_]
    obtain ⟨n, hn, hm, hz⟩ := hc
    exact hz (flagsClear_iff.mp hc' n hn hm)
  · obtain ⟨v, gr, wa, hv⟩ := voidWindow_eq hr hp
    refine ⟨_, clauseHeader_clear_safe hg ha hf hb hs ?_ ?_, ?_, ?_⟩
    · rw [hv]; exact hst
    · rw [hv]; exact flagsClear_iff.mpr hc
    · rw [hv, modPath_eq rfl (path_setPath _ _), setPath_setPath]
      rfl
    · rw [hv, modPath_eq rfl (path_setPath _ _)]

/-! ## Arrival at a join -/

theorem arrives_some {i : Nat} {j : JoinRec} (hi : p.jrec = some i) (hj : r.join i = some j) (hn : h.join = true)
    (hpc : j.jaddr = p.pc) : arrives r p h = some i := by
  simp [arrives, hi, hj, hn, hpc]

/-- A path that arrives leaves its slot to the join, once its window can be bound. -/
theorem clauseHeader_arrives {i : Nat} (hg : s.headerGate = some (r, p)) (ha : arrives r p h = some i) (hb : s.boundary = none)
    (hd : s.Drops t p.win) : exec (.clauseHeader h) s = .next ((t.withRun (r.arriveAt s.slot 16 i p.mask)).floatDone p) := by
  obtain ⟨hc, rfl⟩ := hd
  simp only [exec_clauseHeader, execClauseHeader, hg, ha, hb, hc, if_true]
  rfl

/-- The last path to arrive goes on with all lanes that did. -/
theorem arriveAt_last {b : Bool} {n i : Nat} {j : JoinRec} {m : Word} (hj : r.join i = some j) (hm : m ≠ 0) (hc : j.count = 1) :
    r.arriveAt b (n + 1) i m = ({ r with joins := vset r.joins i none } : RunUnit).setPath b
      (some (Path.bare j.jaddr (j.arrived ||| m) j.outer)) := by
  have harr : ¬ j.arrived ||| m = 0 := fun h => hm (BitVec.or_eq_zero_iff.mp h).2
  simp only [RunUnit.arriveAt, hj, hc, Nat.sub_self, if_true, if_neg harr]
  rfl

/-- One before it leaves its lanes in the record, and its slot empty. -/
theorem arriveAt_earlier {b : Bool} {n i : Nat} {j : JoinRec} {m : Word} (hj : r.join i = some j) (hc : 2 ≤ j.count) :
    r.arriveAt b (n + 1) i m = ({ r with
      joins := vset r.joins i (some { j with arrived := j.arrived ||| m, count := j.count - 1 }) } : RunUnit).emptySlot b := by
  have hne : j.count - 1 ≠ 0 := by omega
  simp only [RunUnit.arriveAt, hj, if_neg hne]

theorem emptySlot_nil {b : Bool} (hs : r.stack = []) : r.emptySlot b = r.setPath b none := by
  simp only [RunUnit.emptySlot, hs]

theorem emptySlot_cons {b : Bool} {d : DivEntry} {ds : List DivEntry} (hs : r.stack = d :: ds) :
    r.emptySlot b = { r.setPath b (some (Path.bare d.pc d.mask d.jrec)) with stack := ds } := by
  simp only [RunUnit.emptySlot, hs]
  rfl

theorem joinArrival : Claims.JoinArrival := by
  intro h s t r p i j hg _ hi hj hn hpc hm hb hd
  have he := clauseHeader_arrives hg (arrives_some hi hj hn hpc) hb hd
  refine ⟨fun hc => ?_, fun hc => ⟨fun hs => ?_, fun d ds hs => ?_⟩⟩
  · rw [he, arriveAt_last hj hm hc]
  · rw [he, arriveAt_earlier hj hc, emptySlot_nil]
    exact hs
  · rw [he, arriveAt_earlier hj hc, emptySlot_cons]
    exact hs

/-- Settles O40: headers by what comes before their clause, arrivals by the count of the record. -/
theorem clausesAndJoins : Obligations.ClausesAndJoins := ⟨clauseHeaders, joinArrival⟩

end Sys2Proof.Machine
end

section
/-! PROOFS. Words that a loop runs (12 R180, 14 R211): a pass takes the words of the body in order, and passes follow each other. -/
namespace Sys2Proof.Machine

/-! ## The place after a word of a loop (14 R211) -/

section
variable {lp : LoopSt} {g : Group}

/-- Inside the body the next word of the pass follows. -/
theorem after_next_word (hl : g.loop = some lp) (hw : lp.word + 1 < lp.blen) :
    g.after = (lp.body + 4 * (lp.word + 1), some { lp with word := lp.word + 1 }) := by
  simp [Group.after, hl, hw]

/-- After its last word the next pass begins, while one is left. -/
theorem after_next_pass (hl : g.loop = some lp) (hw : lp.word + 1 = lp.blen) (hp : lp.pass + 1 < lp.count) :
    g.after = (lp.body, some { lp with word := 0, pass := lp.pass + 1 }) := by
  simp [Group.after, hl, hw, hp]

/-- After the last word of the last pass the loop is over. -/
theorem after_last_pass (hl : g.loop = some lp) (hw : lp.word + 1 = lp.blen) (hp : lp.pass + 1 = lp.count) :
    g.after = (lp.body + 4 * lp.blen, none) := by
  simp [Group.after, hl, hw, hp]

end

/-! ## Whole passes -/

section
variable {lp : LoopSt}

/-- Word k of the run of a loop, counted over all passes. -/
def LoopSt.wordAt (lp : LoopSt) (k : Nat) : Nat × Option LoopSt :=
  (lp.body + 4 * (k % lp.blen), some { lp with word := k % lp.blen, pass := k / lp.blen })

theorem loopPlace_succ {k : Nat} {pc : Nat} {o : Option LoopSt} (h : loopPlace lp k = (pc, o)) :
    loopPlace lp (k + 1) = Group.after { State.reset.g with pc := pc, loop := o } := by
  rw [loopPlace, h]

/-- A word that is not the last of its pass. -/
theorem div_mod_succ_inside {k n : Nat} (h : k % n + 1 < n) : (k + 1) / n = k / n ∧ (k + 1) % n = k % n + 1 :=
  (Nat.div_mod_unique (by omega)).mpr ⟨by have := Nat.mod_add_div k n; omega, h⟩

/-- The last word of a pass. -/
theorem div_mod_succ_end {k n : Nat} (hn : 0 < n) (h : k % n + 1 = n) : (k + 1) / n = k / n + 1 ∧ (k + 1) % n = 0 :=
  (Nat.div_mod_unique hn).mpr ⟨by have := Nat.mod_add_div k n; rw [Nat.mul_add]; omega, hn⟩

/-- From each word of the run the stream goes to the next, and from the last out of the loop. -/
theorem loopPlace_step {k : Nat} (hb : 0 < lp.blen) (hk : loopPlace lp k = lp.wordAt k) :
    (k + 1 < lp.count * lp.blen → loopPlace lp (k + 1) = lp.wordAt (k + 1)) ∧
    (k + 1 = lp.count * lp.blen → loopPlace lp (k + 1) = (lp.body + 4 * lp.blen, none)) := by
  have hs := loopPlace_succ hk
  by_cases hw : k % lp.blen + 1 < lp.blen
  · obtain ⟨hdiv, hmod⟩ := div_mod_succ_inside hw
    refine ⟨fun _ => ?_, fun he => ?_⟩
    · rw [hs, after_next_word rfl hw, LoopSt.wordAt, hdiv, hmod]
    · rw [he, Nat.mul_mod_left] at hmod
      omega
  · have he : k % lp.blen + 1 = lp.blen := by have := Nat.mod_lt k hb; omega
    obtain ⟨hdiv, hmod⟩ := div_mod_succ_end hb he
    refine ⟨fun hlt => ?_, fun hend => ?_⟩
    · have hp : k / lp.blen + 1 < lp.count := hdiv ▸ (Nat.div_lt_iff_lt_mul hb).mpr hlt
      rw [hs, after_next_pass rfl he hp, LoopSt.wordAt, hdiv, hmod]
      rfl
    · have hp : k / lp.blen + 1 = lp.count := by rw [← hdiv, hend, Nat.mul_div_cancel _ hb]
      rw [hs, after_last_pass rfl he hp]

theorem wordAt_zero (hw : lp.word = 0) (hp : lp.pass = 0) : lp.wordAt 0 = (lp.body, some lp) := by
  obtain ⟨body, blen, steps, pass, count, word⟩ := lp
  obtain rfl : word = 0 := hw
  obtain rfl : pass = 0 := hp
  simp [LoopSt.wordAt]

theorem loopPlace_wordAt (hw : lp.word = 0) (hp : lp.pass = 0) (hb : 0 < lp.blen) :
    ∀ k < lp.count * lp.blen, loopPlace lp k = lp.wordAt k := by
  intro k
  induction k with
  | zero => exact fun _ => (wordAt_zero hw hp).symm
  | succ k ih => exact fun hk => (loopPlace_step hb (ih (by omega))).1 hk

end

/-- Settles O1, word by word: within a pass, from one pass to the next, and out of the last. -/
theorem loopRunsCountPasses : Obligations.LoopRunsCountPasses := by
  intro lp hw hp hb hc
  have hwords := loopPlace_wordAt hw hp hb
  have hlen : lp.count * lp.blen - 1 + 1 = lp.count * lp.blen := Nat.sub_add_cancel (Nat.mul_pos hc hb)
  refine ⟨hwords, ?_⟩
  have hlast := (loopPlace_step hb (hwords (lp.count * lp.blen - 1) (by omega))).2 hlen
  rwa [hlen] at hlast

end Sys2Proof.Machine
end

section
/-! PROOFS. Scalar arithmetic (12 R174, R178, 14 R200 to R202): where the words stand in the opcode map, and what each writes. -/
namespace Sys2Proof

/-! ## A word decoded through its cell (12 R174) -/

section
variable {w : Word} {i : Instr}

/-- The word of an instruction of an assigned cell: its ranges, and then its operands. -/
theorem decodeScalar_scalarWord (hw : i.scalarWord = some w) (ha : i.assigned = true) : decodeScalar w =
    if i.rangesOk then if i.operandsOk then .ok i else .error .badOperandClass else .error .reservedField := by
  rw [decodeScalar, scalarCell_scalarWord hw, ha]
  cases hr : i.rangesOk <;> cases ho : i.operandsOk <;> simp [hw, hr, ho]

/-- A word of the cell that is not the instruction's has something in a field that is not used. -/
theorem decodeScalar_reserved (hc : scalarCell w = some i) (hw : i.scalarWord ≠ some w) : decodeScalar w = .error .reservedField := by
  simp [decodeScalar, hc, hw]

/-- Where the instruction of a cell has a condition on fields that it does not use, that decides first. -/
theorem decodeScalar_unused {v : Word} {P : Prop} [Decidable P] {r : Except DecodeError Instr} (hc : scalarCell w = some i)
    (hw : i.scalarWord = some v) (hP : P ↔ v = w) (h : decodeScalar v = r) :
    decodeScalar w = if P then r else .error .reservedField := by
  split
  · rw [← hP.mp ‹P›, h]
  · refine decodeScalar_reserved hc fun h' => ‹¬ P› (hP.mpr ?_)
    simpa [hw] using h'

theorem decodeScalar_unassigned (hc : scalarCell w = none) : decodeScalar w = .error .illegalOpcode := by
  simp [decodeScalar, hc]

end

section
variable {op d a b d' a' b' : SReg} {fn fn' : BitVec 8} {fn2 fn2' : BitVec 2} {i i' : BitVec 12} {j j' : BitVec 20}

theorem fmtA_inj : fmtA op d a b fn = fmtA op d' a' b' fn' ↔ d = d' ∧ a = a' ∧ b = b' ∧ fn = fn' := by
  refine ⟨fun h => ⟨?_, ?_, ?_, ?_⟩, ?_⟩
  · simpa using congrArg (field · 20 6) h
  · simpa using congrArg (field · 14 6) h
  · simpa using congrArg (field · 8 6) h
  · simpa using congrArg (field · 0 8) h
  · rintro ⟨rfl, rfl, rfl, rfl⟩; rfl

theorem fmtB_inj : fmtB op d a fn2 i = fmtB op d' a' fn2' i' ↔ d = d' ∧ a = a' ∧ fn2 = fn2' ∧ i = i' := by
  refine ⟨fun h => ⟨?_, ?_, ?_, ?_⟩, ?_⟩
  · simpa using congrArg (field · 20 6) h
  · simpa using congrArg (field · 14 6) h
  · simpa using congrArg (field · 12 2) h
  · simpa using congrArg (field · 0 12) h
  · rintro ⟨rfl, rfl, rfl, rfl⟩; rfl

theorem fmtC_inj : fmtC op a j = fmtC op a' j' ↔ a = a' ∧ j = j' := by
  refine ⟨fun h => ⟨?_, ?_⟩, ?_⟩
  · simpa using congrArg (field · 20 6) h
  · simpa using congrArg (field · 0 20) h
  · rintro ⟨rfl, rfl⟩; rfl

end

end Sys2Proof

namespace Sys2Proof.Machine

variable {s : State} {d a b : SReg}

/-! ## The words of R200 to R202 -/

/-- A word that writes SD is accepted for S0 to S47. -/
theorem decodeScalar_writes {w : Word} {i : Instr} (hw : i.scalarWord = some w) (ha : i.assigned = true) (hr : i.rangesOk = true)
    (ho : i.operandsOk = writable d) :
    decodeScalar w = if d.toNat < 48 then .ok i else .error .badOperandClass := by
  rw [decodeScalar_scalarWord hw ha, hr, ho]
  simp [writable, Nat.lt_succ_iff]

/-- One with pairs beside it is accepted where those are even too. -/
theorem decodeScalar_writes_of_even {w : Word} {i : Instr} {P : Prop} [Decidable P] (hw : i.scalarWord = some w)
    (ha : i.assigned = true) (hr : i.rangesOk = true) (ho : i.operandsOk = true ↔ P ∧ d.toNat < 48) :
    decodeScalar w = if P then if d.toNat < 48 then .ok i else .error .badOperandClass else .error .badOperandClass := by
  rw [decodeScalar_scalarWord hw ha, if_pos hr]
  by_cases hP : P <;> by_cases hd : d.toNat < 48 <;> simp [ho, hP, hd]

theorem aluTable_decodes : ∀ e ∈ aluTable.zipIdx, decodeScalar (fmtA 0x01 d a b (BitVec.ofNat 8 e.2)) =
    if d.toNat < 48 then .ok (e.1.1 d a b) else .error .badOperandClass := by
  simp only [aluTable, List.zipIdx, List.forall_mem_cons, List.not_mem_nil, false_implies, implies_true, and_true]
  refine ⟨?_, ?_, ?_, ?_, ?_, ?_, ?_, ?_, ?_, ?_, ?_, ?_, ?_, ?_, ?_⟩ <;> exact decodeScalar_writes rfl rfl rfl rfl

/-- The pairs of R200 are all even. -/
theorem pairs_ok : (writable d && evenReg d && evenReg a && evenReg b) = true ↔
    (d.toNat % 2 = 0 ∧ a.toNat % 2 = 0 ∧ b.toNat % 2 = 0) ∧ d.toNat < 48 := by
  simp only [writable, evenReg, Bool.and_eq_true, decide_eq_true_eq, beq_iff_eq]
  omega

/-- The sources of `SSET64` are even. -/
theorem sources_ok : (writable d && evenReg a && evenReg b) = true ↔ (a.toNat % 2 = 0 ∧ b.toNat % 2 = 0) ∧ d.toNat < 48 := by
  simp only [writable, evenReg, Bool.and_eq_true, decide_eq_true_eq, beq_iff_eq]
  omega

theorem alu64Table_decodes : ∀ e ∈ alu64Table.zipIdx, decodeScalar (fmtA 0x01 d a b (BitVec.ofNat 8 (0x10 + e.2))) =
    if d.toNat % 2 = 0 ∧ a.toNat % 2 = 0 ∧ b.toNat % 2 = 0 then if d.toNat < 48 then .ok (e.1.1 d a b) else .error .badOperandClass
    else .error .badOperandClass := by
  simp only [alu64Table, List.zipIdx, List.forall_mem_cons, List.not_mem_nil, false_implies, implies_true, and_true]
  refine ⟨?_, ?_, ?_⟩ <;> exact decodeScalar_writes_of_even rfl rfl rfl pairs_ok

/-- The counts have no SB. -/
theorem count_decodes {fn : BitVec 8} {x : Instr} (hc : scalarCell (fmtA 0x01 d a b fn) = some x)
    (hw : x.scalarWord = some (fmtA 0x01 d a 0 fn)) (ha : x.assigned = true) (hr : x.rangesOk = true) (ho : x.operandsOk = writable d) :
    decodeScalar (fmtA 0x01 d a b fn) =
      if b = 0 then if d.toNat < 48 then .ok x else .error .badOperandClass else .error .reservedField :=
  decodeScalar_unused hc hw ⟨by rintro rfl; rfl, fun h => (fmtA_inj.mp h).2.2.1.symm⟩ (decodeScalar_writes hw ha hr ho)

theorem sset_decodes : ∀ e ∈ [(SCond.eq, 0), (.ne, 1), (.lt, 2), (.ge, 3), (.ltu, 4), (.geu, 5)],
    decodeScalar (fmtA 0x02 d a b (BitVec.ofNat 8 e.2)) = (if d.toNat < 48 then .ok (.sset e.1 d a b) else .error .badOperandClass) ∧
    decodeScalar (fmtA 0x02 d a b (BitVec.ofNat 8 (0x10 + e.2))) =
      if a.toNat % 2 = 0 ∧ b.toNat % 2 = 0 then if d.toNat < 48 then .ok (.sset64 e.1 d a b) else .error .badOperandClass
      else .error .badOperandClass := by
  simp only [List.forall_mem_cons, List.not_mem_nil, false_implies, implies_true, and_true]
  refine ⟨?_, ?_, ?_, ?_, ?_, ?_⟩ <;>
    exact ⟨decodeScalar_writes rfl rfl rfl rfl, decodeScalar_writes_of_even rfl rfl rfl sources_ok⟩

section
variable {fn2 : BitVec 2} {i : BitVec 12}

/-- The immediates of R202 have FN2 0. -/
theorem immediates_decode : ∀ e ∈ [(Instr.saddi, 3), (.sandi, 4), (.sori, 5), (.sxori, 6)],
    decodeScalar (fmtB (BitVec.ofNat 6 e.2) d a fn2 i) =
      if fn2 = 0 then if d.toNat < 48 then .ok (e.1 d a i) else .error .badOperandClass else .error .reservedField := by
  have imm {op : BitVec 6} {x : Instr} (hc : scalarCell (fmtB op d a fn2 i) = some x) (hw : x.scalarWord = some (fmtB op d a 0 i))
      (ha : x.assigned = true) (hr : x.rangesOk = true) (ho : x.operandsOk = writable d) : decodeScalar (fmtB op d a fn2 i) =
        if fn2 = 0 then if d.toNat < 48 then .ok x else .error .badOperandClass else .error .reservedField :=
    decodeScalar_unused hc hw ⟨by rintro rfl; rfl, fun h => (fmtB_inj.mp h).2.2.1.symm⟩ (decodeScalar_writes hw ha hr ho)
  simp only [List.forall_mem_cons, List.not_mem_nil, false_implies, implies_true, and_true]
  refine ⟨imm ?_ rfl rfl rfl rfl, imm ?_ rfl rfl rfl rfl, imm ?_ rfl rfl rfl rfl, imm ?_ rfl rfl rfl rfl⟩ <;> simp [scalarCell]

/-- Their shifts have amounts below 64. -/
theorem shifts_decode : ∀ e ∈ [(Instr.sshli, 0), (.sshri, 1), (.ssrai, 2)],
    decodeScalar (fmtB 0x07 d a (BitVec.ofNat 2 e.2) i) =
      if i.toNat < 64 then if d.toNat < 48 then .ok (e.1 d a i) else .error .badOperandClass else .error .reservedField := by
  have range {w : Word} {x : Instr} (hw : x.scalarWord = some w) (ha : x.assigned = true) (hr : x.rangesOk = decide (i.toNat < 64))
      (ho : x.operandsOk = writable d) : decodeScalar w =
        if i.toNat < 64 then if d.toNat < 48 then .ok x else .error .badOperandClass else .error .reservedField := by
    rw [decodeScalar_scalarWord hw ha, hr, ho]
    simp [writable, Nat.lt_succ_iff]
  simp only [List.forall_mem_cons, List.not_mem_nil, false_implies, implies_true, and_true]
  exact ⟨range rfl rfl rfl rfl, range rfl rfl rfl rfl, range rfl rfl rfl rfl⟩

theorem shift_unassigned : decodeScalar (fmtB 0x07 d a 3 i) = .error .illegalOpcode :=
  decodeScalar_unassigned (by simp [scalarCell])

end

theorem arithmeticEncodings : Claims.ArithmeticEncodings := by
  intro d a b fn2 i
  exact ⟨aluTable_decodes, decodeScalar_writes rfl rfl rfl rfl, alu64Table_decodes,
    count_decodes (x := .sclz d a) (by simp [scalarCell]) rfl rfl rfl rfl,
    count_decodes (x := .spopc d a) (by simp [scalarCell]) rfl rfl rfl rfl,
    sset_decodes, immediates_decode, shifts_decode, shift_unassigned⟩

/-! ## Results (14 R200 to R202) -/

theorem add_eq_ofNat {w : Nat} (x y : BitVec w) : x + y = BitVec.ofNat w (x.toNat + y.toNat) := by
  rw [BitVec.ofNat_add, BitVec.ofNat_toNat, BitVec.ofNat_toNat, BitVec.setWidth_eq, BitVec.setWidth_eq]

theorem mul_eq_ofNat {w : Nat} (x y : BitVec w) : x * y = BitVec.ofNat w (x.toNat * y.toNat) := by
  rw [BitVec.ofNat_mul, BitVec.ofNat_toNat, BitVec.ofNat_toNat, BitVec.setWidth_eq, BitVec.setWidth_eq]

theorem sub_eq_ofInt {w : Nat} (x y : BitVec w) : x - y = BitVec.ofInt w (x.toInt - y.toInt) :=
  BitVec.eq_of_toInt_eq (by rw [BitVec.toInt_sub, BitVec.toInt_ofInt])

theorem shl32_eq (x : Word) (n : Nat) : shl32 x n = BitVec.ofNat 32 (x.toNat * 2 ^ n) := by
  unfold shl32
  split
  · exact BitVec.eq_of_toNat_eq (by simp [Nat.shiftLeft_eq])
  · refine BitVec.eq_of_toNat_eq ?_
    obtain ⟨k, rfl⟩ := Nat.exists_eq_add_of_le (Nat.not_lt.mp ‹¬ n < 32›)
    rw [BitVec.toNat_ofNat, Nat.pow_add, Nat.mul_left_comm, Nat.mul_mod_right]
    rfl

theorem shr32_eq (x : Word) (n : Nat) : shr32 x n = BitVec.ofNat 32 (x.toNat / 2 ^ n) := by
  have hlt : x.toNat / 2 ^ n < 2 ^ 32 := Nat.lt_of_le_of_lt (Nat.div_le_self _ _) x.isLt
  refine BitVec.eq_of_toNat_eq ?_
  rw [BitVec.toNat_ofNat, Nat.mod_eq_of_lt hlt]
  unfold shr32
  split
  · rw [BitVec.toNat_ushiftRight, Nat.shiftRight_eq_div_pow]
  · have hle : 2 ^ 32 ≤ 2 ^ n := Nat.pow_le_pow_right (by decide) (by omega)
    exact (Nat.div_eq_of_lt (Nat.lt_of_lt_of_le x.isLt hle)).symm

theorem ediv_eq_neg_one {a b : Int} (h : a < 0) (hb : -b ≤ a) : a / b = -1 :=
  ((Int.ediv_emod_unique (r := a + b) (by omega)).mpr ⟨by ring, by omega, by omega⟩).1

/-- Amounts of 32 and more give copies of the sign. -/
theorem sra32_eq (x : Word) (n : Nat) : sra32 x n = BitVec.ofInt 32 (x.toInt / 2 ^ n) := by
  unfold sra32
  split
  · rw [← BitVec.ofInt_toInt (x := x.sshiftRight n), BitVec.toInt_sshiftRight, Int.shiftRight_eq_div_pow]
    rfl
  · have hpow : (2 : Int) ^ 31 ≤ 2 ^ n := pow_le_pow_right₀ (by decide) (by omega)
    have hlo : -2 ^ 31 ≤ x.toInt := BitVec.le_toInt x
    have hhi : x.toInt < 2 ^ 31 := BitVec.toInt_lt
    rw [BitVec.msb_eq_toInt]
    by_cases hneg : x.toInt < 0
    · rw [ediv_eq_neg_one hneg (by omega), if_pos (decide_eq_true hneg)]
      rfl
    · rw [Int.ediv_eq_zero_of_lt (by omega) (by omega), if_neg (by simpa using hneg)]
      rfl

theorem ite_slt_eq_min (x y : Word) : (if x.slt y then x else y) = BitVec.ofInt 32 (min x.toInt y.toInt) := by
  rw [BitVec.slt_eq_decide]
  by_cases h : x.toInt < y.toInt
  · simp [h, min_eq_left h.le]
  · simp [h, min_eq_right (not_lt.mp h)]

theorem ite_slt_eq_max (x y : Word) : (if x.slt y then y else x) = BitVec.ofInt 32 (max x.toInt y.toInt) := by
  rw [BitVec.slt_eq_decide]
  by_cases h : x.toInt < y.toInt
  · simp [h, max_eq_right h.le]
  · simp [h, max_eq_left (not_lt.mp h)]

theorem ite_ult_eq_min (x y : Word) : (if x.ult y then x else y) = BitVec.ofNat 32 (min x.toNat y.toNat) := by
  rw [BitVec.ult_eq_decide]
  by_cases h : x.toNat < y.toNat
  · simp [h, min_eq_left h.le]
  · simp [h, min_eq_right (not_lt.mp h)]

theorem ite_ult_eq_max (x y : Word) : (if x.ult y then y else x) = BitVec.ofNat 32 (max x.toNat y.toNat) := by
  rw [BitVec.ult_eq_decide]
  by_cases h : x.toNat < y.toNat
  · simp [h, max_eq_right h.le]
  · simp [h, max_eq_left (not_lt.mp h)]

/-- The conditions of R201 as comparisons of numbers. -/
theorem condHolds_iff {w : Nat} (c : SCond) (x y : BitVec w) : condHolds c x y = true ↔ SCond.Holds c x y := by
  cases c <;> simp [condHolds, SCond.Holds, BitVec.slt_eq_decide, BitVec.ult_eq_decide]

theorem flag_of_holds {w : Nat} {c : SCond} {x y : BitVec w} (h : SCond.Holds c x y) : flag (condHolds c x y) = 1 := by
  rw [flag, if_pos ((condHolds_iff c x y).mpr h)]

theorem flag_of_not_holds {w : Nat} {c : SCond} {x y : BitVec w} (h : ¬ SCond.Holds c x y) : flag (condHolds c x y) = 0 := by
  rw [flag, if_neg (mt (condHolds_iff c x y).mp h)]

/-! ## Counts (14 R200) -/

theorem toNat_clz32 (x : Word) : (clz32 x).toNat = ((List.range 32).takeWhile fun i => !x.getLsbD (31 - i)).length := by
  have hle := (List.takeWhile_prefix (l := List.range 32) fun i => !x.getLsbD (31 - i)).length_le
  rw [List.length_range] at hle
  rw [clz32, BitVec.toNat_ofNat, Nat.mod_eq_of_lt (by omega)]

theorem clz32_le (x : Word) : (clz32 x).toNat ≤ 32 := by
  have hle := (List.takeWhile_prefix (l := List.range 32) fun i => !x.getLsbD (31 - i)).length_le
  rwa [List.length_range, ← toNat_clz32] at hle

/-- The bits counted are clear, from bit 31 down. -/
theorem clz32_clear {x : Word} {k : Nat} (h : k < (clz32 x).toNat) : x.getLsbD (31 - k) = false := by
  rw [toNat_clz32] at h
  have hk := List.mem_takeWhile_imp (List.getElem_mem h)
  rw [(List.takeWhile_prefix _).getElem h, List.getElem_range] at hk
  simpa using hk

/-- The bit that ends the count is set. -/
theorem clz32_le_of_set {x : Word} {k : Nat} (h : x.getLsbD (31 - k) = true) : (clz32 x).toNat ≤ k :=
  Nat.not_lt.mp fun hk => by simp [clz32_clear hk] at h

theorem toNat_popc32 (x : Word) : (popc32 x).toNat = ((List.range 32).filter fun i => x.getLsbD i).length := by
  have hle := List.length_filter_le (fun i => x.getLsbD i) (List.range 32)
  rw [List.length_range] at hle
  rw [popc32, BitVec.toNat_ofNat, Nat.mod_eq_of_lt (by omega)]

/-! ## The words on 32 bits -/

/-- Each word of the table is a three-register word with the table's result. -/
theorem exec_aluTable : ∀ e ∈ aluTable, ∀ (d a b : SReg) (s : State), exec (e.1 d a b) s = alu s d a b e.2 := by
  simp only [aluTable, List.forall_mem_cons, List.not_mem_nil, false_implies, implies_true, and_true, ← add_eq_ofNat, ← sub_eq_ofInt,
    ← mul_eq_ofNat, ← shl32_eq, ← shr32_eq, ← sra32_eq, ← ite_slt_eq_min, ← ite_slt_eq_max, ← ite_ult_eq_min, ← ite_ult_eq_max]
  refine ⟨?_, ?_, ?_, ?_, ?_, ?_, ?_, ?_, ?_, ?_, ?_, ?_, ?_, ?_, ?_⟩ <;> exact fun _ _ _ _ => rfl

theorem aluTable_operands : ∀ e ∈ aluTable, (e.1 d a b).operandsOk = writable d := by
  simp only [aluTable, List.forall_mem_cons, List.not_mem_nil, false_implies, implies_true, and_true]
  exact ⟨rfl, rfl, rfl, rfl, rfl, rfl, rfl, rfl, rfl, rfl, rfl, rfl, rfl, rfl, rfl⟩

/-- SD of a well-formed word that writes it. -/
theorem dest_lt {i : Instr} (ho : i.operandsOk = writable d) (h : i.WellFormed = true) : d.toNat < 48 :=
  writable_lt (ho ▸ operandsOk_of_wellFormed h)

theorem scalarAluResult : Claims.ScalarAluResult := by
  intro e he s d a b hw hr
  rw [exec_aluTable e he]
  exact alu_step e.2 hr (dest_lt (aluTable_operands e he) hw)

theorem readS_of_lt {n : SReg} (h : n.toNat < 48) : s.readS n = vget s.g.s n.toNat 0 := by
  simp [State.readS, vget, h]

theorem sselResult : Claims.SselResult := by
  intro s d a b hw hr
  have hd := dest_lt (d := d) rfl hw
  rw [← readS_of_lt hd]
  exact alu_step _ hr hd

/-- So is each immediate word of R202. -/
theorem exec_immTable : ∀ e ∈ immTable, ∀ (d a : SReg) (i : BitVec 12) (s : State), exec (e.1 d a i) s = aluImm s d a (e.2 · i) := by
  simp only [immTable, List.forall_mem_cons, List.not_mem_nil, false_implies, implies_true, and_true, ← shl32_eq, ← shr32_eq, ← sra32_eq,
    BitVec.ofInt_add, BitVec.ofInt_toInt]
  refine ⟨?_, ?_, ?_, ?_, ?_, ?_, ?_⟩ <;> exact fun _ _ _ _ => rfl

theorem immTable_operands {i : BitVec 12} : ∀ e ∈ immTable, (e.1 d a i).operandsOk = writable d := by
  simp only [immTable, List.forall_mem_cons, List.not_mem_nil, false_implies, implies_true, and_true]
  exact ⟨rfl, rfl, rfl, rfl, rfl, rfl, rfl⟩

theorem scalarImmResult : Claims.ScalarImmResult := by
  intro e he s d a i hw hr
  rw [exec_immTable e he]
  exact aluImm_step (e.2 · i) hr (dest_lt (immTable_operands e he) hw)

/-! ## Pairs (14 R200, R201) -/

/-- A word that reads some registers and writes one changes nothing else. -/
theorem scalarStep_hadRead_writeS (rs : List SReg) (v : Word) : ScalarStep s (s.onward ((s.hadRead s rs).writeS d v)) rs [d] :=
  ⟨rfl, fun _ _ hn => writeS_kept (s := s.hadRead s rs) (by simpa using hn) v⟩

theorem scalarStep_hadRead_writePair (rs : List SReg) (v : DWord) :
    ScalarStep s (s.onward ((s.hadRead s rs).writePair d v)) rs [d, d + 1] :=
  ⟨rfl, fun n _ hn => by
    obtain ⟨h, h1⟩ : n ≠ d ∧ n ≠ d + 1 := by simpa using hn
    exact writePair_kept (s := s.hadRead s rs) h h1 v⟩

theorem alu64_step (f : DWord → DWord → DWord) (h : s.ScalarReady false [d, d + 1, a, a + 1, b, b + 1]) (hd : d.toNat < 48)
    (he : d.toNat % 2 = 0) : ∃ t, alu64 s d a b f = .next t ∧ ScalarStep s t [a, b] [d, d + 1] ∧
      t.spair d = f (s.readPair a) (s.readPair b) := by
  refine ⟨_, scalarWord_ok h rfl, ?_, ?_⟩ <;> rw [latch_latch_eq_hadRead]
  · exact scalarStep_hadRead_writePair _ _
  · exact spair_writePair hd he _

theorem exec_alu64Table : ∀ e ∈ alu64Table, ∀ (d a b : SReg) (s : State), exec (e.1 d a b) s = alu64 s d a b e.2 := by
  simp only [alu64Table, List.forall_mem_cons, List.not_mem_nil, false_implies, implies_true, and_true, ← add_eq_ofNat, ← sub_eq_ofInt,
    ← mul_eq_ofNat]
  exact ⟨fun _ _ _ _ => rfl, fun _ _ _ _ => rfl, fun _ _ _ _ => rfl⟩

theorem alu64Table_operands : ∀ e ∈ alu64Table, (e.1 d a b).operandsOk = (writable d && evenReg d && evenReg a && evenReg b) := by
  simp only [alu64Table, List.forall_mem_cons, List.not_mem_nil, false_implies, implies_true, and_true]
  exact ⟨rfl, rfl, rfl⟩

theorem scalarPairResult : Claims.ScalarPairResult := by
  intro s d a b
  refine ⟨fun e he hw hr => ?_, fun hw hr => ?_, fun hw hr => ?_⟩
  · obtain ⟨⟨heven, -, -⟩, hd⟩ := pairs_ok.mp (alu64Table_operands e he ▸ operandsOk_of_wellFormed hw)
    rw [exec_alu64Table e he]
    exact alu64_step e.2 hr hd heven
  · obtain ⟨t, ht, hstep, hv⟩ := aluImm_step clz32 hr (dest_lt (d := d) rfl hw)
    exact ⟨t, ht, hstep, hv ▸ clz32_le _, fun k _ h => hv ▸ clz32_le_of_set h, fun k h => clz32_clear (hv ▸ h)⟩
  · obtain ⟨t, ht, hstep, hv⟩ := aluImm_step popc32 hr (dest_lt (d := d) rfl hw)
    exact ⟨t, ht, hstep, hv ▸ toNat_popc32 _⟩

theorem exec_sset64 {c : SCond} : exec (.sset64 c d a b) s = execSset64 c d a b s := rfl

theorem sset64_step (c : SCond) (h : s.ScalarReady false [d, a, a + 1, b, b + 1]) (hd : d.toNat < 48) :
    ∃ t, exec (.sset64 c d a b) s = .next t ∧ ScalarStep s t [a, b] [d] ∧
      vget t.g.s d.toNat 0 = flag (condHolds c (s.readPair a) (s.readPair b)) := by
  rw [exec_sset64]
  refine ⟨_, scalarWord_ok h rfl, ?_, ?_⟩ <;> rw [latch_latch_eq_hadRead]
  · exact scalarStep_hadRead_writeS _ _
  · exact vget_vset _ _ _ _ hd

theorem ssetResult : Claims.SsetResult := by
  intro s c d a b
  refine ⟨fun hw hr => ?_, fun hw hr => ?_⟩
  · obtain ⟨t, ht, hstep, hv⟩ := alu_step (fun x y => flag (condHolds c x y)) hr (dest_lt (d := d) rfl hw)
    exact ⟨t, ht, hstep, fun h => hv.trans (flag_of_holds h), fun h => hv.trans (flag_of_not_holds h)⟩
  · obtain ⟨-, hd⟩ := sources_ok.mp (operandsOk_of_wellFormed hw)
    obtain ⟨t, ht, hstep, hv⟩ := sset64_step c hr hd
    exact ⟨t, ht, hstep, fun h => hv.trans (flag_of_holds h), fun h => hv.trans (flag_of_not_holds h)⟩

/-- Settles O25: the words by their cells, and each result by the operation of its table. -/
theorem scalarArithmetic : Obligations.ScalarArithmetic :=
  ⟨arithmeticEncodings, scalarAluResult, sselResult, scalarImmResult, scalarPairResult, ssetResult⟩

end Sys2Proof.Machine
end

section
/-! PROOFS. Branches, `CALL` and `JR` (12 R176, R178, R181, 14 R207 to R209): where the words stand in the opcode map, and where they lead. -/
namespace Sys2Proof.Machine

variable {s : State} {d a b : SReg}

/-! ## The words of R207 to R209 -/

section
variable {i : BitVec 20}

/-- A word that is accepted whatever its fields are. -/
theorem decodeScalar_accepted {w : Word} {x : Instr} (hw : x.scalarWord = some w) (ha : x.assigned = true) (hr : x.rangesOk = true)
    (ho : x.operandsOk = true) : decodeScalar w = .ok x := by
  rw [decodeScalar_scalarWord hw ha, if_pos hr, if_pos ho]

theorem br_decodes : decodeScalar (fmtC 0x10 a i) = if a = 0 then .ok (.br i) else .error .reservedField :=
  decodeScalar_unused (i := .br i) (by simp [scalarCell]) rfl ⟨by rintro rfl; rfl, fun h => (fmtC_inj.mp h).1.symm⟩
    (decodeScalar_accepted rfl rfl rfl rfl)

/-- A number in bits [22:20] with 0 above it. -/
theorem low3_iff : a.toNat < 8 ↔ low3 (field a 0 3) = a := by
  revert a; decide

theorem low3_eq_setWidth : (field a 0 3 : BitVec 3) = a.setWidth 3 := by
  revert a; decide

/-- The branches on a P register name it in bits [22:20]. -/
theorem predBranch_decodes : ∀ e ∈ [(Instr.bpany, 0x15), (.bpall, 0x16), (.bpnone, 0x17)],
    decodeScalar (fmtC (BitVec.ofNat 6 e.2) a i) =
      if a.toNat < 8 then .ok (e.1 (a.setWidth 3) i) else .error .reservedField := by
  have pred {op : BitVec 6} {x : Instr} (hc : scalarCell (fmtC op a i) = some x)
      (hw : x.scalarWord = some (fmtC op (low3 (field a 0 3)) i)) (ha : x.assigned = true) (hr : x.rangesOk = true)
      (ho : x.operandsOk = true) : decodeScalar (fmtC op a i) = if a.toNat < 8 then .ok x else .error .reservedField :=
    decodeScalar_unused hc hw (low3_iff.trans ⟨fun h => by rw [h], fun h => (fmtC_inj.mp h).1⟩) (decodeScalar_accepted hw ha hr ho)
  simp only [List.forall_mem_cons, List.not_mem_nil, false_implies, implies_true, and_true, ← low3_eq_setWidth]
  refine ⟨pred ?_ rfl rfl rfl rfl, pred ?_ rfl rfl rfl rfl, pred ?_ rfl rfl rfl rfl⟩ <;> simp [scalarCell]

theorem call_decodes : decodeScalar (fmtC 0x18 a i) = if a.toNat < 48 then .ok (.call a i) else .error .badOperandClass :=
  decodeScalar_writes rfl rfl rfl rfl

theorem jr_decodes {fn : BitVec 8} : decodeScalar (fmtA 0x19 d a b fn) =
    if d = 0 ∧ b = 0 ∧ fn = 0 then .ok (.jr a) else .error .reservedField := by
  refine decodeScalar_unused (i := .jr a) (by simp [scalarCell]) rfl ⟨?_, fun h => ?_⟩ (decodeScalar_accepted rfl rfl rfl rfl)
  · rintro ⟨rfl, rfl, rfl⟩; rfl
  · obtain ⟨hd, -, hb, hfn⟩ := fmtA_inj.mp h
    exact ⟨hd.symm, hb.symm, hfn.symm⟩

theorem branchEncodings : Claims.BranchEncodings :=
  fun _ _ _ _ _ => ⟨br_decodes, decodeScalar_accepted rfl rfl rfl rfl, decodeScalar_accepted rfl rfl rfl rfl,
    decodeScalar_accepted rfl rfl rfl rfl, decodeScalar_accepted rfl rfl rfl rfl, predBranch_decodes, call_decodes, jr_decodes⟩

end

/-! ## Branches (14 R207, R208) -/

section
variable {drains : Bool} {regs : List SReg} {taken : State → Bool} {i : BitVec 20}

/-- A taken branch goes to its target with no loop running, -/
theorem branch_inside (hr : regs.foldl State.latch s = s.hadRead s regs) (ht : taken s = true) (hg : s.scalarGate drains true regs = true)
    (hi : s.InScalar (s.target i)) : branch s drains regs taken i = .next (s.hadRead (s.atWord (s.target i)) regs) := by
  rw [branch, if_pos ht]
  refine scalarJump_ok hg ?_
  simp only [hr]
  exact jump_inside hi

/-- which must lie in the section; -/
theorem branch_outside (hr : regs.foldl State.latch s = s.hadRead s regs) (ht : taken s = true) (hg : s.scalarGate drains true regs = true)
    (hi : ¬ s.InScalar (s.target i)) : branch s drains regs taken i = .next (s.scalarFault 0x10) := by
  rw [branch, if_pos ht]
  refine scalarJump_error (f := { code := 0x10 }) hg ?_
  simp only [hr]
  exact jump_outside hi

/-- one that is not taken falls through. -/
theorem branch_untaken (hr : regs.foldl State.latch s = s.hadRead s regs) (ht : taken s ≠ true) (h : s.ScalarReady drains regs) :
    branch s drains regs taken i = .next (s.hadRead (s.onward s) regs) := by
  rw [branch, if_neg ht]
  refine scalarWord_ok (t := s.hadRead s regs) h ?_
  simp only [hr]

/-- A word whose gate is closed waits, whether its branch would be taken or not. -/
theorem branch_waits (h : s.scalarGate drains drains regs = false) (h' : s.scalarGate drains true regs = false) :
    branch s drains regs taken i = .next s.scalarWait := by
  simp [branch, scalarJump, scalarWord, h, h']

end

/-- A branch word runs as a branch on a condition, by which it is taken where R207 and R208 say. -/
structure BranchWord.Runs (e : BranchWord) (taken : State → Bool) : Prop where
  exec   : ∀ (i : BitVec 20) (s : State), exec (e.word i) s = branch s e.drains e.regs taken i
  taken  : ∀ s : State, taken s = true ↔ e.taken s
  reads  : ∀ s : State, e.regs.foldl State.latch s = s.hadRead s e.regs
  waits  : e.drains = true → e.regs = []

theorem branchWords_run (p : BitVec 3) : ∀ e ∈ branchWords a p, ∃ taken, e.Runs taken := by
  have one (s : State) : [a].foldl State.latch s = s.hadRead s [a] := latch_eq_hadRead
  simp only [branchWords, List.forall_mem_cons, List.not_mem_nil, false_implies, implies_true, and_true]
  refine ⟨⟨fun _ => true, fun _ _ => rfl, ?_, fun _ => rfl, nofun⟩,
    ⟨fun s => s.readS a == 0, fun _ _ => rfl, ?_, one, nofun⟩, ⟨fun s => s.readS a != 0, fun _ _ => rfl, ?_, one, nofun⟩,
    ⟨fun s => (s.readS a).msb, fun _ _ => rfl, ?_, one, nofun⟩, ⟨fun s => !(s.readS a).msb, fun _ _ => rfl, ?_, one, nofun⟩,
    ⟨fun s => s.readP p != 0, fun _ _ => rfl, ?_, fun _ => rfl, fun _ => rfl⟩,
    ⟨fun s => s.readP p == 0xFFFFFFFF, fun _ _ => rfl, ?_, fun _ => rfl, fun _ => rfl⟩,
    ⟨fun s => s.readP p == 0, fun _ _ => rfl, ?_, fun _ => rfl, fun _ => rfl⟩⟩ <;>
    simp [BitVec.msb_eq_toInt, State.readP]

theorem branchTarget : Claims.BranchTarget := by
  intro s a p i e he
  obtain ⟨taken, hexec, htaken, hread, hregs⟩ := branchWords_run p e he
  simp only [hexec]
  refine ⟨fun ht hg => ⟨branch_inside (hread s) ((htaken s).mpr ht) hg, branch_outside (hread s) ((htaken s).mpr ht) hg⟩,
    fun ht => branch_untaken (hread s) (mt (htaken s).mp ht), fun hd hg => ?_⟩
  have hg' : s.scalarGate e.drains true e.regs = false := by rw [hd, hregs hd]; exact hg
  exact branch_waits (by rwa [hd] at hg' ⊢) hg'

/-! ## `CALL` and `JR` (14 R209) -/

section
variable {i : BitVec 20}

theorem exec_call : exec (.call a i) s = execCall a i s := rfl

theorem call_inside (hg : s.scalarGate false true [a] = true) (hi : s.InScalar (s.target i)) :
    exec (.call a i) s = .next ((s.atWord (s.target i)).writeS a (BitVec.ofNat 32 (s.g.pc + 4))) := by
  rw [exec_call]
  exact scalarJump_ok hg (jump_inside hi)

theorem call_outside (hg : s.scalarGate false true [a] = true) (hi : ¬ s.InScalar (s.target i)) :
    exec (.call a i) s = .next (s.scalarFault 0x10) := by
  rw [exec_call]
  exact scalarJump_error (f := { code := 0x10 }) hg (jump_outside hi)

theorem latch_atWord (n : Int) : (s.atWord n).latch a = s.hadRead (s.atWord n) [a] := by
  rw [latch_eq_hadRead]
  rfl

theorem jr_inside (hg : s.scalarGate false true [a] = true) (ha : (s.readS a).toNat % 4 = 0) (hi : s.InScalar (s.readS a).toNat) :
    exec (.jr a) s = .next ((s.atWord (s.readS a).toNat).latch a) := by
  rw [exec_jr, latch_atWord]
  refine scalarJump_ok hg ?_
  simp only [ha, ne_eq, not_true_eq_false, if_false, latch_eq_hadRead]
  exact jump_inside hi

theorem jr_outside (hg : s.scalarGate false true [a] = true) (ha : (s.readS a).toNat % 4 = 0) (hi : ¬ s.InScalar (s.readS a).toNat) :
    exec (.jr a) s = .next (s.scalarFault 0x10) := by
  rw [exec_jr]
  refine scalarJump_error (f := { code := 0x10 }) hg ?_
  simp only [ha, ne_eq, not_true_eq_false, if_false, latch_eq_hadRead]
  exact jump_outside hi

end

theorem callReturn : Claims.CallReturn :=
  fun _ _ _ => ⟨fun _ hg => ⟨call_inside hg, call_outside hg⟩,
    fun hg => ⟨jr_inside hg, fun ha _ => jr_misaligned hg ha, jr_outside hg⟩⟩

/-- Settles O27: the words by their cells, and branches, `CALL` and `JR` by where their target lies. -/
theorem branchesAndCalls : Obligations.BranchesAndCalls := ⟨branchEncodings, branchTarget, callReturn⟩

end Sys2Proof.Machine
end

section
/-! PROOFS. `LOOP`, `LINC` and `ENQ` (12 R176, R180, 14 R199, R211 to R214): what a loop is started with and what refuses it, and what a unit
of lane work records. -/
namespace Sys2Proof.Machine

variable {s : State} {l : Launch} {c a : SReg} {pc n count : Nat} {steps : List LoopStep} {e : SFault} {lp : LoopSt}

/-! ## The checks of a loop (12 R180) -/

theorem loopAt_lincs_error (h : l.lincs 9 (pc + 4) = .error e) : l.loopAt pc n count = .error e := by
  simp only [Launch.loopAt, h]

theorem loopAt_many_lincs (h : l.lincs 9 (pc + 4) = .ok steps) (hl : 8 < steps.length) :
    l.loopAt pc n count = .error { code := 0x06 } := by
  simp only [Launch.loopAt, h, if_pos hl]

theorem scalarAt_outside {a : Nat} (h : l.desc.slen < a + 4) : l.scalarAt a = none := by
  simp [Launch.scalarAt, Nat.not_le.mpr h]

theorem foldr_none {α β : Type} {f : α → Option β → Option β} (hf : ∀ x, f x none = none) (xs : List α) : xs.foldr f none = none := by
  induction xs with
  | nil => rfl
  | cons x xs ih => rw [List.foldr_cons, ih, hf]

/-- A body has no words where its last one lies outside the section. -/
theorem bodyWords_outside {body : Nat} (h : l.desc.slen < body + 4 * (n + 1)) : l.bodyWords body (n + 1) = none := by
  rw [Launch.bodyWords, List.range_succ, List.foldr_append, List.foldr_cons, List.foldr_nil, scalarAt_outside (by omega)]
  refine foldr_none (fun i => ?_) _
  cases l.scalarAt (body + 4 * i) <;> rfl

theorem loopAt_outside (h : l.lincs 9 (pc + 4) = .ok steps) (hl : steps.length ≤ 8)
    (ho : l.desc.slen < pc + 4 + 4 * steps.length + 4 * (n + 1)) : l.loopAt pc (n + 1) count = .error { code := 0x10 } := by
  simp only [Launch.loopAt, h, if_neg (Nat.not_lt.mpr hl), bodyWords_outside ho]

/-- A `LINC` of a word or a field that the body does not have, and a word that no body may hold, refuse the loop. -/
theorem loopAt_refused {ws : List Word} (h : l.lincs 9 (pc + 4) = .ok steps) (hl : steps.length ≤ 8)
    (hw : l.bodyWords (pc + 4 + 4 * steps.length) n = some ws)
    (hbad : (∃ x ∈ steps, n ≤ x.word ∨ hasField (ws.getD x.word 0) x.fld = false) ∨ ∃ x ∈ ws, barredInLoop x = true) :
    l.loopAt pc n count = .error { code := 0x06 } := by
  simp only [Launch.loopAt, h, if_neg (Nat.not_lt.mpr hl), hw]
  rcases hbad with hf | hb
  · rw [if_pos]
    simpa [List.getD_eq_getElem?_getD] using hf
  · split
    · rfl
    · rw [if_pos (by simpa using hb)]

/-- A loop that is accepted starts at pass 0 and word 0, with the length and the count that are asked. -/
theorem loopAt_ok (h : l.loopAt pc n count = .ok lp) : lp.blen = n ∧ lp.count = count ∧ lp.pass = 0 ∧ lp.word = 0 := by
  unfold Launch.loopAt at h
  split at h
  · cases h
  · split at h
    · cases h
    · dsimp only at h
      split at h
      · cases h
      · split_ifs at h
        cases h
        exact ⟨rfl, rfl, rfl, rfl⟩

/-! ## `LOOP` and `LINC` (14 R211, R212) -/

theorem exec_loop {m : BitVec 5} : exec (.loop c m) s = execLoop c m s := rfl

section
variable {m : BitVec 5} (hg : s.scalarGate false false [c] = true)
include hg

theorem loop_error (h : s.ln.loopAt s.g.pc (m.toNat + 1) (s.readS c).toNat = .error e) :
    exec (.loop c m) s = .next (s.scalarFault e.code e.detail e.va) := by
  rw [exec_loop]
  refine scalarJump_error hg ?_
  simp only [h]

/-- The range of the `LINC` words and the body, fetched at the `LOOP` (log 84). -/
def State.loopBar (s : State) (lp : LoopSt) : Option (BitVec 8 × Nat) :=
  s.fetchBar (s.ln.desc.scodeVa + s.g.pc + 4) (lp.body + 4 * lp.blen - (s.g.pc + 4))

section
variable (h : s.ln.loopAt s.g.pc (m.toNat + 1) (s.readS c).toNat = .ok lp)
include h

theorem loop_barred {x : BitVec 8 × Nat} (hb : s.loopBar lp = some x) :
    exec (.loop c m) s = .next (s.scalarFault x.1 0 x.2) := by
  rw [exec_loop]
  refine scalarJump_error (f := { code := x.1, va := x.2 }) hg ?_
  rw [State.loopBar] at hb
  simp only [h, hb]

theorem loop_starts (hb : s.loopBar lp = none) (hc : 0 < (s.readS c).toNat) : exec (.loop c m) s =
    .next { s with g := { s.g with pc := lp.body, loop := some lp, timeHi := s.latched [c] } } := by
  obtain ⟨-, hcount, -, -⟩ := loopAt_ok h
  rw [exec_loop]
  refine scalarJump_ok hg ?_
  rw [State.loopBar] at hb
  simp only [h, hb, if_neg (show ¬ lp.count = 0 by omega), latch_eq_hadRead]
  rfl

/-- Count 0 passes the body by. -/
theorem loop_skips (hb : s.loopBar lp = none) (hc : s.readS c = 0) (hs : lp.body + 4 * lp.blen + 4 ≤ s.ln.desc.slen) :
    exec (.loop c m) s = .next { s with g := { s.g with pc := lp.body + 4 * lp.blen, timeHi := s.latched [c] } } := by
  obtain ⟨-, hcount, -, -⟩ := loopAt_ok h
  rw [exec_loop]
  refine scalarJump_ok hg ?_
  rw [State.loopBar] at hb
  simp only [h, hb, if_pos (show lp.count = 0 by simp [hcount, hc]), latch_eq_hadRead]
  exact jump_inside ⟨Int.natCast_nonneg _, by exact_mod_cast hs⟩

end

end

theorem exec_linc {w : BitVec 5} {f : BitVec 2} {st : BitVec 12} : exec (.linc w f st) s = execLinc w f st s := rfl

theorem linc_alone {w : BitVec 5} {f : BitVec 2} {st : BitVec 12} (hg : s.scalarGate false false [] = true) :
    exec (.linc w f st) s = .next (s.scalarFault 0x06) := by
  rw [exec_linc]
  exact scalarJump_error (f := { code := 0x06 }) hg rfl

theorem loopStart : Claims.LoopStart := by
  intro s c n w f st
  refine ⟨fun hg => ⟨fun lp h => ?_, fun e h => loop_error hg (loopAt_lincs_error h), fun steps h => ⟨fun hl => ?_, fun hl ho => ?_,
    fun ws hl hw hbad => ?_⟩⟩, linc_alone⟩
  · obtain ⟨hb, hc, hp, hw⟩ := loopAt_ok h
    exact ⟨hb, hc, hp, hw, fun _ => loop_barred hg h, loop_starts hg h, loop_skips hg h⟩
  · exact loop_error hg (loopAt_many_lincs h hl)
  · exact loop_error hg (loopAt_outside h hl ho)
  · exact loop_error hg (loopAt_refused h hl hw hbad)

/-! ## `ENQ` (14 R199, R214) -/

section
variable {i : BitVec 20}

/-- The unit records each S register as it reads, and TIMEHI with the time of the `ENQ`. -/
theorem vget_unitS (n : SReg) : vget s.unitS n.toNat 0 = if n.toNat = 61 then s.timeHigh else s.readS n := by
  simp [State.unitS, vget, n.isLt]

theorem exec_enq : exec (.enq a i) s = execEnq a i s := rfl

/-- With room in the queue and no stop asked, only the gate and the index decide. -/
theorem enq_room (hst : s.g.stop = false)
    (hroom : s.g.queue.length + (if s.g.run.isSome then 1 else 0) < 8) :
    exec (.enq a i) s = execEnq.enqueue a s (i.toNat + (s.readS a).toNat) := by
  rw [exec_enq, execEnq]
  simp only [hst, decide_eq_false (Nat.not_le.mpr hroom), Bool.and_false, Bool.false_and, Bool.false_eq_true, if_false]
  cases s.ln.safeAt (i.toNat + (s.readS a).toNat) <;> rfl

theorem enqueue_outside {k : Nat} (hg : s.scalarGate false true [a] = true) (hk : s.ln.desc.llen ≤ k) :
    execEnq.enqueue a s k = .next (s.scalarFault 0x10) := by
  rw [execEnq.enqueue, if_pos hg, if_pos hk]

theorem enqueue_inside {k : Nat} (hg : s.scalarGate false true [a] = true) (hk : k < s.ln.desc.llen)
    (hs : s.g.after.1 + 4 ≤ s.ln.desc.slen) : execEnq.enqueue a s k = .next { s with g := { s.g with
      queue := s.g.queue ++ [s.newUnit k], pc := s.g.after.1, loop := s.g.after.2, timeHi := s.latched [a] } } := by
  rw [execEnq.enqueue, if_pos hg, if_neg (Nat.not_le.mpr hk), finish_onward hs, latch_eq_hadRead]
  rfl

end

theorem enqueueRecords : Claims.EnqueueRecords := by
  intro s a i hg hst hroom
  rw [enq_room hst hroom]
  refine ⟨fun hk hs => ⟨s.newUnit _, enqueue_inside hg hk hs, rfl, rfl, rfl, fun n hn => ?_, ?_, rfl, rfl, rfl⟩, enqueue_outside hg⟩
  · exact (vget_unitS n).trans (if_neg hn)
  · exact vget_unitS 61

/-- Settles O28: loops by the checks of R180 in their order, and the unit of an `ENQ`. -/
theorem loopsAndUnits : Obligations.LoopsAndUnits := ⟨loopStart, enqueueRecords⟩

end Sys2Proof.Machine
end

section
/-! PROOFS. `TMAP`, `TREL`, `NOP` and `ENDG` (12 R181, 14 R210, R216, R217, R219, 01 R35, R45): the run of frames that a translation register
covers, and what the end of a group leaves. -/
namespace Sys2Proof.Machine

variable {s : State} {d a b : SReg}

/-! ## The words of R210 and R217 -/

theorem nop_decodes (x : BitVec 26) : decodeScalar (0x23#6 ++ x) = if x = 0 then .ok .nop else .error .reservedField := by
  refine decodeScalar_unused (i := .nop) (by simp [scalarCell]) rfl ⟨by rintro rfl; rfl, fun h => ?_⟩
    (decodeScalar_accepted rfl rfl rfl rfl)
  have hlow : (field (fmtA 0x23 0 0 0 0) 0 26 : BitVec 26) = 0 := by decide
  rw [h] at hlow
  simpa using hlow

theorem trel_decodes {fn : BitVec 8} : decodeScalar (fmtA 0x22 d a b fn) =
    if d.toNat < 8 ∧ a = 0 ∧ b = 0 ∧ fn = 0 then .ok (.trel (d.setWidth 3)) else .error .reservedField := by
  rw [← low3_eq_setWidth]
  refine decodeScalar_unused (i := .trel (field d 0 3)) (by simp [scalarCell]) rfl ⟨?_, fun h => ?_⟩
    (decodeScalar_accepted rfl rfl rfl rfl)
  · rintro ⟨hd, rfl, rfl, rfl⟩
    rw [low3_iff.mp hd]
  · obtain ⟨hd, ha, hb, hfn⟩ := fmtA_inj.mp h
    exact ⟨low3_iff.mpr hd, ha.symm, hb.symm, hfn.symm⟩

theorem nopTrelEncodings : Claims.NopTrelEncodings := ⟨nop_decodes, fun _ _ _ _ => trel_decodes⟩

/-! ## The run of frames at a base (14 R216) -/

section
variable {va req dfn n : Nat} {wr x : Bool}

/-- The bytes from an address to the end of its n-th frame. -/
def runBytes (va n : Nat) : Nat := n * 0x10000 - va % 0x10000

theorem runBytes_succ (va : Nat) {n : Nat} (hn : 1 ≤ n) : runBytes va (n + 1) = runBytes va n + 0x10000 := by
  unfold runBytes; omega

/-- The walk after n frames of a run finds the next where the frames run on. -/
theorem walk_after_run (hn : 1 ≤ n) : s.walk s.tenant ((va + runBytes va n) % 2 ^ 56) = s.walk s.tenant ((va / 0x10000 + n) * 0x10000 % 2 ^ 56) := by
  congr 2
  unfold runBytes
  omega

theorem frames_of_run (dfn : Nat) (hn : 1 ≤ n) : dfn + (runBytes va n + va % 0x10000) / 0x10000 = dfn + n := by
  unfold runBytes
  omega

variable (hw : s.walk s.tenant va = some (dfn, wr, x))
include hw

theorem runsOn_iff : s.RunsOn va n ↔ ∃ y, s.walk s.tenant ((va / 0x10000 + n) * 0x10000 % 2 ^ 56) = some (dfn + n, wr, y) := by
  constructor
  · rintro ⟨dfn', wr', x', y, hbase, hnext⟩
    obtain ⟨rfl, rfl, rfl⟩ : dfn = dfn' ∧ wr = wr' ∧ x = x' := by simpa [hw] using hbase
    exact ⟨y, hnext⟩
  · rintro ⟨y, hnext⟩
    exact ⟨_, _, _, y, hw, hnext⟩

/-- While the run is shorter than what is asked, it goes on where the frames do, -/
theorem extend_runs {fuel : Nat} (hn : 1 ≤ n) (hlt : runBytes va n < req) (hr : s.RunsOn va n) :
    State.tmapRun.extend s s.tenant va req dfn wr (fuel + 1) (runBytes va n) =
      State.tmapRun.extend s s.tenant va req dfn wr fuel (runBytes va (n + 1)) := by
  obtain ⟨y, hnext⟩ := (runsOn_iff hw).mp hr
  rw [← walk_after_run hn] at hnext
  simp only [State.tmapRun.extend, if_pos hlt, hnext, frames_of_run dfn hn, runBytes_succ va hn]
  simp

/-- and ends where they do not. -/
theorem extend_ends {fuel : Nat} (hn : 1 ≤ n) (hr : ¬ s.RunsOn va n) :
    State.tmapRun.extend s s.tenant va req dfn wr fuel (runBytes va n) = runBytes va n := by
  cases fuel with
  | zero => rfl
  | succ fuel =>
    rw [State.tmapRun.extend]
    split
    · split
      · next e w y hnext =>
        rw [walk_after_run hn] at hnext
        rw [if_neg]
        intro h
        simp only [frames_of_run dfn hn, Bool.and_eq_true, decide_eq_true_eq, beq_iff_eq] at h
        obtain ⟨rfl, rfl⟩ := h
        exact hr ((runsOn_iff hw).mpr ⟨y, hnext⟩)
      · rfl
    · rfl

omit hw in
/-- What is asked ends it too. -/
theorem extend_asked {fuel : Nat} (hlt : req ≤ runBytes va n) :
    State.tmapRun.extend s s.tenant va req dfn wr fuel (runBytes va n) = runBytes va n := by
  cases fuel with
  | zero => rfl
  | succ fuel => rw [State.tmapRun.extend, if_neg (Nat.not_lt.mpr hlt)]

/-- A run of n frames, counted from its k-th with fuel for the 33 that 2 MiB can meet, is as long as these or as what is asked. -/
theorem min_extend (hreq : req ≤ 0x200000) (hruns : ∀ k, 1 ≤ k → k < n → s.RunsOn va k) (hend : ¬ s.RunsOn va n ∨ req ≤ runBytes va n)
    {fuel k : Nat} (hk : 1 ≤ k) (hkn : k ≤ n) (hf : fuel + k = 34) :
    min (State.tmapRun.extend s s.tenant va req dfn wr fuel (runBytes va k)) req = min (runBytes va n) req := by
  induction fuel generalizing k with
  | zero =>
    have hk34 : req ≤ runBytes va k := by unfold runBytes; omega
    have hmono : runBytes va k ≤ runBytes va n := by unfold runBytes; omega
    rw [extend_asked hk34]
    omega
  | succ fuel ih =>
    by_cases hasked : req ≤ runBytes va k
    · have hmono : runBytes va k ≤ runBytes va n := by unfold runBytes; omega
      rw [extend_asked hasked]
      omega
    · obtain rfl | hlt := Nat.eq_or_lt_of_le hkn
      · rw [extend_ends hw hk (hend.resolve_right hasked)]
      · rw [extend_runs hw hk (Nat.not_le.mp hasked) (hruns k hk hlt)]
        exact ih (by omega) hlt (by omega)

/-- The register that `TMAP` writes where its base translates. -/
theorem tmapRun_mapped (hreq : req ≠ 0) : s.tmapRun s.tenant va req =
    ⟨true, wr, BitVec.ofNat 22 (min (State.tmapRun.extend s s.tenant va req dfn wr 33 (runBytes va 1)) req), BitVec.ofNat 28 dfn,
      BitVec.ofNat 56 va⟩ := by
  simp only [State.tmapRun, hw, if_neg hreq, runBytes, Nat.one_mul]

theorem tmapRun_limit (h0 : req ≠ 0) (hreq : req ≤ 0x200000) (hn : 1 ≤ n) (hruns : ∀ k, 1 ≤ k → k < n → s.RunsOn va k)
    (hend : ¬ s.RunsOn va n ∨ req ≤ runBytes va n) : (s.tmapRun s.tenant va req).limit.toNat = min (runBytes va n) req := by
  rw [tmapRun_mapped hw h0, min_extend hw hreq hruns hend (Nat.le_refl 1) hn rfl, BitVec.toNat_ofNat, Nat.mod_eq_of_lt (by omega)]

end

/-- Where the base does not translate, or nothing is asked, the register is all zeros. -/
theorem tmapRun_zero {va req : Nat} (h : s.walk s.tenant va = none ∨ req = 0) : s.tmapRun s.tenant va req = TReg.zero := by
  unfold State.tmapRun
  split
  · rfl
  · next hw => rw [if_pos (h.resolve_left (by simp [hw]))]

/-! ## `TMAP`, `TREL` and `NOP` -/

section
variable {n : BitVec 3}

theorem exec_tmap : exec (.tmap n a b) s = execTmap n a b s := rfl

theorem exec_trel : exec (.trel n) s = execTrel n s := rfl

theorem exec_nop : exec .nop s = execNop s := rfl

/-- The base that `TMAP` reads, 56 bits of a pair. -/
def State.tmapBase (s : State) (a : SReg) : Nat := (s.readPair a).toNat % 2 ^ 56

/-- The length that it is asked, 2 MiB at most. -/
def State.tmapLength (s : State) (b : SReg) : Nat := min (s.readS b).toNat 0x200000

theorem runBytes_tmapBase (k : Nat) : runBytes (s.tmapBase a) k = k * 0x10000 - (s.readPair a).toNat % 0x10000 := by
  unfold runBytes State.tmapBase
  omega

theorem tmap_completes (h : s.ScalarReady false [a, a + 1, b]) : exec (.tmap n a b) s = .next { s with g := { s.g with
    t := vset s.g.t n.toNat (s.tmapRun s.tenant (s.tmapBase a) (s.tmapLength b))
    pc := s.g.after.1, loop := s.g.after.2, timeHi := s.latched [a, b] } } := by
  rw [exec_tmap]
  refine scalarWord_ok (t := { s with g := { s.g with
    t := vset s.g.t n.toNat (s.tmapRun s.tenant (s.tmapBase a) (s.tmapLength b)), timeHi := s.latched [a, b] } }) h ?_
  rw [latch_latch_eq_hadRead]
  rfl

theorem trel_completes (h : s.ScalarReady false []) : exec (.trel n) s = .next { s with g := { s.g with
    t := vset s.g.t n.toNat TReg.zero, pc := s.g.after.1, loop := s.g.after.2 } } := by
  rw [exec_trel]
  exact scalarWord_ok (t := { s with g := { s.g with t := vset s.g.t n.toNat TReg.zero } }) h rfl

theorem nop_completes (h : s.ScalarReady false []) : exec .nop s = .next (s.onward s) := by
  rw [exec_nop]
  exact scalarWord_ok h rfl

theorem tmapLength_ne_zero (h : s.readS b ≠ 0) : s.tmapLength b ≠ 0 := by
  have : (s.readS b).toNat ≠ 0 := fun he => h (BitVec.eq_of_toNat_eq he)
  unfold State.tmapLength
  omega

end

theorem translationRegisters : Claims.TranslationRegisters := by
  intro s n a b
  refine ⟨fun _ h => ⟨_, tmap_completes h, fun hz => tmapRun_zero (hz.imp_right fun hb => ?_), fun dfn wr x hw hb => ?_⟩,
    trel_completes, nop_completes⟩
  · simp [State.tmapLength, hb]
  · have h0 := tmapLength_ne_zero hb
    have hreg := tmapRun_mapped (va := s.tmapBase a) hw h0
    refine ⟨by rw [hreg], by rw [hreg], ?_, by rw [hreg], fun n hn hruns hend => ?_⟩
    · rw [hreg]
      exact (BitVec.toNat_ofNat ..).trans (Nat.mod_mod _ _)
    · rw [← runBytes_tmapBase] at hend ⊢
      exact tmapRun_limit (va := s.tmapBase a) hw h0 (Nat.min_le_right _ _) hn hruns hend

/-! ## What the end of a group spares (14 R219, 01 R35, R45) -/

/-- t has the group in the focus as in s, but for ZR of its block and its unreleased stores, and no more blocks of its launch retired: what
becomes of a group's faults, jobs and stream touches nothing else of these. -/
structure State.Spares (s t : State) : Prop where
  group    : t.g = { s.g with pstat := t.g.pstat, wset := t.g.wset }
  launch   : t.ln.lid = s.ln.lid
  retired  : t.ln.retired = s.ln.retired
  poisoned : t.ln.poisoned = s.ln.poisoned

namespace State.Spares

theorem refl (s : State) : s.Spares s := ⟨rfl, rfl, rfl, rfl⟩

theorem trans {s t u : State} (h : s.Spares t) (k : t.Spares u) : s.Spares u where
  group := k.group.trans (by rw [h.group])
  launch := k.launch.trans h.launch
  retired := k.retired.trans h.retired
  poisoned := k.poisoned.trans h.poisoned

theorem foldl {α : Type} {f : State → α → State} (hf : ∀ (s : State) x, s.Spares (f s x)) (xs : List α) (s : State) :
    s.Spares (xs.foldl f s) :=
  List.foldlRecOn xs f (refl s) fun t h x _ => h.trans (hf t x)

theorem of_recorded {s t : State} (h : s.Recorded t) : s.Spares t := by
  rw [h.rest]
  exact ⟨rfl, rfl, rfl, rfl⟩

theorem of_onlyWgs {s t : State} (h : s.OnlyWgs t) : s.Spares t := by
  obtain ⟨w, ws, rfl⟩ := h
  exact ⟨rfl, rfl, rfl, rfl⟩

theorem modWg (s : State) (w : Nat) (f : Workgroup → Workgroup) : s.Spares (s.modWg w f) := of_onlyWgs (State.onlyWgs_modWg s w f)

theorem modLaunch (s : State) (lid : Nat) {f : Launch → Launch}
    (hf : ∀ l, (f l).lid = l.lid ∧ (f l).retired = l.retired ∧ (f l).poisoned = l.poisoned) : s.Spares (s.modLaunch lid f) := by
  obtain ⟨hlid, hret, hpoi⟩ := hf s.ln
  unfold State.modLaunch
  split
  · exact ⟨rfl, hlid, hret, hpoi⟩
  · exact ⟨rfl, rfl, rfl, rfl⟩

theorem modGroup (s : State) (w gid : Nat) {f : Group → Group} (hf : ∀ g, f g = { g with pstat := (f g).pstat, wset := (f g).wset }) :
    s.Spares (s.modGroup w gid f) := by
  unfold State.modGroup
  split
  · exact ⟨hf s.g, rfl, rfl, rfl⟩
  · exact ⟨rfl, rfl, rfl, rfl⟩

theorem publish (s : State) (w gid : Nat) : s.Spares (s.publish w gid) := by
  unfold State.publish
  split
  · exact refl s
  · exact (of_recorded (State.recorded_batch _ _)).trans (modGroup _ _ _ fun _ => rfl)

/-! ### The end conditions -/

theorem checkEnd (s : State) (lid : Nat) : s.Spares (s.checkEnd lid) := of_onlyWgs (State.checkEnd_onlyWgs s lid)

theorem checkDeadlock (s : State) (lid : Nat) : s.Spares (s.checkDeadlock lid) := by
  unfold State.checkDeadlock
  split
  · exact refl s
  · split
    · have hdead := (of_recorded (s.recorded_dropParked lid true)).trans
        (modLaunch _ lid (f := fun l => { l with deadlock := true }) fun _ => ⟨rfl, rfl, rfl⟩)
      exact hdead.trans (foldl (fun _ _ => modWg _ _ _) _ _)
    · exact refl s

theorem dropJob (s : State) (j : Job) : s.Spares (s.dropJob j) := by
  rw [State.dropJob_eq]
  have hjobs : s.Spares { s with jobs := s.jobsWithout j } := ⟨rfl, rfl, rfl, rfl⟩
  exact hjobs.trans ((of_onlyWgs (State.sweepSlots_swept _ _).1).trans ((checkEnd _ _).trans (checkDeadlock _ _)))

theorem dropJobs (js : List Job) (s : State) : s.Spares (js.foldl State.dropJob s) := foldl (fun s j => dropJob s j) js s

theorem dropLandings (s : State) (lid : Nat) : s.Spares (s.dropLandings lid) := by
  unfold State.dropLandings
  split
  · exact refl s
  · exact dropJobs _ s

/-! ### Touch traps, faults and streams -/

theorem endTrap (s : State) (t : TSlot) : s.Spares (s.endTrap t) := by
  unfold State.endTrap
  split
  · exact modWg _ _ _
  · exact refl s

theorem zeroResume (s : State) (t : TSlot) : s.Spares (s.zeroResume t) := by
  unfold State.zeroResume
  split
  · exact refl s
  · have htrap (f : Workgroup → Workgroup) := (endTrap s t).trans (modWg (s.endTrap t) t.wgId f)
    dsimp only
    split
    · exact (htrap _).trans (modGroup _ _ _ fun _ => rfl)
    · exact htrap _

theorem lateFault (s : State) (x : Workgroup) (gid : Nat) (f : PendFault) : s.Spares (s.lateFault x gid f) := by
  have hlate : s.Spares (if f.logs then s.late x.lid (f.toLate x.coreId gid) else s) := by
    split
    · exact of_recorded (State.recorded_late _ _ _)
    · exact refl s
  unfold State.lateFault
  dsimp only
  split
  · exact hlate
  · split
    · exact hlate.trans ((zeroResume _ _).trans ⟨rfl, rfl, rfl, rfl⟩)
    · exact hlate.trans (dropJob _ _)

theorem endHandler (s : State) (v : Saved) : s.Spares (s.endHandler v) := by
  have htrap : s.Spares (match v.tslot with | some t => s.endTrap t | none => s) := by
    split
    · exact endTrap _ _
    · exact refl s
  unfold State.endHandler
  dsimp only
  split
  · exact htrap.trans (dropJob _ _)
  · exact htrap

theorem seqEnd (s : State) (w : Nat) : s.Spares (s.seqEnd w) := by
  unfold State.seqEnd
  split
  · exact refl s
  · exact (of_recorded (State.recorded_batch _ _)).trans ((dropJobs _ _).trans (modWg _ _ _))

end State.Spares

/-! ## The block that an ending group holds (01 R35) -/

/-- The waiters of a retired block are offered, and nothing of the group changes. -/
theorem spares_wake (s : State) (lid idx : Nat) : s.Spares (s.wake lid idx) := by
  unfold State.wake
  split
  · exact .refl s
  · refine (State.Spares.foldl (fun _ _ => .modWg _ _ _) _ s).trans (.modLaunch _ lid (f := fun l => { l with offers := l.offers + 1 }) ?_)
    exact fun _ => ⟨rfl, rfl, rfl⟩

/-- A launch with one more block retired, poisoned. -/
def Launch.poisoning (l : Launch) (idx : Nat) : Launch :=
  { l with retired := idx :: l.retired, nretired := l.nretired + 1, poisoned := l.poisoned + 1 }

/-- What is spared is spared beside one more poisoned block too. -/
theorem spares_poisoning {s t : State} {idx : Nat} (h : s.Spares t) :
    ({ s with ln := s.ln.poisoning idx } : State).Spares { t with ln := t.ln.poisoning idx } where
  group := h.group
  launch := h.launch
  retired := congrArg (idx :: ·) h.retired
  poisoned := congrArg (· + 1) h.poisoned

theorem spares_retireBlock {idx core gid : Nat} {pstat value : Word} :
    ({ s with ln := s.ln.poisoning idx } : State).Spares (s.retireBlock s.ln.lid idx core gid true pstat value) := by
  have hcell := State.Spares.of_recorded (s.recorded_writeCell s.ln.lid idx core gid (cellBits true true false pstat value))
  unfold State.retireBlock
  dsimp only
  rw [State.modLaunch_focus hcell.launch]
  exact (spares_poisoning hcell).trans (spares_wake _ s.ln.lid idx)

theorem findGroup_focus (h : s.g.st ≠ .absent) : s.findGroup s.g.wgId s.g.gid = some s.g := by
  simp [State.findGroup, State.allGroups, h]

theorem findWg_focus (h : s.wg.id ≠ 0) : s.findWg s.wg.id = some s.wg := by
  simp [State.findWg, State.allWgs, h]

/-- The state without the block that the group in the focus holds: it is retired poisoned. -/
def State.withoutBlock (s : State) : State := { s with g := s.g.dropBlock, ln := s.ln.poisoning s.g.blkidx.toNat }

theorem spares_dropBlock {s t : State} (h : s.Spares t) : ({ s with g := s.g.dropBlock } : State).Spares { t with g := t.g.dropBlock } where
  group := by rw [h.group]; rfl
  launch := h.launch
  retired := h.retired
  poisoned := h.poisoned

theorem spares_withoutBlock {s t : State} (h : s.Spares t) : s.withoutBlock.Spares t.withoutBlock := by
  have hblk : t.g.blkidx = s.g.blkidx := by rw [h.group]
  unfold State.withoutBlock
  rw [hblk]
  exact spares_dropBlock (spares_poisoning h)

section
variable (h : s.Focused)
include h

theorem spares_retireHeld {v : Word} (hh : s.g.holds = true) : s.withoutBlock.Spares (s.retireHeld s.g.wgId s.g.gid true v) := by
  have hblock := spares_dropBlock (spares_retireBlock (s := s) (idx := s.g.blkidx.toNat) (core := s.wg.coreId) (gid := s.g.gid)
    (pstat := s.g.pstat) (value := v))
  have hfocus := (spares_retireBlock (s := s) (idx := s.g.blkidx.toNat) (core := s.wg.coreId) (gid := s.g.gid)
    (pstat := s.g.pstat) (value := v)).group
  have hwg : s.findWg s.g.wgId = some s.wg := by rw [h.ofWg]; exact findWg_focus h.wg
  simp only [State.retireHeld, findGroup_focus h.group, hwg, hh, Bool.not_true, Bool.false_eq_true, if_false, h.ofLn]
  rw [State.modGroup_focus _ (by rw [hfocus]) (by rw [hfocus])]
  refine hblock.trans ?_
  split
  · exact (State.Spares.modWg _ _ _).trans ((State.Spares.checkEnd _ _).trans (State.Spares.checkDeadlock _ _))
  · exact (State.Spares.checkEnd _ _).trans (State.Spares.checkDeadlock _ _)

/-- The group's stores published: memory and its marks, and nothing else but the list of them. -/
theorem publish_focus : ∃ m f tr fr, s.publish s.g.wgId s.g.gid =
    { s with mem := m, fit := f, tree := tr, free := fr, g := { s.g with wset := [] } } := by
  obtain ⟨m, f, tr, fr, hb, -⟩ := s.batch_frame (s.g.wset.map fun v => (v.addr, v.byte))
  refine ⟨m, f, tr, fr, ?_⟩
  simp only [State.publish, findGroup_focus h.group, hb]
  exact State.modGroup_focus _ rfl rfl

/-- The state once the block that the group may hold is retired poisoned. -/
def State.blockEnded (s : State) : State := if s.g.holds then s.withoutBlock else s

theorem spares_retireEnding : s.blockEnded.Spares (s.retireEnding s.g.wgId s.g.gid) := by
  unfold State.blockEnded State.retireEnding
  rw [findGroup_focus h.group, Option.any_some]
  split
  · next hh =>
    have hpub := State.Spares.publish s s.g.wgId s.g.gid
    obtain ⟨m, f, tr, fr, hp⟩ := publish_focus h
    rw [hp] at hpub ⊢
    have hfocus : ({ s with mem := m, fit := f, tree := tr, free := fr, g := { s.g with wset := [] } } : State).Focused :=
      ⟨h.group, h.wg, h.launch, h.ofWg, h.ofLn, h.ofCore⟩
    exact (spares_withoutBlock hpub).trans (spares_retireHeld hfocus hh)
  · exact .refl s

end

/-! ## `ENDG` (14 R219) -/

/-- A group that has ended: nothing of its work is left, and no V register. -/
def Group.ended (g : Group) : Group :=
  { g.releaseV with st := .ended, run := none, queue := [], saved := none, loop := none, flights := [], faults := [] }

theorem mapped_ended (g : Group) : g.ended.mapped = 0 := by
  simp [Group.mapped, Group.ended, Group.releaseV, VReg.unmapped]

theorem spares_endGroup {s t : State} (h : s.Spares t) :
    ({ s with g := s.g.ended } : State).Spares (t.endGroup s.g.wgId s.g.gid) := by
  have hpub := h.trans ((State.Spares.publish t s.g.wgId s.g.gid).trans (.modWg _ s.g.wgId fun x => x.untake s.g.gid))
  unfold State.endGroup
  rw [State.modGroup_focus _ (by rw [hpub.group]) (by rw [hpub.group])]
  exact ⟨by rw [hpub.group]; rfl, hpub.launch, hpub.retired, hpub.poisoned⟩

theorem blockEnded_name (s : State) : s.blockEnded.g.wgId = s.g.wgId ∧ s.blockEnded.g.gid = s.g.gid := by
  unfold State.blockEnded
  split <;> exact ⟨rfl, rfl⟩

section
variable (h : s.Focused)
include h

/-- What a group that ends by itself leaves: it has ended, and the block it may have held is retired. -/
theorem spares_leaveGroup : ({ s.blockEnded with g := s.blockEnded.g.ended } : State).Spares (s.leaveGroup s.g.wgId s.g.gid) := by
  have hwg : s.findWg s.g.wgId = some s.wg := by rw [h.ofWg]; exact findWg_focus h.wg
  have hlate := (spares_retireEnding h).trans (.foldl (fun t f => .lateFault t s.wg s.g.gid f) s.g.faults _)
  simp only [State.leaveGroup, findGroup_focus h.group, hwg]
  rw [← (blockEnded_name s).1, ← (blockEnded_name s).2]
  refine (spares_endGroup ?_).trans (.dropLandings _ _)
  rw [(blockEnded_name s).1, (blockEnded_name s).2]
  have hhandler : s.blockEnded.Spares (match s.g.saved with
      | some v => (s.g.faults.foldl (fun t f => t.lateFault s.wg s.g.gid f) (s.retireEnding s.g.wgId s.g.gid)).endHandler v
      | none => s.g.faults.foldl (fun t f => t.lateFault s.wg s.g.gid f) (s.retireEnding s.g.wgId s.g.gid)) := by
    split
    · exact hlate.trans (.endHandler _ _)
    · exact hlate
  split
  · exact hhandler.trans (.seqEnd _ _)
  · exact hhandler

/-- The end of a group alone: its stores are published, and no `PGET` of it waits any more. -/
theorem endGroup_focus : ∃ m f tr fr, s.endGroup s.g.wgId s.g.gid =
    { s with mem := m, fit := f, tree := tr, free := fr, wg := s.wg.untake s.g.gid, g := ({ s.g with wset := [] } : Group).ended } := by
  obtain ⟨m, f, tr, fr, hp⟩ := publish_focus h
  refine ⟨m, f, tr, fr, ?_⟩
  rw [State.endGroup, hp, State.modWg_focus (by exact h.ofWg.symm)]
  exact State.modGroup_focus _ rfl rfl

/-- A group that holds nothing and stopped nothing just ends, and its launch looks at its landings. -/
theorem leaveGroup_bare (hh : s.g.holds = false) (hf : s.g.faults = []) (hs : s.g.saved = none)
    (hq : ¬ (s.wg.seq.run ∧ s.wg.seq.flt ∧ s.wg.seq.owner = s.g.gid)) :
    s.leaveGroup s.g.wgId s.g.gid = (s.endGroup s.g.wgId s.g.gid).dropLandings s.ln.lid := by
  have hwg : s.findWg s.g.wgId = some s.wg := by rw [h.ofWg]; exact findWg_focus h.wg
  have hseq : (s.wg.seq.run && s.wg.seq.flt && s.wg.seq.owner == s.g.gid) = false := by simpa using hq
  simp only [State.leaveGroup, findGroup_focus h.group, hwg, State.retireEnding, Option.any_some, hh, hf, hs, hseq, List.foldl_nil,
    Bool.false_eq_true, if_false, h.ofLn]

end

/-- Where nobody waits for a parked block on the group's behalf, its end changes no record. -/
theorem untake_of_not_taken {w : Workgroup} {gid : Nat} (h : ∀ p, some p ∈ w.parked → p.taker ≠ some gid) : w.untake gid = w := by
  have hparked : w.parked.map (fun o => o.map fun p => { p with taker := if p.taker = some gid then none else p.taker }) = w.parked := by
    refine (List.map_congr_left fun o ho => ?_).trans (List.map_id _)
    cases o with
    | none => rfl
    | some p => simp [h p ho]
  rw [Workgroup.untake, hparked]

/-- A launch for which no page lands drops none. -/
theorem dropLandings_none {lid : Nat} (h : ∀ j ∈ s.jobs, j.lid = lid → j.matrix = false → j.kind ≠ landKind) : s.dropLandings lid = s := by
  have hnone : (s.jobs.filter fun j => j.lid == lid && !j.matrix && j.kind == landKind) = [] := by
    simpa using h
  rw [State.dropLandings, hnone]
  split <;> rfl

theorem exec_endg : exec .endg s = execEndg s := rfl

theorem endg_leaves (hg : s.scalarGate true true [] = true) : exec .endg s = .next (s.leaveGroup s.g.wgId s.g.gid) := by
  rw [exec_endg]
  exact scalarJump_ok hg rfl

theorem endGroup : Claims.EndGroup := by
  intro s h hg
  obtain ⟨hgroup, -, hret, hpoi⟩ := spares_leaveGroup h
  obtain ⟨hw, hgid⟩ := blockEnded_name s
  refine ⟨_, endg_leaves hg, by rw [hgroup]; rfl, ?_, by rw [hgroup]; rfl, by rw [hgroup]; rfl, by rw [hgroup]; exact hgid,
    by rw [hgroup]; exact hw, fun hh => ?_, fun hh hf hs hq hp hj => ?_⟩
  · rw [hgroup]
    exact mapped_ended s.blockEnded.g
  · have hblk : s.blockEnded = s.withoutBlock := if_pos hh
    rw [hblk] at hgroup hret hpoi
    refine ⟨by rw [hgroup]; rfl, ?_, hpoi⟩
    rw [hret]
    exact List.mem_cons_self
  · obtain ⟨m, f, tr, fr, he⟩ := endGroup_focus h
    rw [untake_of_not_taken hp] at he
    rw [leaveGroup_bare h hh hf hs hq, he, dropLandings_none (by exact hj)]
    exact ⟨rfl, rfl, rfl, rfl⟩

/-- Settles O29: the register of `TMAP` by the frames that run on from its base; the end of a group by what each part of it spares. -/
theorem translationAndGroupEnd : Obligations.TranslationAndGroupEnd := ⟨nopTrelEncodings, translationRegisters, endGroup⟩

/-! ## The last group of a launch (01 R45) -/

/-- A group at its `ENDG`, the only one of its launch, with a page still landing for the launch: a job with no issuing group. -/
def lastGroup : State :=
  { State.reset.stage.ready with jobs := [{ Job.fresh 1 1 1 16 0xFFFFFFFF with kind := landKind }] }

theorem focused_lastGroup : lastGroup.Focused :=
  ⟨by decide, by decide, by decide, by decide, by decide, by decide⟩

/-- With its last group the launch discards the landing. -/
theorem leaveGroup_lastGroup_jobs : (lastGroup.leaveGroup 1 0).jobs = [] := by
  decide +kernel

/-- The group's own end leaves it. -/
theorem endGroup_lastGroup_jobs : (lastGroup.endGroup 1 0).jobs ≠ [] := by
  decide +kernel

/-- Refutes O60: with the last group of a launch the landings that go on are discarded too (01 R45), so where a page is landing `ENDG` answers
another state than the group's own end. -/
theorem not_wordsComplete : ¬ Obligations.WordsComplete := by
  rintro ⟨-, -, -, -, hend, -⟩
  have hgate : lastGroup.scalarGate true true [] = true := by decide +kernel
  have hsays : exec .endg lastGroup = .next (lastGroup.endGroup 1 0) :=
    hend lastGroup focused_lastGroup hgate (by decide) (by decide) (by decide) (by decide)
  have hdoes : exec .endg lastGroup = .next (lastGroup.leaveGroup 1 0) := endg_leaves hgate
  have hjobs := congrArg State.jobs (Host.Outcome.next.inj (hsays.symm.trans hdoes))
  rw [leaveGroup_lastGroup_jobs] at hjobs
  exact endGroup_lastGroup_jobs hjobs

end Sys2Proof.Machine
end

section
/-! PROOFS. The steps of a core: a unit starts, a reply arrives, float is granted, spilled and reloaded (03 R63 to R70, 14 R215). -/
namespace Sys2Proof.Machine

variable {s : State}

/-! ## The next unit (14 R215) -/

theorem exec_unitStart : exec .unitStart s = execUnitStart s := rfl

theorem unitStart_next {u : LaneUnit} {us : List LaneUnit} (hl : s.live = true) (hst : s.g.laneStop = false) (hr : s.g.run = none)
    (hq : s.g.queue = u :: us) : exec .unitStart s = .next { s with g := { s.g with
      queue := us
      run := some ⟨u, some (Path.bare u.hdr 0xFFFFFFFF none), none, [], Vector.replicate 16 none⟩ } } := by
  simp only [exec_unitStart, execUnitStart, hl, hst, hr, hq, Bool.not_false, Bool.and_self, if_true]
  rfl

/-! ## Registers changed one after another -/

section
variable {g : Group} {k n m : Nat} {f : Nat → VReg → VReg}

theorem modV_succ : (g.modV k (n + 1) f).v = ((g.modV k n f).modV (k + n) 1 fun _ => f n).v := by
  simp only [Group.modV, List.range_succ, List.foldl_append, List.range_zero, List.foldl_nil, List.foldl_cons, List.nil_append,
    Nat.add_zero]

/-- A register beyond the last one is none. -/
theorem vreg_outside (g : Group) (hm : 128 ≤ m) : g.vreg m = VReg.unmapped := vget_oob _ _ hm

/-- Of consecutive registers changed each is changed by its place, and no other is. -/
theorem vreg_modV : (g.modV k n f).vreg m = if k ≤ m ∧ m < k + n ∧ m < 128 then f (m - k) (g.vreg m) else g.vreg m := by
  by_cases hm : m < 128
  · induction n with
    | zero => rw [if_neg (by omega)]; rfl
    | succ n ih =>
      have hstep : (g.modV k (n + 1) f).vreg m = ((g.modV k n f).modV (k + n) 1 fun _ => f n).vreg m := by
        rw [Group.vreg, Group.vreg, modV_succ]
      rw [hstep]
      by_cases hkn : k + n < 128
      · rw [Group.vreg_modV_one _ hkn]
        by_cases hmk : m = k + n
        · subst hmk
          rw [if_pos rfl, ih, if_neg (by omega), if_pos (by omega), Nat.add_sub_cancel_left]
        · rw [if_neg hmk, ih]
          congr 1
          exact propext (by omega)
      · have hv : ((g.modV k n f).modV (k + n) 1 fun _ => f n).v = (g.modV k n f).v := vset_oob _ _ (Nat.not_lt.mp hkn)
        rw [Group.vreg, hv]
        refine ih.trans ?_
        congr 1
        exact propext (by omega)
  · rw [vreg_outside _ (Nat.not_lt.mp hm), if_neg (by omega), vreg_outside _ (Nat.not_lt.mp hm)]

end

/-! ## Replies (03 R68, R70) -/

theorem lane_mergeLanes {mask : Word} {new old : Lanes} {l : Nat} (hl : l < 32) :
    (mergeLanes mask new old).lane l = if mask.getLsbD l then new.lane l else old.lane l := lane_ofFn _ hl

/-- A register after some of its lanes died. -/
theorem live_kill (r : VReg) (mask : Word) : (r.kill mask).live = r.live &&& ~~~mask := by
  unfold VReg.kill
  dsimp only
  split
  · exact Eq.symm ‹_›
  · rfl

theorem kill_dead {r : VReg} {mask : Word} (h : (r.kill mask).live = 0) : r.kill mask = VReg.unmapped := by
  rw [live_kill] at h
  rw [VReg.kill, if_pos h]

theorem kill_living {r : VReg} {mask : Word} (h : (r.kill mask).live ≠ 0) :
    r.kill mask = { r with live := (r.kill mask).live, pend := r.pend &&& (r.kill mask).live } := by
  rw [live_kill] at h ⊢
  rw [VReg.kill, if_neg h]

section
variable {g : Group} {f : Flight} {mask : Word}

/-- A register of a flight after some lanes arrived. -/
def VReg.arrive (r : VReg) (f : Flight) (i : Nat) (mask : Word) : VReg :=
  ({ r with val := mergeLanes (mask &&& r.pend) ((f.vals[i]?).getD Lanes.zero) r.val, pend := r.pend &&& ~~~mask } : VReg).kill
    (mask &&& f.lost)

theorem vreg_arriveLanes_none (hd : f.dst = none) (m : Nat) : (g.arriveLanes f mask).vreg m = g.vreg m := by
  simp only [Group.arriveLanes, hd, Group.vreg]

theorem vreg_arriveLanes_some {b : Nat} (hd : f.dst = some b) (m : Nat) : (g.arriveLanes f mask).vreg m =
    if b ≤ m ∧ m < b + f.nreg ∧ m < 128 then (g.vreg m).arrive f (m - b) mask else g.vreg m := by
  have hv : (g.arriveLanes f mask).vreg m = (g.modV b f.nreg fun i r => r.arrive f i mask).vreg m := by
    simp only [Group.arriveLanes, hd, Group.vreg]
    rfl
  rw [hv, vreg_modV]

/-- Each register of the flight. -/
theorem vreg_arriveLanes_dst {b i : Nat} (hd : f.dst = some b) (hi : i < f.nreg) (hb : b + i < 128) :
    (g.arriveLanes f mask).vreg (b + i) = (g.vreg (b + i)).arrive f i mask := by
  rw [vreg_arriveLanes_some hd, if_pos ⟨by omega, by omega, hb⟩, Nat.add_sub_cancel_left]

/-- Every other register. -/
theorem vreg_arriveLanes_other {n : Nat} (hn : ∀ b, f.dst = some b → n < b ∨ b + f.nreg ≤ n) :
    (g.arriveLanes f mask).vreg n = g.vreg n := by
  cases hd : f.dst with
  | none => exact vreg_arriveLanes_none hd n
  | some b =>
    rw [vreg_arriveLanes_some hd, if_neg]
    have := hn b hd
    omega

/-- The flag of the flight falls with the last lane. -/
theorem flag_arriveLanes {m : BitVec 4} (hf : f.flag = some m) (hm : m.toNat < 12) :
    (f.out &&& ~~~mask = 0 → vget (g.arriveLanes f mask).f m.toNat 0 = vget g.f m.toNat 0 - 1) ∧
    (f.out &&& ~~~mask ≠ 0 → (g.arriveLanes f mask).f = g.f) := by
  have hfold : (g.arriveLanes f mask).f = if f.out &&& ~~~mask == 0 then vset g.f m.toNat (vget g.f m.toNat 0 - 1) else g.f := by
    simp only [Group.arriveLanes, hf]
    cases f.dst <;> rfl
  refine ⟨fun h => ?_, fun h => ?_⟩
  · rw [hfold, if_pos (by simpa using h), vget_vset _ _ _ _ hm]
  · rw [hfold, if_neg (by simpa using h)]

theorem arriveLanes_stream : (g.arriveLanes f mask).s = g.s ∧ (g.arriveLanes f mask).pc = g.pc ∧ (g.arriveLanes f mask).p = g.p := by
  unfold Group.arriveLanes
  cases f.dst <;> exact ⟨rfl, rfl, rfl⟩

end

/-- An acquire changes cores alone. -/
theorem acquire_frame (s : State) (c scope : Nat) : ∃ k ks, s.acquire c scope = { s with core := k, cores := ks } := by
  unfold State.acquire
  split
  · unfold State.snapshot State.modCore
    split <;> exact ⟨_, _, rfl⟩
  · exact ⟨_, _, rfl⟩

theorem exec_replyArrival {k : Nat} {lanes : Word} : exec (.replyArrival k lanes) s = execReplyArrival k lanes s := rfl

/-- Lanes of a flight whose reply is known arrive at the group, and an acquire may follow. -/
theorem replyArrival_next {k : Nat} {lanes : Word} {f : Flight} (hf : s.g.flights[k]? = some f) (hm : f.out &&& f.ready &&& lanes ≠ 0) :
    ∃ c cs, exec (.replyArrival k lanes) s =
      .next { s with g := s.g.arriveLanes f (f.out &&& f.ready &&& lanes), core := c, cores := cs } := by
  simp only [exec_replyArrival, execReplyArrival, hf, if_neg hm]
  split
  · split
    · obtain ⟨c, cs, h⟩ := acquire_frame { s with g := s.g.arriveLanes f (f.out &&& f.ready &&& lanes) } s.wg.coreId ‹Nat›
      exact ⟨c, cs, by rw [h]⟩
    · exact ⟨_, _, rfl⟩
  · exact ⟨_, _, rfl⟩

/-! ## Float (03 R63) -/

theorem older_asymm {a b : Group} (h : older a b = true) : older b a = false := by
  simp only [older, Bool.or_eq_true, Bool.and_eq_true, decide_eq_true_eq, beq_iff_eq] at h
  simp only [older, Bool.or_eq_false_iff, Bool.and_eq_false_iff, decide_eq_false_iff_not, beq_eq_false_iff_ne]
  omega

/-- Of some elements, going through them finds the one that comes before each other. -/
theorem foldl_best {α : Type} {r : α → α → Bool} (hr : ∀ {a b}, r a b = true → r b a = false) {best : α} {xs : List α}
    (hb : ∀ x ∈ xs, x = best ∨ r best x = true) {m : α} (hm : m = best ∨ r best m = true ∧ best ∈ xs) :
    xs.foldl (fun m x => if r x m then x else m) m = best := by
  have hirr : r best best = false := Bool.eq_false_iff.mpr fun h => Bool.false_ne_true ((hr h).symm.trans h)
  induction xs generalizing m with
  | nil => exact hm.resolve_right (by simp)
  | cons x xs ih =>
    obtain ⟨hx, hxs⟩ := List.forall_mem_cons.mp hb
    refine ih hxs ?_
    rcases hm with rfl | ⟨hlt, hmem⟩
    · left
      rcases hx with rfl | hx
      · simp [hirr]
      · simp [hr hx]
    · rcases List.mem_cons.mp hmem with rfl | hmem
      · left
        simp [hlt]
      · dsimp only
        split
        · exact hx.imp_right fun h => ⟨h, hmem⟩
        · exact .inr ⟨hlt, hmem⟩

theorem oldest_eq {gs : List Group} {g : Group} (hg : g ∈ gs) (h : ∀ x ∈ gs, x = g ∨ older g x = true) : oldest gs = some g := by
  cases gs with
  | nil => cases hg
  | cons x xs =>
    obtain ⟨hx, hxs⟩ := List.forall_mem_cons.mp h
    refine congrArg some (foldl_best older_asymm hxs ?_)
    rcases List.mem_cons.mp hg with rfl | hg
    · exact .inl rfl
    · exact hx.imp_right fun h => ⟨h, hg⟩

theorem youngest_eq {gs : List Group} {g : Group} (hg : g ∈ gs) (h : ∀ x ∈ gs, x = g ∨ older x g = true) : youngest gs = some g := by
  cases gs with
  | nil => cases hg
  | cons x xs =>
    obtain ⟨hx, hxs⟩ := List.forall_mem_cons.mp h
    refine congrArg some (foldl_best (r := fun a b => older b a) (fun h => older_asymm h) hxs ?_)
    rcases List.mem_cons.mp hg with rfl | hg
    · exact .inl rfl
    · exact hx.imp_right fun h => ⟨h, hg⟩

theorem exec_floatGrant : exec .floatGrant s = execFloatGrant s := rfl

section
variable {g : Group} {dg : Desc} (hmem : (g, dg) ∈ s.groupsOn s.core.id) (hwant : 0 < g.want)
  (hold : ∀ p ∈ s.groupsOn s.core.id, 0 < p.1.want → p.1 = g ∨ older g p.1 = true)
include hmem hwant hold

/-- The oldest of the groups that wait for float. -/
theorem oldest_waiting : oldest (((s.groupsOn s.core.id).filter fun p => decide (0 < p.1.want)).map (·.1)) = some g := by
  refine oldest_eq (List.mem_map.mpr ⟨_, List.mem_filter.mpr ⟨hmem, by simpa using hwant⟩, rfl⟩) fun x hx => ?_
  obtain ⟨p, hp, rfl⟩ := List.mem_map.mp hx
  obtain ⟨hp, hw⟩ := List.mem_filter.mp hp
  exact hold p hp (by simpa using hw)

theorem floatGrant_enough (hfree : g.want ≤ s.floatFree s.core.id) :
    exec .floatGrant s = .next (s.modGroup g.wgId g.gid fun g => { g with granted := g.granted + g.want, want := 0 }) := by
  simp only [exec_floatGrant, execFloatGrant, oldest_waiting hmem hwant hold, if_pos hfree]

/-- Where not enough is free, the youngest younger holder is spilled. -/
theorem floatGrant_spills {y : Group} {d : Desc} (hfree : s.floatFree s.core.id < g.want)
    (hfind : (s.groupsOn s.core.id).find? (fun p => p.1.wgId == y.wgId && p.1.gid == y.gid) = some (y, d))
    (hy : older g y = true) (hheld : 0 < y.floatHeld d.floor)
    (hyoung : ∀ p ∈ s.groupsOn s.core.id, older g p.1 = true → 0 < p.1.floatHeld p.2.floor → p.1 = y ∨ older p.1 y = true)
    (hcan : y.canSpill d.floor = true) : exec .floatGrant s = .next (s.modGroup y.wgId y.gid fun y => y.spill d.floor) := by
  have hyoungest : youngest (((s.groupsOn s.core.id).filter fun p => older g p.1 && decide (0 < p.1.floatHeld p.2.floor)).map (·.1)) =
      some y := by
    refine youngest_eq (List.mem_map.mpr ⟨(y, d), List.mem_filter.mpr ⟨List.mem_of_find?_eq_some hfind, by simp [hy, hheld]⟩, rfl⟩)
      fun x hx => ?_
    obtain ⟨p, hp, rfl⟩ := List.mem_map.mp hx
    obtain ⟨hp, hc⟩ := List.mem_filter.mp hp
    simp only [Bool.and_eq_true, decide_eq_true_eq] at hc
    exact hyoung p hp hc.1 hc.2
  simp only [exec_floatGrant, execFloatGrant, oldest_waiting hmem hwant hold, if_neg (Nat.not_le.mpr hfree), hyoungest, hfind,
    Option.map_some, Option.getD_some, hcan, if_true]

end

/-! ## A spilled group gets its registers back (03 R64) -/

/-- A spilled register bound to a free one of the core. -/
def State.reload (s : State) (n : Nat) : State :=
  { s with g := s.g.modV n 1 fun _ r => { r with phys := some (s.freePhys s.wg.coreId), spilled := false } }

@[simp] theorem State.reload_g (n : Nat) :
    (s.reload n).g = s.g.modV n 1 fun _ r => { r with phys := some (s.freePhys s.wg.coreId), spilled := false } := rfl

/-- A register before and after it is bound anew: the value, the live lanes and the waits stay. -/
def VReg.Reloaded (old new : VReg) : Prop := ∃ k, new = { old with phys := some k, spilled := false }

/-- Registers bound anew one after another, and no other changed. -/
theorem foldl_reload {ns : List Nat} (hn : ns.Nodup) (hlt : ∀ n ∈ ns, n < 128) (s : State) :
    ns.foldl State.reload s = { s with g := { s.g with v := (ns.foldl State.reload s).g.v } } ∧
      (∀ m ∈ ns, (s.g.vreg m).Reloaded ((ns.foldl State.reload s).g.vreg m)) ∧
      ∀ m ∉ ns, (ns.foldl State.reload s).g.vreg m = s.g.vreg m := by
  induction ns generalizing s with
  | nil => exact ⟨rfl, fun _ h => absurd h List.not_mem_nil, fun _ _ => rfl⟩
  | cons n ns ih =>
    obtain ⟨hnot, hn⟩ := List.nodup_cons.mp hn
    obtain ⟨hn128, hlt⟩ := List.forall_mem_cons.mp hlt
    obtain ⟨hframe, hin, hout⟩ := ih hn hlt (s.reload n)
    have hfirst (m : Nat) : (s.reload n).g.vreg m =
        if m = n then { s.g.vreg n with phys := some (s.freePhys s.wg.coreId), spilled := false } else s.g.vreg m := by
      rw [State.reload_g, Group.vreg_modV_one _ hn128]
    simp only [List.foldl_cons]
    refine ⟨hframe, List.forall_mem_cons.mpr ⟨⟨s.freePhys s.wg.coreId, ?_⟩, fun m hm => ?_⟩, fun m hm => ?_⟩
    · rw [hout n hnot, hfirst, if_pos rfl]
    · have h := hin m hm
      rwa [hfirst, if_neg (ne_of_mem_of_not_mem hm hnot)] at h
    · obtain ⟨hmn, hm⟩ := not_or.mp (mt List.mem_cons.mpr hm)
      rw [hout m hm, hfirst, if_neg hmn]

/-- The numbers of the registers of a group that are spilled. -/
def Group.spilledRegs (g : Group) : List Nat := (List.range 128).filter fun n => (g.vreg n).spilled

theorem mem_spilledRegs {g : Group} {n : Nat} : n ∈ g.spilledRegs ↔ n < 128 ∧ (g.vreg n).spilled = true := by
  rw [Group.spilledRegs, List.mem_filter, List.mem_range]

theorem length_spilledRegs (g : Group) : g.spilledRegs.length = g.spilled := by
  rw [Group.spilled, Group.toList_v, List.filter_map, List.length_map]
  rfl

theorem foldl_spilledRegs (s : State) :
    s.g.spilledRegs.foldl State.reload s = { s with g := { s.g with v := (s.g.spilledRegs.foldl State.reload s).g.v } } ∧
      (∀ m ∈ s.g.spilledRegs, (s.g.vreg m).Reloaded ((s.g.spilledRegs.foldl State.reload s).g.vreg m)) ∧
      ∀ m ∉ s.g.spilledRegs, (s.g.spilledRegs.foldl State.reload s).g.vreg m = s.g.vreg m :=
  foldl_reload (List.nodup_range.filter _) (fun _ hn => (mem_spilledRegs.mp hn).1) s

theorem exec_spillReload : exec .spillReload s = execSpillReload s := rfl

theorem spillReload_next (ho : s.g.spillOut = true) (hle : s.g.spilled ≤ s.g.granted) :
    exec .spillReload s = .next { s with g := { s.g with
      v := (s.g.spilledRegs.foldl State.reload s).g.v
      spillOut := false
      granted := s.g.granted - s.g.spilled } } := by
  obtain ⟨hframe, -, -⟩ := foldl_spilledRegs s
  have hexec : exec .spillReload s = .next { s.g.spilledRegs.foldl State.reload s with
      g := { (s.g.spilledRegs.foldl State.reload s).g with
        spillOut := false
        granted := (s.g.spilledRegs.foldl State.reload s).g.granted - s.g.spilledRegs.length } } := by
    rw [exec_spillReload, execSpillReload, ho, decide_eq_true hle]
    rfl
  rw [hexec, hframe, length_spilledRegs]

/-! ## The obligation -/

/-- A bit that arrived is no longer awaited. -/
theorem and_not_and_self (a b : Word) : a &&& ~~~(a &&& b) = a &&& ~~~b := by
  ext i hi
  simp only [BitVec.getElem_and, BitVec.getElem_not]
  cases a[i] <;> rfl

theorem VReg.live_arrive (r : VReg) (f : Flight) (i : Nat) (mask : Word) :
    (r.arrive f i mask).live = r.live &&& ~~~(mask &&& f.lost) := live_kill _ _

theorem VReg.arrive_dead {r : VReg} {f : Flight} {i : Nat} {mask : Word} (h : (r.arrive f i mask).live = 0) :
    r.arrive f i mask = VReg.unmapped := kill_dead h

/-- A register that keeps a lane takes the values its waiting lanes were to get. -/
theorem VReg.arrive_living {r : VReg} {f : Flight} {i : Nat} {mask : Word} (h : (r.arrive f i mask).live ≠ 0) :
    (r.arrive f i mask).phys = r.phys ∧ (r.arrive f i mask).pend = r.pend &&& ~~~mask &&& (r.arrive f i mask).live ∧
      ∀ l, l < 32 → (r.arrive f i mask).val.lane l =
        if (mask &&& r.pend).getLsbD l then ((f.vals[i]?).getD Lanes.zero).lane l else r.val.lane l := by
  have hk : r.arrive f i mask = { r with
      val := mergeLanes (mask &&& r.pend) ((f.vals[i]?).getD Lanes.zero) r.val
      live := (r.arrive f i mask).live
      pend := r.pend &&& ~~~mask &&& (r.arrive f i mask).live } := kill_living h
  exact ⟨(congrArg VReg.phys hk :), (congrArg VReg.pend hk :), fun l hl =>
    (congrArg (fun r => r.val.lane l) hk).trans (lane_mergeLanes hl)⟩

/-- Settles O11, one clause for each step of a core. -/
theorem coreSteps : Obligations.CoreSteps := by
  unfold Obligations.CoreSteps
  refine fun s => ⟨fun _ _ hl hst hr hq => unitStart_next hl hst hr hq, fun k lanes f hf hm => ?reply,
    fun _ _ hmem hwant hfree hold => ?grant, fun _ _ _ _ hmem hwant hfree hold hfind hy hheld hyoung hcan =>
      floatGrant_spills hmem hwant hold hfree hfind hy hheld hyoung hcan, fun ho hle => ?reload⟩
  case reply =>
    obtain ⟨c, cs, hnext⟩ := replyArrival_next hf hm
    obtain ⟨hs, hpc, hp⟩ := arriveLanes_stream (g := s.g) (f := f) (mask := f.out &&& f.ready &&& lanes)
    refine ⟨_, hnext, rfl, hs, hpc, hp, fun b hd i hi hb => ?_, fun n hn => vreg_arriveLanes_other hn, fun m hfl hm12 => ?_⟩
    · simp only [vreg_arriveLanes_dst hd hi hb]
      exact ⟨VReg.live_arrive _ _ _ _, VReg.arrive_dead, VReg.arrive_living⟩
    · rw [← and_not_and_self, ← BitVec.and_assoc]
      exact flag_arriveLanes hfl hm12
  case grant =>
    rw [floatGrant_enough hmem hwant hold hfree, State.modGroup_focus _ rfl rfl]
  case reload =>
    obtain ⟨-, hin, hout⟩ := foldl_spilledRegs s
    refine ⟨_, spillReload_next ho hle, rfl, fun n hn => ?_⟩
    show let new := (s.g.spilledRegs.foldl State.reload s).g.vreg n
      new.spilled = false ∧ new.val = _ ∧ new.live = _ ∧ new.pend = _ ∧ (_ → new.phys.isSome = true) ∧ (_ → new = _)
    cases hsp : (s.g.vreg n).spilled with
    | true =>
      obtain ⟨k, hk⟩ := hin n (mem_spilledRegs.mpr ⟨hn, hsp⟩)
      simp [hk]
    | false =>
      simp [hout n fun h => by simp [mem_spilledRegs, hsp] at h, hsp]

end Sys2Proof.Machine
end
